-- ==== Sys2Proof/Word.lean ====
section
/-! DEFINITION. The word types of the T840 and their plainest arithmetic (00 R4, R8): nothing here
depends on the machine. -/

namespace Sys2Proof

/-- A byte (R4: values are little-endian in memory, byte by byte). -/
abbrev Byte := BitVec 8
/-- A 32-bit word: one instruction word, one FP32 value. -/
abbrev W32 := BitVec 32
/-- A 64-bit doubleword: a general register, a CSR, a control-token payload. -/
abbrev W64 := BitVec 64
/-- A tile header (01 R13). -/
abbrev Header := BitVec 256

/-- The bit field `v[hi:lo]` of R4 as a natural number, by its lowest bit and its length. -/
def fieldN (w : Nat) (v : BitVec w) (lo len : Nat) : Nat := (v.toNat >>> lo) % 2 ^ len

/-- The bit `v[n]` of R4. -/
def bitN (w : Nat) (v : BitVec w) (n : Nat) : Bool := v.getLsbD n

/-- The bytes of a value, lowest address first (R4). -/
def bytesLE (n : Nat) (v : Nat) : List Byte :=
  match n with
  | 0 => []
  | n + 1 => BitVec.ofNat 8 v :: bytesLE n (v / 256)

/-- The value of a list of bytes, lowest address first (R4). -/
def ofBytesLE (bs : List Byte) : Nat :=
  match bs with
  | [] => 0
  | b :: rest => b.toNat + 256 * ofBytesLE rest

/-- Two's complement reading of the low `w` bits of a natural number (`sv` of R162). -/
def signedN (w : Nat) (v : Nat) : Int :=
  let m := v % 2 ^ w
  if 2 ^ (w - 1) ≤ m ∧ 0 < w then (m : Int) - (2 : Int) ^ w else (m : Int)

/-- The low `w` bits of an integer (fixed-width assignment of R8). -/
def wrapN (w : Nat) (v : Int) : Nat := (v % ((2 : Int) ^ w)).toNat

/-- `sat(x, lo, hi)` of R9. -/
def satI (x lo hi : Int) : Int := if x < lo then lo else if hi < x then hi else x

end Sys2Proof
end

