-- ==== Sys2Proof/Machine/Crypto.lean ====
section
/-! DEFINITION. The public algorithms that the specification uses by name (01 R40-R41 AES-256-XTS, 03 R95
and 10 R291 SM3 digests, 17 R416 and R426 the wrapping and derivation of keys). PRESUMED: each is the
published standard (log 10); the specification gives none of their steps. Bytes are natural numbers. -/

namespace Sys2Proof

/-- Doubling in GF(2^8) of AES. -/
def xtime (a : Nat) : Nat := if 128 ≤ a then (a * 2) ^^^ 0x11B else a * 2

/-- Product in GF(2^8), over `n` bits of `b`. -/
def gmulN (n : Nat) (a b : Nat) : Nat :=
  match n with
  | 0 => 0
  | n + 1 => (if b % 2 == 1 then a else 0) ^^^ gmulN n (xtime a) (b / 2)

/-- Product in GF(2^8). -/
def gmul (a b : Nat) : Nat := gmulN 8 a b

/-- The inverse in GF(2^8), 0 for 0: `a^254`. -/
def ginv (a : Nat) : Nat :=
  let a2 := gmul a a
  let a4 := gmul a2 a2
  let a8 := gmul a4 a4
  let a16 := gmul a8 a8
  let a32 := gmul a16 a16
  let a64 := gmul a32 a32
  let a128 := gmul a64 a64
  gmul a2 (gmul a4 (gmul a8 (gmul a16 (gmul a32 (gmul a64 a128)))))

/-- Rotation of a byte to the left. -/
def rotl8 (a k : Nat) : Nat := (a * 2 ^ k + a / 2 ^ (8 - k)) % 256

/-- The AES substitution of a byte. -/
def aesSbox (a : Nat) : Nat :=
  let b := ginv a
  b ^^^ rotl8 b 1 ^^^ rotl8 b 2 ^^^ rotl8 b 3 ^^^ rotl8 b 4 ^^^ 0x63

/-- Its inverse. -/
def aesInvSbox (a : Nat) : Nat := ginv (rotl8 a 1 ^^^ rotl8 a 3 ^^^ rotl8 a 6 ^^^ 0x05)

/-- Bytewise exclusive or. -/
def xorBytes (a b : List Nat) : List Nat := List.zipWith (· ^^^ ·) a b

/-- The expanded words of an AES-256 key, latest first; `n` words remain, `i` is the next index, `rc` the
round constant. -/
def aesExpand (n i rc : Nat) (ws : List (List Nat)) : List (List Nat) :=
  match n with
  | 0 => ws
  | n + 1 =>
    let t := ws.getD 0 []
    let old := ws.getD 7 []
    let t' := if i % 8 == 0 then
        let r := (t.drop 1 ++ t.take 1).map aesSbox
        xorBytes r [rc, 0, 0, 0]
      else if i % 8 == 4 then t.map aesSbox
      else t
    aesExpand n (i + 1) (if i % 8 == 0 then xtime rc else rc) (xorBytes old t' :: ws)

/-- A list cut into pieces of `k`. -/
def chunks (k : Nat) (n : Nat) (l : List Nat) : List (List Nat) :=
  match n with
  | 0 => []
  | n + 1 => l.take k :: chunks k n (l.drop k)

/-- The fifteen round keys of an AES-256 key of 32 bytes. -/
def aesRoundKeys (key : List Nat) : List (List Nat) :=
  chunks 16 15 ((aesExpand 52 8 1 (chunks 4 8 key).reverse).reverse.flatten)

/-- ShiftRows, by the source index of each byte. -/
def shiftRows (s : List Nat) : List Nat := (List.range 16).map fun i => s.getD ((i + 4 * (i % 4)) % 16) 0
/-- Inverse of ShiftRows. -/
def invShiftRows (s : List Nat) : List Nat := (List.range 16).map fun i => s.getD ((i + 12 * (i % 4)) % 16) 0

/-- MixColumns with the coefficients of its first row. -/
def mixWith (c : List Nat) (s : List Nat) : List Nat :=
  (List.range 16).map fun i =>
    (List.range 4).foldl (fun acc k => acc ^^^ gmul (c.getD ((k + 4 - i % 4) % 4) 0) (s.getD (i / 4 * 4 + k) 0)) 0

/-- One block of AES-256 encryption. -/
def aesEncrypt (rks : List (List Nat)) (block : List Nat) : List Nat :=
  let s0 := xorBytes block (rks.getD 0 [])
  let mid := ((rks.drop 1).take 13).foldl
    (fun s rk => xorBytes (mixWith [2, 3, 1, 1] (shiftRows (s.map aesSbox))) rk) s0
  xorBytes (shiftRows (mid.map aesSbox)) (rks.getD 14 [])

/-- One block of AES-256 decryption. -/
def aesDecrypt (rks : List (List Nat)) (block : List Nat) : List Nat :=
  let s0 := xorBytes block (rks.getD 14 [])
  let mid := ((rks.drop 1).take 13).reverse.foldl
    (fun s rk => mixWith [14, 11, 13, 9] (xorBytes ((invShiftRows s).map aesInvSbox) rk)) s0
  xorBytes ((invShiftRows mid).map aesInvSbox) (rks.getD 0 [])

/-- The bytes of a number, lowest first. -/
def natBytesLE (n v : Nat) : List Nat :=
  match n with
  | 0 => []
  | n + 1 => v % 256 :: natBytesLE n (v / 256)

/-- The number of a list of bytes, lowest first. -/
def ofNatBytesLE (bs : List Nat) : Nat :=
  match bs with
  | [] => 0
  | b :: rest => b % 256 + 256 * ofNatBytesLE rest

/-- The number of a list of bytes, highest first. -/
def ofNatBytesBE (bs : List Nat) : Nat := bs.foldl (fun a b => a * 256 + b % 256) 0

/-- The bytes of a number, highest first. -/
def natBytesBE (n v : Nat) : List Nat := (natBytesLE n v).reverse

/-- Multiplication of an XTS tweak by α. -/
def xtsDouble (t : List Nat) : List Nat :=
  let v := 2 * ofNatBytesLE t
  natBytesLE 16 (if 2 ^ 128 ≤ v then (v % 2 ^ 128) ^^^ 0x87 else v)

/-- AES-256-XTS of a 32-byte data unit (R41): the first 32 bytes of the 64-byte key encrypt the data, the
last 32 the tweak, whose value is the data-unit number little-endian. -/
def xtsUnit (enc : Bool) (key : List Nat) (tweak : Nat) (data : List Nat) : List Nat :=
  let k1 := aesRoundKeys (key.take 32)
  let t0 := aesEncrypt (aesRoundKeys (key.drop 32)) (natBytesLE 16 tweak)
  let t1 := xtsDouble t0
  let go (t blk : List Nat) :=
    xorBytes ((if enc then aesEncrypt k1 else aesDecrypt k1) (xorBytes blk t)) t
  go t0 (data.take 16) ++ go t1 ((data.drop 16).take 16)

/-- The rounds of the inverse of AES key wrap: `n` rounds remain, `t` counts down. -/
def kwUnwrapRounds (rks : List (List Nat)) (n m : Nat) (a : Nat) (r : List Nat) : Nat × List Nat :=
  match n with
  | 0 => (a, r)
  | n' + 1 =>
    -- step t = n' + 1 works on the register of index (t - 1) mod m
    let t := n' + 1
    let i := n' % m
    let b := aesDecrypt rks (natBytesBE 8 (a ^^^ t) ++ natBytesBE 8 (r.getD i 0))
    kwUnwrapRounds rks n' m (ofNatBytesBE (b.take 8)) (r.set i (ofNatBytesBE (b.drop 8)))

/-- AES key unwrap with the default initial value; none if the check value is wrong. -/
def aesKeyUnwrap (kek wrapped : List Nat) : Option (List Nat) :=
  let ws := (chunks 8 (wrapped.length / 8) wrapped).map ofNatBytesBE
  match ws with
  | [] => none
  | a :: r =>
    let (a', r') := kwUnwrapRounds (aesRoundKeys kek) (6 * r.length) r.length a r
    if a' == 0xA6A6A6A6A6A6A6A6 then some (r'.flatMap (natBytesBE 8)) else none

/-- Rotation of a 32-bit word to the left. -/
def rotl32 (a k : Nat) : Nat := let k := k % 32; (a * 2 ^ k + a / 2 ^ (32 - k)) % 2 ^ 32

/-- The message expansion of SM3, latest word first. -/
def sm3Expand (n : Nat) (ws : List Nat) : List Nat :=
  match n with
  | 0 => ws
  | n + 1 =>
    let g (k : Nat) := ws.getD (k - 1) 0
    let x := g 16 ^^^ g 9 ^^^ rotl32 (g 3) 15
    let p1 := x ^^^ rotl32 x 15 ^^^ rotl32 x 23
    sm3Expand n ((p1 ^^^ rotl32 (g 13) 7 ^^^ g 6) :: ws)

/-- The rounds of SM3 from round `j` on the registers A to H, over the pairs (W, W'). -/
def sm3Rounds (j : Nat) (ps : List (Nat × Nat)) (v : List Nat) : List Nat :=
  match ps with
  | [] => v
  | (w, w') :: rest =>
    match v with
    | [a, b, c, d, e, f, g, h] =>
      let t := if j < 16 then 0x79CC4519 else 0x7A879D8A
      let ss1 := rotl32 ((rotl32 a 12 + e + rotl32 t j) % 2 ^ 32) 7
      let ss2 := ss1 ^^^ rotl32 a 12
      let ff := if j < 16 then a ^^^ b ^^^ c else (a &&& b) ||| (a &&& c) ||| (b &&& c)
      let gg := if j < 16 then e ^^^ f ^^^ g else (e &&& f) ||| ((2 ^ 32 - 1 - e) &&& g)
      let tt1 := (ff + d + ss2 + w') % 2 ^ 32
      let tt2 := (gg + h + ss1 + w) % 2 ^ 32
      sm3Rounds (j + 1) rest
        [tt1, a, rotl32 b 9, c, tt2 ^^^ rotl32 tt2 9 ^^^ rotl32 tt2 17, e, rotl32 f 19, g]
    | v => v

/-- The compression of one 64-byte block. -/
def sm3Block (v : List Nat) (block : List Nat) : List Nat :=
  let w0 := (chunks 4 16 block).map ofNatBytesBE
  let ws := (sm3Expand 52 w0.reverse).reverse
  let ps := (List.range 64).map fun j => (ws.getD j 0, ws.getD j 0 ^^^ ws.getD (j + 4) 0)
  xorBytes (sm3Rounds 0 ps v) v

/-- The SM3 digest of a message, 32 bytes. -/
def sm3 (msg : List Nat) : List Nat :=
  let l := msg.length
  let pad := (119 - l % 64) % 64
  let m := msg ++ [0x80] ++ List.replicate pad 0 ++ natBytesBE 8 (8 * l)
  let iv := [0x7380166F, 0x4914B2B9, 0x172442D7, 0xDA8A0600, 0xA96F30BC, 0x163138AA, 0xE38DEE4D, 0xB0FB0E4E]
  ((chunks 64 (m.length / 64) m).foldl sm3Block iv).flatMap (natBytesBE 4)

/-- HMAC with SM3. -/
def hmacSm3 (key msg : List Nat) : List Nat :=
  let k0 := if 64 < key.length then sm3 key else key
  let k := k0 ++ List.replicate (64 - k0.length) 0
  sm3 ((k.map (· ^^^ 0x5C)) ++ sm3 ((k.map (· ^^^ 0x36)) ++ msg))

/-- The blocks of HKDF expansion. -/
def hkdfBlocks (n i : Nat) (prk info prev : List Nat) : List Nat :=
  match n with
  | 0 => []
  | n + 1 =>
    let t := hmacSm3 prk (prev ++ info ++ [i])
    t ++ hkdfBlocks n (i + 1) prk info t

/-- HKDF with SM3. -/
def hkdfSm3 (salt ikm info : List Nat) (len : Nat) : List Nat :=
  (hkdfBlocks ((len + 31) / 32) 1 (hmacSm3 salt ikm) info []).take len

end Sys2Proof
end

