-- ==== Sys2Proof/Config.lean ====
section
/-! DEFINITION. What an implementation fixes and the values the specification leaves open. Each open
value is a constant without a body, so that nothing can be proved of it. -/

namespace Sys2Proof.Config

/-- A byte of scratchpad that nothing has written since the job started (11 R319: undefined). The first
argument is the number of the clearing, the second the place of the byte. -/
opaque freeScratch : Nat → Nat → Byte

/-- A 64-bit value that the specification does not state; the argument is the counter the state holds. -/
opaque freeWord : Nat → W64

/-- The images of the vendor bank that firmware loads at boot (10 R294), by entry, and BANKVER (03 R91). -/
opaque vendorImage : Nat → Option (List Byte)
/-- BANKVER. -/
opaque bankVersion : BitVec 8
/-- Whether the signature of the vendor bank passes at a cold reset (17 R428); the argument is the counter the state
holds. -/
opaque bankSigned : Nat → Bool
/-- What an arbiter of a budget resource can serve in a period, less one, where 00 R2 gives no rate (04 R115). -/
opaque periodCapacity : Nat → Nat
/-- The pseudo-channel of an address of tier H, and the channel cycles of an access of so many bytes (04 R115). -/
opaque channelOf : Nat → Nat
/-- Channel cycles. -/
opaque channelCycles : Nat → Nat
/-- The lines that an access of a control core to a line moves beyond the caches at a time (fs): none where they
serve it (04 R115). -/
opaque coreLines : Nat → Nat → Nat
/-- The flits of an access of so many bytes on a die bridge, in the direction of the request or of the reply. -/
opaque bridgeFlits : Bool → Nat → Nat
/-- The SM3 digest that is reported of the bank image, with the bank loaded or not (03 R91, 17 R427, R428). -/
opaque bankDigest : Bool → BitVec 256
/-- FWDIG: the SM3 digest of the running firmware (17 R423), by the firmware. -/
opaque firmwareDigest : Nat → BitVec 256

/-- The fuses that disable two physical stripes of each ring (05 R119, R120): the first disabled stripe, and
how far behind it, less one and modulo 26, the second lies. -/
opaque disabledStripes : Nat → Fin 26 × Fin 25

/-- STEP, SERIAL and FWVER of the DEVICE record (17 R423). -/
opaque deviceStep : BitVec 16
/-- SERIAL. -/
opaque deviceSerial : W64
/-- FWVER, by the firmware. -/
opaque firmwareVersion : Nat → W64

/-! Peer flits (17 R417): the spec names what bytes 0-7 and the payload hold, but no bits and no CRC
polynomial. -/

/-- CRC-64 of a flit's bytes 0-247. -/
opaque flitCrc : List Byte → W64
/-- The type in a flit's first eight bytes: 1 control tokens, 2 the first and 3 the second half of a DATA
token, 4 the second half of an HDR token, 5 an open accepted, 6 an open refused, 7 stores done, 8 a replay asked for, others
none. -/
opaque flitType : W64 → Nat
/-- The channel number. -/
opaque flitChan : W64 → Nat
/-- The credits returned. -/
opaque flitCredit : W64 → Nat
/-- The sequence number. -/
opaque flitSeq : W64 → BitVec 12
/-- The sequence number of the flit of which a replay is asked, from the payload. -/
opaque flitAsked : List Byte → Nat
/-- The 256 bytes of a data token from the payloads of its two flits. -/
opaque flitData : List Byte → List Byte → BitVec 2048
/-- The control tokens of a payload: tag code and payload of each. -/
opaque flitSlots : List Byte → List (Nat × W64)
/-- The tokens that a new channel may send before a credit returns. -/
opaque peerCredits : Nat

/-- The address at which the memory that a context sets aside for loaded images begins (03 R84, R86). -/
opaque imageBase : Nat → Nat

/-- The bytes that the launch state of a job takes in its save area (14 R395); the argument is the counter the
state holds. -/
opaque launchStateBytes : Nat → Nat

/-- The bytes of the Type 3 device that a link finds behind its port (12 R331, 17 R411). -/
opaque deviceSize : Nat → Nat

/-- A byte of a snapshot or save area beyond the thread images, which the specification lays out for none (14 R385,
R395). -/
opaque areaByte : Nat → Nat → BitVec 8

/-- The digests of the boot ROM (measurement 1), and of the fuses and defect maps (measurement 4) (17 R427). -/
opaque bootDigest : BitVec 256
/-- Measurement 4. -/
opaque fuseDigest : BitVec 256

/-- Identity and attestation (17 R426, R428), whose SM2 arithmetic and messages other documents give: the export master
secret to which the exchange with a requester's message leads, with the ephemeral key of that exchange. -/
opaque exportSecret : Nat → List Byte → List Byte
/-- The SM2 signature of a response under the fused leaf key. -/
opaque sm2Sign : Nat → List Byte → List Byte
/-- The certificate chain of slot 0. -/
opaque certChain : List Byte

end Sys2Proof.Config
end

