-- ==== Sys2Proof/Syntax.lean ====
section
/-! DEFINITION. The instructions of the T840, one constructor per row of spec/opcode_table.json: the
scalar instructions with their decoded fields (06 R149), and the part's other steps (95: element and
router firings, stream commands, machine events) with the place they act at and the data the outside
world supplies to them. -/

namespace Sys2Proof

/-- A launch slot `ls` of the thread of slot `slot` on ring `ring` (05 R122, 07 R194). -/
structure LaunchId where
  ring : Fin 16
  slot : Fin 4
  ls : Fin 4
  deriving DecidableEq, Repr

/-- The element of column `col` on window stripe `stripe` of a launch (05 R125, 08 R210). -/
structure ElemId where
  launch : LaunchId
  stripe : Nat
  col : Fin 16
  deriving DecidableEq, Repr

/-- Router `rtr` of forme `forme` of a launch (08 R222). -/
structure RouterId where
  launch : LaunchId
  forme : Nat
  rtr : Fin 8
  deriving DecidableEq, Repr

/-- Link word `link` of forme `forme` of a launch (08 R214). -/
structure LinkId where
  launch : LaunchId
  forme : Nat
  link : Nat
  deriving DecidableEq, Repr

/-- Port `port` (0-63, or 255) of a launch slot (11 R296). -/
structure PortId where
  launch : LaunchId
  port : Nat
  deriving DecidableEq, Repr

/-- The job that queue `queue` accepted with sequence number `seq` (04 R99, R100). -/
structure JobId where
  queue : Nat
  seq : W32
  deriving DecidableEq, Repr

/-- The page of an ASID that holds a virtual address (12 R347). -/
structure PageId where
  asid : BitVec 16
  va : W64
  deriving DecidableEq, Repr

/-- The kinds of access a translation is asked for (12 R343). -/
inductive AccessKind where
  | read | write | fetch | atomic
  deriving DecidableEq, Repr

/-- The storages of 14 R383, with the place of the error. -/
inductive Storage where
  | formeConfig (l : LaunchId) (forme : Nat)
  | icache (ring : Fin 16)
  | dcacheClean (ring : Fin 16)
  | dcacheDirty (ring : Fin 16) (slot : Fin 4)
  | threadState (ring : Fin 16) (slot : Fin 4)
  | fabric (l : LaunchId)
  | unusedFabric (ring : Fin 16)
  | memory (line : Nat)
  | dispatcherState
  deriving DecidableEq, Repr

/-- Where a register write of the host or of system software goes (04 R96, 17 R413, R415). -/
inductive RegDest where
  /-- Offset `off` of the page of queue `q`, written through function `func`. -/
  | queuePage (func : Nat) (q : Nat) (off : Nat)
  /-- Offset `off` of the management space. -/
  | mgmt (off : Nat)
  /-- CSR `csr` of the thread in a slot of a ring, by system software through the management path (07 R197). -/
  | threadCsr (ring : Fin 16) (slot : Fin 4) (csr : BitVec 8)
  /-- Watchpoint `n` of a running job, by a debug agent through the management path: WPADDR; the value is WPCTL
  (12 R361). -/
  | watchpoint (job : JobId) (n : Fin 8) (addr : BitVec 64)
  deriving DecidableEq, Repr

/-- The instructions and steps, in the order of the opcode table. -/
inductive Instr where
  /-- ILL (R151): The all-zero word traps ILLEGAL when executed, stopping a thread that jumps into zero-filled memory. -/
  | ill
  /-- ADD (R162): Sets x[d] to x[a] plus x[b], modulo 2^64. -/
  | add (d : BitVec 5) (a : BitVec 5) (b : BitVec 5)
  /-- SUB (R162): Sets x[d] to x[a] minus x[b], modulo 2^64. -/
  | sub (d : BitVec 5) (a : BitVec 5) (b : BitVec 5)
  /-- AND (R162): Sets x[d] to the bitwise AND of x[a] and x[b]. -/
  | and (d : BitVec 5) (a : BitVec 5) (b : BitVec 5)
  /-- OR (R162): Sets x[d] to the bitwise OR of x[a] and x[b]. -/
  | or (d : BitVec 5) (a : BitVec 5) (b : BitVec 5)
  /-- XOR (R162): Sets x[d] to the bitwise XOR of x[a] and x[b]. -/
  | xor (d : BitVec 5) (a : BitVec 5) (b : BitVec 5)
  /-- SLL (R162): Shifts x[a] left by x[b][5:0] into x[d]. -/
  | sll (d : BitVec 5) (a : BitVec 5) (b : BitVec 5)
  /-- SRL (R162): Shifts x[a] right logically by x[b][5:0] into x[d]. -/
  | srl (d : BitVec 5) (a : BitVec 5) (b : BitVec 5)
  /-- SRA (R162): Shifts x[a] right arithmetically by x[b][5:0] into x[d]. -/
  | sra (d : BitVec 5) (a : BitVec 5) (b : BitVec 5)
  /-- SLT (R162): Sets x[d] to 1 if x[a] is less than x[b] as signed values, else 0. -/
  | slt (d : BitVec 5) (a : BitVec 5) (b : BitVec 5)
  /-- SLTU (R162): Sets x[d] to 1 if x[a] is less than x[b] as unsigned values, else 0. -/
  | sltu (d : BitVec 5) (a : BitVec 5) (b : BitVec 5)
  /-- MIN (R162): Sets x[d] to the signed minimum of x[a] and x[b]. -/
  | min (d : BitVec 5) (a : BitVec 5) (b : BitVec 5)
  /-- MAX (R162): Sets x[d] to the signed maximum of x[a] and x[b]. -/
  | max (d : BitVec 5) (a : BitVec 5) (b : BitVec 5)
  /-- MINU (R162): Sets x[d] to the unsigned minimum of x[a] and x[b]. -/
  | minu (d : BitVec 5) (a : BitVec 5) (b : BitVec 5)
  /-- MAXU (R162): Sets x[d] to the unsigned maximum of x[a] and x[b]. -/
  | maxu (d : BitVec 5) (a : BitVec 5) (b : BitVec 5)
  /-- MUL (R163): Sets x[d] to the low 64 bits of the product of x[a] and x[b]. -/
  | mul (d : BitVec 5) (a : BitVec 5) (b : BitVec 5)
  /-- MULH (R163): Sets x[d] to the high 64 bits of the signed product of x[a] and x[b]. -/
  | mulh (d : BitVec 5) (a : BitVec 5) (b : BitVec 5)
  /-- MULHU (R163): Sets x[d] to the high 64 bits of the unsigned product of x[a] and x[b]. -/
  | mulhu (d : BitVec 5) (a : BitVec 5) (b : BitVec 5)
  /-- DIV (R163): Sets x[d] to the signed quotient truncated toward zero, saturating on division by zero and on overflow, without a trap. -/
  | div (d : BitVec 5) (a : BitVec 5) (b : BitVec 5)
  /-- REM (R163): Sets x[d] to the signed remainder, which is x[a] itself when the divisor is zero. -/
  | rem (d : BitVec 5) (a : BitVec 5) (b : BitVec 5)
  /-- DIVU (R163): Sets x[d] to the unsigned quotient, saturating on division by zero. -/
  | divu (d : BitVec 5) (a : BitVec 5) (b : BitVec 5)
  /-- REMU (R163): Sets x[d] to the unsigned remainder, which is x[a] itself when the divisor is zero. -/
  | remu (d : BitVec 5) (a : BitVec 5) (b : BitVec 5)
  /-- CLZ (R164): Counts the leading zero bits of x[a] into x[d]. -/
  | clz (d : BitVec 5) (a : BitVec 5)
  /-- CTZ (R164): Counts the trailing zero bits of x[a] into x[d]. -/
  | ctz (d : BitVec 5) (a : BitVec 5)
  /-- POPC (R164): Counts the one bits of x[a] into x[d]. -/
  | popc (d : BitVec 5) (a : BitVec 5)
  /-- BSWP (R164): Reverses the eight bytes of x[a] into x[d]. -/
  | bswp (d : BitVec 5) (a : BitVec 5)
  /-- EXTS (R164): Extracts a bit field of x[a] at POS of length len and sign-extends it into x[d]. -/
  | exts (d : BitVec 5) (a : BitVec 5) (n : BitVec 5) (m : BitVec 1) (p : BitVec 6)
  /-- EXTZ (R164): Extracts a bit field of x[a] at POS of length len and zero-extends it into x[d]. -/
  | extz (d : BitVec 5) (a : BitVec 5) (n : BitVec 5) (m : BitVec 1) (p : BitVec 6)
  /-- INSF (R164): Inserts the low len bits of x[a] into x[d] at POS, keeping the other bits of x[d]. -/
  | insf (d : BitVec 5) (a : BitVec 5) (n : BitVec 5) (m : BitVec 1) (p : BitVec 6)
  /-- SEL (R164): Sets x[d] to x[a] if x[d] is non-zero, else to x[b]. -/
  | sel (d : BitVec 5) (a : BitVec 5) (b : BitVec 5)
  /-- ADDI (R165): Adds the sign-extended imm16 to x[a] into x[d]. -/
  | addi (d : BitVec 5) (a : BitVec 5) (i : BitVec 16)
  /-- ANDI (R165): ANDs x[a] with the zero-extended imm16 into x[d]. -/
  | andi (d : BitVec 5) (a : BitVec 5) (i : BitVec 16)
  /-- ORI (R165): ORs x[a] with the zero-extended imm16 into x[d]. -/
  | ori (d : BitVec 5) (a : BitVec 5) (i : BitVec 16)
  /-- XORI (R165): XORs x[a] with the zero-extended imm16 into x[d]. -/
  | xori (d : BitVec 5) (a : BitVec 5) (i : BitVec 16)
  /-- SLLI (R165): Shifts x[a] left by an immediate amount into x[d]. -/
  | slli (d : BitVec 5) (a : BitVec 5) (s : BitVec 6)
  /-- SRLI (R165): Shifts x[a] right logically by an immediate amount into x[d]. -/
  | srli (d : BitVec 5) (a : BitVec 5) (s : BitVec 6)
  /-- SRAI (R165): Shifts x[a] right arithmetically by an immediate amount into x[d]. -/
  | srai (d : BitVec 5) (a : BitVec 5) (s : BitVec 6)
  /-- SLTI (R165): Sets x[d] to 1 if x[a] is less than the sign-extended imm16 as signed values, else 0. -/
  | slti (d : BitVec 5) (a : BitVec 5) (i : BitVec 16)
  /-- LUI (R166): Sets x[d] to the sign-extended imm21 shifted left by 16. -/
  | lui (d : BitVec 5) (i : BitVec 21)
  /-- ADDPC (R166): Sets x[d] to pc plus 4 times the signed imm21. -/
  | addpc (d : BitVec 5) (i : BitVec 21)
  /-- FADD (R167): Adds two FP32 values, rounded under RND, and sets FSTAT flags. -/
  | fadd (d : BitVec 5) (a : BitVec 5) (b : BitVec 5) (r : BitVec 2)
  /-- FSUB (R167): Subtracts two FP32 values, rounded under RND. -/
  | fsub (d : BitVec 5) (a : BitVec 5) (b : BitVec 5) (r : BitVec 2)
  /-- FMUL (R167): Multiplies two FP32 values, rounded under RND. -/
  | fmul (d : BitVec 5) (a : BitVec 5) (b : BitVec 5) (r : BitVec 2)
  /-- FDIV (R167): Divides two FP32 values, rounded under RND, setting DZ or INV where R168 gives them. -/
  | fdiv (d : BitVec 5) (a : BitVec 5) (b : BitVec 5) (r : BitVec 2)
  /-- FMA (R167): Computes x[a]*x[b]+x[d] in FP32 with one rounding into x[d]. -/
  | fma (d : BitVec 5) (a : BitVec 5) (b : BitVec 5) (r : BitVec 2)
  /-- FMIN (R167): Sets x[d] to the smaller FP32 value, with -0 below +0. -/
  | fmin (d : BitVec 5) (a : BitVec 5) (b : BitVec 5)
  /-- FMAX (R167): Sets x[d] to the larger FP32 value, with -0 below +0. -/
  | fmax (d : BitVec 5) (a : BitVec 5) (b : BitVec 5)
  /-- FCMP (R169): Sets x[d] to 1 if the eq, lt, le or un predicate holds on two FP32 values. -/
  | fcmp (d : BitVec 5) (a : BitVec 5) (b : BitVec 5) (p : BitVec 4)
  /-- FCVT (R170): Converts x[a] between FP32, integer, BF16, FP16 and K8 forms as SUB selects. -/
  | fcvt (d : BitVec 5) (a : BitVec 5) (k : BitVec 4) (r : BitVec 2)
  /-- BEQ (R171): Branches PC-relative when x[a] equals x[b]. -/
  | beq (a : BitVec 5) (b : BitVec 5) (o : BitVec 13)
  /-- BNE (R171): Branches when x[a] differs from x[b]. -/
  | bne (a : BitVec 5) (b : BitVec 5) (o : BitVec 13)
  /-- BLT (R171): Branches when x[a] is less than x[b] as signed values. -/
  | blt (a : BitVec 5) (b : BitVec 5) (o : BitVec 13)
  /-- BGE (R171): Branches when x[a] is at least x[b] as signed values. -/
  | bge (a : BitVec 5) (b : BitVec 5) (o : BitVec 13)
  /-- BLTU (R171): Branches when x[a] is less than x[b] as unsigned values. -/
  | bltu (a : BitVec 5) (b : BitVec 5) (o : BitVec 13)
  /-- BGEU (R171): Branches when x[a] is at least x[b] as unsigned values. -/
  | bgeu (a : BitVec 5) (b : BitVec 5) (o : BitVec 13)
  /-- J (R172): Jumps PC-relative by 4 times off26. -/
  | j (o : BitVec 26)
  /-- CALL (R172): Writes pc+4 to ra and jumps PC-relative, raising the call depth. -/
  | call (o : BitVec 26)
  /-- JR (R173): Jumps to x[a]; as jr ra it lowers the call depth and may advance SAFEPT. -/
  | jr (a : BitVec 5)
  /-- CALLR (R173): Writes pc+4 to x[d] and jumps to x[a]. -/
  | callr (d : BitVec 5) (a : BitVec 5)
  /-- CALLT (R81): Loads a link-table entry with acquire ordering and calls its code target, trapping on a non-code entry. -/
  | callt (d : BitVec 5) (a : BitVec 5) (i : BitVec 16)
  /-- LD (R177): Loads 1 to 8 bytes zero-extended into x[d], optionally with acquire ordering. -/
  | ld (d : BitVec 5) (a : BitVec 5) (z : BitVec 2) (q : BitVec 2) (o : BitVec 12)
  /-- LDS (R177): Loads 1 to 4 bytes sign-extended into x[d]. -/
  | lds (d : BitVec 5) (a : BitVec 5) (z : BitVec 2) (q : BitVec 2) (o : BitVec 12)
  /-- ST (R177): Stores the low bytes of x[s], optionally with release ordering. -/
  | st (t : BitVec 5) (a : BitVec 5) (z : BitVec 2) (q : BitVec 2) (o : BitVec 12)
  /-- PREF_R (R177): Hints that a line be brought into the D-cache for reading; never traps. -/
  | prefR (a : BitVec 5) (o : BitVec 12)
  /-- PREF_W (R177): Hints that a line be brought into the D-cache for writing; never traps. -/
  | prefW (a : BitVec 5) (o : BitVec 12)
  /-- AMOADD (R179): Atomically adds x[b] to memory and returns the old value. -/
  | amoadd (d : BitVec 5) (a : BitVec 5) (b : BitVec 5) (q : BitVec 2) (z : BitVec 2)
  /-- AMOAND (R179): Atomically ANDs x[b] into memory and returns the old value. -/
  | amoand (d : BitVec 5) (a : BitVec 5) (b : BitVec 5) (q : BitVec 2) (z : BitVec 2)
  /-- AMOOR (R179): Atomically ORs x[b] into memory and returns the old value. -/
  | amoor (d : BitVec 5) (a : BitVec 5) (b : BitVec 5) (q : BitVec 2) (z : BitVec 2)
  /-- AMOXOR (R179): Atomically XORs x[b] into memory and returns the old value. -/
  | amoxor (d : BitVec 5) (a : BitVec 5) (b : BitVec 5) (q : BitVec 2) (z : BitVec 2)
  /-- AMOMIN (R179): Atomically stores the signed minimum and returns the old value. -/
  | amomin (d : BitVec 5) (a : BitVec 5) (b : BitVec 5) (q : BitVec 2) (z : BitVec 2)
  /-- AMOMAX (R179): Atomically stores the signed maximum and returns the old value. -/
  | amomax (d : BitVec 5) (a : BitVec 5) (b : BitVec 5) (q : BitVec 2) (z : BitVec 2)
  /-- AMOSWAP (R179): Atomically swaps x[b] into memory and returns the old value. -/
  | amoswap (d : BitVec 5) (a : BitVec 5) (b : BitVec 5) (q : BitVec 2) (z : BitVec 2)
  /-- CAS (R180): Compares memory with x[d] and, if equal, writes x[b]; returns the old value. -/
  | cas (d : BitVec 5) (a : BitVec 5) (b : BitVec 5) (q : BitVec 2) (z : BitVec 2)
  /-- FENCE (R181): Orders earlier accesses before later ones at the given scope, as plain, release or acquire fence. -/
  | fence (c : BitVec 3) (k : BitVec 2)
  /-- EVSIG (R182): Adds 1 to an event counter as an atomic release at SYS scope. -/
  | evsig (a : BitVec 5)
  /-- EVWAIT (R182): Waits until the event counter reaches x[d], then returns it with acquire ordering. -/
  | evwait (d : BitVec 5) (a : BitVec 5)
  /-- EVPOLL (R182): Reads an event counter with acquire ordering. -/
  | evpoll (d : BitVec 5) (a : BitVec 5)
  /-- EVSET (R182): Sets an event counter to x[d] as an atomic release. -/
  | evset (d : BitVec 5) (a : BitVec 5)
  /-- BAR (R183): Arrives at a barrier generation and waits until every participant has arrived, ordering at PKG scope. -/
  | bar (a : BitVec 5) (i : BitVec 4)
  /-- QPUSH (R185): Waits for a free entry and appends x[a] to an outbound exchange queue with release at RING scope. -/
  | qpush (a : BitVec 5) (q : BitVec 3)
  /-- QPOP (R185): Waits for an entry of an inbound exchange queue and removes the oldest with acquire at RING scope. -/
  | qpop (d : BitVec 5) (q : BitVec 3)
  /-- QSPACE (R185): Returns the free or held entries of an exchange queue. -/
  | qspace (d : BitVec 5) (q : BitVec 3)
  /-- QNOTE (R185): Arms or disarms notify bit q with a threshold. -/
  | qnote (a : BitVec 5) (q : BitVec 3)
  /-- WFE (R186): Waits until NOTE is non-zero, returns it and clears it. -/
  | wfe (d : BitVec 5)
  /-- HLD (R188): Loads a 32-byte header into a header register after checks 1-7. -/
  | hld (h : BitVec 3) (a : BitVec 5) (s : BitVec 8)
  /-- HST (R188): Stores a header register's 32 bytes exactly as held. -/
  | hst (h : BitVec 3) (a : BitVec 5) (s : BitVec 8)
  /-- HGET (R189): Reads a named field of a header register into x[d]. -/
  | hget (d : BitVec 5) (h : BitVec 3) (f : BitVec 8)
  /-- HSET (R189): Sets a named field of a header register and regenerates its CRC, refusing values that fail checks 4-7. -/
  | hset (h : BitVec 3) (a : BitVec 5) (f : BitVec 8)
  /-- HCHK (R188): Returns the first of checks 1-10 that a header register fails, without trapping. -/
  | hchk (d : BitVec 5) (h : BitVec 3)
  /-- LRREG (R36): Registers a layout record and returns its handle, or the refusal cause. -/
  | lrreg (d : BitVec 5) (a : BitVec 5)
  /-- LRFREE (R37): Ends the use of a layout handle and clears pins it set. -/
  | lrfree (a : BitVec 5)
  /-- LRKEY (R40): Privileged: sets the key handle of a registered layout record. -/
  | lrkey (d : BitVec 5) (a : BitVec 5)
  /-- SCX (R192): Issues a 128-bit stream command from a register pair and returns its ticket, waiting while 64 are outstanding. -/
  | scx (d : BitVec 5) (a : BitVec 4) (s : BitVec 2)
  /-- SCL (R192): Issues a 128-bit stream command from four inline words and returns its ticket. -/
  | scl (d : BitVec 5) (s : BitVec 2) (cmd : BitVec 128)
  /-- SCWAIT (R193): Waits until every command up to a ticket has completed, ending with an acquire at SYS scope. -/
  | scwait (a : BitVec 5)
  /-- GLAUNCH (R195): Launches a galley from a link-table entry on a sub-window or chained window, or returns a refusal cause or BUSY. -/
  | glaunch (d : BitVec 5) (a : BitVec 5) (s : BitVec 2)
  /-- GWAIT (R194): Waits until a launch ends, returns how it ended and frees the slot, with acquire at SYS scope. -/
  | gwait (d : BitVec 5) (s : BitVec 2)
  /-- GSTAT (R196): Returns the status of a launch slot without waiting. -/
  | gstat (d : BitVec 5) (s : BitVec 2)
  /-- GMARK (R194): Injects one snapshot marker at every source of a launch. -/
  | gmark (s : BitVec 2)
  /-- GSTOP (R194): Makes every source of a launch stop and emit EOS so the launch drains, and makes store ports absorb tokens. -/
  | gstop (s : BitVec 2)
  /-- CSRR (R197): Reads a CSR into x[d]. -/
  | csrr (d : BitVec 5) (c : BitVec 8)
  /-- CSRW (R197): Writes x[a] to a CSR under its field access codes. -/
  | csrw (a : BitVec 5) (c : BitVec 8)
  /-- CSRX (R197): Writes a CSR and returns its old value in one step. -/
  | csrx (d : BitVec 5) (a : BitVec 5) (c : BitVec 8)
  /-- TRAP (R203): Raises SOFT with the given code. -/
  | trap (c : BitVec 8)
  /-- ERET (R203): Returns from a trap handler to TRAP_PC and clears INTRAP. -/
  | eret
  /-- HALT (R203): Ends the thread while its commands and launches run on. -/
  | halt
  /-- BRK (R203): Raises BREAK, or stops the thread for a claiming debug agent. -/
  | brk (c : BitVec 8)
  /-- TLBINV (R204): Privileged: invalidates translations of a page, an ASID or all ASIDs and drains accesses that used them. -/
  | tlbinv (d : BitVec 5) (a : BitVec 5) (k : BitVec 2)
  /-- CTXSAVE (R205): Privileged: writes the thread's state to a 768-byte image. -/
  | ctxsave (a : BitVec 5)
  /-- CTXLD (R205): Privileged: checks and installs a thread image and continues at its pc. -/
  | ctxld (a : BitVec 5)
  /-- LIGBIND (R206): Privileged: validates and binds, or unbinds, a user ligature image, recording its SM3 digest. -/
  | ligbind (d : BitVec 5) (a : BitVec 5) (n : BitVec 5)
  /-- VADD (R238): Element firing that adds two tiles element by element with one rounding. -/
  | vadd (e : ElemId)
  /-- VSUB (R238): Element firing that subtracts two tiles element by element. -/
  | vsub (e : ElemId)
  /-- VMUL (R238): Element firing that multiplies two tiles element by element. -/
  | vmul (e : ElemId)
  /-- VFMA (R238): Element firing that computes a*b+c per element with one rounding. -/
  | vfma (e : ElemId)
  /-- VMIN (R238): Element firing that takes the smaller of two elements. -/
  | vmin (e : ElemId)
  /-- VMAX (R238): Element firing that takes the larger of two elements. -/
  | vmax (e : ElemId)
  /-- VABS (R238): Element firing that takes the magnitude of each element. -/
  | vabs (e : ElemId)
  /-- VNEG (R238): Element firing that negates each element. -/
  | vneg (e : ElemId)
  /-- VDIV (R238): Element firing that divides two tiles element by element. -/
  | vdiv (e : ElemId)
  /-- VSQRT (R240): Element firing that takes the correctly rounded square root. -/
  | vsqrt (e : ElemId)
  /-- VRCPE (R241): Element firing that estimates the reciprocal to a 9-bit significand. -/
  | vrcpe (e : ElemId)
  /-- VRSQE (R241): Element firing that estimates the reciprocal square root to a 9-bit significand. -/
  | vrsqe (e : ElemId)
  /-- VEXP2 (R240): Element firing that computes 2^a. -/
  | vexp2 (e : ElemId)
  /-- VLOG2 (R240): Element firing that computes log2 a. -/
  | vlog2 (e : ElemId)
  /-- VTANH (R240): Element firing that computes tanh a. -/
  | vtanh (e : ElemId)
  /-- VSIGM (R240): Element firing that computes the logistic sigmoid. -/
  | vsigm (e : ElemId)
  /-- VIADD (R242): Element firing that adds integer tiles with saturation or wrap. -/
  | viadd (e : ElemId)
  /-- VISUB (R242): Element firing that subtracts integer tiles. -/
  | visub (e : ElemId)
  /-- VIMUL (R242): Element firing that multiplies integer tiles. -/
  | vimul (e : ElemId)
  /-- VIMULH (R242): Element firing that returns the high half of integer products. -/
  | vimulh (e : ElemId)
  /-- VSHL (R242): Element firing that shifts integer elements left. -/
  | vshl (e : ElemId)
  /-- VSHR (R242): Element firing that shifts integer elements right logically. -/
  | vshr (e : ElemId)
  /-- VSAR (R242): Element firing that shifts integer elements right arithmetically. -/
  | vsar (e : ElemId)
  /-- VAND (R242): Element firing that ANDs integer patterns. -/
  | vand (e : ElemId)
  /-- VOR (R242): Element firing that ORs integer patterns. -/
  | vor (e : ElemId)
  /-- VXOR (R242): Element firing that XORs integer patterns. -/
  | vxor (e : ElemId)
  /-- VNOT (R242): Element firing that inverts integer patterns. -/
  | vnot (e : ElemId)
  /-- VABSD (R242): Element firing that takes the absolute difference of integer elements. -/
  | vabsd (e : ElemId)
  /-- VCMP (R243): Element firing that emits a UINT8 mask tile and a per-tile control-plane count of a predicate. -/
  | vcmp (e : ElemId)
  /-- VSEL (R244): Element firing that selects between two tiles by a mask. -/
  | vsel (e : ElemId)
  /-- VCLAMP (R245): Element firing that clamps each element between lo and hi. -/
  | vclamp (e : ElemId)
  /-- VCVT (R246): Element firing that converts a tile to another format and scale layout. -/
  | vcvt (e : ElemId)
  /-- VRESC (R247): Element firing that re-expresses a tile under a new inline scale. -/
  | vresc (e : ElemId)
  /-- VQNT (R248): Element firing that holds a tile and quantises it by group with upward-rounded scales. -/
  | vqnt (e : ElemId)
  /-- VHDR (R249): Element firing that rewrites TAG, EXT or SEQ of a header and passes the data. -/
  | vhdr (e : ElemId)
  /-- VPERM (R250): Element firing that permutes the lanes of each data token by a pool table. -/
  | vperm (e : ElemId)
  /-- VROT (R250): Element firing that rotates or shifts lanes. -/
  | vrot (e : ElemId)
  /-- VBCAST (R250): Element firing that broadcasts one lane to all lanes. -/
  | vbcast (e : ElemId)
  /-- VPACK (R251): Element firing that concatenates the lines of two tiles. -/
  | vpack (e : ElemId)
  /-- VUNPK (R251): Element firing that splits the lines of a tile at a column. -/
  | vunpk (e : ElemId)
  /-- VPASS (R252): Element firing that passes every token unchanged. -/
  | vpass (e : ElemId)
  /-- VBUF (R252): Element firing that passes tokens while buffering up to 16 more. -/
  | vbuf (e : ElemId)
  /-- VCNT (R253): Element firing that passes tiles and emits tile, run or token counts on the control plane. -/
  | vcnt (e : ElemId)
  /-- VCONST (R254): Element firing that emits constant tiles from the pool and then EOS. -/
  | vconst (e : ElemId)
  /-- VREP (R255): Element firing that turns a control-plane value into a data-plane tile. -/
  | vrep (e : ElemId)
  /-- VXTR (R256): Element firing that extracts one element of each tile as a control-plane token. -/
  | vxtr (e : ElemId)
  /-- VMERGE (R257): Element firing that merges two KP64 runs by key into output tiles. -/
  | vmerge (e : ElemId)
  /-- VSPLIT (R258): Element firing that divides a tile's elements between two outputs by mask or key. -/
  | vsplit (e : ElemId)
  /-- VTAKE (R259): Element firing that passes the first K tiles of each run and discards the rest. -/
  | vtake (e : ElemId)
  /-- VSTATE (R260): Element firing that swaps, reads or writes a tile kept in the state record. -/
  | vstate (e : ElemId)
  /-- VRED (R280): Element firing that reduces each row or the whole tile by sum, max, min or all. -/
  | vred (e : ElemId)
  /-- VSCAN (R282): Element firing that scans 64-lane groups of affine pairs with reset masks. -/
  | vscan (e : ElemId)
  /-- VACC (R281): Element firing that accumulates tiles element by element and emits the group sum. -/
  | vacc (e : ElemId)
  /-- VLREC (R284): Element firing that steps 64 lane recurrences once per row. -/
  | vlrec (e : ElemId)
  /-- VCHUNK (R283): Element firing that applies the previous chunk's carry to scanned pairs, optionally chained. -/
  | vchunk (e : ElemId)
  /-- VSEG (R285): Element firing that places reset-mask SEG tokens before data tokens. -/
  | vseg (e : ElemId)
  /-- MMA (R267): Matrix firing that accumulates a group of KT tile pairs in the fixed order of sums and emits the result. -/
  | mma (e : ElemId)
  /-- MMAG (R269): Matrix firing that scatters gathered A rows into the accumulator. -/
  | mmag (e : ElemId)
  /-- MLATB (R270): Matrix firing that multiplies each A tile by a latched B tile. -/
  | mlatb (e : ElemId)
  /-- MOUT (R274): Matrix firing that finishes an accumulator tile with optional bias and one rounding. -/
  | mout (e : ElemId)
  /-- MZERO (R275): Matrix firing that emits a zero tile for each control token. -/
  | mzero (e : ElemId)
  /-- MOUTER (R271): Matrix firing that accumulates rank-1 outer products. -/
  | mouter (e : ElemId)
  /-- MTRN (R273): Matrix firing that emits a tile transposed. -/
  | mtrn (e : ElemId)
  /-- MDOT (R272): Matrix firing that forms row-wise dot products of two tiles. -/
  | mdot (e : ElemId)
  /-- AGLD (R307): AG port emits loaded tiles in link form, each EOT right behind its last reply beat. -/
  | agld (e : ElemId)
  /-- AGST (R308): AG port writes arriving tiles in canonical form, placing late tiles by index. -/
  | agst (e : ElemId)
  /-- AGGAT (R307): AG port takes an index token and loads that tile. -/
  | aggat (e : ElemId)
  /-- AGSCT (R308): AG port writes a tile at the flat index of its index token. -/
  | agsct (e : ElemId)
  /-- AGRED (R309): AG port combines an arriving tile into memory granule by granule atomically. -/
  | agred (e : ElemId)
  /-- AGSPAD (R323): AG element moves tokens or tiles through a bound scratchpad region as FIFO, write or read. -/
  | agspad (e : ElemId)
  /-- LIGATURE (R289): A ligature element's data firing runs its micro-op image once over 64 lanes in NWORDS fc. -/
  | ligature (e : ElemId)
  /-- STEER (R223): Router sends each unit to o0 or o1 by a control-plane predicate. -/
  | steer (r : RouterId)
  /-- MERGE (R224): Router merges units of two inputs by alternation or by a select token. -/
  | merge (r : RouterId)
  /-- CARRY (R225): Router admits units into a loop up to LIMIT, giving the back edge priority. -/
  | carry (r : RouterId)
  /-- JOIN (R226): Router sends i0's unit once i1's unit has fully arrived. -/
  | join (r : RouterId)
  /-- FORK (R226): Router copies or alternates units of i0 onto o0 and o1. -/
  | fork (r : RouterId)
  /-- ORDJ (R227): Router emits units of two circuits in increasing gateway stamp order. -/
  | ordj (r : RouterId)
  /-- ORDJ_IDLE_STAMP (R227): Every 64 fc the gateway sends the highest stamp issued on each idle circuit. -/
  | ordjIdleStamp (l : LaunchId) (seg : Fin 16)
  /-- ROUTER_CONVERSION (R32): The conversion stage of a typed link takes a source token and delivers converted tokens into the destination latch. -/
  | routerConversion (k : LinkId)
  /-- ALIGNED_TAG (R219): An element consumes the same aligned tag from every enabled input and emits it on every output. -/
  | alignedTag (e : ElemId)
  /-- ERR_TOKEN (R219): An element consumes an ERR at once, emits ERR on every output and discards owed tokens. -/
  | errToken (e : ElemId)
  /-- FORME_SWITCH (R133): When FSW heads every enabled input, the element consumes them, emits FSW and takes the next forme from its shadow. -/
  | formeSwitch (e : ElemId)
  /-- STATE_RESTORE (R137): The imposer restores a stateful forme's record before the element's first firing. -/
  | stateRestore (e : ElemId)
  /-- SHADOW_STAGE (R134): The imposer stages the next forme's configuration into the shadow registers of one stripe. -/
  | shadowStage (l : LaunchId) (stripe : Nat)
  /-- FORME_FETCH (R229): The imposer fetches a forme image into the forme cache and rechecks it, raising ILLEGAL on failure. -/
  | formeFetch (l : LaunchId) (forme : Nat)
  /-- SWEEP_BLOCK_END (R132): A source port's count reaches P*B data-width tokens and it emits FSW after the current tile. -/
  | sweepBlockEnd (p : PortId)
  /-- SEQ_CHILD_IMPOSE (R129): When a SEQ child has drained, the next child is imposed on the sub-window. -/
  | seqChildImpose (l : LaunchId) (node : Nat)
  /-- LAUNCH_END (R406): A launch ends when its sources have emitted EOS, elements consumed it and commands completed; flags are written. -/
  | launchEnd (l : LaunchId)
  /-- CONTEXT_COUNTER_ADVANCE (R142): After SLICE fc the ring's context counter advances and every stripe reselects its bank. -/
  | contextCounterAdvance (ring : Fin 16)
  /-- BANK_RESELECT (R142): A stripe whose active bank has had nothing fireable for 4 fc moves to another fireable slot. -/
  | bankReselect (ring : Fin 16) (stripe : Fin 24)
  /-- SC_TOKEN_VISIT (R377): The sequencing token visits an SC node, which performs one stream element's accesses and passes it on. -/
  | scTokenVisit (dom : Option (Fin 16))
  /-- XQ_SOURCE_EMIT (R185): An outbound exchange-queue entry enters the fabric as a control token tagged DATA. -/
  | xqSourceEmit (l : LaunchId) (xq : Fin 4)
  /-- SC_LOAD (R307): Stream command that loads walked tiles through a layout record to a port, with EOR and EOS as flagged. -/
  | scLoad (p : PortId)
  /-- SC_STORE (R308): Stream command that writes arriving tiles to walked positions. -/
  | scStore (p : PortId)
  /-- SC_GATHER (R307): Stream command that loads tiles at indices taken from the AG element's input. -/
  | scGather (p : PortId)
  /-- SC_SCATTER (R308): Stream command that writes each tile at the index of its index token. -/
  | scScatter (p : PortId)
  /-- SC_COPY (R310): Stream command that copies tiles memory to memory or to and from the scratchpad. -/
  | scCopy (p : PortId)
  /-- SC_SPAD (R323): Stream command that binds a scratchpad region to an AGSPAD element. -/
  | scSpad (p : PortId)
  /-- SC_OVERFLOW (R324): Stream command that binds a memory overflow queue to a SPILL link. -/
  | scOverflow (p : PortId)
  /-- SC_PEER (R315): Stream command that opens a channel over a peer link through a grant. -/
  | scPeer (p : PortId)
  /-- SC_REDUCE (R309): Stream command that combines arriving tiles into memory tiles by add, max or min. -/
  | scReduce (p : PortId)
  /-- SC_FILL (R310): Stream command that writes walked tiles filled with a value. -/
  | scFill (p : PortId)
  /-- SC_STAGE (R311): Stream command that asks the Traverse engines to move walked pages to a tier. -/
  | scStage (p : PortId)
  /-- SC_FENCE (R312): Stream command that orders a port's accesses at a scope and emits a FENCE token. -/
  | scFence (p : PortId)
  /-- SC_MARK (R313): Stream command that emits a MARK on a source port when snapshots are enabled. -/
  | scMark (p : PortId)
  /-- SC_CLOSE (R313): Stream command that ends a port's scratchpad, peer or overflow binding. -/
  | scClose (p : PortId)
  /-- SC_WAITEV (R314): Stream command that holds later commands until an event counter reaches a count. -/
  | scWaitev (p : PortId)
  /-- SC_SIGEV (R314): Stream command that signals an event once earlier commands have completed. -/
  | scSigev (p : PortId)
  /-- COMMAND_COMPLETE (R305): A stream command completes when its tiles are admitted, writes performed or binding ended. -/
  | commandComplete (ring : Fin 16) (slot : Fin 4) (ticket : Nat)
  /-- PORT_ACCESS (R306): A port issues the memory accesses of a stream element in walk order, splitting at boundaries. -/
  | portAccess (p : PortId)
  /-- WALK (R339): A TLB slice miss starts a page-table walk that installs a translation or faults. -/
  | walk (die : Fin 4) (asid : BitVec 16) (va : BitVec 64) (kind : AccessKind)
  /-- XFQ_POST (R342): A translation fault is posted to the die's fault queue, waiting while it is full. -/
  | xfqPost (die : Fin 4)
  /-- XFRESP_RETRY (R344): System software's RETRY makes every access waiting on the entry walk again. -/
  | xfrespRetry (die : Fin 4) (fid : BitVec 16)
  /-- XFRESP_DECLINE (R344): System software's DECLINE makes waiting accesses trap or become unrecoverable XLATE. -/
  | xfrespDecline (die : Fin 4) (fid : BitVec 16)
  /-- TRAVERSE_REQUEST (R347): A TRVREQ write asks the page's home engine to move it to a tier. -/
  | traverseRequest (die : Fin 4) (value : BitVec 64)
  /-- MOVE_START (R348): The Traverse engine takes a frame and swaps the leaf into saddle state. -/
  | moveStart (pg : PageId)
  /-- MOVE_OPENED (R351): When every invalidation is acknowledged the move enters COPYING with F=0. -/
  | moveOpened (pg : PageId)
  /-- COPY_STEP (R350): The home slice copies sub-block F from SRC to DST and advances F. -/
  | copyStep (pg : PageId)
  /-- MOVE_COMMIT (R351): When F reaches the sub-block count the leaf is swapped to DST. -/
  | moveCommit (pg : PageId)
  /-- MOVE_RELEASE (R351): After invalidations are acknowledged SRC is pushed to REL and COMMIT may be posted. -/
  | moveRelease (pg : PageId)
  /-- MOVE_ABORT (R352): A move aborts, restores the leaf to SRC, releases DST and posts MIG_ABORT. -/
  | moveAbort (pg : PageId)
  /-- MOVEMAX_EXPIRY (R352): MOVEMAX us pass since a move started and it aborts with BUDGET. -/
  | movemaxExpiry (pg : PageId)
  /-- STARVE_EXPIRY (R352): F has not advanced for STARVE us and the move aborts with STARVED. -/
  | starveExpiry (pg : PageId)
  /-- AGING_PERIOD (R355): At each 100 us period each die runs the tier policy and halves access counters. -/
  | agingPeriod (die : Fin 4)
  /-- BUDGET_PERIOD (R115): Each 50 us period the budget arbiters reset their charges and USED is recorded. -/
  | budgetPeriod
  /-- RATE_WINDOW (R117): Each CYCLES fc the rate limiter admits up to TOKENS more tokens per port. -/
  | rateWindow (p : PortId)
  /-- JOB_ENQUEUE (R99): A 128-byte posted write to the push window is checked and accepted or rejected with a QREJ count. -/
  | jobEnqueue (func : Nat) (q : Nat) (off : Nat) (bytes : List (BitVec 8)) (full : Bool)
  /-- CANCEL (R106): A QCTL write of CANCEL retires every accepted, unstarted job of the queue as CANCELLED. -/
  | cancel (func : Nat) (q : Nat)
  /-- JOB_CHECK (R105): When a job becomes the oldest unstarted job its record is checked, and a failing job is refused. -/
  | jobCheck (q : Nat)
  /-- KERNEL_LOAD (R84): The dispatcher's loader loads and publishes a KOB file for a KFILE job, or writes a refusal record. -/
  | kernelLoad (q : Nat)
  /-- STAGING_BEGIN (R112): Staging of a job's working set starts with Traverse move requests. -/
  | stagingBegin (j : JobId)
  /-- STAGING_TIMEOUT (R113): STAGETO*100 us pass and the job no longer waits for staging. -/
  | stagingTimeout (j : JobId)
  /-- DISPATCH_DECISION (R109): On an event or each 1 us the dispatcher tries ready queues by level and credit and starts at most one job. -/
  | dispatchDecision
  /-- NEXT_JOB_PREFETCH (R114): The dispatcher prefetches code and formes of the next job into reserved cache space. -/
  | nextJobPrefetch (ring : Fin 16)
  /-- JOB_COMPLETE (R103): A job completes when its threads, launches and stores are done, and signals SIGEV if due. -/
  | jobComplete (j : JobId)
  /-- RETIRE (R103): The retire record is written in queue order, DONE advances and MSI-X may follow. -/
  | retire (q : Nat)
  /-- DEADLOCK (R392): QCYC fc of quiescence raise DEADLOCK for the job. -/
  | deadlock (j : JobId)
  /-- WATCHDOG (R393): The watchdog expires without a progress mark and the job retires TIMEOUT. -/
  | watchdog (j : JobId)
  /-- PREEMPTION (R394): The save sequencer stops threads, stops sources and drains the fabric. -/
  | preemption (j : JobId)
  /-- SAVE (R395): After the drain the fabric state is written to the save area and slots are released. -/
  | save (j : JobId)
  /-- SAVE_TIMEOUT (R396): The 2 ms save deadline passes and the save reverts to a cut or contains the job. -/
  | saveTimeout (j : JobId)
  /-- MARKER (R384): A scheduled marker falls due every MARKINT runs and is placed at every source. -/
  | marker (l : LaunchId)
  /-- FINAL_MARKER (R388): When every source has emitted EOS the launch requests a final marker. -/
  | finalMarker (l : LaunchId)
  /-- CUT_COMPLETE (R385): A marker cut completes when every snapshot is written. -/
  | cutComplete (l : LaunchId)
  /-- WRITE_HOLD_FULL (R389): The write-hold limit is reached, all held writes commit and the interval becomes unprotected. -/
  | writeHoldFull (l : LaunchId)
  /-- CORRECTABLE_ERROR (R383): A correctable error is corrected in place and counted. -/
  | correctableError (st : Storage)
  /-- SOFT_ERROR (R383): An uncorrectable error is handled by where it lies: refetch, tier 2 or tier 3. -/
  | softError (st : Storage)
  /-- ROLLBACK (R390): A protected launch discards uncommitted work and restarts from its last complete cut. -/
  | rollback (l : LaunchId)
  /-- CONTAINMENT (R391): A tier-3 fault stops the job's threads, seals ports and drains with ERR. -/
  | containment (j : JobId)
  /-- WARM_RESET (R403): The dispatcher rebuilds from the journal and handles jobs by their marks. -/
  | warmReset
  /-- DIE_LOSS (R405): The loss of a die switches the dispatcher copy, cuts jobs and makes memory read DATA_UE. -/
  | dieLoss (die : Fin 4)
  /-- COLD_RESET (R424): Bring-up passes through supplies, firmware verification and reduced service. -/
  | coldReset (verified : Bool)
  /-- FULL_SERVICE (R424): After training and once every started job has retired, firmware re-interleaves memory and removes REDUCED. -/
  | fullService
  /-- HOST_CXL_MEM_ACCESS (R379): A host CXL.mem or CXL.cache access is performed at SYS scope on ciphertext. -/
  | hostCxlMemAccess (pa : Nat) (wdata : Option (List (BitVec 8)))
  /-- CXL_SURPRISE_REMOVAL (R411): A removed port's memory reads as DATA_UE and its moves abort. -/
  | cxlSurpriseRemoval (port : Fin 8)
  /-- PEER_OPEN (R359): A peer open request is checked against the grant and, if valid, starts a far end. -/
  | peerOpen (link : Fin 16) (chan : Nat) (grant : BitVec 16) (dir : Bool)
  /-- FLIT_RECEIVE (R417): A peer flit is received and checked, with a replay on CRC failure. -/
  | flitReceive (link : Fin 16) (flit : List (BitVec 8))
  /-- LINK_LOST (R418): After eight failed replays or 10 us without a flit every channel raises PEER. -/
  | linkLost (link : Fin 16)
  /-- LINK_RETRAIN (R418): A lost peer link retrains under management control. -/
  | linkRetrain (link : Fin 16)
  /-- CHECKPOINT (R420): A CKPTCTL GO starts a checkpoint of tiers H and L to the safe tier. -/
  | checkpoint (value : BitVec 64)
  /-- CHECKPOINT_QUIESCE (R420): A GO with QUIESCE pre-empts every job before copying. -/
  | checkpointQuiesce
  /-- CHECKPOINT_BLOCK_COPY (R421): The checkpoint frontier advances by one 64 KiB block. -/
  | checkpointBlockCopy
  /-- CHECKPOINT_FLUSH (R420): A global persistent flush and a header write mark the new image valid. -/
  | checkpointFlush (ok : Bool)
  /-- CHECKPOINT_RESTORE (R422): RESTORE copies the newest image back and rebuilds the dispatcher. -/
  | checkpointRestore
  /-- KEY_LOAD (R416): A mailbox request unwraps a key and loads a key slot. -/
  | keyLoad (session : Nat) (kslot : Nat) (wrapped : List (BitVec 8))
  /-- KEY_BIND (R416): A mailbox request binds a key handle to a slot for a context. -/
  | keyBind (asid : BitVec 16) (handle : BitVec 16) (kslot : Nat)
  /-- KEY_UNBIND (R416): A mailbox request unbinds a key handle. -/
  | keyUnbind (asid : BitVec 16) (handle : BitVec 16)
  /-- KEY_EXCHANGE (R426): An SPDM KEY_EXCHANGE establishes a session and its key-wrapping key. -/
  | keyExchange (session : Nat) (request : List (BitVec 8))
  /-- GET_MEASUREMENTS (R427): SPDM GET_MEASUREMENTS reports the boot, firmware, bank, fuse and ligature digests. -/
  | getMeasurements (index : Nat)
  /-- PROFILE_SAMPLE (R200): Every PERIOD*1,024 fc the thread's pc is sampled to the profiling buffer. -/
  | profileSample (ring : Fin 16) (slot : Fin 4)
  /-- THERMAL_STEP_DOWN (R425): Above 95 C the clock steps down by 50 MHz each 1 ms. -/
  | thermalStepDown
  /-- THERMAL_TRIP (R425): At 110 C the module trips and powers off as a cold reset. -/
  | thermalTrip
  /-- REGISTER_WRITE (R6): A write to a queue, management or ring register with no row of its own applies its access codes and conditions. -/
  | registerWrite (dst : RegDest) (value : BitVec 64)
  /-- LOSS_OF_POWER (R422): A loss of power discards every state of the module except the safe tier. -/
  | lossOfPower
  /-- CXL_LINK_TRAINING (R411): A CXL port trains its link, and is held down if it trains to 68-byte flits or an earlier version, with LINKS.CXLUP showing the result. -/
  | cxlLinkTraining (port : Fin 8) (flit256 : Bool)
  /-- DEBUG_AGENT_CLAIM (R203): A debug agent claims a context through the management path, so that BRK stops the thread for the agent. -/
  | debugAgentClaim (asid : BitVec 16) (claim : Bool)
  /-- DEBUG_AGENT_RESUME (R203): A debug agent resumes a thread stopped at BRK at any pc it chooses. -/
  | debugAgentResume (ring : Fin 16) (slot : Fin 4) (pc : BitVec 56)
  /-- MANAGEMENT_PATH_LIGATURE_BIND (R84): System software binds a ligature image into a context's ligature set through the management path, with LIGBIND's validation, digest and result codes. -/
  | managementPathLigatureBind (asid : BitVec 16) (n : BitVec 5) (addr : BitVec 64)
  deriving DecidableEq, Repr

end Sys2Proof
end

