-- ==== Sys2Proof/WellFormed.lean ====
section
/-! DEFINITION. Which terms of `Instr` the machine can be given: for a scalar instruction, whether every
sub-field value is assigned (06 R151, R164-R170, 07 R174-R206); for another step, whether the place it
names can exist. -/

namespace Sys2Proof

/-- R164: a field instruction's position and length lie within the register. -/
def fieldFits (n : BitVec 5) (m : BitVec 1) (p : BitVec 6) : Bool :=
  p.toNat + (32 * m.toNat + n.toNat + 1) ≤ 64

/-- R170: the kinds of FCVT; kinds 6, 7 and 9 are exact and take RND 0 only. -/
def fcvtAssigned (k : BitVec 4) (r : BitVec 2) : Bool :=
  k.toNat < 10 && (!(k.toNat == 6 || k.toNat == 7 || k.toNat == 9) || r.toNat == 0)

/-- R179: atomics take sizes w and d. -/
def atomicSize (z : BitVec 2) : Bool := 2 ≤ z.toNat

/-- R189: the header fields HGET reads. -/
def hgetField (f : BitVec 8) : Bool := f.toNat ≤ 18 || (32 ≤ f.toNat && f.toNat ≤ 35)

/-- R189: the header fields HSET writes. -/
def hsetField (f : BitVec 8) : Bool := (2 ≤ f.toNat && f.toNat ≤ 17) || (32 ≤ f.toNat && f.toNat ≤ 34)

/-- R197: the CSR numbers. -/
def csrListed (c : BitVec 8) : Bool := c.toNat ≤ 4 || (8 ≤ c.toNat && c.toNat ≤ 0x0E)

/-- R197: the CSRs with a field that can be written. -/
def csrWritable (c : BitVec 8) : Bool :=
  c.toNat == 1 || c.toNat == 4 || c.toNat == 0x0D || c.toNat == 0x0E

/-- R204: kind 3 is unassigned; kind 1 takes a = 0, kind 2 takes a = 0 and d = 0. -/
def tlbinvForm (d a : BitVec 5) (k : BitVec 2) : Bool :=
  match k.toNat with
  | 0 => true
  | 1 => a == 0
  | 2 => a == 0 && d == 0
  | _ => false

/-- A window stripe exists (05 R125: at most 24 stripes). -/
def ElemId.wf (e : ElemId) : Bool := e.stripe < 24

/-- A forme of a galley (03 R87: at most 65,536 formes). -/
def RouterId.wf (r : RouterId) : Bool := r.forme < 65536

/-- A link word of a forme image (08 R214). -/
def LinkId.wf (k : LinkId) : Bool := k.forme < 65536 && k.link < 64

/-- A PORT of a command: ports 64-254 name nothing, and a command at one is refused (11 R296, R303, R304). -/
def PortId.wf (p : PortId) : Bool := p.port < 256

/-- A queue of the part (04 R96). -/
def JobId.wf (j : JobId) : Bool := j.queue < 8192

/-- Well-formed instructions and steps. -/
def Instr.wf : Instr → Bool
  | .exts _ _ n m p | .extz _ _ n m p | .insf _ _ n m p => fieldFits n m p
  | .fcmp _ _ _ p => p.toNat < 4
  | .fcvt _ _ k r => fcvtAssigned k r
  | .ld _ _ _ q _ => q.toNat < 2
  | .lds _ _ z q _ => z.toNat < 3 && q.toNat < 2
  | .st _ _ _ q _ => q.toNat == 0 || q.toNat == 2
  | .amoadd _ _ _ _ z | .amoand _ _ _ _ z | .amoor _ _ _ _ z | .amoxor _ _ _ _ z
  | .amomin _ _ _ _ z | .amomax _ _ _ _ z | .amoswap _ _ _ _ z | .cas _ _ _ _ z => atomicSize z
  | .fence c k => c.toNat < 7 && k.toNat < 3
  | .qpush _ q => q.toNat < 4
  | .qpop _ q => 4 ≤ q.toNat
  | .hget _ _ f => hgetField f
  | .hset _ _ f => hsetField f
  | .csrr _ c => csrListed c
  | .csrw _ c => csrWritable c
  | .csrx _ _ c => csrWritable c
  | .tlbinv d a k => tlbinvForm d a k
  | .vadd e | .vsub e | .vmul e | .vfma e | .vmin e | .vmax e | .vabs e | .vneg e | .vdiv e | .vsqrt e
  | .vrcpe e | .vrsqe e | .vexp2 e | .vlog2 e | .vtanh e | .vsigm e | .viadd e | .visub e | .vimul e
  | .vimulh e | .vshl e | .vshr e | .vsar e | .vand e | .vor e | .vxor e | .vnot e | .vabsd e | .vcmp e
  | .vsel e | .vclamp e | .vcvt e | .vresc e | .vqnt e | .vhdr e | .vperm e | .vrot e | .vbcast e
  | .vpack e | .vunpk e | .vpass e | .vbuf e | .vcnt e | .vconst e | .vrep e | .vxtr e | .vmerge e
  | .vsplit e | .vtake e | .vstate e | .vred e | .vscan e | .vacc e | .vlrec e | .vchunk e | .vseg e
  | .mma e | .mmag e | .mlatb e | .mout e | .mzero e | .mouter e | .mtrn e | .mdot e | .agld e
  | .agst e | .aggat e | .agsct e | .agred e | .agspad e | .ligature e | .alignedTag e | .errToken e
  | .formeSwitch e | .stateRestore e => e.wf
  | .steer r | .merge r | .carry r | .join r | .fork r | .ordj r => r.wf
  | .routerConversion k => k.wf
  | .sweepBlockEnd p | .scLoad p | .scStore p | .scGather p | .scScatter p | .scCopy p | .scSpad p
  | .scOverflow p | .scPeer p | .scReduce p | .scFill p | .scStage p | .scFence p | .scMark p
  | .scClose p | .scWaitev p | .scSigev p | .portAccess p | .rateWindow p => p.wf
  | .jobEnqueue _ q _ bytes _ => q < 8192 && bytes.length ≤ 128
  | .cancel _ q | .jobCheck q | .kernelLoad q | .retire q => q < 8192
  | .stagingBegin jb | .stagingTimeout jb | .jobComplete jb | .deadlock jb | .watchdog jb | .preemption jb
  | .save jb | .saveTimeout jb | .containment jb => jb.wf
  | .hostCxlMemAccess pa w => pa < 2 ^ 52 && (w.getD []).length ≤ 64
  | _ => true

end Sys2Proof
end

