-- ==== Sys2Proof/Decode.lean ====
section
/-! DEFINITION. The decoder of instruction words (06 R149-R151) and the encoder written from the same
tables. A word that matches no row of the encoding tables is rejected by name; whether the sub-field
values of a matching word are assigned is `encodingOk`, which the meanings check first (07 R174). -/

namespace Sys2Proof

/-- Why bytes are no instruction (06 R151, R149). -/
inductive Reject where
  /-- Major 0x00, and the word is not the all-zero word. -/
  | notZeroWord
  /-- A major with no instruction. -/
  | unassignedMajor
  /-- An assigned major with an unassigned fn, cond, sel or a field that must be zero. -/
  | unassignedEncoding
  /-- Fewer bytes than the instruction has. -/
  | truncated
  deriving DecidableEq, Repr

/-- The bits [lo+len-1:lo] of an instruction word, as a number. -/
def fld (w : W32) (lo len : Nat) : Nat := w.toNat / 2 ^ lo % 2 ^ len

/-- The operand field [lo+len-1:lo] of an instruction word. -/
def opd (w : W32) (lo len : Nat) : BitVec len := BitVec.ofNat len (fld w lo len)

/-- Major 0x01 (R150, R162). -/
def decodeAlu (w : W32) : Except Reject Instr :=
  if fld w 0 11 = 0 then .ok (.add (opd w 21 5) (opd w 16 5) (opd w 11 5))
  else if fld w 0 11 = 1 then .ok (.sub (opd w 21 5) (opd w 16 5) (opd w 11 5))
  else if fld w 0 11 = 2 then .ok (.and (opd w 21 5) (opd w 16 5) (opd w 11 5))
  else if fld w 0 11 = 3 then .ok (.or (opd w 21 5) (opd w 16 5) (opd w 11 5))
  else if fld w 0 11 = 4 then .ok (.xor (opd w 21 5) (opd w 16 5) (opd w 11 5))
  else if fld w 0 11 = 5 then .ok (.sll (opd w 21 5) (opd w 16 5) (opd w 11 5))
  else if fld w 0 11 = 6 then .ok (.srl (opd w 21 5) (opd w 16 5) (opd w 11 5))
  else if fld w 0 11 = 7 then .ok (.sra (opd w 21 5) (opd w 16 5) (opd w 11 5))
  else if fld w 0 11 = 8 then .ok (.slt (opd w 21 5) (opd w 16 5) (opd w 11 5))
  else if fld w 0 11 = 9 then .ok (.sltu (opd w 21 5) (opd w 16 5) (opd w 11 5))
  else if fld w 0 11 = 10 then .ok (.min (opd w 21 5) (opd w 16 5) (opd w 11 5))
  else if fld w 0 11 = 11 then .ok (.max (opd w 21 5) (opd w 16 5) (opd w 11 5))
  else if fld w 0 11 = 12 then .ok (.minu (opd w 21 5) (opd w 16 5) (opd w 11 5))
  else if fld w 0 11 = 13 then .ok (.maxu (opd w 21 5) (opd w 16 5) (opd w 11 5))
  else .error .unassignedEncoding

/-- Major 0x02 (R150, R163). -/
def decodeMulDiv (w : W32) : Except Reject Instr :=
  if fld w 0 11 = 0 then .ok (.mul (opd w 21 5) (opd w 16 5) (opd w 11 5))
  else if fld w 0 11 = 1 then .ok (.mulh (opd w 21 5) (opd w 16 5) (opd w 11 5))
  else if fld w 0 11 = 2 then .ok (.mulhu (opd w 21 5) (opd w 16 5) (opd w 11 5))
  else if fld w 0 11 = 4 then .ok (.div (opd w 21 5) (opd w 16 5) (opd w 11 5))
  else if fld w 0 11 = 5 then .ok (.rem (opd w 21 5) (opd w 16 5) (opd w 11 5))
  else if fld w 0 11 = 6 then .ok (.divu (opd w 21 5) (opd w 16 5) (opd w 11 5))
  else if fld w 0 11 = 7 then .ok (.remu (opd w 21 5) (opd w 16 5) (opd w 11 5))
  else .error .unassignedEncoding

/-- Major 0x03 (R150, R164). -/
def decodeBits (w : W32) : Except Reject Instr :=
  if fld w 0 16 = 0 then .ok (.clz (opd w 21 5) (opd w 16 5))
  else if fld w 0 16 = 1 then .ok (.ctz (opd w 21 5) (opd w 16 5))
  else if fld w 0 16 = 2 then .ok (.popc (opd w 21 5) (opd w 16 5))
  else if fld w 0 16 = 3 then .ok (.bswp (opd w 21 5) (opd w 16 5))
  else if fld w 0 3 = 4 ∧ fld w 10 1 = 0 then .ok (.exts (opd w 21 5) (opd w 16 5) (opd w 11 5) (opd w 9 1) (opd w 3 6))
  else if fld w 0 3 = 5 ∧ fld w 10 1 = 0 then .ok (.extz (opd w 21 5) (opd w 16 5) (opd w 11 5) (opd w 9 1) (opd w 3 6))
  else if fld w 0 3 = 6 ∧ fld w 10 1 = 0 then .ok (.insf (opd w 21 5) (opd w 16 5) (opd w 11 5) (opd w 9 1) (opd w 3 6))
  else if fld w 0 11 = 7 then .ok (.sel (opd w 21 5) (opd w 16 5) (opd w 11 5))
  else .error .unassignedEncoding

/-- Major 0x08 (R150, R165). -/
def decodeShi (w : W32) : Except Reject Instr :=
  if fld w 6 10 = 0 then .ok (.slli (opd w 21 5) (opd w 16 5) (opd w 0 6))
  else if fld w 6 10 = 1 then .ok (.srli (opd w 21 5) (opd w 16 5) (opd w 0 6))
  else if fld w 6 10 = 2 then .ok (.srai (opd w 21 5) (opd w 16 5) (opd w 0 6))
  else .error .unassignedEncoding

/-- Major 0x0C (R150, R167). -/
def decodeFpu (w : W32) : Except Reject Instr :=
  if fld w 0 4 = 0 ∧ fld w 6 5 = 0 then .ok (.fadd (opd w 21 5) (opd w 16 5) (opd w 11 5) (opd w 4 2))
  else if fld w 0 4 = 1 ∧ fld w 6 5 = 0 then .ok (.fsub (opd w 21 5) (opd w 16 5) (opd w 11 5) (opd w 4 2))
  else if fld w 0 4 = 2 ∧ fld w 6 5 = 0 then .ok (.fmul (opd w 21 5) (opd w 16 5) (opd w 11 5) (opd w 4 2))
  else if fld w 0 4 = 3 ∧ fld w 6 5 = 0 then .ok (.fdiv (opd w 21 5) (opd w 16 5) (opd w 11 5) (opd w 4 2))
  else if fld w 0 4 = 4 ∧ fld w 6 5 = 0 then .ok (.fma (opd w 21 5) (opd w 16 5) (opd w 11 5) (opd w 4 2))
  else if fld w 0 11 = 5 then .ok (.fmin (opd w 21 5) (opd w 16 5) (opd w 11 5))
  else if fld w 0 11 = 6 then .ok (.fmax (opd w 21 5) (opd w 16 5) (opd w 11 5))
  else if fld w 0 6 = 7 ∧ fld w 10 1 = 0 then .ok (.fcmp (opd w 21 5) (opd w 16 5) (opd w 11 5) (opd w 6 4))
  else if fld w 0 4 = 8 ∧ fld w 10 6 = 0 then .ok (.fcvt (opd w 21 5) (opd w 16 5) (opd w 6 4) (opd w 4 2))
  else .error .unassignedEncoding

/-- Major 0x10 (R150, R171). -/
def decodeBranch (w : W32) : Except Reject Instr :=
  if fld w 13 3 = 0 then .ok (.beq (opd w 21 5) (opd w 16 5) (opd w 0 13))
  else if fld w 13 3 = 1 then .ok (.bne (opd w 21 5) (opd w 16 5) (opd w 0 13))
  else if fld w 13 3 = 2 then .ok (.blt (opd w 21 5) (opd w 16 5) (opd w 0 13))
  else if fld w 13 3 = 3 then .ok (.bge (opd w 21 5) (opd w 16 5) (opd w 0 13))
  else if fld w 13 3 = 4 then .ok (.bltu (opd w 21 5) (opd w 16 5) (opd w 0 13))
  else if fld w 13 3 = 5 then .ok (.bgeu (opd w 21 5) (opd w 16 5) (opd w 0 13))
  else .error .unassignedEncoding

/-- Major 0x13 (R150, R173). -/
def decodeJump (w : W32) : Except Reject Instr :=
  if fld w 0 16 = 0 ∧ fld w 21 5 = 0 then .ok (.jr (opd w 16 5))
  else if fld w 0 16 = 1 then .ok (.callr (opd w 21 5) (opd w 16 5))
  else .error .unassignedEncoding

/-- Major 0x1B (R150, R177). -/
def decodePref (w : W32) : Except Reject Instr :=
  if fld w 12 4 = 0 ∧ fld w 21 5 = 0 then .ok (.prefR (opd w 16 5) (opd w 0 12))
  else if fld w 12 4 = 0 ∧ fld w 21 5 = 1 then .ok (.prefW (opd w 16 5) (opd w 0 12))
  else .error .unassignedEncoding

/-- Major 0x1C (R150, R179). -/
def decodeAmo (w : W32) : Except Reject Instr :=
  if fld w 0 3 = 0 ∧ fld w 7 4 = 0 then .ok (.amoadd (opd w 21 5) (opd w 16 5) (opd w 11 5) (opd w 5 2) (opd w 3 2))
  else if fld w 0 3 = 1 ∧ fld w 7 4 = 0 then .ok (.amoand (opd w 21 5) (opd w 16 5) (opd w 11 5) (opd w 5 2) (opd w 3 2))
  else if fld w 0 3 = 2 ∧ fld w 7 4 = 0 then .ok (.amoor (opd w 21 5) (opd w 16 5) (opd w 11 5) (opd w 5 2) (opd w 3 2))
  else if fld w 0 3 = 3 ∧ fld w 7 4 = 0 then .ok (.amoxor (opd w 21 5) (opd w 16 5) (opd w 11 5) (opd w 5 2) (opd w 3 2))
  else if fld w 0 3 = 4 ∧ fld w 7 4 = 0 then .ok (.amomin (opd w 21 5) (opd w 16 5) (opd w 11 5) (opd w 5 2) (opd w 3 2))
  else if fld w 0 3 = 5 ∧ fld w 7 4 = 0 then .ok (.amomax (opd w 21 5) (opd w 16 5) (opd w 11 5) (opd w 5 2) (opd w 3 2))
  else if fld w 0 3 = 6 ∧ fld w 7 4 = 0 then .ok (.amoswap (opd w 21 5) (opd w 16 5) (opd w 11 5) (opd w 5 2) (opd w 3 2))
  else .error .unassignedEncoding

/-- Major 0x20 (R150, R182). -/
def decodeEvent (w : W32) : Except Reject Instr :=
  if fld w 0 16 = 0 ∧ fld w 21 5 = 0 then .ok (.evsig (opd w 16 5))
  else if fld w 0 16 = 1 then .ok (.evwait (opd w 21 5) (opd w 16 5))
  else if fld w 0 16 = 2 then .ok (.evpoll (opd w 21 5) (opd w 16 5))
  else if fld w 0 16 = 3 then .ok (.evset (opd w 21 5) (opd w 16 5))
  else .error .unassignedEncoding

/-- Major 0x22 (R150, R185). -/
def decodeQueue (w : W32) : Except Reject Instr :=
  if fld w 0 8 = 0 ∧ fld w 11 5 = 0 ∧ fld w 21 5 = 0 then .ok (.qpush (opd w 16 5) (opd w 8 3))
  else if fld w 0 8 = 1 ∧ fld w 11 10 = 0 then .ok (.qpop (opd w 21 5) (opd w 8 3))
  else if fld w 0 8 = 2 ∧ fld w 11 10 = 0 then .ok (.qspace (opd w 21 5) (opd w 8 3))
  else if fld w 0 8 = 3 ∧ fld w 11 5 = 0 ∧ fld w 21 5 = 0 then .ok (.qnote (opd w 16 5) (opd w 8 3))
  else .error .unassignedEncoding

/-- Major 0x24 (R150, R188). -/
def decodeHeader (w : W32) : Except Reject Instr :=
  if fld w 0 8 = 0 ∧ fld w 24 2 = 0 then .ok (.hld (opd w 21 3) (opd w 16 5) (opd w 8 8))
  else if fld w 0 8 = 1 ∧ fld w 24 2 = 0 then .ok (.hst (opd w 21 3) (opd w 16 5) (opd w 8 8))
  else if fld w 0 8 = 2 ∧ fld w 19 2 = 0 then .ok (.hget (opd w 21 5) (opd w 16 3) (opd w 8 8))
  else if fld w 0 8 = 3 ∧ fld w 24 2 = 0 then .ok (.hset (opd w 21 3) (opd w 16 5) (opd w 8 8))
  else if fld w 0 16 = 4 ∧ fld w 19 2 = 0 then .ok (.hchk (opd w 21 5) (opd w 16 3))
  else .error .unassignedEncoding

/-- Major 0x25 (R150, R190). -/
def decodeLayout (w : W32) : Except Reject Instr :=
  if fld w 0 16 = 0 then .ok (.lrreg (opd w 21 5) (opd w 16 5))
  else if fld w 0 16 = 1 ∧ fld w 21 5 = 0 then .ok (.lrfree (opd w 16 5))
  else if fld w 0 16 = 2 then .ok (.lrkey (opd w 21 5) (opd w 16 5))
  else .error .unassignedEncoding

/-- Major 0x2C (R150, R194). -/
def decodeGalley (w : W32) : Except Reject Instr :=
  if fld w 0 8 = 0 ∧ fld w 10 6 = 0 then .ok (.glaunch (opd w 21 5) (opd w 16 5) (opd w 8 2))
  else if fld w 0 8 = 1 ∧ fld w 10 11 = 0 then .ok (.gwait (opd w 21 5) (opd w 8 2))
  else if fld w 0 8 = 2 ∧ fld w 10 11 = 0 then .ok (.gstat (opd w 21 5) (opd w 8 2))
  else if fld w 0 8 = 3 ∧ fld w 10 16 = 0 then .ok (.gmark (opd w 8 2))
  else if fld w 0 8 = 4 ∧ fld w 10 16 = 0 then .ok (.gstop (opd w 8 2))
  else .error .unassignedEncoding

/-- Major 0x30 (R150, R197, R203-R206). -/
def decodeSystem (w : W32) : Except Reject Instr :=
  if fld w 0 8 = 4 ∧ fld w 16 5 = 0 then .ok (.csrr (opd w 21 5) (opd w 8 8))
  else if fld w 0 8 = 5 ∧ fld w 21 5 = 0 then .ok (.csrw (opd w 16 5) (opd w 8 8))
  else if fld w 0 8 = 6 then .ok (.csrx (opd w 21 5) (opd w 16 5) (opd w 8 8))
  else if fld w 0 8 = 0 ∧ fld w 16 10 = 0 then .ok (.trap (opd w 8 8))
  else if fld w 0 26 = 1 then .ok .eret
  else if fld w 0 26 = 2 then .ok .halt
  else if fld w 0 8 = 3 ∧ fld w 16 10 = 0 then .ok (.brk (opd w 8 8))
  else if fld w 0 8 = 7 ∧ fld w 10 6 = 0 then .ok (.tlbinv (opd w 21 5) (opd w 16 5) (opd w 8 2))
  else if fld w 0 16 = 8 ∧ fld w 21 5 = 0 then .ok (.ctxsave (opd w 16 5))
  else if fld w 0 16 = 9 ∧ fld w 21 5 = 0 then .ok (.ctxld (opd w 16 5))
  else if fld w 0 8 = 10 ∧ fld w 13 3 = 0 then .ok (.ligbind (opd w 21 5) (opd w 16 5) (opd w 8 5))
  else .error .unassignedEncoding

/-- The instruction of one word (R149, R150); SCL is read with its inline words by `decode`. -/
def decodeWord (w : W32) : Except Reject Instr :=
  match fld w 26 6 with
  | 0x00 => if fld w 0 26 = 0 then .ok .ill else .error .notZeroWord
  | 0x01 => decodeAlu w
  | 0x02 => decodeMulDiv w
  | 0x03 => decodeBits w
  | 0x04 => .ok (.addi (opd w 21 5) (opd w 16 5) (opd w 0 16))
  | 0x05 => .ok (.andi (opd w 21 5) (opd w 16 5) (opd w 0 16))
  | 0x06 => .ok (.ori (opd w 21 5) (opd w 16 5) (opd w 0 16))
  | 0x07 => .ok (.xori (opd w 21 5) (opd w 16 5) (opd w 0 16))
  | 0x08 => decodeShi w
  | 0x09 => .ok (.slti (opd w 21 5) (opd w 16 5) (opd w 0 16))
  | 0x0A => .ok (.lui (opd w 21 5) (opd w 0 21))
  | 0x0B => .ok (.addpc (opd w 21 5) (opd w 0 21))
  | 0x0C => decodeFpu w
  | 0x10 => decodeBranch w
  | 0x11 => .ok (.j (opd w 0 26))
  | 0x12 => .ok (.call (opd w 0 26))
  | 0x13 => decodeJump w
  | 0x14 => .ok (.callt (opd w 21 5) (opd w 16 5) (opd w 0 16))
  | 0x18 => .ok (.ld (opd w 21 5) (opd w 16 5) (opd w 14 2) (opd w 12 2) (opd w 0 12))
  | 0x19 => .ok (.lds (opd w 21 5) (opd w 16 5) (opd w 14 2) (opd w 12 2) (opd w 0 12))
  | 0x1A => .ok (.st (opd w 21 5) (opd w 16 5) (opd w 14 2) (opd w 12 2) (opd w 0 12))
  | 0x1B => decodePref w
  | 0x1C => decodeAmo w
  | 0x1D => if fld w 0 3 = 0 ∧ fld w 7 4 = 0 then .ok (.cas (opd w 21 5) (opd w 16 5) (opd w 11 5) (opd w 5 2) (opd w 3 2)) else .error .unassignedEncoding
  | 0x1E => if fld w 2 6 = 0 ∧ fld w 11 15 = 0 then .ok (.fence (opd w 8 3) (opd w 0 2)) else .error .unassignedEncoding
  | 0x20 => decodeEvent w
  | 0x21 => if fld w 0 8 = 0 ∧ fld w 12 4 = 0 ∧ fld w 21 5 = 0 then .ok (.bar (opd w 16 5) (opd w 8 4)) else .error .unassignedEncoding
  | 0x22 => decodeQueue w
  | 0x23 => if fld w 0 21 = 0 then .ok (.wfe (opd w 21 5)) else .error .unassignedEncoding
  | 0x24 => decodeHeader w
  | 0x25 => decodeLayout w
  | 0x28 => if fld w 0 8 = 0 ∧ fld w 10 7 = 0 then .ok (.scx (opd w 21 5) (opd w 17 4) (opd w 8 2)) else .error .unassignedEncoding
  | 0x2A => if fld w 0 16 = 0 ∧ fld w 21 5 = 0 then .ok (.scwait (opd w 16 5)) else .error .unassignedEncoding
  | 0x2C => decodeGalley w
  | 0x30 => decodeSystem w
  | 0x29 => .error .truncated
  | _ => .error .unassignedMajor


/-- The command bits of the four inline words of SCL (07 R192): word k is bits [32k+31:32k]. -/
def inlineCommand (w0 w1 w2 w3 : W32) : BitVec 128 := w3 ++ w2 ++ w1 ++ w0

/-- SCL with its inline words (07 R192): count must be 4 and operands [20:10], [7:4] zero. -/
def decodeScl (w w0 w1 w2 w3 : W32) : Except Reject Instr :=
  if fld w 0 8 = 4 ∧ fld w 10 11 = 0 then .ok (.scl (opd w 21 5) (opd w 8 2) (inlineCommand w0 w1 w2 w3))
  else .error .unassignedEncoding

/-- Whether a first word has the form of SCL, so that four inline words follow it (R149, R192). -/
def isScl (w : W32) : Bool := fld w 26 6 = 0x29 ∧ fld w 0 8 = 4 ∧ fld w 10 11 = 0

/-- A word from its four bytes, lowest address first (00 R4). -/
def wordOf (b0 b1 b2 b3 : Byte) : W32 := b3 ++ b2 ++ b1 ++ b0

/-- The words of a list of bytes, as far as they are whole. -/
def wordsOf (bs : List Byte) : List W32 :=
  match bs with
  | b0 :: b1 :: b2 :: b3 :: rest => wordOf b0 b1 b2 b3 :: wordsOf rest
  | _ => []

/-- The instruction at the head of a list of words, and the words after it. -/
def decodeWords (ws : List W32) : Except Reject (Instr × List W32) :=
  match ws with
  | [] => .error .truncated
  | w :: rest =>
    if isScl w then
      match rest with
      | w0 :: w1 :: w2 :: w3 :: rest' => (decodeScl w w0 w1 w2 w3).map fun i => (i, rest')
      | _ => .error .truncated
    else if fld w 26 6 = 0x29 then .error .unassignedEncoding
    else (decodeWord w).map fun i => (i, rest)

/-- The instruction at the head of a list of bytes. -/
def decode (bs : List Byte) : Except Reject (Instr × List W32) := decodeWords (wordsOf bs)

/-- Form A of R149. -/
def formA (major d a b fn : Nat) : W32 :=
  BitVec.ofNat 32 (67108864 * major + 2097152 * d + 65536 * a + 2048 * b + fn)
/-- Form B of R149. -/
def formB (major d a imm : Nat) : W32 := BitVec.ofNat 32 (67108864 * major + 2097152 * d + 65536 * a + imm)
/-- Form C of R149. -/
def formC (major d imm : Nat) : W32 := BitVec.ofNat 32 (67108864 * major + 2097152 * d + imm)
/-- Form D of R149. -/
def formD (major a b cond off : Nat) : W32 :=
  BitVec.ofNat 32 (67108864 * major + 2097152 * a + 65536 * b + 8192 * cond + off)
/-- Form E of R149. -/
def formE (major off : Nat) : W32 := BitVec.ofNat 32 (67108864 * major + off)
/-- Form F of R149. -/
def formF (major d a size ord off : Nat) : W32 :=
  BitVec.ofNat 32 (67108864 * major + 2097152 * d + 65536 * a + 16384 * size + 4096 * ord + off)
/-- Form G of R149. -/
def formG (major d a sel fn : Nat) : W32 :=
  BitVec.ofNat 32 (67108864 * major + 2097152 * d + 65536 * a + 256 * sel + fn)
/-- Form H of R149 as SCL uses it: operands [25:21] and [9:8]. -/
def formH (major d s count : Nat) : W32 := BitVec.ofNat 32 (67108864 * major + 2097152 * d + 256 * s + count)

/-- The word of an instruction, from the forms of R149 and the encodings of the tables (SCL: its first
word); a step of the machine that is no scalar instruction has no word. -/
def encodeWord (i : Instr) : Option W32 :=
  match i with
  | .ill => some 0
  | .add d a b => some (formA 0x01 d.toNat a.toNat b.toNat 0)
  | .sub d a b => some (formA 0x01 d.toNat a.toNat b.toNat 1)
  | .and d a b => some (formA 0x01 d.toNat a.toNat b.toNat 2)
  | .or d a b => some (formA 0x01 d.toNat a.toNat b.toNat 3)
  | .xor d a b => some (formA 0x01 d.toNat a.toNat b.toNat 4)
  | .sll d a b => some (formA 0x01 d.toNat a.toNat b.toNat 5)
  | .srl d a b => some (formA 0x01 d.toNat a.toNat b.toNat 6)
  | .sra d a b => some (formA 0x01 d.toNat a.toNat b.toNat 7)
  | .slt d a b => some (formA 0x01 d.toNat a.toNat b.toNat 8)
  | .sltu d a b => some (formA 0x01 d.toNat a.toNat b.toNat 9)
  | .min d a b => some (formA 0x01 d.toNat a.toNat b.toNat 10)
  | .max d a b => some (formA 0x01 d.toNat a.toNat b.toNat 11)
  | .minu d a b => some (formA 0x01 d.toNat a.toNat b.toNat 12)
  | .maxu d a b => some (formA 0x01 d.toNat a.toNat b.toNat 13)
  | .mul d a b => some (formA 0x02 d.toNat a.toNat b.toNat 0)
  | .mulh d a b => some (formA 0x02 d.toNat a.toNat b.toNat 1)
  | .mulhu d a b => some (formA 0x02 d.toNat a.toNat b.toNat 2)
  | .div d a b => some (formA 0x02 d.toNat a.toNat b.toNat 4)
  | .rem d a b => some (formA 0x02 d.toNat a.toNat b.toNat 5)
  | .divu d a b => some (formA 0x02 d.toNat a.toNat b.toNat 6)
  | .remu d a b => some (formA 0x02 d.toNat a.toNat b.toNat 7)
  | .clz d a => some (formA 0x03 d.toNat a.toNat 0 0)
  | .ctz d a => some (formA 0x03 d.toNat a.toNat 0 1)
  | .popc d a => some (formA 0x03 d.toNat a.toNat 0 2)
  | .bswp d a => some (formA 0x03 d.toNat a.toNat 0 3)
  | .exts d a n m p => some (formA 0x03 d.toNat a.toNat n.toNat (4 + p.toNat * 8 + m.toNat * 512))
  | .extz d a n m p => some (formA 0x03 d.toNat a.toNat n.toNat (5 + p.toNat * 8 + m.toNat * 512))
  | .insf d a n m p => some (formA 0x03 d.toNat a.toNat n.toNat (6 + p.toNat * 8 + m.toNat * 512))
  | .sel d a b => some (formA 0x03 d.toNat a.toNat b.toNat 7)
  | .addi d a i => some (formB 0x04 d.toNat a.toNat i.toNat)
  | .andi d a i => some (formB 0x05 d.toNat a.toNat i.toNat)
  | .ori d a i => some (formB 0x06 d.toNat a.toNat i.toNat)
  | .xori d a i => some (formB 0x07 d.toNat a.toNat i.toNat)
  | .slli d a s => some (formB 0x08 d.toNat a.toNat s.toNat)
  | .srli d a s => some (formB 0x08 d.toNat a.toNat (64 + s.toNat))
  | .srai d a s => some (formB 0x08 d.toNat a.toNat (128 + s.toNat))
  | .slti d a i => some (formB 0x09 d.toNat a.toNat i.toNat)
  | .lui d i => some (formC 0x0A d.toNat i.toNat)
  | .addpc d i => some (formC 0x0B d.toNat i.toNat)
  | .fadd d a b r => some (formA 0x0C d.toNat a.toNat b.toNat (r.toNat * 16))
  | .fsub d a b r => some (formA 0x0C d.toNat a.toNat b.toNat (1 + r.toNat * 16))
  | .fmul d a b r => some (formA 0x0C d.toNat a.toNat b.toNat (2 + r.toNat * 16))
  | .fdiv d a b r => some (formA 0x0C d.toNat a.toNat b.toNat (3 + r.toNat * 16))
  | .fma d a b r => some (formA 0x0C d.toNat a.toNat b.toNat (4 + r.toNat * 16))
  | .fmin d a b => some (formA 0x0C d.toNat a.toNat b.toNat 5)
  | .fmax d a b => some (formA 0x0C d.toNat a.toNat b.toNat 6)
  | .fcmp d a b p => some (formA 0x0C d.toNat a.toNat b.toNat (7 + p.toNat * 64))
  | .fcvt d a k r => some (formA 0x0C d.toNat a.toNat 0 (8 + r.toNat * 16 + k.toNat * 64))
  | .beq a b o => some (formD 0x10 a.toNat b.toNat 0 o.toNat)
  | .bne a b o => some (formD 0x10 a.toNat b.toNat 1 o.toNat)
  | .blt a b o => some (formD 0x10 a.toNat b.toNat 2 o.toNat)
  | .bge a b o => some (formD 0x10 a.toNat b.toNat 3 o.toNat)
  | .bltu a b o => some (formD 0x10 a.toNat b.toNat 4 o.toNat)
  | .bgeu a b o => some (formD 0x10 a.toNat b.toNat 5 o.toNat)
  | .j o => some (formE 0x11 o.toNat)
  | .call o => some (formE 0x12 o.toNat)
  | .jr a => some (formA 0x13 0 a.toNat 0 0)
  | .callr d a => some (formA 0x13 d.toNat a.toNat 0 1)
  | .callt d a i => some (formB 0x14 d.toNat a.toNat i.toNat)
  | .ld d a z q o => some (formF 0x18 d.toNat a.toNat z.toNat q.toNat o.toNat)
  | .lds d a z q o => some (formF 0x19 d.toNat a.toNat z.toNat q.toNat o.toNat)
  | .st t a z q o => some (formF 0x1A t.toNat a.toNat z.toNat q.toNat o.toNat)
  | .prefR a o => some (formF 0x1B 0 a.toNat 0 0 o.toNat)
  | .prefW a o => some (formF 0x1B 1 a.toNat 0 0 o.toNat)
  | .amoadd d a b q z => some (formA 0x1C d.toNat a.toNat b.toNat (z.toNat * 8 + q.toNat * 32))
  | .amoand d a b q z => some (formA 0x1C d.toNat a.toNat b.toNat (1 + z.toNat * 8 + q.toNat * 32))
  | .amoor d a b q z => some (formA 0x1C d.toNat a.toNat b.toNat (2 + z.toNat * 8 + q.toNat * 32))
  | .amoxor d a b q z => some (formA 0x1C d.toNat a.toNat b.toNat (3 + z.toNat * 8 + q.toNat * 32))
  | .amomin d a b q z => some (formA 0x1C d.toNat a.toNat b.toNat (4 + z.toNat * 8 + q.toNat * 32))
  | .amomax d a b q z => some (formA 0x1C d.toNat a.toNat b.toNat (5 + z.toNat * 8 + q.toNat * 32))
  | .amoswap d a b q z => some (formA 0x1C d.toNat a.toNat b.toNat (6 + z.toNat * 8 + q.toNat * 32))
  | .cas d a b q z => some (formA 0x1D d.toNat a.toNat b.toNat (z.toNat * 8 + q.toNat * 32))
  | .fence c k => some (formG 0x1E 0 0 c.toNat k.toNat)
  | .evsig a => some (formG 0x20 0 a.toNat 0 0)
  | .evwait d a => some (formG 0x20 d.toNat a.toNat 0 1)
  | .evpoll d a => some (formG 0x20 d.toNat a.toNat 0 2)
  | .evset d a => some (formG 0x20 d.toNat a.toNat 0 3)
  | .bar a i => some (formG 0x21 0 a.toNat i.toNat 0)
  | .qpush a q => some (formG 0x22 0 a.toNat q.toNat 0)
  | .qpop d q => some (formG 0x22 d.toNat 0 q.toNat 1)
  | .qspace d q => some (formG 0x22 d.toNat 0 q.toNat 2)
  | .qnote a q => some (formG 0x22 0 a.toNat q.toNat 3)
  | .wfe d => some (formG 0x23 d.toNat 0 0 0)
  | .hld h a s => some (formG 0x24 h.toNat a.toNat s.toNat 0)
  | .hst h a s => some (formG 0x24 h.toNat a.toNat s.toNat 1)
  | .hget d h f => some (formG 0x24 d.toNat h.toNat f.toNat 2)
  | .hset h a f => some (formG 0x24 h.toNat a.toNat f.toNat 3)
  | .hchk d h => some (formG 0x24 d.toNat h.toNat 0 4)
  | .lrreg d a => some (formG 0x25 d.toNat a.toNat 0 0)
  | .lrfree a => some (formG 0x25 0 a.toNat 0 1)
  | .lrkey d a => some (formG 0x25 d.toNat a.toNat 0 2)
  | .scx d a s => some (formG 0x28 d.toNat (a.toNat * 2) s.toNat 0)
  | .scl d s _ => some (formH 0x29 d.toNat s.toNat 4)
  | .scwait a => some (formG 0x2A 0 a.toNat 0 0)
  | .glaunch d a s => some (formG 0x2C d.toNat a.toNat s.toNat 0)
  | .gwait d s => some (formG 0x2C d.toNat 0 s.toNat 1)
  | .gstat d s => some (formG 0x2C d.toNat 0 s.toNat 2)
  | .gmark s => some (formG 0x2C 0 0 s.toNat 3)
  | .gstop s => some (formG 0x2C 0 0 s.toNat 4)
  | .csrr d c => some (formG 0x30 d.toNat 0 c.toNat 4)
  | .csrw a c => some (formG 0x30 0 a.toNat c.toNat 5)
  | .csrx d a c => some (formG 0x30 d.toNat a.toNat c.toNat 6)
  | .trap c => some (formG 0x30 0 0 c.toNat 0)
  | .eret => some (formG 0x30 0 0 0 1)
  | .halt => some (formG 0x30 0 0 0 2)
  | .brk c => some (formG 0x30 0 0 c.toNat 3)
  | .tlbinv d a k => some (formG 0x30 d.toNat a.toNat k.toNat 7)
  | .ctxsave a => some (formG 0x30 0 a.toNat 0 8)
  | .ctxld a => some (formG 0x30 0 a.toNat 0 9)
  | .ligbind d a n => some (formG 0x30 d.toNat a.toNat n.toNat 10)
  | .vadd _ | .vsub _ | .vmul _ | .vfma _ | .vmin _ | .vmax _ | .vabs _ | .vneg _ | .vdiv _ | .vsqrt _
  | .vrcpe _ | .vrsqe _ | .vexp2 _ | .vlog2 _ | .vtanh _ | .vsigm _ | .viadd _ | .visub _ | .vimul _
  | .vimulh _ | .vshl _ | .vshr _ | .vsar _ | .vand _ | .vor _ | .vxor _ | .vnot _ | .vabsd _ | .vcmp _
  | .vsel _ | .vclamp _ | .vcvt _ | .vresc _ | .vqnt _ | .vhdr _ | .vperm _ | .vrot _ | .vbcast _ | .vpack _
  | .vunpk _ | .vpass _ | .vbuf _ | .vcnt _ | .vconst _ | .vrep _ | .vxtr _ | .vmerge _ | .vsplit _ | .vtake _
  | .vstate _ | .vred _ | .vscan _ | .vacc _ | .vlrec _ | .vchunk _ | .vseg _ | .mma _ | .mmag _ | .mlatb _
  | .mout _ | .mzero _ | .mouter _ | .mtrn _ | .mdot _ | .agld _ | .agst _ | .aggat _ | .agsct _ | .agred _
  | .agspad _ | .ligature _ | .steer _ | .merge _ | .carry _ | .join _ | .fork _ | .ordj _
  | .ordjIdleStamp _ _ | .routerConversion _ | .alignedTag _ | .errToken _ | .formeSwitch _ | .stateRestore _
  | .shadowStage _ _ | .formeFetch _ _ | .sweepBlockEnd _ | .seqChildImpose _ _ | .launchEnd _
  | .contextCounterAdvance _ | .bankReselect _ _ | .scTokenVisit _ | .xqSourceEmit _ _ | .scLoad _
  | .scStore _ | .scGather _ | .scScatter _ | .scCopy _ | .scSpad _ | .scOverflow _ | .scPeer _ | .scReduce _
  | .scFill _ | .scStage _ | .scFence _ | .scMark _ | .scClose _ | .scWaitev _ | .scSigev _
  | .commandComplete _ _ _ | .portAccess _ | .walk _ _ _ _ | .xfqPost _ | .xfrespRetry _ _
  | .xfrespDecline _ _ | .traverseRequest _ _ | .moveStart _ | .moveOpened _ | .copyStep _ | .moveCommit _
  | .moveRelease _ | .moveAbort _ | .movemaxExpiry _ | .starveExpiry _ | .agingPeriod _ | .budgetPeriod
  | .rateWindow _ | .jobEnqueue _ _ _ _ _ | .cancel _ _ | .jobCheck _ | .kernelLoad _ | .stagingBegin _
  | .stagingTimeout _ | .dispatchDecision | .nextJobPrefetch _ | .jobComplete _ | .retire _ | .deadlock _
  | .watchdog _ | .preemption _ | .save _ | .saveTimeout _ | .marker _ | .finalMarker _ | .cutComplete _
  | .writeHoldFull _ | .correctableError _ | .softError _ | .rollback _ | .containment _ | .warmReset
  | .dieLoss _ | .coldReset _ | .fullService | .hostCxlMemAccess _ _ | .cxlSurpriseRemoval _
  | .peerOpen _ _ _ _ | .flitReceive _ _ | .linkLost _ | .linkRetrain _ | .checkpoint _ | .checkpointQuiesce
  | .checkpointBlockCopy | .checkpointFlush _ | .checkpointRestore | .keyLoad _ _ _ | .keyBind _ _ _
  | .keyUnbind _ _ | .keyExchange _ _ | .getMeasurements _ | .profileSample _ _ | .thermalStepDown
  | .thermalTrip | .registerWrite _ _ | .lossOfPower | .cxlLinkTraining _ _ | .debugAgentClaim _ _
  | .debugAgentResume _ _ _ | .managementPathLigatureBind _ _ _ => none

/-- The words of an instruction: one, or five for SCL (R149, R192). -/
def encode (i : Instr) : Option (List W32) :=
  match i with
  | .scl d s cmd =>
    (encodeWord (.scl d s cmd)).map fun w =>
      [w, cmd.extractLsb' 0 32, cmd.extractLsb' 32 32, cmd.extractLsb' 64 32, cmd.extractLsb' 96 32]
  | i => (encodeWord i).map fun w => [w]

/-- Whether the sub-field values of an instruction are assigned (R151, 07 R174 check 1). -/
def encodingOk (i : Instr) : Bool := i.wf

/-- The instruction word that ILLEGAL and PRIV report in TRAP_INFO (07 R199). -/
def trapWord (i : Instr) : W64 := ((encodeWord i).getD 0).setWidth 64

/-- The number of bytes execution advances past an instruction (R149). -/
def instrBytes (i : Instr) : Nat :=
  match i with
  | .scl _ _ _ => 20
  | _ => 4

/-- The decoder's reading of an instruction laid out as the opcode table numbers bits: little-endian
bytes, zero above `nbits`, up to the longest instruction (20 bytes). -/
def decodeTableWord (nbits w : Nat) : Option Instr :=
  match decode (bytesLE 20 (w % 2 ^ nbits)) with
  | .ok (i, _) => some i
  | .error _ => none

end Sys2Proof
end

