-- ==== Sys2Proof/Machine/Tab.lean ====
section
/-! DEFINITION. Tables keyed by natural numbers, in one canonical form: keys strictly rising and no entry
equal to the default, so that equal tables are equal data. Memory is such a table of bytes. -/

namespace Sys2Proof

/-- A table: the entries that differ from the table's default, by rising key. -/
abbrev Tab (α : Type) := List (Nat × α)

/-- The entry of a key, the default `d` when it is not listed. -/
def tget {α : Type} (d : α) (t : Tab α) (k : Nat) : α :=
  match t with
  | [] => d
  | (k', v) :: rest => if k' = k then v else tget d rest k

/-- The table with the entry of `k` set to `v`; writing the default removes the entry. -/
def tset {α : Type} [DecidableEq α] (d : α) (t : Tab α) (k : Nat) (v : α) : Tab α :=
  match t with
  | [] => if v = d then [] else [(k, v)]
  | (k', v') :: rest =>
    if k' < k then (k', v') :: tset d rest k v
    else
      let r := ((k', v') :: rest).filter fun e => e.1 != k
      if v = d then r else (k, v) :: r

/-- The table with the entry of `k` changed by `f`. -/
def tmod {α : Type} [DecidableEq α] (d : α) (t : Tab α) (k : Nat) (f : α → α) : Tab α :=
  tset d t k (f (tget d t k))

/-- The keys of a table. -/
def tkeys {α : Type} (t : Tab α) : List Nat := t.map fun e => e.1

/-- The canonical form of a table, above a lower bound for the keys. -/
def twfFrom {α : Type} [DecidableEq α] (d : α) (lo : Nat) (t : Tab α) : Bool :=
  match t with
  | [] => true
  | (k, v) :: rest => lo ≤ k && v ≠ d && twfFrom d (k + 1) rest

/-- The canonical form of a table. -/
def twf {α : Type} [DecidableEq α] (d : α) (t : Tab α) : Bool := twfFrom d 0 t

/-- The entry of index `i` of a list changed by `f`. -/
def lmod {α : Type} (l : List α) (i : Nat) (f : α → α) : List α :=
  match l, i with
  | [], _ => []
  | x :: r, 0 => f x :: r
  | x :: r, i + 1 => x :: lmod r i f

/-- An element put into an ordered list before the first that it may precede. -/
def insertBy {α : Type} (le : α → α → Bool) (x : α) (l : List α) : List α :=
  match l with
  | [] => [x]
  | y :: rest => if le x y then x :: y :: rest else y :: insertBy le x rest

/-- A list in order; elements that are equal in the order keep their places. -/
def sortBy {α : Type} (le : α → α → Bool) (l : List α) : List α := l.foldr (insertBy le) []

end Sys2Proof
end

