-- ==== Sys2Proof/Machine/Number.lean ====
section
/-! DEFINITION. Numbers (02 R44-R56): exact values, the number formats, the four rounding modes, the
conversions between formats, and the sticky flags of R54. A value is exact; it is rounded only by the
rounding functions here (R8). -/

namespace Sys2Proof

/-- The rounding modes of R52, by code. -/
inductive Rnd where
  /-- To nearest, ties to even. -/
  | rne
  /-- Toward zero. -/
  | rz
  /-- Toward minus infinity. -/
  | rdn
  /-- Toward plus infinity. -/
  | rup
  deriving DecidableEq, Repr

/-- The rounding mode of a 2-bit code (R52). -/
def rndOf (code : Nat) : Rnd :=
  match code % 4 with
  | 0 => .rne
  | 1 => .rz
  | 2 => .rdn
  | _ => .rup

/-- The sticky flags of R54 (FSTAT of R147 holds INV, DZ, FLT_OVF and SAT). -/
structure Flags where
  inv : Bool := false
  sat : Bool := false
  fltOvf : Bool := false
  intSat : Bool := false
  dz : Bool := false
  deriving DecidableEq, Repr

/-- No flag. -/
def noFlags : Flags := {}

/-- Flags only accumulate (R54: sticky). -/
def orFlags (a b : Flags) : Flags :=
  { inv := a.inv || b.inv, sat := a.sat || b.sat, fltOvf := a.fltOvf || b.fltOvf,
    intSat := a.intSat || b.intSat, dz := a.dz || b.dz }

/-- INV alone. -/
def invFlag : Flags := { inv := true }
/-- SAT alone. -/
def satFlag : Flags := { sat := true }

/-- An exact value: NaN, an infinity, or a signed magnitude `m * 2^e`. With `sticky`, the magnitude lies
strictly between `m * 2^e` and `(m + 1) * 2^e`: the form in which quotients, roots and transcendental
values are handed to the rounding functions, with more bits than any format has. -/
inductive Val where
  | nan
  | inf (neg : Bool)
  | fin (neg : Bool) (m : Nat) (e : Int) (sticky : Bool)
  deriving DecidableEq, Repr

/-- The value of an integer. -/
def valOfInt (i : Int) : Val := .fin (i < 0) i.natAbs 0 false

/-- An integer times a power of two. -/
def valOfDyadic (i : Int) (e : Int) : Val := .fin (i < 0) i.natAbs e false

/-- A zero of either sign. -/
def valIsZero : Val → Bool
  | .fin _ 0 _ false => true
  | _ => false

/-- The sign of a value; a NaN has none. -/
def valNeg : Val → Bool
  | .nan => false
  | .inf n => n
  | .fin n _ _ _ => n

/-- The value with its sign changed. -/
def negV : Val → Val
  | .nan => .nan
  | .inf n => .inf (!n)
  | .fin n m e s => .fin (!n) m e s

/-- The magnitude of a value. -/
def absV : Val → Val
  | .nan => .nan
  | .inf _ => .inf false
  | .fin _ m e s => .fin false m e s

/-- The signed mantissa of a finite value over the exponent `e0`, for `e0` at most its own exponent. -/
def mantissaAt (e0 : Int) : Val → Int
  | .fin n m e _ => let k := (m * 2 ^ (e - e0).toNat : Nat); if n then -(k : Int) else (k : Int)
  | _ => 0

/-- The exponent of a finite value. -/
def expOf : Val → Int
  | .fin _ _ e _ => e
  | _ => 0

/-- Exact product; the second part says whether it is invalid (0 × ∞, R54). -/
def mulV (a b : Val) : Val × Bool :=
  match a, b with
  | .nan, _ => (.nan, false)
  | _, .nan => (.nan, false)
  | .inf n, x => if valIsZero x then (.nan, true) else (.inf (xor n (valNeg x)), false)
  | x, .inf n => if valIsZero x then (.nan, true) else (.inf (xor n (valNeg x)), false)
  | .fin n m e _, .fin n' m' e' _ => (.fin (xor n n') (m * m') (e + e') false, false)

/-- Exact sum under IEEE 754 (R168): the sign of an exact zero is + unless both operands are negative, or
the mode is RDN and the signs differ. The second part says whether it is invalid (∞ − ∞). -/
def addV (mode : Rnd) (a b : Val) : Val × Bool :=
  match a, b with
  | .nan, _ => (.nan, false)
  | _, .nan => (.nan, false)
  | .inf n, .inf n' => if n == n' then (.inf n, false) else (.nan, true)
  | .inf n, _ => (.inf n, false)
  | _, .inf n => (.inf n, false)
  | .fin n m e s, .fin n' m' e' s' =>
    let e0 := min e e'
    let t := mantissaAt e0 (.fin n m e s) + mantissaAt e0 (.fin n' m' e' s')
    if t == 0 then (.fin (if n == n' then n else mode == .rdn) 0 e0 false, false)
    else (.fin (t < 0) t.natAbs e0 false, false)

/-- How two values compare, when neither is NaN; the two zeros are equal. -/
def cmpV (a b : Val) : Ordering :=
  match a, b with
  | .inf n, .inf n' => if n == n' then .eq else if n then .lt else .gt
  | .inf n, _ => if n then .lt else .gt
  | _, .inf n => if n then .gt else .lt
  | x, y => let e0 := min (expOf x) (expOf y); compare (mantissaAt e0 x) (mantissaAt e0 y)

/-- Whether a value is NaN. -/
def isNan : Val → Bool
  | .nan => true
  | _ => false

/-- `a < b` on values that are not NaN. -/
def ltV (a b : Val) : Bool := !isNan a && !isNan b && cmpV a b == .lt
/-- `a = b` on values that are not NaN. -/
def eqV (a b : Val) : Bool := !isNan a && !isNan b && cmpV a b == .eq
/-- `a ≤ b` on values that are not NaN. -/
def leV (a b : Val) : Bool := ltV a b || eqV a b

/-- The multiple of a quantum that rounding chooses (R52): `lo` below the magnitude, `cmp` how the
remainder compares with half a quantum, `exact` when there is no remainder. -/
def roundQuanta (mode : Rnd) (neg : Bool) (lo : Nat) (cmp : Ordering) (exact : Bool) : Nat :=
  if exact then lo
  else match mode with
    | .rne => match cmp with
      | .lt => lo
      | .gt => lo + 1
      | .eq => if lo % 2 == 0 then lo else lo + 1
    | .rz => lo
    | .rdn => if neg then lo + 1 else lo
    | .rup => if neg then lo else lo + 1

/-- The magnitude `m * 2^e` (with its sticky part) in quanta of `2^q`, rounded. -/
def roundAt (mode : Rnd) (neg : Bool) (m : Nat) (e : Int) (sticky : Bool) (q : Int) : Nat :=
  let s := q - e
  if s ≤ 0 then roundQuanta mode neg (m * 2 ^ (-s).toNat) .lt (!sticky)
  else
    let k := s.toNat
    let lo := m / 2 ^ k
    let rem := m % 2 ^ k
    let half := 2 ^ (k - 1)
    let cmp := if rem < half then .lt else if rem == half && !sticky then .eq else .gt
    roundQuanta mode neg lo cmp (rem == 0 && !sticky)

/-- `round_int` of R9 on a finite value. -/
def roundInt (mode : Rnd) (neg : Bool) (m : Nat) (e : Int) (sticky : Bool) : Int :=
  let k : Nat := roundAt mode neg m e sticky 0
  if neg then -(k : Int) else (k : Int)

/-- A binary floating-point format: fraction bits, exponent of the smallest quantum, the largest code of a
finite magnitude, and the total width (R45-R47). -/
structure FloatFmt where
  frac : Nat
  qmin : Int
  maxCode : Nat
  width : Nat
  /-- FP32, FP16 and BF16 have infinities; K8 and K6 saturate. -/
  ieee : Bool
  deriving DecidableEq, Repr

/-- binary32 (R45). -/
def fp32 : FloatFmt := { frac := 23, qmin := -149, maxCode := 0x7F7FFFFF, width := 32, ieee := true }
/-- binary16 (R45). -/
def fp16 : FloatFmt := { frac := 10, qmin := -24, maxCode := 0x7BFF, width := 16, ieee := true }
/-- The upper half of binary32 (R45). -/
def bf16 : FloatFmt := { frac := 7, qmin := -133, maxCode := 0x7F7F, width := 16, ieee := true }
/-- K8 (R46). -/
def k8 : FloatFmt := { frac := 3, qmin := -10, maxCode := 0x7F, width := 8, ieee := false }
/-- K6 (R47). -/
def k6 : FloatFmt := { frac := 2, qmin := -5, maxCode := 0x1F, width := 6, ieee := false }

/-- The sign bit of a format. -/
def signBit (f : FloatFmt) : Nat := 2 ^ (f.width - 1)

/-- The canonical NaN (R45), or the NaN code of K8 and K6 (R46, R47). -/
def nanCode (f : FloatFmt) : Nat :=
  if f.ieee then f.maxCode + 1 + 2 ^ (f.frac - 1) else signBit f

/-- The value of a code (R45-R47). -/
def decodeFloat (f : FloatFmt) (code : Nat) : Val :=
  let c := code % 2 ^ f.width
  let neg := signBit f ≤ c
  let mag := c % signBit f
  if f.ieee && f.maxCode < mag then (if mag == f.maxCode + 1 then .inf neg else .nan)
  else if !f.ieee && mag == 0 && neg then .nan
  else
    let ex := mag / 2 ^ f.frac
    let fr := mag % 2 ^ f.frac
    if ex == 0 then .fin neg fr f.qmin false
    else .fin neg (2 ^ f.frac + fr) (f.qmin + (ex - 1 : Nat)) false

/-- The code of a magnitude rounded on the format's grid, extended without bound. -/
def gridCode (f : FloatFmt) (mode : Rnd) (neg : Bool) (m : Nat) (e : Int) (sticky : Bool) : Nat :=
  if m == 0 && !sticky then 0
  else
    let q := max f.qmin ((Nat.log2 m : Int) + e - f.frac)
    (q - f.qmin).toNat * 2 ^ f.frac + roundAt mode neg m e sticky q

/-- `round_to` a floating-point format, with the flags of R53. -/
def roundFloat (f : FloatFmt) (mode : Rnd) (v : Val) : Nat × Flags :=
  match v with
  | .nan => (nanCode f, noFlags)
  | .inf neg =>
    if f.ieee then (f.maxCode + 1 + (if neg then signBit f else 0), noFlags) else (nanCode f, invFlag)
  | .fin neg m e sticky =>
    let c := gridCode f mode neg m e sticky
    let sgn := if neg then signBit f else 0
    if f.ieee then
      if f.maxCode < c then
        let toMax := match mode with
          | .rne => false
          | .rz => true
          | .rdn => !neg
          | .rup => neg
        ((if toMax then f.maxCode else f.maxCode + 1) + sgn, { fltOvf := true })
      else (c + sgn, noFlags)
    else if c == 0 then (0, noFlags)
    else if f.maxCode < c then (f.maxCode + sgn, satFlag)
    else (c + sgn, noFlags)

/-- `round_fp32` (R9) as a code. -/
def roundFp32 (mode : Rnd) (v : Val) : Nat × Flags := roundFloat fp32 mode v

/-- The value of an FP32 code. -/
def valF32 (code : Nat) : Val := decodeFloat fp32 code

/-- The exact square root of a magnitude by bits: the largest `r` with `r * r ≤ n`. -/
def isqrtAux (n : Nat) (bits : Nat) (r : Nat) : Nat :=
  match bits with
  | 0 => r
  | b + 1 => let r' := r + 2 ^ b; isqrtAux n b (if r' * r' ≤ n then r' else r)

/-- Integer square root. -/
def isqrt (n : Nat) : Nat := isqrtAux n (Nat.log2 n / 2 + 1) 0

/-- Quotient of two finite values with non-zero divisor, with at least 80 bits and every bit of its integer part. -/
def quotV (a b : Val) : Val :=
  match a, b with
  | .fin n m e _, .fin n' m' e' _ =>
    if m == 0 then .fin (xor n n') 0 0 false
    else
      let sh := Nat.log2 m' + 80 + (e - e').toNat
      let num := m * 2 ^ sh
      .fin (xor n n') (num / m') (e - e' - sh) (num % m' != 0)
  | _, _ => .nan

/-- Division with the cases of R168: the value, and whether it is invalid or a division by zero. -/
def divV (a b : Val) : Val × Flags :=
  match a, b with
  | .nan, _ => (.nan, noFlags)
  | _, .nan => (.nan, noFlags)
  | .inf _, .inf _ => (.nan, invFlag)
  | .inf n, x => (.inf (xor n (valNeg x)), noFlags)
  | x, .inf n => (.fin (xor (valNeg x) n) 0 0 false, noFlags)
  | x, y =>
    if valIsZero y then
      if valIsZero x then (.nan, invFlag) else (.inf (xor (valNeg x) (valNeg y)), { dz := true })
    else (quotV x y, noFlags)

/-- Square root: the root of −0 is −0, of a negative value invalid (09 R239). -/
def sqrtV (a : Val) : Val × Bool :=
  match a with
  | .nan => (.nan, false)
  | .inf n => if n then (.nan, true) else (.inf false, false)
  | .fin n m e _ =>
    if m == 0 then (.fin n 0 0 false, false)
    else if n then (.nan, true)
    else
      let sh : Nat := 160 + (if (e - 160) % 2 == 0 then 0 else 1)
      let num := m * 2 ^ sh
      let r := isqrt num
      (.fin false r ((e - sh) / 2) (r * r != num), false)

/-- The element formats of R44. -/
inductive Fmt where
  | fp32 | fp16 | bf16 | k8 | k6
  | int32 | int16 | int8 | int4 | uint8 | uint4
  | psd8 | psd16 | i48 | kp64 | any
  deriving DecidableEq, Repr

/-- The format of a code; none for a reserved code (R44). -/
def fmtOf (code : Nat) : Option Fmt :=
  match code with
  | 0x01 => some .fp32
  | 0x02 => some .fp16
  | 0x03 => some .bf16
  | 0x04 => some .k8
  | 0x05 => some .k6
  | 0x08 => some .int32
  | 0x09 => some .int16
  | 0x0A => some .int8
  | 0x0B => some .int4
  | 0x0C => some .uint8
  | 0x0D => some .uint4
  | 0x10 => some .psd8
  | 0x11 => some .psd16
  | 0x14 => some .i48
  | 0x18 => some .kp64
  | 0x3F => some .any
  | _ => none

/-- The code of a format (R44). -/
def fmtCode : Fmt → Nat
  | .fp32 => 0x01
  | .fp16 => 0x02
  | .bf16 => 0x03
  | .k8 => 0x04
  | .k6 => 0x05
  | .int32 => 0x08
  | .int16 => 0x09
  | .int8 => 0x0A
  | .int4 => 0x0B
  | .uint8 => 0x0C
  | .uint4 => 0x0D
  | .psd8 => 0x10
  | .psd16 => 0x11
  | .i48 => 0x14
  | .kp64 => 0x18
  | .any => 0x3F

/-- Bits of a stored element (R16; per plane for PSD). -/
def fmtWidth : Fmt → Nat
  | .fp32 | .int32 => 32
  | .fp16 | .bf16 | .int16 => 16
  | .k8 | .int8 | .uint8 => 8
  | .k6 => 6
  | .int4 | .uint4 => 4
  | .psd8 | .psd16 => 2
  | .i48 => 48
  | .kp64 => 64
  | .any => 0

/-- Planes of a format (R13). -/
def fmtPlanes : Fmt → Nat
  | .psd8 => 4
  | .psd16 => 8
  | _ => 1

/-- Whether a format is a PSD format. -/
def isPsd (f : Fmt) : Bool := f == .psd8 || f == .psd16

/-- The layout of a floating-point format; none for another. -/
def floatOf : Fmt → Option FloatFmt
  | .fp32 => some Sys2Proof.fp32
  | .fp16 => some Sys2Proof.fp16
  | .bf16 => some Sys2Proof.bf16
  | .k8 => some Sys2Proof.k8
  | .k6 => some Sys2Proof.k6
  | _ => none

/-- The range of an integer format; none for another (R44). -/
def intRange : Fmt → Option (Int × Int)
  | .int32 => some (-2147483648, 2147483647)
  | .int16 => some (-32768, 32767)
  | .int8 => some (-128, 127)
  | .int4 => some (-8, 7)
  | .uint8 => some (0, 255)
  | .uint4 => some (0, 15)
  | .i48 => some (-140737488355328, 140737488355327)
  | _ => none

/-- Whether a format holds integers. -/
def isInt (f : Fmt) : Bool := (intRange f).isSome
/-- Whether a format holds floating-point values. -/
def isFloat (f : Fmt) : Bool := (floatOf f).isSome
/-- Whether an integer format is unsigned. -/
def isUnsigned (f : Fmt) : Bool := f == .uint8 || f == .uint4

/-- The integer of a code in an integer format (R48). -/
def decodeInt (f : Fmt) (code : Nat) : Int :=
  if isUnsigned f then ((code % 2 ^ fmtWidth f : Nat) : Int) else signedN (fmtWidth f) code

/-- Twice the value of a PSD element of `p` planes from its digits, most significant first, reading the
first `k` planes (R49, R50). -/
def psdTwice (p k : Nat) (digits : List Nat) : Int :=
  match p, k, digits with
  | p + 1, k + 1, c :: rest => (2 * (c : Int) - 3) * (4 : Int) ^ p + psdTwice p k rest
  | _, _, _ => 0

/-- The digits of a PSD code `u` in offset form, most significant first. -/
def psdDigits (p : Nat) (u : Nat) : List Nat :=
  match p with
  | 0 => []
  | n + 1 => u / 4 ^ n % 4 :: psdDigits n u

/-- The value of an element code (R45-R50). A PSD code is its offset form u, read under the cut `cut`
(0 reads every plane). KP64 has no value. -/
def decodeElem (f : Fmt) (cut : Nat) (code : Nat) : Val :=
  match floatOf f with
  | some ff => decodeFloat ff code
  | none =>
    if isInt f then valOfInt (decodeInt f code)
    else if isPsd f then
      let p := fmtPlanes f
      let k := if cut == 0 then p else cut
      valOfDyadic (psdTwice p k (psdDigits p code)) (-1)
    else .nan

/-- floor of a finite value times two. -/
def floorTwice (neg : Bool) (m : Nat) (e : Int) : Int :=
  let s := e + 1
  let k : Int := if neg then -(m : Int) else (m : Int)
  if 0 ≤ s then k * (2 : Int) ^ s.toNat else k / (2 : Int) ^ (-s).toNat

/-- Whether twice a finite value is an integer. -/
def twiceIntegral (m : Nat) (e : Int) : Bool :=
  let s := e + 1
  0 ≤ s || m % 2 ^ (-s).toNat == 0

/-- Conversion of a finite value to a PSD member, as twice the member (R51); `h2` is 2H. -/
def psdRound (mode : Rnd) (h2 : Int) (neg : Bool) (m : Nat) (e : Int) : Int × Flags :=
  let fl := floorTwice neg m e
  let int := twiceIntegral m e
  let above := h2 < fl || (fl == h2 && !int)
  let below := fl < -h2
  if above then (h2, satFlag)
  else if below then (-h2, satFlag)
  else if int && fl % 2 == 1 then (fl, noFlags)
  else
    let lo := if fl % 2 == 1 then fl else fl - 1
    let hi := lo + 2
    let isZero := m == 0
    -- 2x against the midpoint lo + 1
    let side : Ordering := if int then compare fl (lo + 1) else if fl < lo + 1 then .lt else .gt
    let r := match mode with
      | .rdn => lo
      | .rup => hi
      | .rz => if lo == -1 then (if neg && !isZero then -1 else 1) else if 0 < lo then lo else hi
      | .rne => match side with
        | .lt => lo
        | .gt => hi
        | .eq => if isZero then 1 else if neg then lo else hi
    (r, noFlags)

/-- Conversion of a value to an element code of a format, rounded once (R53). With `satp`, a finite result
outside an integer format keeps its low bits (R211). -/
def convertTo (f : Fmt) (mode : Rnd) (satp : Bool) (v : Val) : Nat × Flags :=
  match floatOf f with
  | some ff => roundFloat ff mode v
  | none =>
    match intRange f with
    | some (lo, hi) =>
      match v with
      | .nan => (0, invFlag)
      | .inf neg => (wrapN (fmtWidth f) (if neg then lo else hi), satFlag)
      | .fin neg m e s =>
        let r := roundInt mode neg m e s
        if satp then (wrapN (fmtWidth f) r, noFlags)
        else (wrapN (fmtWidth f) (satI r lo hi), if r < lo ∨ hi < r then satFlag else noFlags)
    | none =>
      if isPsd f then
        let p := fmtPlanes f
        let h2 : Int := (4 : Int) ^ p - 1
        let (t, fl) : Int × Flags := match v with
          | .nan => (1, invFlag)
          | .inf neg => (if neg then -h2 else h2, satFlag)
          | .fin neg m e _ => psdRound mode h2 neg m e
        (((t + h2) / 2).toNat, fl)
      else (0, noFlags)

/-- The value of a scale in a scale format (R56): 0 BF16, 1 FP32, 2 SX16. -/
def decodeScale (sfmt : Nat) (code : Nat) : Val :=
  match sfmt with
  | 0 => decodeFloat bf16 code
  | 1 => decodeFloat Sys2Proof.fp32 code
  | _ =>
    let e := code / 256 % 256
    let f := code % 256
    if e == 0 then .fin false 0 0 false
    else if e == 255 then .nan
    else .fin false (256 + f) ((e : Int) - 127 - 8) false

/-- Bytes of a scale (R16). -/
def scaleBytes (sfmt : Nat) : Nat := if sfmt == 1 then 4 else 2

/-- The sum of two FP32 codes, rounded RNE, under the rules of R64: an exact zero sum is +0. -/
def sumF32 (a b : Nat) : Nat × Flags :=
  let (v, bad) := addV .rne (valF32 a) (valF32 b)
  let v := match v with
    | .fin _ 0 e s => .fin false 0 e s
    | v => v
  let (c, fl) := roundFp32 .rne v
  (c, if bad then orFlags fl invFlag else fl)

/-- The product of two FP32 codes, rounded RNE. -/
def mulF32 (a b : Nat) : Nat × Flags :=
  let (v, bad) := mulV (valF32 a) (valF32 b)
  let (c, fl) := roundFp32 .rne v
  (c, if bad then orFlags fl invFlag else fl)

/-- `v` clamped to I48, and whether the clamp changed it (R63, R71). -/
def satI48 (v : Int) : Int × Flags :=
  let c := satI v (-140737488355328) 140737488355327
  (c, if c == v then noFlags else { intSat := true })

end Sys2Proof
end

