-- ==== Sys2Proof/Machine/Tile.lean ====
section
/-! DEFINITION. Tile headers, their checks, the geometry of a tile, its forms in memory and on links, and
the value of an element with its scales (01 R13-R32, 02 R55-R57, R62). A tile image is held as one natural
number, little-endian, counted from its first byte. -/

namespace Sys2Proof

/-- The fields of a tile header (R13). -/
structure Hdr where
  magic : Nat := 0xA7
  hver : Nat := 1
  fmt : Nat := 1
  slay : Nat := 0
  sfmt : Nat := 0
  spar : Nat := 0
  order : Nat := 0
  planesM1 : Nat := 0
  cut : Nat := 0
  rowsM1 : Nat := 0
  colsM1 : Nat := 0
  rstride : Nat := 0
  soff : Nat := 0
  xoff : Nat := 0
  doff : Nat := 0
  tag : Nat := 0
  seq : Nat := 0
  ext : Nat := 0
  deriving DecidableEq, Repr

/-- A header field `[lo+len-1:lo]`. -/
def hf (h : Header) (lo len : Nat) : Nat := fieldN 256 h lo len

/-- The fields of a header. -/
def Hdr.ofBits (h : Header) : Hdr :=
  { magic := hf h 0 8, hver := hf h 8 4, fmt := hf h 12 6, slay := hf h 18 4, sfmt := hf h 22 2,
    spar := hf h 24 3, order := hf h 27 2, planesM1 := hf h 29 3, cut := hf h 32 3,
    rowsM1 := hf h 36 8, colsM1 := hf h 44 8, rstride := hf h 52 24, soff := hf h 76 24,
    xoff := hf h 100 24, doff := hf h 124 16, tag := hf h 140 16, seq := hf h 156 16,
    ext := hf h 192 32 }

/-- One step per bit of the reflected CRC-32C register (R20), bits of `data` from the lowest. -/
def crcBits (n : Nat) (data crc : Nat) : Nat :=
  match n with
  | 0 => crc
  | n + 1 => crcBits n (data / 2) (crc / 2 ^^^ (if (crc + data) % 2 == 1 then 0x82F63B78 else 0))

/-- CRC-32C of the low `n` bits of a value, lowest byte first (R20). -/
def crc32c (n : Nat) (data : Nat) : Nat := crcBits n data 0xFFFFFFFF ^^^ 0xFFFFFFFF

/-- The bits [223:0] of a header from its fields; reserved bits are zero. -/
def Hdr.low (x : Hdr) : Nat :=
  x.magic % 2 ^ 8 + (x.hver % 2 ^ 4) * 2 ^ 8 + (x.fmt % 2 ^ 6) * 2 ^ 12 + (x.slay % 2 ^ 4) * 2 ^ 18
  + (x.sfmt % 4) * 2 ^ 22 + (x.spar % 8) * 2 ^ 24 + (x.order % 4) * 2 ^ 27 + (x.planesM1 % 8) * 2 ^ 29
  + (x.cut % 8) * 2 ^ 32 + (x.rowsM1 % 256) * 2 ^ 36 + (x.colsM1 % 256) * 2 ^ 44
  + (x.rstride % 2 ^ 24) * 2 ^ 52 + (x.soff % 2 ^ 24) * 2 ^ 76 + (x.xoff % 2 ^ 24) * 2 ^ 100
  + (x.doff % 2 ^ 16) * 2 ^ 124 + (x.tag % 2 ^ 16) * 2 ^ 140 + (x.seq % 2 ^ 16) * 2 ^ 156
  + (x.ext % 2 ^ 32) * 2 ^ 192

/-- The header with the CRC of its bits [223:0] (R20, R22). -/
def withCrc (low : Nat) : Header :=
  let l := low % 2 ^ 224
  BitVec.ofNat 256 (l + crc32c 224 l * 2 ^ 224)

/-- A header from its fields, its CRC regenerated (R22). -/
def Hdr.toBits (x : Hdr) : Header := withCrc x.low

/-- The format of a header, ANY and reserved codes excluded (checks 4). -/
def Hdr.format (x : Hdr) : Option Fmt :=
  match fmtOf x.fmt with
  | some .any => none
  | f => f

/-- Checks 1-7 of R23, which every reader applies: the number of the first that fails, 0 if none. `scaled` says that
the reader's own rule takes an I48 tile with scales (10 R267, R274) or names its check (10 R279); check 7 then leaves
its SLAY to that rule (DEDUCED, log 114). -/
def checks1to7 (h : Header) (scaled : Bool := false) : Nat :=
  let x := Hdr.ofBits h
  if x.magic != 0xA7 then 1
  else if x.hver != 1 then 2
  else if hf h 224 32 != crc32c 224 (hf h 0 224) then 3
  else match x.format with
    | none => 4
    | some f =>
      if 7 ≤ x.slay || (x.sfmt == 3 && 2 ≤ x.slay) || 4 ≤ x.spar || x.order == 3 then 5
      else if (if isPsd f then x.order != 2 || x.planesM1 + 1 != fmtPlanes f
               else x.order == 2 || x.planesM1 != 0 || x.cut != 0) || x.planesM1 + 1 < x.cut then 6
      else if ((f == .kp64 || f == .i48) && ((x.slay != 0 && !(scaled && f == .i48)) || x.spar != 0))
              || (x.spar != 0 && x.order == 2) || (x.spar == 3 && x.order == 1) then 7
      else 0

/-- The derived geometry of a tile (R16). -/
structure Geom where
  fmt : Fmt
  rows : Nat
  cols : Nat
  planes : Nat
  /-- L, the line length. -/
  len : Nat
  /-- M, the line count. -/
  lines : Nat
  /-- S, stored elements per line. -/
  stored : Nat
  width : Nat
  lineBytes : Nat
  scaleCount : Nat
  scaleBytes : Nat
  indexBytes : Nat
  deriving DecidableEq, Repr

/-- The ceiling of `a / b`. -/
def ceilDiv (a b : Nat) : Nat := (a + b - 1) / b

/-- The first multiple of `b` at or after `a`. -/
def roundUp (a b : Nat) : Nat := ceilDiv a b * b

/-- Geometry from the template fields of a header (R16). -/
def Hdr.geom (x : Hdr) (f : Fmt) : Geom :=
  let rows := x.rowsM1 + 1
  let cols := x.colsM1 + 1
  let len := if x.order == 1 then rows else cols
  let lines := if x.order == 1 then cols else rows
  let stored := if x.spar == 1 then len / 2 else if x.spar == 2 then len / 4 else len
  let w := fmtWidth f
  let lb := if f == .k6 then ceilDiv stored 4 * 3 else ceilDiv (stored * w) 8
  let sc := match x.slay with
    | 2 => rows
    | 3 => cols
    | 4 => rows + cols
    | 5 => rows * ceilDiv cols 64
    | 6 => cols * ceilDiv rows 64
    | _ => 0
  let ib := if x.spar == 1 || x.spar == 2 then lines * ceilDiv len 8
    else if x.spar == 3 then 4 * rows else 0
  { fmt := f, rows := rows, cols := cols, planes := x.planesM1 + 1, len := len, lines := lines,
    stored := stored, width := w, lineBytes := lb, scaleCount := sc,
    scaleBytes := sc * Sys2Proof.scaleBytes x.sfmt, indexBytes := ib }

/-- Geometry on a link: a PSD tile with a cut k carries its planes 0 to k − 1 only (11 R307). -/
def Hdr.linkGeom (x : Hdr) (f : Fmt) : Geom :=
  let g := x.geom f
  if isPsd f && x.cut != 0 then { g with planes := min x.cut g.planes } else g

/-- Geometry in memory or on a link. -/
def Hdr.geomIn (x : Hdr) (f : Fmt) (mem : Bool) : Geom := if mem then x.geom f else x.linkGeom f

/-- Stored elements of a tile. -/
def Geom.elems (g : Geom) : Nat := g.lines * g.stored

/-- Data bytes for a line stride (R16). -/
def Geom.dataBytes (g : Geom) (rstride : Nat) : Nat := g.planes * g.lines * rstride

/-- Whether two byte regions (start, length) overlap. -/
def regionsOverlap (a b : Nat × Nat) : Bool :=
  a.2 != 0 && b.2 != 0 && a.1 < b.1 + b.2 && b.1 < a.1 + a.2

/-- The regions of a tile with its header: data, scales, indices (R16, R25, R28). -/
def Hdr.regions (x : Hdr) (g : Geom) : List (Nat × Nat) :=
  [(x.doff, g.dataBytes x.rstride), (x.soff, g.scaleBytes), (x.xoff, g.indexBytes)]

/-- The end of the last region. -/
def Hdr.endOf (x : Hdr) (g : Geom) : Nat :=
  max (x.doff + g.dataBytes x.rstride)
    (max (if g.scaleBytes == 0 then 0 else x.soff + g.scaleBytes)
      (if g.indexBytes == 0 then 0 else x.xoff + g.indexBytes))

/-- Check 8 of R23. -/
def check8 (x : Hdr) (g : Geom) : Bool :=
  (x.spar == 1 && g.len % 4 != 0) || (x.spar == 2 && g.len % 16 != 0)

/-- Check 10 of R23, in memory form (`mem`) or link form. -/
def check10 (x : Hdr) (mem : Bool) : Bool :=
  let al := if mem then 32 else 256
  x.doff % al != 0 || x.soff % al != 0 || x.xoff % al != 0
  || (if mem then x.doff < 32 else x.doff != 0)
  || (if x.slay < 2 then x.soff != 0 else x.soff == 0)
  || (if x.spar == 0 then x.xoff != 0 else x.xoff == 0)

/-- Check 11 of R23: overlapping regions, or an end beyond the extent. -/
def check11 (x : Hdr) (g : Geom) (mem : Bool) (extent : Option Nat) : Bool :=
  let rs := (if mem then [(0, 32)] else []) ++ x.regions g
  let rec anyOverlap : List (Nat × Nat) → Bool
    | [] => false
    | r :: rest => rest.any (regionsOverlap r) || anyOverlap rest
  anyOverlap rs || (match extent with
    | some e => decide (e < x.endOf g)
    | none => false)

/-- Checks 1-10 of R23: the first that fails, or 0. -/
def checks1to10 (h : Header) (mem : Bool) (scaled : Bool := false) : Nat :=
  let c := checks1to7 h scaled
  if c != 0 then c
  else
    let x := Hdr.ofBits h
    match x.format with
    | none => 4
    | some f =>
      let g := x.geom f
      if check8 x g then 8 else if x.rstride < g.lineBytes then 9 else if check10 x mem then 10 else 0

/-- Checks 1-11 of R23. -/
def checks1to11 (h : Header) (mem : Bool) (extent : Option Nat) (scaled : Bool := false) : Nat :=
  let c := checks1to10 h mem scaled
  if c != 0 then c
  else
    let x := Hdr.ofBits h
    match x.format with
    | none => 4
    | some f => if check11 x (x.geomIn f mem) mem extent then 11 else 0

/-- The fault classes of 14 R381, by their codes. -/
inductive FaultClass where
  | hdrCrc | hdrMismatch | combo | shape | xlate | perm | key | dataUe | deadlock | watchdog | ligUnbound
  | ligLimit | illegal | align | migSrc | peer | saveTimeout
  deriving DecidableEq, Repr

/-- The codes of 14 R381. -/
def FaultClass.code : FaultClass → Nat
  | .hdrCrc => 0x01
  | .hdrMismatch => 0x02
  | .combo => 0x03
  | .shape => 0x04
  | .xlate => 0x05
  | .perm => 0x06
  | .key => 0x07
  | .dataUe => 0x08
  | .deadlock => 0x09
  | .watchdog => 0x0A
  | .ligUnbound => 0x0B
  | .ligLimit => 0x0C
  | .illegal => 0x0D
  | .align => 0x0E
  | .migSrc => 0x0F
  | .peer => 0x10
  | .saveTimeout => 0x11

/-- The fault class of a check (R23, R59, 10 R276). -/
def checkClass (n : Nat) : FaultClass :=
  if n ≤ 3 then .hdrCrc
  else if n ≤ 7 then .combo
  else if n ≤ 12 then .shape
  else if n ≤ 14 then .hdrMismatch
  else if n == 15 || n == 18 then .combo
  else .shape

/-- The detail word of a header fault (R24). -/
def detailWord (check site : Nat) (h : Header) : W64 :=
  BitVec.ofNat 64 (check % 256 + (site % 16) * 2 ^ 8 + hf h 140 16 * 2 ^ 16 + hf h 156 16 * 2 ^ 32)

/-- The header in link form: DOFF 0, lines packed, regions at multiples of 256 (R28). -/
def Hdr.linkForm (x : Hdr) (g : Geom) : Hdr :=
  let d := g.dataBytes g.lineBytes
  let so := if g.scaleBytes == 0 then 0 else roundUp d 256
  let xo := if g.indexBytes == 0 then 0 else roundUp (if so == 0 then d else so + g.scaleBytes) 256
  { x with doff := 0, rstride := g.lineBytes, soff := so, xoff := xo }

/-- The header in canonical memory form (R25). -/
def Hdr.memForm (x : Hdr) (g : Geom) : Hdr :=
  let d := 32 + g.dataBytes g.lineBytes
  let so := if g.scaleBytes == 0 then 0 else roundUp d 32
  let xo := if g.indexBytes == 0 then 0 else roundUp (if so == 0 then d else so + g.scaleBytes) 32
  { x with doff := 32, rstride := g.lineBytes, soff := so, xoff := xo }

/-- The canonical size of a tile in memory (R25). -/
def Hdr.memSize (x : Hdr) (g : Geom) : Nat := roundUp ((x.memForm g).endOf g) 32

/-- The number n of DATA tokens of a tile from its header in link form (R28). -/
def Hdr.linkTokens (x : Hdr) (g : Geom) : Nat := ceilDiv (x.endOf g) 256

/-- The bits `[off, off+len)` of an image. -/
def imgBits (img off len : Nat) : Nat := (img >>> off) % 2 ^ len

/-- The bit offset of stored element `q` of line `m` in plane `j` (R17). -/
def Geom.bitOff (g : Geom) (doff rstride j m q : Nat) : Nat :=
  8 * (doff + (j * g.lines + m) * rstride) + q * g.width

/-- The code of stored element `q` of line `m`: for PSD the offset form of its planes, the digits of planes
that a cut tile does not carry at 0 (R17, R49, 11 R307). -/
def Geom.codeAt (g : Geom) (img doff rstride m q : Nat) : Nat :=
  if isPsd g.fmt then
    (List.range g.planes).foldl (fun u j => 4 * u + imgBits img (g.bitOff doff rstride j m q) 2) 0
      * 4 ^ (fmtPlanes g.fmt - g.planes)
  else imgBits img (g.bitOff doff rstride 0 m q) g.width

/-- The values of a list of fields of `w` bits, from bit 0 upward. -/
def packBits (w : Nat) (vs : List Nat) : Nat :=
  match vs with
  | [] => 0
  | v :: rest => v % 2 ^ w + 2 ^ w * packBits w rest

/-- The fields of `w` bits of an image, from bit 0 upward. -/
def unpackBits (w : Nat) (n : Nat) (img : Nat) : List Nat :=
  match n with
  | 0 => []
  | n + 1 => img % 2 ^ w :: unpackBits w n (img >>> w)

/-- The bytes of one line of codes in one plane (R17), as an image; plane 0 holds the most significant digit, also of
a tile that carries only its first planes (R49). -/
def Geom.lineImage (g : Geom) (plane : Nat) (codes : List Nat) : Nat :=
  if isPsd g.fmt then packBits 2 (codes.map fun u => u / 4 ^ (fmtPlanes g.fmt - 1 - plane) % 4)
  else packBits g.width codes

/-- The image of the data region with packed lines from the codes of its lines (R17). -/
def Geom.dataImage (g : Geom) (lines : List (List Nat)) : Nat :=
  packBits (8 * g.lineBytes)
    ((List.range g.planes).flatMap fun j => lines.map fun l => g.lineImage j l)

/-- The codes of a data image, line by line. -/
def Geom.codes (g : Geom) (img rstride : Nat) : List (List Nat) :=
  (List.range g.lines).map fun m =>
    (List.range g.stored).map fun q => g.codeAt img 0 rstride m q

/-- The scale codes of a scale region, in stored order (R18). -/
def scaleCodes (sfmt count img : Nat) : List Nat := unpackBits (8 * Sys2Proof.scaleBytes sfmt) count img

/-- The dense position of stored element `q` of a line from the line's index bits (R19, R57). -/
def densePos (spar lineIdx q : Nat) : Nat :=
  if spar == 1 then 4 * (q / 2) + imgBits lineIdx (2 * q) 2
  else if spar == 2 then 16 * (q / 4) + imgBits lineIdx (4 * q) 4
  else q

/-- The index bits of line `m` (R19). -/
def lineIndex (g : Geom) (idx m : Nat) : Nat :=
  imgBits idx (8 * (m * ceilDiv g.len 8)) (8 * ceilDiv g.len 8)

/-- Whether the indices of a line are strictly increasing within every group (R57, check 17). -/
def indicesIncrease (g : Geom) (spar lineIdx : Nat) : Bool :=
  let per := if spar == 1 then 2 else 4
  (List.range g.stored).all fun q =>
    q % per == 0 || densePos spar lineIdx (q - 1) < densePos spar lineIdx q

/-- The positions in the scale list of the scales that apply to element (i, j) (R18, R55). -/
def scalePositions (slay : Nat) (g : Geom) (i j : Nat) : List Nat :=
  match slay with
  | 2 => [i]
  | 3 => [j]
  | 4 => [i, g.rows + j]
  | 5 => [i * ceilDiv g.cols 64 + j / 64]
  | 6 => [j * ceilDiv g.rows 64 + i / 64]
  | _ => []

/-- The product of a value with the scales of R55, and whether it is invalid. -/
def scaledV (d : Val) (ss : List Val) : Val × Bool :=
  ss.foldl (fun (a : Val × Bool) s => let (v, b) := mulV a.1 s; (v, a.2 || b)) (d, false)

/-- The scales that apply to element (i, j), from the stored scale codes (R55). -/
def scalesAt (x : Hdr) (g : Geom) (codes : List Nat) (i j : Nat) : List Val :=
  if x.slay == 1 then [valF32 x.ext]
  else (scalePositions x.slay g i j).map fun k => decodeScale x.sfmt (codes.getD k 0)

/-- The row and column of stored element `q` of line `m` (R16, R55). -/
def rowCol (x : Hdr) (m pos : Nat) : Nat × Nat := if x.order == 1 then (pos, m) else (m, pos)

/-- A tile on a link, taken apart: header, geometry, codes per line, scale codes, index image. -/
structure Tile where
  hdr : Hdr
  geom : Geom
  /-- The cut that governs its reading (R14: a link's own cut before the header's). -/
  cut : Nat
  lines : List (List Nat)
  scales : List Nat
  index : Nat
  deriving DecidableEq, Repr

/-- The tile of a link-form image, with the cut of the link it came over. Where both that cut and the header's are set,
the smaller holds: the tile carries only the planes of its header's cut (DESIGN CHOICE, log 115: R14 says that the
link's governs and not what planes beyond the header's are; R50). -/
def tileOf (x : Hdr) (f : Fmt) (cut : Nat) (img : Nat) : Tile :=
  let g := x.linkGeom f
  { hdr := x, geom := g, cut := if cut == 0 then x.cut else if x.cut == 0 then cut else min cut x.cut,
    lines := g.codes img x.rstride,
    scales := scaleCodes x.sfmt g.scaleCount (img >>> (8 * x.soff)),
    index := if g.indexBytes == 0 then 0 else imgBits img (8 * x.xoff) (8 * g.indexBytes) }

/-- The link-form header and image of a tile (R28). -/
def Tile.image (t : Tile) : Hdr × Nat :=
  let x := t.hdr.linkForm t.geom
  let d := t.geom.dataImage t.lines
  let s := packBits (8 * Sys2Proof.scaleBytes x.sfmt) (t.scales.take t.geom.scaleCount)
  (x, d + s * 2 ^ (8 * x.soff) * (if t.geom.scaleBytes == 0 then 0 else 1)
      + t.index * 2 ^ (8 * x.xoff) * (if t.geom.indexBytes == 0 then 0 else 1))

/-- The dense position of stored element `q` of line `m` of a tile. -/
def Tile.pos (t : Tile) (m q : Nat) : Nat :=
  if t.hdr.spar == 1 || t.hdr.spar == 2 then densePos t.hdr.spar (lineIndex t.geom t.index m) q else q

/-- The exact value of stored element `q` of line `m` with its scales (R50, R55). -/
def Tile.valAt (t : Tile) (m q code : Nat) : Val × Bool :=
  let (i, j) := rowCol t.hdr m (t.pos m q)
  scaledV (decodeElem t.geom.fmt t.cut code) (scalesAt t.hdr t.geom t.scales i j)

/-- The stored element of a tile at row i and column j: line and index in the line; none if the position is
not stored. -/
def Tile.find (t : Tile) (i j : Nat) : Option (Nat × Nat) :=
  let m := if t.hdr.order == 1 then j else i
  let p := if t.hdr.order == 1 then i else j
  ((List.range t.geom.stored).find? fun q => t.pos m q == p).map fun q => (m, q)

/-- Whether the sparsity indices of a tile increase (check 17). -/
def Tile.indicesOk (t : Tile) : Bool :=
  !(t.hdr.spar == 1 || t.hdr.spar == 2)
  || (List.range t.geom.lines).all fun m => indicesIncrease t.geom t.hdr.spar (lineIndex t.geom t.index m)

/-- A template: header bits [51:12] with their FMT, or ANY (R35). -/
def templateAny (tmpl : Nat) : Bool := tmpl % 64 == 0x3F

/-- The header that a concrete template describes, for its geometry and canonical size (R36). -/
def templateHdr (tmpl : Nat) : Hdr :=
  Hdr.ofBits (BitVec.ofNat 256 (0xA7 + 2 ^ 8 + (tmpl % 2 ^ 40) * 2 ^ 12))

/-- Checks 4-8 on a concrete template (R36 cause 5). -/
def templateBad (tmpl : Nat) : Bool :=
  let h := withCrc (0xA7 + 2 ^ 8 + (tmpl % 2 ^ 40) * 2 ^ 12)
  let x := Hdr.ofBits h
  checks1to7 h != 0 || (match x.format with
    | none => true
    | some f => check8 x (x.geom f))

end Sys2Proof
end

