-- ==== Sys2Proof/Machine/FabricTypes.lean ====
section
/-! DEFINITION. The data types of the fabric: tokens, links, elements, routers, ports, launches (05, 08-11,
14). Everything here is plain data; the tables that hold it are in `State`. -/

namespace Sys2Proof.Machine

/-! ### Tokens and links (01 R28, R32, 08 R216-R218) -/

/-- The tags of R218 other than HDR, and DATA on the data plane. -/
inductive Tag where
  /-- DATA on the control plane: a 64-bit value. -/
  | data
  | eot | eos | eor | mark | err | fsw | fence | seg | late
  deriving DecidableEq, Repr

/-- The code of a tag (R218). -/
def Tag.code : Tag → Nat
  | .data => 0
  | .eot => 2
  | .eos => 3
  | .eor => 4
  | .mark => 5
  | .err => 6
  | .fsw => 7
  | .fence => 8
  | .seg => 9
  | .late => 10

/-- A token. -/
inductive Tok where
  /-- A data-plane DATA token. -/
  | data (d : BitVec 2048)
  /-- An HDR token: a header in link form. -/
  | hdr (h : Header)
  /-- A 64-bit control token. -/
  | ctl (t : Tag) (p : W64)
  deriving DecidableEq, Repr

/-- A token on a link, with the first fc in which it can be consumed (R220). -/
structure LTok where
  tok : Tok
  at' : Nat
  deriving DecidableEq, Repr

/-- An open tile at a reader: its header, the data bytes received (first byte lowest), the DATA tokens
received, and the reset masks bound to its groups (10 R279). -/
structure TileIn where
  hdr : Header
  img : Nat := 0
  got : Nat := 0
  masks : List (Nat × Nat) := []
  deriving DecidableEq, Repr

/-- A tile being written: its header in link form, the image and the count of its elements so far in stored
order, the DATA tokens emitted, and the masks of its groups. -/
structure TileOut where
  hdr : Header
  img : Nat := 0
  cnt : Nat := 0
  sent : Nat := 0
  masks : List (Nat × Nat) := []
  deriving DecidableEq, Repr

/-- The conversion stage of a typed link (R32). -/
structure Stage where
  tin : Option TileIn := none
  /-- Elements of the open tile converted so far. -/
  pos : Nat := 0
  /-- The tile passes unchanged. -/
  pass : Bool := false
  /-- The stage holds the tile whole. -/
  hold : Bool := false
  tout : Option TileOut := none
  /-- Masks that wait for the next converted DATA token. -/
  segs : List Tok := []
  /-- Masks of a tile held whole, each with the number of its source DATA token. -/
  marks : List (Nat × Tok) := []
  /-- Converted tokens that wait for the destination latch. -/
  out : List Tok := []
  deriving DecidableEq, Repr

/-- A stream command as issued, with the records it captured (11 R299, 01 R37, R40). -/
structure Cmd where
  ticket : Nat
  bits : BitVec 128
  /-- The issuing thread, by its number, its index in the job and the launch slot named. -/
  thread : Nat := 0
  n : Nat := 0
  ls : Nat := 0
  asid : Nat := 0
  /-- The layout record LH captured: its bits and its key handle (01 R37, R40). -/
  lh : Option (BitVec 512 × Nat) := none
  /-- The layout record DLH of a copy. -/
  dlh : Option (BitVec 512 × Nat) := none
  /-- The handles captured, which LRFREE leaves in use (R37). -/
  uses : List Nat := []
  deriving DecidableEq, Repr

/-- An overflow queue bound to a link (11 R324). -/
structure Overflow where
  cmd : Cmd
  /-- The extent: base (a multiple of 4 KiB) and size. -/
  base : Nat
  size : Nat
  /-- Places in ring SRAM: 64, or 0 when the launch pool could not supply them. -/
  places : Nat
  /-- The oldest tokens, in ring SRAM. -/
  q : List Tok := []
  /-- The tokens behind them, in memory: what the hardware keeps of them beside the bytes of the extent. -/
  far : List Tok := []
  /-- The tokens behind those, which wait for their write to memory. -/
  ins : List Tok := []
  /-- A fault on a queue page stops the queue accepting until the service has answered; its address. -/
  frozen : Bool := false
  faultVa : Nat := 0
  /-- Tokens that have left the part in memory, and tokens that have entered it. -/
  head : Nat := 0
  tail : Nat := 0
  deriving DecidableEq, Repr

/-- A link: its tokens, the destination latch of a typed link, its conversion stage, its overflow queue. -/
structure LinkSt where
  q : List LTok := []
  latch : List Tok := []
  stage : Stage := {}
  ovf : Option Overflow := none
  /-- The stamps of the units on a circuit, oldest first, and the highest stamp reported (R227). -/
  stamps : List Nat := []
  idle : Nat := 0
  /-- The last token to enter a circuit was a LATE whose tile follows: that tile is of the same unit (R222, R227). -/
  late : Bool := false
  deriving DecidableEq, Repr

/-! ### Elements and routers (08 R219-R227, 09 R262, 10 R277) -/

/-- The registers of an element: the operation's progress in a tile and the state it carries. -/
structure OpSt where
  /-- The open tiles of inputs A, B, C. -/
  ina : Option TileIn := none
  inb : Option TileIn := none
  inc : Option TileIn := none
  /-- Units of the open tile worked through. -/
  pos : Nat := 0
  /-- The operation holds the open tile whole (09 R236). -/
  hold : Bool := false
  /-- The tiles being written on o0 and o1. -/
  outa : Option TileOut := none
  outb : Option TileOut := none
  /-- Counters: sequence numbers, tiles taken or emitted, pairs consumed. -/
  cnt : Nat := 0
  cnt1 : Nat := 0
  cnt2 : Nat := 0
  cnt3 : Nat := 0
  /-- Carried values, by lane or by position: state formats in their codes. -/
  lanes : List Nat := []
  lanes1 : List Nat := []
  /-- A kept tile: the stored tile, the latched tile, the header of an open group (header and image). -/
  kept : Option (Header × Nat) := none
  kept1 : Option (Header × Nat) := none
  kept2 : Option (Header × Nat) := none
  /-- SEG masks to bind to the next DATA token emitted on o0, and on o1 (R219). -/
  seg : Option W64 := none
  segb : Option W64 := none
  deriving DecidableEq, Repr

/-- The state of an element on a stripe (08 R219, R220; 05 R133, R137). -/
structure ElemSt where
  /-- The virtual forme whose configuration the element holds. -/
  v : Nat := 0
  /-- The element has consumed FSW and waits for its shadow (R134). -/
  await : Bool := false
  /-- A state record is to be restored before the first firing (R137). -/
  restore : Bool := false
  st : OpSt := {}
  owea : List Tok := []
  oweb : List Tok := []
  flags : Flags := {}
  fired : Nat := 0
  /-- fc of the last firing: an element fires at most once in an fc. -/
  lastFc : Option Nat := none
  /-- Inputs that have consumed an EOS (bit by input); a source that has emitted one (bit 3). -/
  eos : Nat := 0
  /-- The number of the last marker passed (R385). -/
  mark : Nat := 0
  deriving DecidableEq, Repr

/-- The state of a router (R222-R227). -/
structure RtSt where
  /-- CARRY's count. -/
  occ : Nat := 0
  /-- Input or output used last: MERGE and FORK alternate. -/
  last : Bool := true
  /-- The input (bit 0) or output (bit 1) that the open unit uses. -/
  open' : Option Bool := none
  /-- JOIN: i1's unit has arrived whole. -/
  ready : Bool := false
  lastFc : Option Nat := none
  /-- FSW tokens passed: the sweep for which the router's forme is imposed (05 R133). -/
  sweep : Nat := 0
  deriving DecidableEq, Repr

/-! ### Ports and commands (11) -/

/-- Why a port is stopped at a stream element. -/
inductive Freeze where
  /-- An access waits on the translation-fault service (R328). -/
  | xlate (va : W64)
  /-- An unrecoverable fault of a class, at an address (R326). -/
  | fault (cls : FaultClass) (va : W64)
  deriving DecidableEq, Repr

/-- The command at work on a port (R302, R305, R328). -/
structure Cur where
  cmd : Cmd
  /-- Elements whose accesses have been issued. -/
  elem : Nat := 0
  /-- EOR tokens emitted. -/
  eors : Nat := 0
  /-- The index and EOS of a gather or scatter: EOS has arrived. -/
  ended : Bool := false
  /-- Positions a late-accepting store has skipped, and its position count p (R308). -/
  holes : List Nat := []
  posn : Nat := 0
  freeze : Option Freeze := none
  deriving DecidableEq, Repr

/-- A scratchpad binding (R323). -/
structure SpBind where
  cmd : Cmd
  spoff : Nat
  splen : Nat
  tsize : Nat
  /-- FIFO: the tokens held and the granule behind them; WRITE: the next slot. -/
  q : List Tok := []
  next : Nat := 0
  /-- The fault that has stopped the port (R328). -/
  freeze : Option Freeze := none
  deriving DecidableEq, Repr

/-- A peer channel bound to a ring port (12 R358-R360). -/
structure PeerBind where
  cmd : Cmd
  link : Nat
  grant : Nat
  dir : Bool
  chan : Nat
  /-- A tile has begun to arrive and its EOT has not. -/
  mid : Bool := false
  /-- The link has been lost while the job was saved: the number may be another channel's (17 R418). -/
  lost : Bool := false
  deriving DecidableEq, Repr

/-- A port of a launch slot. -/
structure PortSt where
  /-- Commands in issue order that have not started (R303). -/
  q : List Cmd := []
  cur : Option Cur := none
  spad : Option SpBind := none
  peer : Option PeerBind := none
  /-- Commands that have issued every access and are not complete (R303, R305). -/
  trail : List Cur := []
  /-- Tokens read and not yet emitted, with the ticket of their command: the reply stream (R318). -/
  reply : List (Nat × Tok) := []
  /-- The tile arriving at a store port. -/
  tile : Option TileIn := none
  /-- A whole tile that waits to be written, with its stream position. -/
  full : Option (Header × Nat × Nat) := none
  /-- The index token or late index that goes with the tile. -/
  index : Option Nat := none
  late : Option Nat := none
  /-- Diverted elements: index, flat index of a gather, and the address whose fault it waits on; none when that
  is resolved (R327). -/
  div : List (Nat × Nat × Option Nat) := []
  /-- Data-width tokens of the current sweep block, and FSW tokens emitted (05 R132). -/
  block : Nat := 0
  sweep : Nat := 0
  /-- Data-width tokens since launch, counted for scheduled markers (14 R384). -/
  toks : Nat := 0
  /-- The number of the last marker emitted. -/
  mark : Nat := 0
  /-- EOS has been emitted. -/
  eos : Bool := false
  /-- The port stops at its next tile boundary: GSTOP, or the save sequencer (R394). -/
  stopping : Bool := false
  /-- Rate window (04 R117): the window's number and the tokens admitted in it. -/
  win : Nat := 0
  admitted : Nat := 0
  /-- A tile is being emitted. -/
  mid : Bool := false
  /-- Containment or loss has sealed the port (14 R391). -/
  sealed : Bool := false
  deriving DecidableEq, Repr

/-! ### Launches (05, 08) -/

/-- A pipeline as imposed: its first galley forme, its formes, its first window stripe, its stripes, and the
tree node it comes from (05 R129, R131). -/
structure Pipe where
  forme : Nat
  n : Nat
  stripe : Nat
  p : Nat
  node : Nat
  /-- The last marker requested when the pipeline was imposed. -/
  mark0 : Nat := 0
  /-- Sweeps that forme 0 had begun when the pipeline last began again at sweep 0 (07 R196). -/
  swept : Nat := 0
  deriving DecidableEq, Repr

/-- A write held until its interval commits (14 R387): the ring of the port, the address, the bytes, the last
marker that the port had passed, and the command; with the page whose translation it used, and TIME (fs) of the
write. -/
structure Held where
  ring : Nat
  pa : Nat
  asid : Nat := 0
  va : Nat := 0
  size : Nat := 16
  fs : Nat := 0
  bytes : List Byte
  iv : Nat
  thread : Nat
  ticket : Nat
  deriving DecidableEq, Repr

/-- A scratchpad byte before its first write in an interval (R387). -/
structure Undo where
  key : Nat
  old : Option Byte
  iv : Nat
  deriving DecidableEq, Repr

/-- The snapshots of a marker cut (R385): the children and pipelines imposed, elements, state records, ports and
routers (R390), by their keys. -/
structure Snap where
  k : Nat
  seq : Tab Nat := []
  pipes : List Pipe := []
  elems : List (Nat × ElemSt) := []
  recs : List (Nat × (OpSt × Flags)) := []
  ports : List (Nat × PortSt) := []
  routers : List (Nat × RtSt) := []
  complete : Bool := false
  deriving DecidableEq, Repr

/-- A launch in its slot. -/
structure Launch where
  job : JobId
  /-- The virtual address of the galley image, and what its head says. -/
  galley : Nat
  gid : Nat
  nformes : Nat
  b : Nat
  markint : Nat
  /-- The tree nodes, in preorder. -/
  nodes : List (BitVec 128)
  chain : Bool
  off : Nat
  p : Nat
  /-- The window: ring and logical stripe of each window stripe. -/
  win : List (Nat × Nat)
  /-- The segment of each window stripe. -/
  segOf : List Nat
  pipes : List Pipe
  /-- The child imposed of each SEQ node (R129). -/
  seq : Tab Nat := []
  /-- The forme cache of the launch: images fetched (R134). -/
  formes : Tab (Option Nat) := []
  /-- Layout handles captured (03 R80). -/
  layouts : List Nat := []
  /-- Link keys carried as deferred links (R121, R135). -/
  deferred : List Nat := []
  /-- Pass slots held, by 2 · (24 · ring + boundary) + plane (R121). -/
  pass : Tab Nat := []
  /-- Bytes reserved: launch pool and state store, by ring (R139, R429). -/
  sram : Tab Nat := []
  store : Tab Nat := []
  rate : W64 := 0
  startFc : Nat := 0
  /-- The launch's own status (09 R261). -/
  flags : Flags := {}
  ended : Bool := false
  stopped : Bool := false
  /-- Sweeps begun by forme 0 (07 R196). -/
  sweeps : Nat := 0
  /-- Snapshots enabled (14 R384); the number of the last marker requested; the last complete cut. -/
  snapOn : Bool := false
  mark : Nat := 0
  cut : Nat := 0
  finalReq : Bool := false
  snaps : List Snap := []
  held : List Held := []
  undo : List Undo := []
  /-- Entries sent to queues 4-7 and taken from 0-3 in intervals that have not committed (R387): queue, entry,
  the last marker passed. -/
  xqSent : List (Nat × W64 × Nat) := []
  xqTaken : List (Nat × W64 × Nat) := []
  /-- The interval is unprotected (R389); rollbacks to the last cut. -/
  unprot : Bool := false
  /-- Scheduled markers requested. -/
  scheds : Nat := 0
  /-- An SC.PEER channel has been bound since the last complete cut (R389). -/
  peered : Bool := false
  rollbacks : Nat := 0
  /-- A tier-2 error has struck the launch, which is to roll back (R382, R390). -/
  struck : Bool := false
  /-- Commands since the last complete cut, with their port and the last marker it had passed (R390). -/
  hist : List (Nat × Nat × Cmd) := []
  /-- Stamps issued by the gateway of each segment (R227). -/
  stamps : Tab Nat := []
  deriving DecidableEq, Repr

/-- A PIPE buffer between two children (05 R130): the items in its halves, oldest first. -/
structure PipeBuf where
  /-- Items written whole, with their EOR. -/
  items : List (List Tok) := []
  /-- The item being written. -/
  cur : List Tok := []
  deriving DecidableEq, Repr

/-- The fabric: the launches and everything that belongs to them. Keys are built by the functions of
`Machine/Keys.lean`. -/
structure Fabric where
  launches : Tab (Option Launch) := []
  elems : Tab (Option ElemSt) := []
  /-- The virtual forme staged in the shadow of each stripe, + 1 (05 R134). -/
  shadows : Tab Nat := []
  links : Tab LinkSt := []
  routers : Tab RtSt := []
  /-- State records of stateful elements, by launch, forme and column (05 R137). -/
  recs : Tab (Option (OpSt × Flags)) := []
  /-- Counts of VCONST sources, kept across switches (09 R262). -/
  consts : Tab Nat := []
  ports : Tab PortSt := []
  fifos : Tab (List Tok) := []
  bufs : Tab PipeBuf := []
  /-- Outstanding commands of each thread, by ticket (07 R191). -/
  outstanding : Tab (List Nat) := []
  /-- The SC node that holds the sequencing token of each domain, as node key + 1: ring domains 0-15, the
  package domain at 16 (13 R377). -/
  seqTok : Tab Nat := []
  /-- Commands held for a launch slot with no launch, in issue order (07 R192). -/
  pending : List Cmd := []
  /-- Formes of launches that have left the forme caches for want of room, by launch and forme (03 R87). -/
  evicted : List (Nat × Nat) := []
  deriving DecidableEq, Repr

end Sys2Proof.Machine
end

