-- ==== Sys2Proof/Machine/State.lean ====
section
/-! DEFINITION. The state of the T840: what the specification gives each agent, as plain data, and the
state after reset. Tables are in the canonical form of `Tab`; each table's default is the reset value of
its entries. -/

namespace Sys2Proof.Machine

/-! ### Time (06 R148, 07 R197, 17 R423-R425) -/

/-- The clock: fc since cold reset, wall-clock time in femtoseconds with the part of a femtosecond beyond it in units
of 1/mhz, and the fabric clock. -/
structure Clock where
  fc : Nat := 0
  fs : Nat := 0
  part : Nat := 0
  mhz : Nat := 1750
  deriving DecidableEq, Repr

/-! ### Control-core threads (06 R144, 07 R183-R205) -/

/-- What a thread is doing. -/
inductive Run where
  /-- No job holds the slot. -/
  | idle
  /-- Executing instructions; a waiting instruction is one that executes without effect (07 R176). -/
  | running
  /-- HALT has been executed (07 R203). -/
  | halted
  /-- Stopped between instructions by containment or by the save sequencer (14 R391, R394). -/
  | stopped
  /-- Stopped at BRK for a debug agent (07 R203). -/
  | agent
  deriving DecidableEq, Repr

/-- The posted translation fault that a thread waits on (07 R207, 12 R342): die, FID, faulting address. -/
structure PostWait where
  die : Nat
  fid : Nat
  va : W64
  deriving DecidableEq, Repr

/-- The registers and the run state of a hardware thread. -/
structure Thread where
  x : Vector W64 32 := Vector.replicate 32 0
  h : Vector Header 8 := Vector.replicate 8 0
  pc : BitVec 56 := 0
  inTrap : Bool := false
  trapPc : W64 := 0
  trapCause : W64 := 0
  trapInfo : W64 := 0
  trapBase : W64 := 0
  ltbase : W64 := 0
  safept : W64 := 0
  cdepth : BitVec 16 := 0
  grant : W64 := 0
  /-- FSTAT[3:0]: INV, DZ, FLT_OVF, SAT (06 R147). -/
  fstat : BitVec 4 := 0
  /-- PROFILE (07 R200): EN and PERIOD in their places. -/
  profile : W64 := 0x10000
  note : BitVec 16 := 0
  /-- The armed thresholds of QNOTE, queue by queue; 0 is disarmed (07 R185). -/
  qarm : Vector Nat 8 := Vector.replicate 8 0
  tickets : BitVec 48 := 0
  run : Run := .idle
  wait : Option PostWait := none
  job : Option JobId := none
  /-- The thread's index in its job (04 R107). -/
  n : Nat := 0
  /-- The barriers that the thread has arrived at and waits for, id and generation, the last first (07 R183). -/
  arrived : List (Nat × Nat) := []
  /-- fc of the last profiling sample (07 R200). -/
  sampleFc : Nat := 0
  deriving DecidableEq, Repr

/-! ### Memory, translation and the Traverse engines (12) -/

/-- Where a translation is cached (12 R338). -/
inductive TlbPlace where
  /-- The first-level TLB of a ring's control core. -/
  | core (ring : Nat)
  /-- The micro-TLB of a port, by its key and 2^40 · its ring. -/
  | port (key : Nat)
  /-- Slice `s` of die `d`. -/
  | slice (d s : Nat)
  deriving DecidableEq, Repr

/-- A cached translation: the page, its leaf as walked, and the access counter of a slice entry (R355). -/
structure TlbEntry where
  place : TlbPlace
  asid : Nat
  /-- log2 of the page size: 16, 21 or 28. -/
  size : Nat
  /-- The virtual page number: VA shifted by the size. -/
  page : Nat
  leaf : W64
  cnt : Nat := 0
  deriving DecidableEq, Repr

/-- Why a walk faults XLATE (12 R336, R343). -/
inductive XReason where
  | notValid | badEntry | badFrame
  deriving DecidableEq, Repr

/-- An access that waits on an open translation fault (12 R342). -/
inductive Waiter where
  /-- A thread, by its number. -/
  | thread (k : Nat)
  /-- A port, by its key. -/
  | port (k : Nat)
  /-- A peer far end, by its channel key. -/
  | peer (k : Nat)
  /-- An overflow queue, by its link key. -/
  | overflow (k : Nat)
  deriving DecidableEq, Repr

/-- An open translation-fault entry (12 R342, R343). -/
structure OpenFault where
  fid : Nat
  asid : Nat
  /-- VA[55:16]. -/
  granule : Nat
  reason : XReason
  va : W64
  /-- AGENT of R343. -/
  agentCode : Nat
  ring : Nat
  slot : Nat
  col : Nat
  forme : Nat
  link : Nat
  /-- The kinds of the waiting accesses. -/
  kinds : List AccessKind
  waiters : List Waiter
  /-- The entry has been written to the XFQ. -/
  posted : Bool := false
  deriving DecidableEq, Repr

/-- The three registers of a management ring (12 R341). -/
structure MRing where
  base : W64 := 0
  head : W64 := 0
  tail : W64 := 0
  deriving DecidableEq, Repr

/-- Who asked for a move (12 R353). -/
inductive Origin where
  | staging | stage | policy | trvreq
  deriving DecidableEq, Repr

/-- A move that an engine has been asked for (12 R347). `tag` names the command or job that asked. -/
structure MoveReq where
  asid : Nat
  va : Nat
  dtier : Nat
  origin : Origin
  tag : Nat := 0
  /-- The budget class that its copies are charged to (R347). -/
  cls : Nat := 31
  deriving DecidableEq, Repr

/-- The states of a move (12 R351); while `starting` it holds its frame and the leaf as walked, and the swap of the
leaf into saddle state is yet to come (R348). -/
inductive MovePhase where
  | starting | opening | copying | committing | releasing
  /-- ABORTING before the leaf has been swapped back, and after, while the invalidations are acknowledged. -/
  | aborting | undone
  deriving DecidableEq, Repr

/-- The saddle record of a page being moved, with the state of its move (12 R349, R351). -/
structure Move where
  asid : Nat
  /-- The page's base address. -/
  va : Nat
  /-- log2 of the page size: 16 or 21. -/
  size : Nat
  src : Nat
  dst : Nat
  dtier : Nat
  frontier : Nat := 0
  /-- SHARERS: bits 0-15 rings, 16-19 dies. -/
  sharers : BitVec 20 := 0
  /-- P0, the leaf after the swap; before it, the leaf as walked. -/
  p0 : W64
  /-- The physical address of the leaf entry. -/
  leafPa : Nat
  phase : MovePhase := .starting
  origin : Origin
  tag : Nat := 0
  /-- The budget class that its copies are charged to (R347). -/
  cls : Nat := 31
  /-- TIME (fs) when the move started and when F last advanced. -/
  startFs : Nat
  advFs : Nat
  cause : Nat := 0
  deriving DecidableEq, Repr

/-- The per-die registers and queues of translation and migration (12). -/
structure Die where
  lost : Bool := false
  opens : List OpenFault := []
  nextFid : Nat := 0
  xfq : MRing := {}
  trvev : MRing := {}
  rel : MRing := {}
  /-- POOL(t, z) at index 2(t − 1) + z, with z 0 for 64 KiB and 1 for 2 MiB. -/
  pools : List MRing := List.replicate 6 {}
  trvlim : W64 := 10000 + 500 * 65536
  reqs : List MoveReq := []
  /-- Records that wait for room in TRVEV and frames that wait for room in REL (R341). -/
  evPend : List (BitVec 256) := []
  relPend : List Nat := []
  /-- Aging periods that have ended and been worked on (R355). -/
  aged : Nat := 0
  deriving DecidableEq, Repr

/-- The MSI-X messages the module sends (04 R97, 12 R341, 17 R415). -/
inductive Msix where
  /-- A queue's: the function that owns it, and the vector in that function's table (17 R413). -/
  | queue (q func vec : Nat)
  | xfq (die : Nat)
  | trvev (die : Nat)
  | rel (die : Nat)
  | wlog
  /-- A checkpoint has ended: function 0, vector 0 (17 R420). -/
  | ckpt
  deriving DecidableEq, Repr

/-- The image that a running checkpoint writes (17 R419-R421): the bytes of tiers H and L copied so far, the ports
of the safe tier, where it starts behind each, and where the image area lies in it. -/
structure Mirror where
  frontier : Nat := 0
  ports : List Nat
  offset : Nat
  base : Nat
  /-- A write of the image has met an error: the checkpoint is to abort (R420). -/
  failed : Bool := false
  deriving DecidableEq, Repr

/-- Memory and everything that translates accesses to it. -/
structure MemSys where
  /-- Bytes of physical memory by address; an unlisted byte reads as 0 (log 1). -/
  mem : Tab Byte := []
  /-- 64-byte lines that hold an uncorrectable error (07 R178, 14 R383). -/
  ue : Tab Bool := []
  /-- CXL ports whose Type 3 memory has been removed (17 R411). -/
  removed : Tab Bool := []
  /-- Bytes of tier X behind ports 1-7 (12 R331, 17 R423). -/
  tierX : Tab Nat := []
  /-- Only 48 GiB of tier H are populated: until full service (17 R424). -/
  reduced : Bool := true
  /-- ROOT(asid) as written, and as walks use it (12 R333). -/
  roots : Tab W64 := []
  rootNow : Tab W64 := []
  tlb : List TlbEntry := []
  dies : Tab Die := []
  moves : List Move := []
  wlog : MRing := {}
  wlogPend : List (BitVec 256) := []
  tpol : W64 := 0x010AB7E85A024000
  msix : List Msix := []
  mirror : Option Mirror := none
  deriving DecidableEq, Repr

/-! ### Contexts (01 R36-R43, 03 R84, 07 R198, R203, 10 R286) -/

/-- A registered layout record (01 R36-R40). -/
structure Layout where
  rcd : BitVec 512
  /-- The key handle, which LRKEY changes (R40). -/
  key : Nat
  /-- LRFREE has ended the handle; the number waits for the commands that captured it (R37). -/
  freed : Bool := false
  /-- The addresses of the leaf entries whose PIN the record set (R38). -/
  pins : List Nat := []
  deriving DecidableEq, Repr

/-- A user ligature bound in a context's set (10 R286, R291): the image and its digest. -/
structure LigEntry where
  image : List Byte
  digest : List Nat
  deriving DecidableEq, Repr

/-- A kernel object published in a context (03 R84, 04 R105): where its file lay, its FCRC, its link table. -/
structure Published where
  file : Nat
  fcrc : Nat
  table : Nat
  deriving DecidableEq, Repr

/-- The state of an ASID. -/
structure Ctx where
  priv : Bool := false
  cxdesc : W64 := 0
  /-- The layout table, by handle (1-4,095). -/
  layouts : Tab (Option Layout) := []
  /-- Key handles bound to slots: slot + 1, 0 unbound (01 R40). -/
  keys : Tab Nat := []
  ligs : Tab (Option LigEntry) := []
  published : List Published := []
  /-- GLOBAL symbols: name, address, and the section type with 16 for OWNLT (03 R75, R79). -/
  symbols : List (List Byte × Nat × Nat) := []
  /-- GIDs in use (03 R84). -/
  gids : List Nat := []
  /-- A debug agent has claimed the context (07 R203). -/
  claimed : Bool := false
  /-- The result code of the last binding through the management path (03 R84). -/
  ligResult : Option Nat := none
  /-- The next free address of the loader's image space (03 R86). -/
  imageNext : Nat := 0
  deriving DecidableEq, Repr

/-! ### Queues and jobs (04, 14) -/

/-- The four rejection counters of QREJ (04 R98). -/
structure QRej where
  full : Nat := 0
  seq : Nat := 0
  form : Nat := 0
  off : Nat := 0
  deriving DecidableEq, Repr

/-- A fault recorded for a job (14 R391, R400). -/
structure FaultRec where
  cls : FaultClass
  site : Nat
  ring : Nat := 0
  slot : Nat := 0
  col : Nat := 0
  forme : Nat := 0
  detail : W64 := 0
  addr : W64 := 0
  /-- TIME at the fault, ns. -/
  time : Nat := 0
  /-- The fc of the fault: faults of one fc are taken in increasing class code (14 R391). -/
  fc : Nat := 0
  deriving DecidableEq, Repr

/-- The segment of a ring that a job holds (05 R122). -/
structure Seg where
  ring : Nat
  slot : Nat
  base : Nat
  width : Nat
  deriving DecidableEq, Repr

/-- How a job ended or will end (14 R398). -/
inductive Status where
  | ok | error | cancelled | refused | timeout | deadlock | dieLost
  deriving DecidableEq, Repr

/-- Where a job stands between acceptance and retirement (04 R103, 14 R394-R396). -/
inductive JobPhase where
  /-- Accepted, not started. -/
  | queued
  /-- Started and running. -/
  | started
  /-- The save sequencer runs (14 R394). -/
  | saving
  /-- Saved; it becomes ready again under 04 R109. -/
  | saved
  /-- Contained: draining (14 R391). -/
  | containing
  /-- Completed; it retires in its turn. -/
  | completed
  deriving DecidableEq, Repr

/-- What 04 R105 found when the record was checked. -/
inductive CheckSt where
  | unchecked
  /-- Checks 1-6 passed; the kernel file must be loaded (check 7). -/
  | loading
  | passed
  | failed
  deriving DecidableEq, Repr

/-- Staging of a job's working set (04 R112, R113). -/
inductive StageSt where
  | none
  | staging (sinceFs : Nat)
  | done
  deriving DecidableEq, Repr

/-- A barrier of a job: the generation, its mask once an arrival has fixed it, the arrivals (07 R183). -/
structure Bar where
  gen : Nat := 0
  mask : Nat := 0
  arrived : Nat := 0
  deriving DecidableEq, Repr

/-- A data watchpoint as taken from the job block (12 R361). -/
structure Watch where
  addr : Nat
  len : Nat
  rd : Bool
  wr : Bool
  deriving DecidableEq, Repr

/-- What the save area of a job holds, by thread index (14 R395): threads, their exchange queues, the fabric
entries of the job's launches with the thread's number replaced by its index, and scratchpad bytes by
segment, stripe of the segment and slot offset. -/
structure Saved where
  threads : List Thread
  queues : List (List (List W64))
  fab : Fabric
  spad : Tab (Option Byte)
  segs : List Seg
  quotas : List Nat
  /-- The snapshots from which its launches resume: address and bytes (14 R396). -/
  cuts : List (Nat × Nat) := []
  deriving DecidableEq, Repr

/-- A job: its record, its marks, and what the dispatcher keeps of it. -/
structure Job where
  seq : W32
  rcd : BitVec 1024
  phase : JobPhase := .queued
  check : CheckSt := .unchecked
  stage : StageSt := .none
  /-- Waits already satisfied (04 R102), by bit. -/
  waits : Nat := 0
  /-- The link table: KERNEL, or the table published for a KFILE record (04 R105, R107). -/
  table : Nat := 0
  block : Option Nat := none
  cx : Nat := 0
  segs : List Seg := []
  status : Status := .ok
  errClass : Nat := 0
  frec : Nat := 0
  faults : List FaultRec := []
  /-- SAVE_TIMEOUT entries of saves that reverted to a cut (14 R396), listed behind the faults. -/
  noted : List FaultRec := []
  /-- The refusal record of 03 R94 that check 7 leaves for the retire record. -/
  refusal : List Byte := []
  signalled : Bool := false
  preempts : Nat := 0
  rollbacks : Nat := 0
  redisp : Nat := 0
  /-- fc counted from the first start, excluding time saved. -/
  cycles : Nat := 0
  runSince : Option Nat := none
  tokens : Nat := 0
  /-- The order in which jobs started (14 R394 chooses the last). -/
  order : Nat := 0
  bars : Tab Bar := []
  watch : List (Option Watch) := []
  bankKey : Nat := 0
  /-- The snapshot, fault-record and save areas of 14 R386, as read at start. -/
  snapBase : Nat := 0
  snapPart : Nat := 0
  frBase : Nat := 0
  frCount : Nat := 0
  saveBase : Nat := 0
  saveSize : Nat := 0
  /-- TIME (fs) of the last progress mark (14 R393) and fc since which the job is quiescent (R392). -/
  progressFs : Nat := 0
  quietFc : Nat := 0
  /-- TIME (fs) since which the ready job fails placement (04 R109). -/
  failFs : Option Nat := none
  /-- TIME (fs) at which the save sequencer started (14 R394). -/
  saveFs : Nat := 0
  /-- A watchdog expiry held while the save sequencer runs (14 R393). -/
  expiry : Bool := false
  /-- A pre-emption that waits for a rollback to end (14 R390). -/
  preemptDue : Bool := false
  /-- Every thread image has been written to the save area (14 R396). -/
  imaged : Bool := false
  /-- Containment has drained the job (14 R391), with what its fault record shows of the fabric: port blocks
  and the deadlock section (R399, R401). -/
  contained : Bool := false
  portBlocks : List (BitVec 512) := []
  dlSec : List (BitVec 128) := []
  /-- What a save keeps (14 R395). -/
  saved : Option Saved := none
  deriving DecidableEq, Repr

/-- A job queue: the registers of its page and its records, oldest first (04 R96-R99). -/
structure Queue where
  ctl : W64 := 0x03E8000006010000
  next : W32 := 0
  retired : W32 := 0
  rej : QRej := {}
  rbase : W64 := 0
  rate : W64 := 0
  assign : W64 := 0
  credit : Nat := 0
  jobs : List Job := []
  deriving DecidableEq, Repr

/-- The dispatcher beside its queues (04 R109-R118, 14 R392). -/
structure Disp where
  queues : Tab Queue := []
  /-- ptr(lvl) (R109). -/
  ptr : Tab Nat := []
  dpol : W64 := 0x04080064
  dlcfg : W64 := 4096
  /-- Jobs started so far, for their order. -/
  starts : Nat := 0
  events : Tab W64 := []
  evgrant : Tab W64 := []
  /-- Fault and refusal records written through a block so far, by ASID * 256 + block (14 R399). -/
  frecs : Tab Nat := []
  /-- TIME (fs) of the last dispatch decision, and what it saw: the event counters, and of every job whether it has
  completed, whether it waits for staging no longer, and whether it holds no grant (R109). -/
  decFs : Nat := 0
  seenEvents : Tab W64 := []
  seenJobs : List (JobId × Bool × Bool × Bool) := []
  deriving DecidableEq, Repr

/-! ### Rings (05 R120, R141, 11 R319) -/

/-- The registers of a ring. -/
structure RingSt where
  spquota : W64 := 0x04040404
  /-- The slot at which the core's round robin stands, and the fc in which the core issued last (06 R145). -/
  next : Nat := 0
  issued : Option Nat := none
  /-- SLICE of the sharing register and the context counter (05 R141). -/
  slice : Nat := 64
  cc : Nat := 0
  /-- fc at which the context counter last advanced (05 R142). -/
  advFc : Nat := 0
  /-- The active bank of each stripe: bank + 1, 0 none (05 R142). -/
  active : Tab Nat := []
  /-- fc since which no element of the active bank of a stripe has been fireable (05 R142). -/
  idleFc : Tab Nat := []
  deriving DecidableEq, Repr

/-! ### The boundary: bring-up, keys, peers, checkpoint (17) -/

/-- A key slot (12 R346, 17 R416). -/
structure KeySlot where
  key : BitVec 512
  tweak : BitVec 128
  deriving DecidableEq, Repr

/-- What one side of a peer link tells the other (12 R359, R360, 17 R417); the spec gives these no bits. -/
inductive PMsg where
  /-- The requester asks for a channel: grant and DIR. -/
  | ask (grant : Nat) (dir : Bool)
  /-- The far end has opened it, or refuses it. -/
  | accept
  | refuse
  /-- A token, and credits returned for tokens taken. -/
  | tok (t : Tok)
  | credit (n : Nat)
  /-- Every store that the tokens caused has been performed. -/
  | done
  deriving DecidableEq, Repr

/-- A channel over a peer link: the requester's end or the far end (12 R359, R360). -/
structure Chan where
  /-- The budget class of its traffic: the job's at the requester, 31 at a far end (R359, 04 R115). -/
  cls : Nat := 31
  /-- DIR of the requester: false 0, true 1. -/
  dir : Bool := false
  /-- The far end's command: a load or store of the grant's PATTERN; none at the requester's end. -/
  cmd : Option Cmd := none
  /-- Elements transferred, tokens that arrived and wait, tokens to send, tokens that may be sent. -/
  elem : Nat := 0
  rx : List Tok := []
  tx : List Tok := []
  credit : Nat := 0
  /-- The tile arriving at a far end, and a whole tile that waits to be written. -/
  tile : Option TileIn := none
  full : Option (Header × Nat) := none
  /-- The access at work waits on the fault service. -/
  frozen : Bool := false
  /-- EOS has been put behind the tokens to send, or has arrived. -/
  eos : Bool := false
  /-- The requester has been told that the open is refused, or that every store is done. -/
  refused : Bool := false
  done : Bool := false
  deriving DecidableEq, Repr

/-- A peer link: whether it is up, its channels, sequence numbers, the failed replays of a flit, TIME (fs) of
the last flit that arrived, and the messages sent, oldest first. -/
structure PeerLink where
  up : Bool := false
  chans : Tab (Option Chan) := []
  /-- The sequence numbers of the next flit that arrives and of the next that is sent (R417). -/
  rxSeq : Nat := 0
  txSeq : Nat := 0
  /-- Failures of the flit that is to arrive next; requests of the peer to replay one of this module's, with its
  sequence number (R418). -/
  fails : Nat := 0
  nakSeq : Nat := 0
  naks : Nat := 0
  lastFs : Nat := 0
  /-- Bytes of a data token of which only the first flit has arrived. -/
  half : Tab (List Byte) := []
  sent : List (Nat × PMsg) := []
  deriving DecidableEq, Repr

/-- The states of a checkpoint, CKPTSTAT.STATE (R420). -/
inductive CkptPhase where
  | idle | saving | copying | flushing | done | aborted
  deriving DecidableEq, Repr

/-- The checkpoint engine. -/
structure Ckpt where
  phase : CkptPhase := .idle
  quiesce : Bool := false
  /-- Bytes copied: the frontier (R420, R421). -/
  copied : Nat := 0
  /-- The journal as the image holds it, once the copy is complete. -/
  journal : Option Disp := none
  deriving DecidableEq, Repr

/-- What the header of the safe tier says (R420), with the journal that the image holds (14 R402): the valid area,
its generation, TIME and QUIESCE. -/
structure SafeHdr where
  area : Nat
  gen : Nat
  time : Nat
  quiesce : Bool
  journal : Disp
  /-- SAFECFG under which the header was written: where the safe tier lies. -/
  cfg : W64 := 0
  deriving DecidableEq, Repr

/-- Units charged at an arbiter of a resource to a budget class (04 R115). -/
structure Charge where
  res : Nat
  inst : Nat
  cls : Nat
  units : Nat
  deriving DecidableEq, Repr

/-- Who makes a request of the arbiters (04 R116). -/
inductive Asker where
  /-- A thread, of its next instruction. -/
  | thread (k : Nat)
  /-- A port, of its next access, or of the token that crosses next. -/
  | port (key : Nat)
  /-- A far end of a peer link. -/
  | chan (link n : Nat)
  /-- A migration, of its next sub-block. -/
  | move (asid va : Nat)
  /-- A launch, of the commit of its intervals. -/
  | commit (lk : Nat)
  /-- The imposer, of a forme. -/
  | forme (lk k : Nat)
  /-- The checkpoint's copy. -/
  | ckpt
  /-- A management request. -/
  | mgmt
  deriving DecidableEq, Repr

/-- A request that waits at the arbiters: what it would be charged (04 R116). -/
structure Waiting where
  who : Asker
  cs : List Charge
  deriving DecidableEq, Repr

/-- What the module keeps at its boundary. -/
structure Boundary where
  /-- The bring-up stage (R424). -/
  stage : Nat := 0
  /-- Firmware has loaded the vendor bank (R424, R428). -/
  bank : Bool := false
  /-- Training is complete: the dispatcher starts no further job until full service (R424). -/
  trained : Bool := false
  /-- QASSIGN words (R413). -/
  qassign : Tab W64 := []
  /-- BUDGET registers by 8 · class + resource, bits [16:0]; none at reset (04 R115). -/
  budgets : Tab (Option W64) := []
  /-- The requests that wait at the arbiters, in their order of arrival (04 R116). -/
  line : List Waiting := []
  /-- USED of the last complete period, by 8 · class + resource, and the periods that have ended. -/
  used : Tab Nat := []
  periods : Nat := 0
  /-- Bytes written to host memory through CXL.cache, oldest first: the retire records of queues with RHOST
  (04 R97, 17 R412). -/
  hostOut : List (Nat × List Byte) := []
  /-- The grant table (12 R358). -/
  grants : Tab (BitVec 256) := []
  keys : Tab (Option KeySlot) := []
  /-- The key-wrapping key of each SPDM session (R426). -/
  kwks : Tab (Option (List Nat)) := []
  attctx : W64 := 0
  /-- The last measurement reported (R427), and the SM2 signature of the last SPDM response (R428). -/
  report : Option (Nat × List Byte) := none
  signature : List Byte := []
  /-- Which firmware runs: an update that has been verified is another (R428). -/
  firmware : Nat := 0
  pcap : W64 := 3800
  safecfg : W64 := 0
  ckpt : Ckpt := {}
  safeHdr : Option SafeHdr := none
  /-- The junction is above 95 °C by that much clock: steps taken, and TIME (fs) of the last (R425). -/
  heat : Nat := 0
  heatFs : Nat := 0
  /-- Error counters (R383, R415): correctable errors counted. -/
  errors : Tab Nat := []
  /-- CXL ports that are up, by bit (R411). -/
  cxlUp : BitVec 8 := 0
  peers : Tab PeerLink := []
  deriving DecidableEq, Repr

/-! ### Turns -/

/-- What happens next. -/
inductive Act where
  /-- The thread of a ring and slot executes its next instruction (06 R145). -/
  | issue (ring : Fin 16) (slot : Fin 4)
  /-- A step of the machine that is no scalar instruction. -/
  | event (i : Instr)
  deriving DecidableEq, Repr

/-- One turn: the fc that pass first, then the step (log 5). -/
structure Turn where
  dt : Nat
  act : Act
  deriving DecidableEq, Repr

/-- The state of the machine. -/
structure State where
  clk : Clock := {}
  /-- Threads, by 4 · ring + slot. -/
  threads : Tab Thread := []
  /-- Exchange queues, by 32 · ring + 8 · slot + q, oldest entry first (07 R184). -/
  xq : Tab (List W64) := []
  ms : MemSys := {}
  ctxs : Tab Ctx := []
  dp : Disp := {}
  rings : Tab RingSt := []
  fab : Fabric := {}
  bd : Boundary := {}
  /-- Scratchpad bytes written since their region was cleared, by (ring · 24 + stripe) · 2^19 + byte
  (11 R319); the contents of an unlisted byte are a free value (log 4). -/
  scratch : Tab (Option Byte) := []
  /-- How often a slot's region has been cleared, by 4 · ring + slot (log 4). -/
  spGen : Tab Nat := []
  /-- What has been charged in this budget period (04 R115). -/
  charges : List Charge := []
  /-- Profiling samples: thread, pc (07 R200). -/
  samples : List (Nat × BitVec 56) := []
  /-- The turns that come next (log 5); when there is none, the machine acts of itself. -/
  sched : List Turn := []
  /-- How far the round of this fc has come while no turn is prescribed: the ring whose core comes next, or 16 plus
  the step that comes next. -/
  turn : Nat := 0
  /-- The thread that issues. -/
  cur : Nat := 0
  /-- The counter the free values are applied to (log 4). -/
  free : Nat := 0
  deriving DecidableEq, Repr

/-- Why the machine stops. -/
inductive Fault where
  /-- Raised by no meaning: an outcome the specification leaves undefined (00 R12) would stop here. Safe. -/
  | undefinedOutcome
  deriving DecidableEq, Repr

/-- Why a step has no meaning. -/
inductive Refusal where
  /-- An instruction that the dispatch table has not reached. Safe. -/
  | notModelled (mnemonic : String)
  deriving DecidableEq, Repr

/-- The machine right after reset. -/
def State.reset : State := {}

end Sys2Proof.Machine
end

