-- ==== Sys2Proof/Machine/Ops.lean ====
section
/-! DEFINITION. The operations the meanings share: registers, jobs, faults, memory, translation, the
accesses of a thread, taking an exception and returning from one. -/

namespace Sys2Proof.Machine

/-- The outcome of a step. -/
abbrev Out := Host.Outcome State Fault Refusal

/-! ### Registers (06 R144, R152) -/

/-- A general register: x0 reads as zero. -/
def Thread.get (th : Thread) (r : BitVec 5) : W64 := if r = 0 then 0 else th.x[r.toNat]'r.isLt

/-- A write of a general register: x0 discards it. -/
def Thread.put (th : Thread) (r : BitVec 5) (v : W64) : Thread :=
  if r = 0 then th else { th with x := th.x.set r.toNat v r.isLt }

/-- A header register. -/
def Thread.getH (th : Thread) (r : BitVec 3) : Header := th.h[r.toNat]'r.isLt

/-- A write of a header register. -/
def Thread.putH (th : Thread) (r : BitVec 3) (v : Header) : Thread :=
  { th with h := th.h.set r.toNat v r.isLt }

/-- Execution continues `n` bytes further (06 R149). -/
def Thread.skip (th : Thread) (n : Nat) : Thread := { th with pc := th.pc + BitVec.ofNat 56 n }

/-- Execution continues at the next word. -/
def Thread.adv (th : Thread) : Thread := th.skip 4

/-- The pc as a register value. -/
def Thread.pc64 (th : Thread) : W64 := th.pc.setWidth 64

/-- Execution continues at an address; bits [1:0] of the pc are always 0 (06 R144). -/
def Thread.jump (th : Thread) (t : W64) : Thread := { th with pc := (t.setWidth 56) &&& ~~~3 }

/-- A thread of the machine. -/
def State.thread (s : State) (k : Nat) : Thread := tget {} s.threads k

/-- The machine with a thread replaced. -/
def State.setThread (s : State) (k : Nat) (th : Thread) : State :=
  { s with threads := tset {} s.threads k th }

/-- The machine with a thread changed. -/
def State.modThread (s : State) (k : Nat) (f : Thread → Thread) : State := s.setThread k (f (s.thread k))

/-- The thread that issues. -/
def State.me (s : State) : Thread := s.thread s.cur

/-- The machine with the issuing thread replaced. -/
def State.setMe (s : State) (th : Thread) : State := s.setThread s.cur th

/-- The ring and the slot of the issuing thread. -/
def State.ring (s : State) : Nat := s.cur / 4
/-- The slot of the issuing thread. -/
def State.slot (s : State) : Nat := s.cur % 4

/-- TIME: nanoseconds since cold reset (07 R197). -/
def State.time (s : State) : Nat := s.clk.fs / 1000000

/-- The state of an ASID. -/
def State.ctx (s : State) (asid : Nat) : Ctx := tget {} s.ctxs asid

/-- The machine with the state of an ASID changed. -/
def State.modCtx (s : State) (asid : Nat) (f : Ctx → Ctx) : State :=
  { s with ctxs := tmod {} s.ctxs asid f }

/-- The state of a ring. -/
def State.ringSt (s : State) (g : Nat) : RingSt := tget {} s.rings g

/-- A queue. -/
def State.queue (s : State) (q : Nat) : Queue := tget {} s.dp.queues q

/-- The machine with a queue changed. -/
def State.modQueue (s : State) (q : Nat) (f : Queue → Queue) : State :=
  { s with dp := { s.dp with queues := tmod {} s.dp.queues q f } }

/-- The ASID of a queue's context: QCTL.ASID (04 R97). -/
def Queue.asid (q : Queue) : Nat := fieldN 64 q.ctl 32 16

/-- The job of a queue with a sequence number. -/
def Queue.job (q : Queue) (seq : W32) : Option Job := q.jobs.find? fun j => j.seq == seq

/-- A job of the machine. -/
def State.job (s : State) (j : JobId) : Option Job := (s.queue j.queue).job j.seq

/-- The machine with a job changed. -/
def State.modJob (s : State) (j : JobId) (f : Job → Job) : State :=
  s.modQueue j.queue fun q =>
    { q with jobs := q.jobs.map fun x => if x.seq == j.seq then f x else x }

/-- The job of the issuing thread. -/
def State.myJob (s : State) : Option Job := s.me.job.bind s.job

/-- The ASID of a thread's context; a thread without a job runs in ASID 0. -/
def State.asidOf (s : State) (th : Thread) : Nat :=
  match th.job with
  | some j => (s.queue j.queue).asid
  | none => 0

/-- The ASID of the issuing thread. -/
def State.asid (s : State) : Nat := s.asidOf s.me

/-- Whether the issuing thread's context is privileged (07 R198). -/
def State.priv (s : State) : Bool := (s.ctx s.asid).priv

/-! ### Faults of a job (14 R391, R398) -/

/-- The status a first fault leads to (14 R398). -/
def statusOf (c : FaultClass) : Status :=
  match c with
  | .watchdog => .timeout
  | .deadlock => .deadlock
  | _ => .error

/-- A fault entered in a job's list: at most 16, in order of time, in one fc by class code (R391). -/
def addFault (f : FaultRec) (fs : List FaultRec) : List FaultRec :=
  let earlier := fs.takeWhile fun g => g.fc != f.fc || g.cls.code ≤ f.cls.code
  (earlier ++ f :: fs.drop earlier.length).take 16

/-- Step 1 of containment for a started job: the fault is recorded, and the job is contained (R391). -/
def Job.record (j : Job) (f : FaultRec) : Job :=
  match j.phase with
  | .started | .saving | .saved | .containing =>
    let fs := addFault f j.faults
    let first := fs.headD f
    { j with faults := fs, phase := .containing, status := statusOf first.cls, errClass := first.cls.code }
  | _ => j

/-- A fault recorded for a job of the machine. -/
def State.recordFault (s : State) (j : JobId) (f : FaultRec) : State :=
  s.modJob j fun x => x.record { f with time := s.time, fc := s.clk.fc }

/-! ### Traps (07 R199, R201) -/

/-- The trap causes of R199. -/
inductive Cause where
  | hdrCrc | combo | xlate | perm | key | dataUe | illegal | align | soft | break | priv | watch
  deriving DecidableEq, Repr

/-- CAUSE of R199. -/
def Cause.code : Cause → Nat
  | .hdrCrc => 0x01
  | .combo => 0x03
  | .xlate => 0x05
  | .perm => 0x06
  | .key => 0x07
  | .dataUe => 0x08
  | .illegal => 0x0D
  | .align => 0x0E
  | .soft => 0x20
  | .break => 0x21
  | .priv => 0x22
  | .watch => 0x23

/-- The class at job end of R199. -/
def Cause.cls : Cause → FaultClass
  | .hdrCrc => .hdrCrc
  | .combo => .combo
  | .xlate => .xlate
  | .perm => .perm
  | .key => .key
  | .dataUe => .dataUe
  | .illegal => .illegal
  | .align => .align
  | .soft => .illegal
  | .break => .illegal
  | .priv => .perm
  | .watch => .illegal

/-- A trap: cause, detail, information, and the faulting address where there is one. -/
structure TrapReq where
  cause : Cause
  detail : Nat := 0
  info : W64 := 0
  va : W64 := 0
  deriving DecidableEq, Repr

/-- A trap whose information is an address. -/
def trapAt (c : Cause) (va : W64) : TrapReq := { cause := c, info := va, va := va }

/-- TRAP_CAUSE: concat(0, detail, cause) (R201). -/
def TrapReq.word (t : TrapReq) : W64 := BitVec.ofNat 64 (t.cause.code + 256 * (t.detail % 256))

/-- The trap registers as trap entry leaves them (R201). -/
def Thread.enterTrap (th : Thread) (t : TrapReq) : Thread :=
  { th with trapPc := th.pc64, trapCause := t.word, trapInfo := t.info, inTrap := true,
            pc := th.trapBase.setWidth 56 }

/-- Trap entry of a thread (R201): to its handler, or, in a handler or without one, the end of its job. -/
def State.trapThread (s : State) (k : Nat) (t : TrapReq) : State :=
  let th := s.thread k
  if th.inTrap || th.trapBase == 0 then
    let f : FaultRec :=
      { cls := t.cause.cls, site := 0, ring := k / 4, slot := k % 4, detail := t.info, addr := t.va }
    match th.job with
    | some j => (s.recordFault j f).setThread k { th with run := .stopped }
    | none => s.setThread k { th with run := .stopped }
  else s.setThread k (th.enterTrap t)

/-- Trap entry of the issuing thread. -/
def State.trap (s : State) (t : TrapReq) : State := s.trapThread s.cur t

/-- An instruction that traps. -/
def trapOut (s : State) (t : TrapReq) : Out := .next (s.trap t)

/-- Return from a trap (R203): the pc is TRAP_PC, and INTRAP is 0. -/
def Thread.eret (th : Thread) : Thread := { th.jump th.trapPc with inTrap := false }

/-- ILLEGAL with the instruction word (07 R199). -/
def illegal (s : State) (i : Instr) : Out := trapOut s { cause := .illegal, info := trapWord i }

/-- The checks every instruction makes first (07 R174): its encoding. -/
def checked (i : Instr) (s : State) (k : Thread → Out) : Out :=
  if encodingOk i then k s.me else illegal s i

/-- The checks of a privileged instruction (07 R174): its encoding, then privilege. -/
def privileged (i : Instr) (s : State) (k : Thread → Out) : Out :=
  checked i s fun th => if s.priv then k th else trapOut s { cause := .priv, info := trapWord i }

/-! ### Physical memory (12 R331) -/

/-- A byte of memory. -/
def MemSys.byte (ms : MemSys) (pa : Nat) : Byte := tget 0 ms.mem pa

/-- The bytes at an address. -/
def readMem (m : Tab Byte) (pa n : Nat) : List Byte :=
  match n with
  | 0 => []
  | n + 1 => tget 0 m pa :: readMem m (pa + 1) n

/-- Memory with bytes written at an address. -/
def writeMem (m : Tab Byte) (pa : Nat) (bs : List Byte) : Tab Byte :=
  match bs with
  | [] => m
  | b :: rest => writeMem (tset 0 m pa b) (pa + 1) rest

/-- A value read at a physical address, little-endian (00 R4). -/
def MemSys.readPa (ms : MemSys) (pa n : Nat) : Nat := ofBytesLE (readMem ms.mem pa n)

/-- The place of a byte of tiers H and L in the order of a checkpoint: tier H, then tier L (17 R420). -/
def ckptPos (pa : Nat) : Option Nat :=
  if pa < 0xC000000000 then some pa
  else if 0x1000000000000 ≤ pa ∧ pa < 0x1020000000000 then some (pa - 0x1000000000000 + 0xC000000000)
  else none
/-- The physical address at a place of that order. -/
def ckptPa (o : Nat) : Nat := if o < 0xC000000000 then o else o - 0xC000000000 + 0x1000000000000
/-- The bytes of tiers H and L. -/
def ckptBytes : Nat := 0x2C000000000
/-- The physical address of byte `o` of an image: the safe tier is interleaved in 4 KiB granules (17 R419). -/
def Mirror.pa (m : Mirror) (o : Nat) : Nat :=
  let g := (m.base + o) / 4096
  let n := m.ports.length
  0x2000000000000 + (m.ports.getD (g % n) 1 - 1) * 0x100000000000 + m.offset + g / n * 4096 + (m.base + o) % 4096

/-- Bytes written in memory, written below the frontier of a running checkpoint in its image too (17 R421). -/
def Mirror.write (r : Mirror) (m : Tab Byte) (pa : Nat) (bs : List Byte) : Tab Byte :=
  match bs with
  | [] => m
  | b :: rest =>
    r.write (match ckptPos pa with
      | some o => if o < r.frontier then tset 0 m (r.pa o) b else m
      | none => m) (pa + 1) rest

/-- The tier (1 H, 2 L, 3 X) and the home die of a physical address; none if unpopulated (R331): during reduced
service all but 48 GiB of tier H (17 R424). -/
def MemSys.tierOf (ms : MemSys) (pa : Nat) : Option (Nat × Nat) :=
  if ms.reduced then (if pa < 0xC00000000 then some (1, 0) else none)
  else if pa < 4 * 0x3000000000 then some (1, pa / 0x3000000000)
  else if 0x1000000000000 ≤ pa ∧ pa < 0x1000000000000 + 4 * 0x8000000000 then
    some (2, (pa - 0x1000000000000) / 0x8000000000)
  else if 0x2000000000000 ≤ pa ∧ pa < 0x2000000000000 + 7 * 0x100000000000 then
    let p := 1 + (pa - 0x2000000000000) / 0x100000000000
    if (pa - 0x2000000000000) % 0x100000000000 < tget 0 ms.tierX p then some (3, p / 2) else none
  else none

/-- The state of a die. -/
def MemSys.die (ms : MemSys) (d : Nat) : Die := tget {} ms.dies d

/-- Memory with a die changed. -/
def MemSys.modDie (ms : MemSys) (d : Nat) (f : Die → Die) : MemSys := { ms with dies := tmod {} ms.dies d f }

/-- Whether a line reads as an uncorrectable error: an error in it, a lost die (14 R405), a removed port
(17 R411). -/
def MemSys.lineBad (ms : MemSys) (pa : Nat) : Bool :=
  tget false ms.ue (pa / 64)
  || (match ms.tierOf pa with
      | some (t, d) => (ms.die d).lost
        || (t == 3 && tget false ms.removed (1 + (pa - 0x2000000000000) / 0x100000000000))
      | none => false)

/-- Whether a write of bytes at a physical address meets an error in the image: below the frontier, a line of the safe
tier that reads as an error, or memory that is not there (17 R420, R421). -/
def MemSys.mirrorBad (ms : MemSys) (r : Mirror) (pa n : Nat) : Bool :=
  (List.range n).any fun i => match ckptPos (pa + i) with
    | some o => o < r.frontier && ((ms.tierOf (r.pa o)).isNone || ms.lineBad (r.pa o))
    | none => false

/-- Bytes written at a physical address. -/
def MemSys.writePa (ms : MemSys) (pa : Nat) (bs : List Byte) : MemSys :=
  let m := writeMem ms.mem pa bs
  match ms.mirror with
  | some r => { ms with mem := r.write m pa bs, mirror := some { r with failed := r.failed || ms.mirrorBad r pa bs.length } }
  | none => { ms with mem := m }

/-- Whether some line of a range reads as an uncorrectable error. -/
def MemSys.rangeBad (ms : MemSys) (pa n : Nat) : Bool :=
  (List.range ((pa % 64 + n + 63) / 64)).any fun k => ms.lineBad (pa + 64 * k)

/-- Whether a physical address lies in the frame that a move leaves. -/
def Move.atSrc (m : Move) (pa : Nat) : Bool := m.src ≤ pa && pa < m.src + 2 ^ m.size

/-- Where an access to a frame goes: once a move has committed, to the new frame (R351). -/
def MemSys.nowPa (ms : MemSys) (pa : Nat) : Nat :=
  match ms.moves.find? fun m => m.phase == .releasing && m.atSrc pa with
  | some m => m.dst + (pa - m.src)
  | none => pa

/-- Where the second copy of a write to a page lies whose sub-block a move has copied, with the move (R350). -/
def MemSys.copyAt (ms : MemSys) (pa : Nat) : Option (Move × Nat) :=
  match ms.moves.find? fun m => (m.phase == .copying || m.phase == .committing) && m.atSrc pa with
  | some m => if (pa - m.src) / 4096 < m.frontier then some (m, m.dst + (pa - m.src)) else none
  | none => none

/-- Bytes written under a translation: where a move has copied the sub-block, both copies take them (R350); an
uncorrectable error at the second aborts the move (R352). -/
def MemSys.writeData (ms : MemSys) (pa : Nat) (bs : List Byte) : MemSys :=
  let ms1 := ms.writePa (ms.nowPa pa) bs
  match ms.copyAt pa with
  | some (m, d) =>
    if ms.rangeBad d bs.length then
      { ms1 with moves := ms1.moves.map fun x => if x == m then { x with phase := .aborting, cause := 1 } else x }
    else ms1.writePa d bs
  | none => ms1

/-! ### Translation (12 R333-R340) -/

/-- V, R, W, X, A, D, PIN, LEAF, SADDLE of an entry (R335). -/
def pteV (e : Nat) : Bool := e % 2 == 1
/-- R: reads allowed. -/
def pteR (e : Nat) : Bool := e / 2 % 2 == 1
/-- W: writes allowed. -/
def pteW (e : Nat) : Bool := e / 4 % 2 == 1
/-- X: fetch allowed. -/
def pteX (e : Nat) : Bool := e / 8 % 2 == 1
/-- A: accessed. -/
def pteA (e : Nat) : Bool := e / 16 % 2 == 1
/-- D: written. -/
def pteD (e : Nat) : Bool := e / 32 % 2 == 1
/-- PIN. -/
def ptePin (e : Nat) : Bool := e / 64 % 2 == 1
/-- LEAF. -/
def pteLeaf (e : Nat) : Bool := e / 128 % 2 == 1
/-- SADDLE. -/
def pteSaddle (e : Nat) : Bool := e / 2 ^ 54 % 2 == 1
/-- ADDR: physical address bits [51:8]. -/
def pteAddr (e : Nat) : Nat := e / 256 % 2 ^ 44 * 256
/-- TIER. -/
def pteTier (e : Nat) : Nat := e / 2 ^ 52 % 4
/-- DTIER. -/
def pteDtier (e : Nat) : Nat := e / 2 ^ 55 % 4

/-- A leaf as a walk finds it. -/
structure Walked where
  /-- The physical address of the leaf entry. -/
  entry : Nat
  leaf : Nat
  /-- log2 of the page size. -/
  size : Nat
  deriving DecidableEq, Repr

/-- The lowest VA bit a level indexes, and the number of index bits (R334). -/
def levelBits (l : Nat) : Nat × Nat :=
  match l with
  | 0 => (42, 14)
  | 1 => (28, 14)
  | 2 => (21, 7)
  | _ => (16, 5)

/-- log2 of the alignment of a table of a level (R334). -/
def tableAlign (l : Nat) : Nat :=
  match l with
  | 0 => 17
  | 1 => 17
  | 2 => 10
  | _ => 8

/-- Whether a valid leaf of page size `size` is malformed (R336). -/
def leafBad (ms : MemSys) (asid va e size : Nat) : Bool :=
  pteAddr e % 2 ^ size != 0 || (pteW e && !pteR e)
  || pteTier e == 0
  || (match ms.tierOf (pteAddr e) with
      | some (t, _) => pteTier e != t
      | none => false)
  || (pteDtier e != 0 && !pteSaddle e)
  || (pteSaddle e && !(ms.moves.any fun m => m.asid == asid && m.va == va / 2 ^ size * 2 ^ size && m.size == size))

/-- One level of a walk and those below it; `fuel` bounds the levels left (R334, R336, R339). -/
def walkLevel (ms : MemSys) (asid va : Nat) (fuel level table : Nat) : Except XReason Walked :=
  match fuel with
  | 0 => .error .badEntry
  | fuel + 1 =>
    let (lo, bits) := levelBits level
    let entry := table + 8 * (va / 2 ^ lo % 2 ^ bits)
    let e := if (ms.tierOf entry).isSome then ms.readPa entry 8 else 0
    if !pteV e then .error .notValid
    else if pteLeaf e && (level == 0) then .error .badEntry
    else if !pteLeaf e && (level == 3) then .error .badEntry
    else if pteLeaf e then
      if leafBad ms asid va e lo then .error .badEntry
      else if (ms.tierOf (pteAddr e)).isNone then .error .badFrame
      else .ok { entry := entry, leaf := e, size := lo }
    else if e / 2 % 64 != 0 || e / 2 ^ 52 % 32 != 0 || pteAddr e % 2 ^ tableAlign (level + 1) != 0 then
      .error .badEntry
    else walkLevel ms asid va fuel (level + 1) (pteAddr e)

/-- The entries that a walk reads, level by level, down to the first that is no table. -/
def walkReads (ms : MemSys) (va fuel level table : Nat) : List Nat :=
  match fuel with
  | 0 => []
  | fuel + 1 =>
    let (lo, bits) := levelBits level
    let entry := table + 8 * (va / 2 ^ lo % 2 ^ bits)
    let e := if (ms.tierOf entry).isSome then ms.readPa entry 8 else 0
    entry :: if pteV e && !pteLeaf e && level != 3 && e / 2 % 64 == 0 && e / 2 ^ 52 % 32 == 0
        && pteAddr e % 2 ^ tableAlign (level + 1) == 0 then
      walkReads ms va fuel (level + 1) (pteAddr e)
    else []

/-- The first address of the device window (12 R330). -/
def deviceBase : Nat := 0x00FFFF0000000000

/-- A walk from ROOT(asid) (R333, R334); entries of the device window are never read (R330). -/
def MemSys.walk (ms : MemSys) (asid va : Nat) : Except XReason Walked :=
  let root := tget 0 ms.rootNow asid
  if !root.getLsbD 0 || deviceBase ≤ va then .error .notValid
  else walkLevel ms asid va 4 0 (fieldN 64 root 17 35 * 2 ^ 17)

/-- Whether a leaf permits an access (R335, 07 R180). -/
def permits (k : AccessKind) (e : Nat) : Bool :=
  match k with
  | .read => pteR e
  | .write => pteW e
  | .fetch => pteX e
  | .atomic => pteR e && pteW e

/-- Whether an access of a kind needs D (R340). -/
def needsD (k : AccessKind) : Bool := k == .write || k == .atomic

/-- The slice an access goes to (R338). -/
def sliceOf (asid va : Nat) : Nat :=
  let g := va / 2 ^ 21
  (g ^^^ (g / 2 ^ 6) ^^^ (g / 2 ^ 12) ^^^ (g / 2 ^ 18) ^^^ (g / 2 ^ 24)) % 64 ^^^ (g / 2 ^ 30 % 32)
  ^^^ asid % 64 ^^^ asid / 64 % 64 ^^^ asid / 4096 % 16

/-- Whether a cached translation holds an address. -/
def TlbEntry.holds (t : TlbEntry) (p : TlbPlace) (asid va : Nat) : Bool :=
  t.place == p && t.asid == asid && t.page == va / 2 ^ t.size

/-- How many entries a cache has (R338). -/
def tlbCapacity (p : TlbPlace) : Nat :=
  match p with
  | .core _ => 256
  | .port _ => 32
  | .slice _ _ => 256

/-- A translation installed; the oldest of a full cache makes room (log 6). -/
def install (tlb : List TlbEntry) (e : TlbEntry) : List TlbEntry :=
  let rest := tlb.filter fun t => !(t.place == e.place && t.asid == e.asid && t.page == e.page && t.size == e.size)
  let same := rest.filter fun t => t.place == e.place
  let rest := if tlbCapacity e.place ≤ same.length then
      match same.getLast? with
      | some old => rest.erase old
      | none => rest
    else rest
  e :: rest

/-- Why an access is refused by translation. -/
inductive XErr where
  | xlate (r : XReason)
  | perm
  deriving DecidableEq, Repr

/-- The leaf with A, and D where the access writes, set (R340). -/
def setAD (leaf : Nat) (setD : Bool) : Nat := leaf ||| 16 ||| (if setD then 32 else 0)

/-- A walk by a slice with the A and D updates of R340, installed in the slice. -/
def MemSys.walkSlice (ms : MemSys) (die asid va : Nat) (k : AccessKind) (setD : Bool) :
    MemSys × Except XErr Walked :=
  match ms.walk asid va with
  | .error r => (ms, .error (.xlate r))
  | .ok w =>
    if !permits k w.leaf then (ms, .error .perm)
    else
      let leaf := setAD w.leaf setD
      let ms1 := if leaf == w.leaf then ms else ms.writePa w.entry (bytesLE 8 leaf)
      let e : TlbEntry :=
        { place := .slice die (sliceOf asid va), asid := asid, size := w.size, page := va / 2 ^ w.size,
          leaf := BitVec.ofNat 64 leaf }
      ({ ms1 with tlb := install ms1.tlb e }, .ok { w with leaf := leaf })

/-- The SHARERS bit of a place on a die (R349). -/
def sharerBit (p : TlbPlace) (die : Nat) : BitVec 20 :=
  (match p with
   | .core g => (1 : BitVec 20) <<< g
   | .port key => (1 : BitVec 20) <<< (key / 2 ^ 40 % 16)
   | .slice _ _ => 0) ||| ((1 : BitVec 20) <<< (16 + die))

/-- An access through a marked translation sets its ring's and its die's SHARERS bits (R349). -/
def MemSys.share (ms : MemSys) (p : TlbPlace) (die asid va leaf : Nat) : MemSys :=
  if pteSaddle leaf then
    { ms with moves := ms.moves.map fun m =>
        if m.asid == asid && m.va == va / 2 ^ m.size * 2 ^ m.size then
          { m with sharers := m.sharers ||| sharerBit p die }
        else m }
  else ms

/-- Whether a place is a slice. -/
def TlbPlace.isSlice (p : TlbPlace) : Bool :=
  match p with
  | .slice _ _ => true
  | .core _ => false
  | .port _ => false

/-- The access counter of a slice entry after one more access (R355); other caches count nothing. -/
def MemSys.count (ms : MemSys) (p : TlbPlace) (asid va : Nat) : MemSys :=
  if p.isSlice then
    { ms with tlb := ms.tlb.map fun t => if t.holds p asid va then { t with cnt := min 255 (t.cnt + 1) } else t }
  else ms

/-- Translation of an access (R338-R340): the agent's own cache, then the slice of its die, then a walk. A
translation with D = 0 is not used for a write. Answers the physical address. -/
def MemSys.translate (ms : MemSys) (p : TlbPlace) (die asid va : Nat) (k : AccessKind) (setD : Bool) :
    MemSys × Except XErr Nat :=
  let usable (e : TlbEntry) : Bool := !setD || pteD e.leaf.toNat || !permits k e.leaf.toNat
  match ms.tlb.find? fun e => e.holds p asid va && usable e with
  | some e =>
    if permits k e.leaf.toNat then
      ((ms.count p asid va).share p die asid va e.leaf.toNat, .ok (pteAddr e.leaf.toNat + va % 2 ^ e.size))
    else (ms, .error .perm)
  | none =>
    let sl := TlbPlace.slice die (sliceOf asid va)
    let put (ms : MemSys) (leaf : W64) (size : Nat) : MemSys :=
      let ms1 := ms.count sl asid va
      (if p = sl then ms1
       else { ms1 with tlb := install ms1.tlb { place := p, asid := asid, size := size, page := va / 2 ^ size, leaf := leaf } }).share
        p die asid va leaf.toNat
    match ms.tlb.find? fun e => e.holds sl asid va && usable e with
    | some e =>
      if permits k e.leaf.toNat then
        (put ms e.leaf e.size, .ok (pteAddr e.leaf.toNat + va % 2 ^ e.size))
      else (ms, .error .perm)
    | none =>
      match ms.walkSlice die asid va k setD with
      | (ms1, .ok w) => (put ms1 (BitVec.ofNat 64 w.leaf) w.size, .ok (pteAddr w.leaf + va % 2 ^ w.size))
      | (ms1, .error e) => (ms1, .error e)

/-- Whether TLBINV of a kind drops a translation. -/
def TlbEntry.dropped (t : TlbEntry) (kind asid va : Nat) : Bool :=
  match kind with
  | 0 => t.asid == asid && t.page == va / 2 ^ t.size
  | 1 => t.asid == asid
  | _ => true

/-- Every cached translation that matches dropped, on all dies (07 R204). -/
def MemSys.invalidate (ms : MemSys) (kind asid va : Nat) : MemSys :=
  { ms with tlb := ms.tlb.filter fun t => !t.dropped kind asid va }

/-- log2 of the size of the page that an access has just been translated in. -/
def MemSys.pageSize (ms : MemSys) (asid va : Nat) : Nat :=
  match ms.tlb.find? fun e => e.asid == asid && e.page == va / 2 ^ e.size with
  | some e => e.size
  | none => 16

/-- Whether a held write used a translation that TLBINV of a kind drops. -/
def Held.under (h : Held) (kind asid va : Nat) : Bool :=
  match kind with
  | 0 => h.asid == asid && h.va / 2 ^ h.size == va / 2 ^ h.size
  | 1 => h.asid == asid
  | _ => true

/-- Whether a write that used a dropped translation is yet to be performed at SYS scope: held, since `till` (fs) or
before (07 R204, 14 R387). -/
def State.undrained (s : State) (kind asid va till : Nat) : Bool :=
  s.fab.launches.any fun e => match e.2 with
    | some l => l.held.any fun h => h.under kind asid va && h.fs ≤ till
    | none => false

/-! ### The translation-fault service (12 R342) -/

/-- A FID that no open entry of the die has. -/
def freshFid (opens : List OpenFault) (fuel fid : Nat) : Nat :=
  match fuel with
  | 0 => fid
  | fuel + 1 => if opens.any fun o => o.fid == fid then freshFid opens fuel ((fid + 1) % 65536) else fid

/-- The access joins the open entry of its granule on the die, or opens one; answers the FID (R342). -/
def MemSys.post (ms : MemSys) (die : Nat) (o : OpenFault) : MemSys × Nat :=
  let d := ms.die die
  match d.opens.find? fun x => x.asid == o.asid && x.granule == o.granule with
  | some x =>
    (ms.modDie die fun d => { d with opens := d.opens.map fun y =>
        if y.fid == x.fid then { y with kinds := y.kinds ++ o.kinds, waiters := y.waiters ++ o.waiters } else y },
     x.fid)
  | none =>
    let fid := freshFid d.opens 65536 d.nextFid
    (ms.modDie die fun d => { d with opens := d.opens ++ [{ o with fid := fid }], nextFid := (fid + 1) % 65536 }, fid)

/-! ### What is charged to the budget classes (04 R115) -/

/-- BCLASS of a job (04 R100). -/
def Job.bclass (j : Job) : Nat := fieldN 1024 j.rcd 40 5

/-- The budget class of a job of the machine. -/
def State.classOf (s : State) (id : JobId) : Nat :=
  match s.job id with
  | some j => j.bclass
  | none => 31

/-- Units charged. -/
def State.charge (s : State) (cs : List Charge) : State := { s with charges := s.charges ++ cs }

/-- The flits of an access over the die bridges between two dies: to the home die and back (R115). -/
def bridgeCharges (die home n cls : Nat) : List Charge :=
  let lo := min die home
  (List.range (max die home - lo)).flatMap fun i =>
    [{ res := 1, inst := 2 * (lo + i), cls := cls, units := Config.bridgeFlits (die == lo) n },
     { res := 1, inst := 2 * (lo + i) + 1, cls := cls, units := Config.bridgeFlits (die != lo) n }]

/-- What an access of `n` bytes at a physical address by an agent of a die is charged: channel cycles of tier H,
64-byte bursts of tier L, and flits of the bridges on its way (R115). -/
def MemSys.memCharges (ms : MemSys) (die pa n cls : Nat) : List Charge :=
  match ms.tierOf pa with
  | some (1, d) =>
    { res := 0, inst := Config.channelOf pa, cls := cls, units := Config.channelCycles n } :: bridgeCharges die d n cls
  | some (2, d) =>
    { res := 2, inst := d, cls := cls, units := (pa % 64 + n + 63) / 64 } :: bridgeCharges die d n cls
  | some (_, d) => bridgeCharges die d n cls
  | none => []

/-- What the parts of an access are charged. -/
def MemSys.partCharges (ms : MemSys) (die cls : Nat) (ps : List (Nat × Nat)) : List Charge :=
  ps.flatMap fun (pa, m) => ms.memCharges die pa m cls

/-- What the entries that a walk reads are charged, and the swap that sets A and D (R340): nothing where the agent's
cache or the slice of its die holds the translation. -/
def MemSys.walkCharges (ms : MemSys) (p : TlbPlace) (die asid va : Nat) (k : AccessKind) (setD : Bool) (cls : Nat) :
    List Charge :=
  let usable (e : TlbEntry) : Bool := !setD || pteD e.leaf.toNat || !permits k e.leaf.toNat
  let root := tget 0 ms.rootNow asid
  if (ms.tlb.any fun e => (e.holds p asid va || e.holds (.slice die (sliceOf asid va)) asid va) && usable e)
      || !root.getLsbD 0 || deviceBase ≤ va then []
  else
    (walkReads ms va 4 0 (fieldN 64 root 17 35 * 2 ^ 17)).flatMap (fun e => ms.memCharges die e 8 cls)
    ++ match ms.walk asid va with
      | .ok w => if permits k w.leaf && setAD w.leaf setD != w.leaf then ms.memCharges die w.entry 8 cls else []
      | .error _ => []

/-- The class to which the activity of the issuing thread is charged: its job's. -/
def State.myClass (s : State) : Nat :=
  match s.myJob with
  | some j => j.bclass
  | none => 31

/-- What an access of a control core of a die is charged: the lines that it moves beyond the caches (log 37). -/
def State.coreCharges (s : State) (pa : Nat) : List Charge :=
  (s.ms.memCharges (s.ring / 4) (pa / 64 * 64) 64 s.myClass).map fun c =>
    { c with units := c.units * Config.coreLines s.clk.fs (pa / 64) }

/-! ### The accesses of a thread (07 R174-R178, R207) -/

/-- The outcome of an access of a thread. -/
inductive Acc (α : Type) where
  /-- Performed, or permitted. -/
  | ok (s : State) (v : α)
  /-- The access traps; a walk for an access that the leaf permits has set A, and D, even so (12 R340). -/
  | trap (s : State) (t : TrapReq)
  /-- The access faults XLATE and is posted: the thread waits. -/
  | post (s : State)

/-- The continuation of an access: it goes on, traps, or leaves the thread waiting. -/
def Acc.andThen {α : Type} (a : Acc α) (k : State → α → Out) : Out :=
  match a with
  | .ok s' v => k s' v
  | .trap s' t => trapOut s' t
  | .post s' => .next s'

/-- The thread waits on the fault service for an address (R207, R342). -/
def State.postMe (s : State) (va : W64) (k : AccessKind) (r : XReason) : State :=
  let die := s.ring / 4
  let o : OpenFault :=
    { fid := 0, asid := s.asid, granule := va.toNat / 65536, reason := r, va := va, agentCode := 0,
      ring := s.ring, slot := s.slot, col := 0, forme := 0, link := 0, kinds := [k],
      waiters := [.thread s.cur] }
  let (ms, fid) := s.ms.post die o
  ({ s with ms := ms }).setMe { s.me with wait := some { die := die, fid := fid, va := va } }

/-- Translation of an access of the issuing thread, with XLATE posted where R342 allows it; the walk, and the access
where it is performed, are charged to the job's class (04 R115). -/
def State.translateMe (s : State) (va : W64) (k : AccessKind) (setD : Bool) : Acc Nat :=
  let walks := s.ms.walkCharges (.core s.ring) (s.ring / 4) s.asid va.toNat k setD s.myClass
  match s.ms.translate (.core s.ring) (s.ring / 4) s.asid va.toNat k setD with
  | (ms, .ok pa) => .ok (({ s with ms := ms } : State).charge (walks ++ s.coreCharges pa)) pa
  | (_, .error .perm) => .trap (s.charge walks) (trapAt .perm va)
  | (_, .error (.xlate r)) => .post ((s.charge walks).postMe va k r)

/-- The lowest watchpoint that an access matches (12 R362). -/
def watchHit (ws : List (Option Watch)) (va n : Nat) (rd wr : Bool) : Option Nat :=
  ((List.range ws.length).zip ws).findSome? fun (i, w) =>
    match w with
    | some w =>
      if ((w.rd && rd) || (w.wr && wr)) && va < w.addr + 2 ^ w.len && w.addr < va + n then some i else none
    | none => none

/-- The watchpoint that an access of the issuing thread matches. -/
def State.watchMe (s : State) (va n : Nat) (rd wr : Bool) : Option Nat :=
  match s.myJob with
  | some j => watchHit j.watch va n rd wr
  | none => none

/-- An address bits [63:56] of which are not zero (07 R174). -/
def highVa (va : W64) : Bool := va.toNat / 2 ^ 56 != 0

/-- Whether an address lies in the device window (12 R330). -/
def inDevice (va : W64) : Bool := deviceBase ≤ va.toNat && !highVa va

/-- The checks of a data access in memory, outside the device window, in the order of 07 R178: XLATE,
PERM, WATCH; answers the physical address. -/
def State.dataPa (s : State) (va : W64) (n : Nat) (k : AccessKind) (setD rd wr : Bool) : Acc Nat :=
  if highVa va then .trap s (trapAt .xlate va)
  else
    match s.translateMe va k setD with
    | .ok s' pa =>
      match s.watchMe va.toNat n rd wr with
      | some w => .trap s' { trapAt .watch va with detail := w }
      | none => .ok s' pa
    | r => r

/-! ### The scratchpad (11 R319-R322) -/

/-- The share of slot `b` in units of 32 KiB (R319). -/
def quota (q : W64) (b : Nat) : Nat := fieldN 64 q (8 * b) 5

/-- Where the region of slot `b` starts in every stripe (R319). -/
def regionStart (q : W64) (b : Nat) : Nat :=
  32768 * ((List.range b).foldl (fun a c => a + quota q c) 0)

/-- The bytes of slot `b`'s region. -/
def regionSize (q : W64) (b : Nat) : Nat := 32768 * quota q b

/-- Bank and entry of granule `p` of a stripe's scratchpad under the bank key `k` of a context (R320). -/
def spBank (k p : Nat) : Nat × Nat :=
  let row := p / 64
  let y := (row * 2 ^ (k % 8) + row / 2 ^ (8 - k % 8)) % 256
  (p % 64 ^^^ y % 64 ^^^ y / 64 ^^^ k / 8 % 64, row)

/-- The byte of a stripe's 512 KiB, entry by entry of the 64 banks, that byte `x` of the slots' offsets lies in (R320);
and back, since the map of a row is its own inverse. -/
def spByteAt (k x : Nat) : Nat := (spBank k (x / 32)).2 * 2048 + (spBank k (x / 32)).1 * 32 + x % 32

/-- The key of a scratchpad byte: ring, logical stripe, byte of the stripe. -/
def spIndex (g stripe byte : Nat) : Nat := (g * 24 + stripe) * 524288 + byte

/-- The bank key of the context whose job holds a slot; 0 while none does (R320). -/
def State.bankKey (s : State) (g b : Nat) : Nat :=
  match (s.thread (4 * g + b)).job with
  | some id => match s.job id with
    | some j => j.bankKey
    | none => 0
  | none => 0

/-- The key of the byte at an offset of slot `b`'s region of a stripe. -/
def State.spKey (s : State) (g b stripe off : Nat) : Nat :=
  spIndex g stripe (spByteAt (s.bankKey g b) (regionStart (s.ringSt g).spquota b + off))

/-- A scratchpad byte: what was written, or a free value (log 4). -/
def State.spByte (s : State) (g b stripe off : Nat) : Byte :=
  let key := s.spKey g b stripe off
  match tget none s.scratch key with
  | some v => v
  | none => Config.freeScratch (tget 0 s.spGen (4 * g + b)) key

/-- The bytes of slot `b`'s region at an offset of a stripe. -/
def State.spRead (s : State) (g b stripe off n : Nat) : List Byte :=
  match n with
  | 0 => []
  | n + 1 => s.spByte g b stripe off :: s.spRead g b stripe (off + 1) n

/-- Bytes written in slot `b`'s region. -/
def State.spWrite (s : State) (g b stripe off : Nat) (bs : List Byte) : State :=
  match bs with
  | [] => s
  | x :: rest =>
    let s1 : State := { s with scratch := tset none s.scratch (s.spKey g b stripe off) (some x) }
    s1.spWrite g b stripe (off + 1) rest

/-- The stripe and offset that a thread's scratchpad address names, if its quota and its segment hold it
(R321): BASE and WIDTH are those of GRANT. -/
def State.spPlace (s : State) (va n : Nat) : Option (Nat × Nat) :=
  let off := va - deviceBase
  let j := off / 0x100000
  let o := off % 0x100000
  let g := s.me.grant
  if j < fieldN 64 g 16 5 && o + n ≤ regionSize (s.ringSt s.ring).spquota s.slot then
    some ((fieldN 64 g 8 5 + j) % 24, o)
  else none

end Sys2Proof.Machine
end

