-- ==== Sys2Proof/Machine/Agent.lean ====
section
/-! DEFINITION. Accesses of agents other than threads, by ASID and virtual address (12 R338-R345): an access
is split at 64 KiB granules, translated whole, and only then performed. -/

namespace Sys2Proof.Machine

/-- Why an agent's access is not performed. -/
inductive AErr where
  | xlate (r : XReason)
  | perm
  | ue
  | key
  deriving DecidableEq, Repr

/-- The parts of a range: physical address and length, translated for an access, or the error and the
address at which it was met. `fuel` bounds the parts. -/
def MemSys.vparts (ms : MemSys) (p : TlbPlace) (die asid va n : Nat) (k : AccessKind) (fuel : Nat) :
    MemSys × Except (AErr × Nat) (List (Nat × Nat)) :=
  match fuel with
  | 0 => (ms, .ok [])
  | fuel + 1 =>
    if n = 0 then (ms, .ok [])
    else if 2 ^ 56 ≤ va then (ms, .error (.xlate .notValid, va))
    else if deviceBase ≤ va then (ms, .error (.perm, va))
    else
      let m := min n (65536 - va % 65536)
      match ms.translate p die asid va k (needsD k) with
      | (ms1, .error (.xlate r)) => (ms1, .error (.xlate r, va))
      | (ms1, .error .perm) => (ms1, .error (.perm, va))
      | (ms1, .ok pa) =>
        match ms1.vparts p die asid (va + m) (n - m) k fuel with
        | (ms2, .ok ps) => (ms2, .ok ((pa, m) :: ps))
        | (ms2, .error e) => (ms2, .error e)

/-- What the walks of a range are charged (04 R115). -/
def MemSys.rangeWalks (ms : MemSys) (p : TlbPlace) (die asid va n : Nat) (k : AccessKind) (cls fuel : Nat) : List Charge :=
  match fuel with
  | 0 => []
  | fuel + 1 =>
    if n = 0 || deviceBase ≤ va then []
    else
      let m := min n (65536 - va % 65536)
      ms.walkCharges p die asid va k (needsD k) cls
      ++ match ms.translate p die asid va k (needsD k) with
        | (ms1, .ok _) => ms1.rangeWalks p die asid (va + m) (n - m) k cls fuel
        | (_, .error _) => []

/-- What a read of a range is charged: its walks, and its parts where it is translated. -/
def MemSys.readCharges (ms : MemSys) (p : TlbPlace) (die asid va n cls : Nat) : List Charge :=
  ms.rangeWalks p die asid va n .read cls (n / 65536 + 2)
  ++ match ms.vparts p die asid va n .read (n / 65536 + 2) with
    | (ms1, .ok ps) => ms1.partCharges die cls ps
    | (_, .error _) => []

/-- Bytes read through a context's translation. -/
def MemSys.vread (ms : MemSys) (p : TlbPlace) (die asid va n : Nat) : MemSys × Except (AErr × Nat) (List Byte) :=
  match ms.vparts p die asid va n .read (n / 65536 + 2) with
  | (ms1, .error e) => (ms1, .error e)
  | (ms1, .ok ps) =>
    if ps.any fun (pa, m) => ms1.rangeBad pa m then (ms1, .error (.ue, va))
    else (ms1, .ok (ps.flatMap fun (pa, m) => readMem ms1.mem pa m))

/-- Bytes written to translated parts. -/
def MemSys.writeParts (ms : MemSys) (ps : List (Nat × Nat)) (bs : List Byte) : MemSys :=
  match ps with
  | [] => ms
  | (pa, m) :: rest => (ms.writeData pa (bs.take m)).writeParts rest (bs.drop m)

/-- Bytes written through a context's translation. -/
def MemSys.vwrite (ms : MemSys) (p : TlbPlace) (die asid va : Nat) (bs : List Byte) : MemSys × Option (AErr × Nat) :=
  match ms.vparts p die asid va bs.length .write (bs.length / 65536 + 2) with
  | (ms1, .error e) => (ms1, some e)
  | (ms1, .ok ps) => (ms1.writeParts ps bs, none)

/-! ### Keys (01 R40-R43) -/

/-- A key handle bound in a context (01 R40, R43): its slot. -/
def Ctx.keySlot (c : Ctx) (h : Nat) : Option Nat :=
  let v := tget 0 c.keys h
  if h = 0 || v = 0 then none else some (v - 1)

/-- The key slot that an access through a record uses: `some none` for plaintext, none where the handle is
not bound. A slot that nothing has loaded holds its reset value, 0 (log 3). -/
def State.cryptOf (s : State) (asid h : Nat) : Option (Option KeySlot) :=
  if h = 0 then some none
  else
    match (s.ctx asid).keySlot h with
    | none => none
    | some k => some (some ((tget none s.bd.keys k).getD { key := 0, tweak := 0 }))

/-- Granules from `va` on, encrypted or decrypted; the tweak counts from BASE (R41). -/
def cryptFrom (enc : Bool) (ks : KeySlot) (base : Int) (fuel : Nat) (va : Int) (bs : List Byte) : List Byte :=
  match fuel with
  | 0 => []
  | fuel + 1 =>
    if bs.isEmpty then []
    else
      let tweak := (((ks.tweak.toNat : Int) + (va - base)) % (2 : Int) ^ 128).toNat
      (xtsUnit enc (natBytesLE 64 ks.key.toNat) tweak ((bs.take 32).map BitVec.toNat)).map (BitVec.ofNat 8)
        ++ cryptFrom enc ks base fuel (va + 32) (bs.drop 32)

/-- Bytes under the key of a record. -/
def crypt (enc : Bool) (k : Option KeySlot) (base va : Nat) (bs : List Byte) : List Byte :=
  match k with
  | none => bs
  | some ks => cryptFrom enc ks base (bs.length / 32 + 1) va bs

/-! ### The dispatcher's accesses -/

/-- The place of the dispatcher's translations: it keeps none, and asks the slice of die 0. -/
def dispPlace (asid va : Nat) : TlbPlace := .slice 0 (sliceOf asid va)

/-- Bytes the dispatcher reads in a context, where it can. -/
def State.sysRead (s : State) (asid va n : Nat) : Option (List Byte) :=
  match s.ms.vread (dispPlace asid va) 0 asid va n with
  | (_, .ok bs) => some bs
  | (_, .error _) => none

/-- A value the dispatcher reads in a context; 0 where it cannot. -/
def State.sysWord (s : State) (asid va n : Nat) : Nat :=
  match s.sysRead asid va n with
  | some bs => ofBytesLE bs
  | none => 0

/-- The translations that the dispatcher's reads of ranges leave behind, and the A bits they set (R340). -/
def State.touches (s : State) (asid : Nat) (rs : List (Nat × Nat)) : State :=
  { s with ms := rs.foldl (fun (m : MemSys) (va, n) => (m.vread (dispPlace asid va) 0 asid va n).1) s.ms }

/-- Bytes the dispatcher writes in a context; a write that translation refuses is dropped. -/
def State.sysWrite (s : State) (asid va : Nat) (bs : List Byte) : State :=
  match s.ms.vwrite (dispPlace asid va) 0 asid va bs with
  | (ms, none) => { s with ms := ms }
  | (_, some _) => s

/-! ### Job blocks (04 R108, 12 R361) -/

/-- The address of a job block. -/
def State.blockVa (s : State) (asid b : Nat) : Nat := (fieldN 64 (s.ctx asid).cxdesc 12 44 * 4096 + 4096 * b) % 2 ^ 56

/-- A watchpoint as a job block holds it; none where it is disabled (12 R361). -/
def watchOf (addr ctl : Nat) : Option Watch :=
  let len := ctl / 256 % 32
  if ctl % 2 = 0 || addr / 2 ^ 56 != 0 || ctl / 8 % 32 != 0 || ctl / 2 ^ 13 != 0 || len < 3 || 28 < len || addr % 2 ^ len != 0 then none
  else some { addr := addr, len := len, rd := ctl / 2 % 2 = 1, wr := ctl / 4 % 2 = 1 }

/-- The eight watchpoints of the job block at an address. -/
def State.watchesAt (s : State) (asid cx : Nat) : List (Option Watch) :=
  (List.range 8).map fun n => watchOf (s.sysWord asid (cx + 0x500 + 16 * n) 8) (s.sysWord asid (cx + 0x508 + 16 * n) 8)

/-! ### The safe tier (17 R419) -/

/-- Whether a CXL port is up (LINKS.CXLUP). -/
def State.portUp (s : State) (p : Nat) : Bool := s.bd.cxlUp.getLsbD p

/-- PORTS of a SAFECFG word (17 R419). -/
def safePortsOf (cfg : W64) : List Nat := (List.range 8).filter fun p => p != 0 && cfg.getLsbD p
/-- The ports of the safe tier. -/
def State.safePorts (s : State) : List Nat := safePortsOf s.bd.safecfg
/-- Where the safe tier starts in each port's region. -/
def State.safeOffset (s : State) : Nat := fieldN 64 s.bd.safecfg 8 40 * 256
/-- The bytes of an image area. -/
def imageArea : Nat := 2816 * 2 ^ 30
/-- The bytes of the safe tier behind each of `n` ports. -/
def safeShare (n : Nat) : Nat := if n = 0 then 0 else ((65536 + 2 * imageArea) / 4096 + n - 1) / n * 4096
/-- Whether a physical address lies in the safe tier that a SAFECFG word names. -/
def inSafeOf (cfg : W64) (pa : Nat) : Bool :=
  let p := 1 + (pa - 0x2000000000000) / 0x100000000000
  let o := (pa - 0x2000000000000) % 0x100000000000
  let start := fieldN 64 cfg 8 40 * 256
  0x2000000000000 ≤ pa && (safePortsOf cfg).contains p && start ≤ o && o < start + safeShare (safePortsOf cfg).length
/-- Whether a physical address lies in the safe tier. -/
def State.inSafe (s : State) (pa : Nat) : Bool := inSafeOf s.bd.safecfg pa

end Sys2Proof.Machine
end

