-- ==== Sys2Proof/Machine/Budget.lean ====
section
/-! DEFINITION. Budgets (04 R115, R116): what is charged to a class, and the arbiters of the shared resources. -/

namespace Sys2Proof.Machine

/-- SHARE and GUAR of a class and resource, at 8 · class + resource; at reset 32, and GUAR for class 31 (R115). -/
def State.budget (s : State) (i : Nat) : W64 := (tget none s.bd.budgets i).getD (if i / 8 = 31 then 0x10020 else 32)

/-- The units that one of a resource's arbiters can serve in a period of 50 µs, from the rates of 00 R2; what these do
not give is free (DESIGN CHOICE, log 125). -/
def budgetCapacity (r : Nat) : Nat :=
  match r with
  | 2 => 976562
  | 3 => 4882
  | 7 => 43750
  | r => Config.periodCapacity r + 1

/-- The die whose engine moves the page. -/
def MemSys.moveDie (ms : MemSys) (m : Move) : Nat :=
  match ms.tierOf m.src with
  | some (_, d) => d
  | none => 0

/-- What the copy of a sub-block is charged: one unit of the engine, and the accesses at both ends (R347, 04 R115). -/
def MemSys.copyCharges (ms : MemSys) (m : Move) : List Charge :=
  let d := ms.moveDie m
  { res := 3, inst := d, cls := m.cls, units := 1 } :: ms.memCharges d (m.src + 4096 * m.frontier) 4096 m.cls
    ++ ms.memCharges d (m.dst + 4096 * m.frontier) 4096 m.cls

/-- Units charged to a class at an arbiter so far in the period. -/
def State.spent (s : State) (r i c : Nat) : Nat :=
  ((s.charges.filter fun x => x.res == r && x.inst == i && x.cls == c).map fun x => x.units).foldl (· + ·) 0

/-- SHARE. -/
def State.share (s : State) (r c : Nat) : Nat := fieldN 64 (s.budget (8 * c + r)) 0 11
/-- GUAR. -/
def State.guar (s : State) (r c : Nat) : Bool := (s.budget (8 * c + r)).getLsbD 16

/-- Step 1 of R116: the class has charged less than its share of the arbiter's capacity in this period. -/
def State.inShare (s : State) (x : Charge) : Bool :=
  let n := s.spent x.res x.inst x.cls
  (n == 0 && s.share x.res x.cls != 0) || n * 1024 < s.share x.res x.cls * budgetCapacity x.res

/-- The capacity of an arbiter that is left outside what classes with GUAR have not spent of their shares. -/
def State.spare (s : State) (r i : Nat) : Nat :=
  let all := ((s.charges.filter fun x => x.res == r && x.inst == i).map fun x => x.units).foldl (· + ·) 0
  let kept := (((List.range 32).filter fun c => s.guar r c).map fun c =>
    s.share r c * budgetCapacity r / 1024 - s.spent r i c).foldl (· + ·) 0
  budgetCapacity r - kept - all

/-- The requests that came to the arbiters before one of a requester: those in front of it in the line. -/
def State.before (s : State) (who : Asker) : List Charge :=
  (s.bd.line.takeWhile fun w => w.who != who).flatMap fun w => w.cs

/-- Whether the arbiters let through what a request is charged (R116): in share; or, without GUAR, where no in-share
request waits there and capacity is left to lend; in both cases behind the requests of its class that came before it. -/
def State.admits (s : State) (who : Asker) (waiting cs : List Charge) : Bool :=
  cs.all fun x =>
    (!((s.before who).any fun w => w.res == x.res && w.inst == x.inst && w.cls == x.cls && w.units != 0)
      && (s.inShare x
        || (!s.guar x.res x.cls && !(waiting.any fun w => w.res == x.res && w.inst == x.inst && s.inShare w)
          && 0 < s.spare x.res x.inst)))
    || x.units == 0

/-- What a step from `s` to `t` was charged. -/
def State.chargedBy (s t : State) : List Charge := t.charges.drop s.charges.length

/-- A request that waits: it keeps its place in the line, or takes the last. -/
def State.waitsFor (s : State) (who : Asker) (cs : List Charge) : State :=
  { s with bd := { s.bd with
      line := if s.bd.line.any fun w => w.who == who then
          s.bd.line.map fun w => if w.who == who then { w with cs := cs } else w
        else s.bd.line ++ [{ who := who, cs := cs }] } }

/-- A request that has been admitted, or is no more, leaves the line. -/
def State.served (s : State) (who : Asker) : State :=
  { s with bd := { s.bd with line := s.bd.line.filter fun w => w.who != who } }

/-- A step of a requester, if the arbiters let it through; else the request waits, a whole step at once (R116; DESIGN
CHOICE, log 125). -/
def State.arbitrate (s t : State) (who : Asker) (waiting : List Charge) : State :=
  if s.admits who waiting (s.chargedBy t) then t.served who else s.waitsFor who (s.chargedBy t)

/-- The outcome of a thread's instruction, if the arbiters let its accesses through; else the thread waits at it. -/
def State.gate (s : State) (k : Nat) (waiting : List Charge) (o : Out) : Out :=
  match o with
  | .next t => .next (s.arbitrate t (.thread k) waiting)
  | .fault f => .fault f
  | .refused f => .refused f

/-- USED of a class and resource in the period that ends (R115): what has been charged, summed over the arbiters and
saturating. What caches and the device's own agents add on tiers H and L, the bridges, scrubbing and management is
free (log 37). -/
def State.usedNow (s : State) (i : Nat) : Nat :=
  let c := i / 8
  let r := i % 8
  let n := ((s.charges.filter fun x => x.res == r && x.cls == c).map fun x => x.units).foldl (· + ·) 0
  min (2 ^ 32 - 1) (n + (if r ≤ 2 || (c == 31 && (r == 5 || r == 6)) then (Config.freeWord (s.free + i)).toNat else 0))

end Sys2Proof.Machine
end

