-- ==== Sys2Proof/Machine/Command.lean ====
section
/-! DEFINITION. The fields of a stream command (11 R299-R302), the walk of its nest, and the point at which
the save sequencer holds its port (14 R394). -/

namespace Sys2Proof.Machine

/-! ### Fields (11 R299-R302) -/

/-- A field of a command. -/
def Cmd.fld (c : Cmd) (lo len : Nat) : Nat := fieldN 128 c.bits lo len
/-- SCOP. -/
def Cmd.scop (c : Cmd) : Nat := c.fld 0 8
/-- PORT. -/
def Cmd.port (c : Cmd) : Nat := c.fld 8 8
/-- LH. -/
def Cmd.handle (c : Cmd) : Nat := c.fld 16 16
/-- A field of FLAGS (R301). -/
def Cmd.flag (c : Cmd) (lo len : Nat) : Nat := c.fld (32 + lo) len
/-- [63:48]: DLH, SPOFF, VAL, FORME or EVENT. -/
def Cmd.w3 (c : Cmd) : Nat := c.fld 48 16
/-- FLAGS.EOS. -/
def Cmd.eos (c : Cmd) : Bool := c.flag 0 1 == 1
/-- The ALL and OVF bits. -/
def Cmd.all (c : Cmd) : Bool := c.flag 7 1 == 1
/-- CDIR of SC.COPY, ROP of SC.REDUCE, TIER of SC.STAGE. -/
def Cmd.dir2 (c : Cmd) : Nat := c.flag 7 2

/-- DSEL, STEP and COUNT of a loop level (R302). -/
def Cmd.level (c : Cmd) (l : Nat) : Nat × Nat × Nat :=
  (c.fld (64 + 16 * l) 3, c.fld (67 + 16 * l) 4, c.fld (71 + 16 * l) 9 + 1)
/-- C(l): the iterations of a level. -/
def Cmd.count (c : Cmd) (l : Nat) : Nat := let (d, _, n) := c.level l; if d = 7 then 1 else n
/-- The stream elements of a nest. -/
def Cmd.elems (c : Cmd) : Nat := c.count 0 * c.count 1 * c.count 2 * c.count 3
/-- The loop counters j0-j3 at stream element `e`. -/
def Cmd.loops (c : Cmd) (e : Nat) : List Nat :=
  [e % c.count 0, e / c.count 0 % c.count 1, e / (c.count 0 * c.count 1) % c.count 2,
   e / (c.count 0 * c.count 1 * c.count 2)]
/-- Whether [63:48] is the command's own field, and its origin zero (R302). -/
def Cmd.ownField (c : Cmd) : Bool := c.scop == 5 || c.scop == 10
/-- The tile index of stream element `e` (R302). -/
def Cmd.index (c : Cmd) (e : Nat) : List Nat :=
  let org := if c.ownField then List.replicate 5 0
    else (List.range 5).map fun k => if k = c.fld 48 3 then c.fld 51 13 else 0
  ((List.range 4).zip (c.loops e)).foldl (fun t (l, j) =>
    let (d, step, _) := c.level l
    if d = 7 then t else lmod t d (· + j * step)) org
/-- NIDX of a gather or scatter. -/
def Cmd.nidx (c : Cmd) : Nat := c.fld 64 32
/-- Whether a command loads: SC.LOAD and SC.GATHER. -/
def Cmd.loads (c : Cmd) : Bool := c.scop == 1 || c.scop == 3
/-- Whether a command writes arriving tiles: SC.STORE, SC.SCATTER, SC.REDUCE. -/
def Cmd.stores (c : Cmd) : Bool := c.scop == 2 || c.scop == 4 || c.scop == 9
/-- Whether an SCOP is assigned (R300). -/
def scopKnown (n : Nat) : Bool := 1 ≤ n && n ≤ 0x10

/-- Whether a command's PATTERN is a nest. -/
def Cmd.nest (c : Cmd) : Bool := [1, 2, 5, 9, 10, 11].contains c.scop

/-- Whether the save sequencer holds a port: the iteration of the outermost used loop level is finished
(14 R394). -/
def PortSt.atStop (p : PortSt) (c : Cur) : Bool :=
  let outer := match [3, 2, 1, 0].find? fun l => (c.cmd.level l).1 != 7 with
    | some 3 => c.cmd.count 0 * c.cmd.count 1 * c.cmd.count 2
    | some 2 => c.cmd.count 0 * c.cmd.count 1
    | some 1 => c.cmd.count 0
    | _ => 1
  p.stopping && (!c.cmd.nest || c.elem % outer == 0) && p.full.isNone && p.tile.isNone

/-- Whether the save sequencer may end a source: its command stands at its stop, and every token it has read is
out. -/
def PortSt.mayStop (p : PortSt) : Bool :=
  p.reply.isEmpty && p.div.isEmpty && (match p.cur with
    | some c => p.atStop c || c.freeze.isSome
    | none => true)

end Sys2Proof.Machine
end

