-- ==== Sys2Proof/Machine/Elem.lean ====
section
/-! DEFINITION. How an element works through a tile (09 R231-R237, 08 R219, R220): its configuration word,
what heads its inputs, the result of a firing, and the three ways of taking a tile: walking it, holding it,
passing its tokens. Nothing here touches the state of the machine: an operation maps a configuration, the
element's registers and the heads of its inputs to a firing, a fault, or nothing. -/

namespace Sys2Proof.Machine

/-! ### The configuration word (08 R211, 09 R233) -/

/-- The fields of an element word, with the constant pool of its forme and the cuts of its input links. -/
structure Cfg where
  op : Nat := 0
  mode : Nat := 0
  rnd : Nat := 0
  satp : Nat := 0
  inen : Nat := 0
  outen : Nat := 0
  crate : Nat := 0
  prate : Nat := 0
  state : Nat := 0
  stateful : Bool := false
  sc : Bool := false
  repl : Bool := false
  imm16 : Nat := 0
  imm32 : Nat := 0
  ext : Nat := 0
  /-- The 192 bytes of the constant pool. -/
  pool : Nat := 0
  /-- The cuts of the links into inputs A, B, C. -/
  cuta : Nat := 0
  cutb : Nat := 0
  cutc : Nat := 0
  deriving DecidableEq, Repr

/-- Bits `[lo, lo+len)` of a number. -/
def bitsOf (w lo len : Nat) : Nat := w / 2 ^ lo % 2 ^ len

/-- The fields of a 128-bit element word (R211). -/
def cfgOf (w pool : Nat) : Cfg :=
  { op := bitsOf w 0 8, mode := bitsOf w 8 4, rnd := bitsOf w 12 2, satp := bitsOf w 14 2,
    inen := bitsOf w 16 3, outen := bitsOf w 19 2, crate := bitsOf w 24 4, prate := bitsOf w 28 4,
    state := bitsOf w 32 4, stateful := bitsOf w 36 1 == 1, sc := bitsOf w 37 1 == 1,
    repl := bitsOf w 38 1 == 1, imm16 := bitsOf w 48 16, imm32 := bitsOf w 64 32, ext := bitsOf w 96 32,
    pool := pool }

/-- OFMT of EXT (R233). -/
def Cfg.ofmt (c : Cfg) : Nat := bitsOf c.ext 0 6
/-- TSLAY of EXT. -/
def Cfg.tslay (c : Cfg) : Nat := bitsOf c.ext 6 4
/-- TSFMT of EXT. -/
def Cfg.tsfmt (c : Cfg) : Nat := bitsOf c.ext 10 2
/-- PRED of EXT. -/
def Cfg.pred (c : Cfg) : Nat := bitsOf c.ext 12 4
/-- HSEL of EXT. -/
def Cfg.hsel (c : Cfg) : Nat := bitsOf c.ext 16 3
/-- Whether input `i` is enabled. -/
def Cfg.inOn (c : Cfg) (i : Nat) : Bool := c.inen / 2 ^ i % 2 == 1
/-- Whether output `o` is enabled. -/
def Cfg.outOn (c : Cfg) (o : Nat) : Bool := c.outen / 2 ^ o % 2 == 1
/-- A byte of the constant pool. -/
def Cfg.poolByte (c : Cfg) (i : Nat) : Nat := bitsOf c.pool (8 * i) 8
/-- Four bytes of the constant pool, little-endian. -/
def Cfg.poolWord (c : Cfg) (i : Nat) : Nat := bitsOf c.pool (8 * i) 32
/-- The header at a pool offset. -/
def Cfg.poolHdr (c : Cfg) (i : Nat) : Header := BitVec.ofNat 256 (bitsOf c.pool (8 * i) 256)
/-- The output format: OFMT, or the input's when OFMT is 0 (R237). -/
def Cfg.outFmt (c : Cfg) (f : Fmt) : Fmt := if c.ofmt = 0 then f else (fmtOf c.ofmt).getD f
/-- The cut of the link into input `i`. -/
def Cfg.cutOf (c : Cfg) (i : Nat) : Nat :=
  match i with
  | 0 => c.cuta
  | 1 => c.cutb
  | _ => c.cutc
/-- The final rounding of R237. -/
def Cfg.fit (c : Cfg) (f : Fmt) (v : Val) : Nat × Flags := convertTo f (rndOf c.rnd) (c.satp == 1) v

/-! ### Heads and firings (08 R219, R220) -/

/-- What heads an input: the SEG masks bound to a token, and the token. -/
structure Head where
  segs : List W64 := []
  tok : Tok
  deriving DecidableEq, Repr

/-- The heads of inputs A, B and C. -/
structure Ins where
  a : Option Head := none
  b : Option Head := none
  c : Option Head := none
  deriving DecidableEq, Repr

/-- The head of input `i`. -/
def Ins.get (x : Ins) (i : Nat) : Option Head :=
  match i with
  | 0 => x.a
  | 1 => x.b
  | _ => x.c

/-- What a firing does: the registers after it, the inputs it consumes from (by bit), the tokens it emits
on o0 and o1, the tokens it then owes, and the flags it sets. -/
structure Fire where
  st : OpSt
  take : Nat := 0
  outa : List Tok := []
  outb : List Tok := []
  owea : List Tok := []
  oweb : List Tok := []
  flags : Flags := {}
  deriving DecidableEq, Repr

/-- An operation's step: nothing to do, a firing, or a fault with its detail word. -/
inductive Res where
  | idle
  | fire (f : Fire)
  | bad (cls : FaultClass) (detail : W64)
  deriving DecidableEq, Repr

/-- A failed check with the header at fault (01 R24); SITE 2 is an element. -/
def badCheck (n : Nat) (h : Header) : Res := .bad (checkClass n) (detailWord n 2 h)

/-- Whether a tag is aligned (R218). -/
def Tag.aligned : Tag → Bool
  | .eos | .eor | .mark | .fence => true
  | .data | .eot | .err | .fsw | .seg | .late => false

/-- The open tile of input `i`. -/
def OpSt.inp (st : OpSt) (i : Nat) : Option TileIn :=
  match i with
  | 0 => st.ina
  | 1 => st.inb
  | _ => st.inc

/-- The registers with the open tile of input `i` replaced. -/
def OpSt.setInp (st : OpSt) (i : Nat) (t : Option TileIn) : OpSt :=
  match i with
  | 0 => { st with ina := t }
  | 1 => { st with inb := t }
  | _ => { st with inc := t }

/-! ### Geometry of an open tile -/

/-- The header fields of an open tile. -/
def TileIn.x (t : TileIn) : Hdr := Hdr.ofBits t.hdr
/-- Its format; a tile is open only after checks 1-7. -/
def TileIn.fmt (t : TileIn) : Fmt := (t.x.format).getD .fp32
/-- Its geometry in link form. -/
def TileIn.geom (t : TileIn) : Geom := t.x.linkGeom t.fmt
/-- Its number of DATA tokens. -/
def TileIn.n (t : TileIn) : Nat := t.x.linkTokens t.geom

/-- The tile with one more DATA token. -/
def TileIn.add (t : TileIn) (d : BitVec 2048) : TileIn :=
  { t with img := t.img + d.toNat * 2 ^ (2048 * t.got), got := t.got + 1 }

/-- Stored elements that lie wholly within the first `n` bytes (R235). -/
def elemsWithin (g : Geom) (rstride n : Nat) : Nat :=
  if rstride = 0 then 0
  else
    min (g.lines * g.stored)
      (n / rstride * g.stored + min g.stored (if g.width = 0 then 0 else n % rstride * 8 / g.width))

/-- The code of stored element `e` of an image. -/
def elemCode (g : Geom) (img rstride e : Nat) : Nat :=
  if g.stored = 0 then 0 else g.codeAt img 0 rstride (e / g.stored) (e % g.stored)

/-- The header fields of a tile being written. -/
def TileOut.x (t : TileOut) : Hdr := Hdr.ofBits t.hdr
/-- Its geometry. -/
def TileOut.geom (t : TileOut) : Geom := t.x.linkGeom ((t.x.format).getD .fp32)
/-- Its number of DATA tokens. -/
def TileOut.n (t : TileOut) : Nat := t.x.linkTokens t.geom

/-- The bit at which element `e` of a packed tile starts. -/
def packedBit (g : Geom) (e : Nat) : Nat :=
  if g.stored = 0 then 0 else e / g.stored * (8 * g.lineBytes) + e % g.stored * g.width

/-- The bits of element `e` of a packed tile: its code, or for PSD a digit in each plane (01 R17, 02 R51). -/
def packedElem (g : Geom) (e code : Nat) : Nat :=
  if isPsd g.fmt then
    (List.range g.planes).foldl (fun a j =>
      a + code / 4 ^ (fmtPlanes g.fmt - 1 - j) % 4 * 2 ^ (packedBit g e + 8 * (j * g.lines * g.lineBytes))) 0
  else code % 2 ^ g.width * 2 ^ packedBit g e

/-- The tile with one more element. -/
def TileOut.put (t : TileOut) (code : Nat) : TileOut :=
  { t with img := t.img + packedElem t.geom t.cnt code, cnt := t.cnt + 1 }

/-- The tile with more elements. -/
def TileOut.puts (t : TileOut) (codes : List Nat) : TileOut := codes.foldl TileOut.put t

/-- The bytes of a plane of a packed tile that its first `k` elements fill. -/
def packedBytes (g : Geom) (k : Nat) : Nat :=
  if g.stored = 0 then 0 else k / g.stored * g.lineBytes + k % g.stored * g.width / 8

/-- Whether DATA token `sent` of a tile being written is complete: its 256 bytes are filled, or the rest of
the tile is; `whole` says whether the bytes behind the data are known. An element fills its place in every plane. -/
def TileOut.due (t : TileOut) (whole : Bool) : Bool :=
  let g := t.geom
  let stop := 256 * (t.sent + 1)
  let plane := g.lines * g.lineBytes
  let first := 256 * t.sent / plane * plane
  t.sent < t.n &&
    (if g.dataBytes g.lineBytes < stop then t.cnt == g.elems && whole
     else if stop ≤ first + plane then stop - first ≤ packedBytes g t.cnt
     else t.cnt == g.elems)

/-- DATA token `k` of an image. -/
def dataTok (img k : Nat) : Tok := .data (BitVec.ofNat 2048 (img >>> (2048 * k)))

/-- The EOT of a tile (01 R29). -/
def eotTok (seq n : Nat) : Tok := .ctl .eot (BitVec.ofNat 64 (seq % 65536 + n % 65536 * 65536))

/-- A SEG token. -/
def segTok (m : W64) : Tok := .ctl .seg m

/-- The tokens of a tile from its header in link form and its image (01 R28). -/
def tileToks (h : Header) (img : Nat) : List Tok :=
  let x := Hdr.ofBits h
  let n := x.linkTokens (x.linkGeom ((x.format).getD .fp32))
  .hdr h :: (List.range n).map (dataTok img) ++ [eotTok x.seq n]

/-- SEG tokens placed before the first DATA token of a list. -/
def withSeg (seg : Option W64) (ts : List Tok) : List Tok :=
  match seg, ts with
  | none, ts => ts
  | some _, [] => []
  | some m, .data d :: rest => segTok m :: .data d :: rest
  | some m, t :: rest => t :: withSeg (some m) rest

/-- The masks that still wait after some tokens: none once a DATA token among them has taken them. -/
def segLeft (seg : Option W64) (ts : List Tok) : Option W64 :=
  if ts.any (fun t => match t with
    | .data _ => true
    | _ => false) then none else seg

/-- The OR of masks, none when there is none. -/
def orSegs (s : Option W64) (ms : List W64) : Option W64 :=
  ms.foldl (fun a m => some (a.getD 0 ||| m)) s

/-! ### Checks 12 (01 R30) -/

/-- Whether an EOT payload is that of an open tile. -/
def eotFits (t : TileIn) (p : W64) : Bool :=
  fieldN 64 p 0 32 == t.x.seq + t.n % 65536 * 65536

/-- The failure of check 12 at an input, by its open tile and its head: the header at fault. Where no tile is open
there is none; it is 0, and so are TAG and SEQ of the detail word (DESIGN CHOICE, log 116; R24). -/
def check12 (t : Option TileIn) (h : Option Head) : Option Header :=
  match t, h with
  | _, none => none
  | none, some h =>
    match h.tok with
    | .data _ => some 0
    | .ctl .eot _ => some 0
    | .hdr _ => none
    | .ctl _ _ => none
  | some t, some h =>
    match h.tok with
    | .hdr _ => some t.hdr
    | .data _ => if t.got < t.n then none else some t.hdr
    | .ctl .eot p => if t.got == t.n && eotFits t p then none else some t.hdr
    | .ctl .err _ => none
    | .ctl .seg _ => none
    | .ctl _ _ => some t.hdr

/-- Whether the head is a DATA token of an open tile. -/
def headData (h : Option Head) : Option (BitVec 2048) :=
  match h with
  | some { tok := .data d, .. } => some d
  | _ => none

/-- Whether the head is an HDR token. -/
def headHdr (h : Option Head) : Option Header :=
  match h with
  | some { tok := .hdr d, .. } => some d
  | _ => none

/-- Whether the head is an EOT. -/
def headEot (h : Option Head) : Bool :=
  match h with
  | some { tok := .ctl .eot _, .. } => true
  | _ => false

/-- The value of a control-plane DATA token at the head. -/
def headVal (h : Option Head) : Option W64 :=
  match h with
  | some { tok := .ctl .data v, .. } => some v
  | _ => none

/-- The tag of a control token at the head. -/
def headTag (h : Option Head) : Option Tag :=
  match h with
  | some { tok := .ctl t _, .. } => some t
  | _ => none

/-- The SEG masks at the head. -/
def headSegs (h : Option Head) : List W64 :=
  match h with
  | some h => h.segs
  | none => []

/-- The mask of inputs with the given bits. -/
def bitsMask (is : List Nat) : Nat := is.foldl (fun a i => a + 2 ^ i) 0

/-! ### Reading headers -/

/-- Checks 1-11 on an HDR token at an element (01 R21, R23); `scaled` as in `checks1to7`. -/
def badHdr (h : Header) (scaled : Bool := false) : Option Res :=
  let k := checks1to11 h false none scaled
  if k = 0 then none else some (badCheck k h)

/-- A failed check beyond 11, by the index of the header at fault among the tile inputs. -/
abbrev HdrErr := Nat × Nat

/-- A header in link form from its fields, recomputed for its geometry and with its CRC (01 R22, R28). -/
def linkHdr (x : Hdr) : Header :=
  let f := (x.format).getD .fp32
  ((x.linkForm (x.linkGeom f))).toBits

/-- The result header of R237 and R61 from an input's; a PSD result has the planes that its format needs, which a
conversion writes all (02 R51, 01 R23 check 6). -/
def resultHdr (x : Hdr) (f : Fmt) : Hdr :=
  { fmt := fmtCode f, order := if isPsd f then 2 else x.order, planesM1 := fmtPlanes f - 1
    rowsM1 := x.rowsM1, colsM1 := x.colsM1, tag := x.tag, seq := x.seq }

/-! ### Walking a tile (R235) -/

/-- What one unit of a walk makes. -/
structure UnitRes where
  st : OpSt
  outa : List Nat := []
  outb : List Nat := []
  maska : Option Nat := none
  maskb : Option Nat := none
  /-- Control tokens emitted on o1 with the unit. -/
  toks : List Tok := []
  /-- Tokens owed on o0 and o1 with the unit. -/
  owea : List Tok := []
  oweb : List Tok := []
  flags : Flags := {}

/-- How an operation walks a set of open tiles. -/
structure Plan where
  /-- The operation holds its tiles whole (R236). -/
  hold : Bool := false
  /-- o1 is a data-plane output, so that masks bind to its tokens too (R219). -/
  dataB : Bool := false
  outa : Option Hdr := none
  outb : Option Hdr := none
  /-- Units of the walk. -/
  units : Nat := 0
  /-- Elements of the `i`-th tile that the first `k` units use. -/
  use : Nat → Nat → Nat := fun _ k => k
  /-- The codes of unit `k` begin this many elements back. -/
  back : Nat → Nat := fun _ => 0
  /-- A unit of those marked takes one control token besides, from this input. -/
  ctl : Option Nat := none
  ctlAt : Nat → Bool := fun _ => true
  /-- The registers as the HDR firing leaves them, and the flags it sets. -/
  start : OpSt → OpSt := id
  startFlags : Flags := {}
  /-- The work of unit `k`: the codes of each tile, the masks that stand on its group, the control value. -/
  unit : OpSt → Nat → List (List Nat) → Nat → W64 → UnitRes := fun st _ _ _ _ => { st := st }
  /-- The bytes behind the data of the o0 tile, from the whole image of the first tile. -/
  tail : Nat → Nat := fun _ => 0
  hasTail : Bool := false
  /-- Tokens emitted with the EOT on o1, a control-plane output. -/
  endb : OpSt → List Tok := fun _ => []
  /-- The registers after the tile, and the tokens then owed on o0. -/
  done : OpSt → OpSt := id
  doneOwe : OpSt → List Tok := fun _ => []
  doneFlags : OpSt → Flags := fun _ => {}
  /-- The work of a held tile for a control token: none when it needs no more. -/
  heldCtl : OpSt → List Tile → W64 → Option UnitRes := fun _ _ _ => none
  /-- The work of a held tile: the registers, the tokens owed on o0 and o1, the flags. -/
  whole : OpSt → List Tile → Except HdrErr (OpSt × List Tok × List Tok × Flags) :=
    fun st _ => .ok (st, [], [], {})

/-- What an operation that takes tiles together checks of its own: which tiles the 32 KiB of R236 bound, before its
checks from 15 on; whether it takes an I48 tile with scales as far as its own check (`checks1to7`); whether the SEG
tokens before a DATA token are held against its groups (10 R279). -/
structure WalkOpts where
  holds : Hdr → Bool := fun _ => false
  scaled : Bool := false
  grouped : Bool := false

/-- The groups of 64 positions, in row-major order, whose first position lies in DATA token `k` of a tile
(10 R279). -/
def groupsIn (order : Nat) (g : Geom) (rstride k : Nat) : List Nat :=
  (List.range (ceilDiv g.elems 64)).filter fun q =>
    let i := 64 * q / g.cols
    let j := 64 * q % g.cols
    let (m, e) := if order == 1 then (j, i) else (i, j)
    g.bitOff 0 rstride 0 m e / 2048 == k

/-- The masks of a tile's groups with those at the head of its input. -/
def boundMasks (t : TileIn) (h : Option Head) : List (Nat × Nat) :=
  t.masks ++ (groupsIn t.x.order t.geom t.x.rstride t.got).zip ((headSegs h).map BitVec.toNat)

/-- The OR of the masks of a group. -/
def groupMask (ms : List (List (Nat × Nat))) (q : Nat) : Nat :=
  ms.foldl (fun a l => l.foldl (fun b e => if e.1 == q then b ||| e.2 else b) a) 0

/-- The SEG tokens before DATA token `k` of a tile being written (10 R279): one for each group that starts
in it, none when every mask is zero. -/
def TileOut.segs (t : TileOut) : List Tok :=
  let g := t.geom
  let ms := (groupsIn t.x.order g g.lineBytes t.sent).map fun q => groupMask [t.masks] q
  if ms.all (· == 0) then [] else ms.map fun m => segTok (BitVec.ofNat 64 m)

/-- A tile on its way through a walk: what is known of it. -/
structure View where
  t : TileIn
  img : Nat
  bytes : Nat
  masks : List (Nat × Nat)

/-- What an element sees of an open tile with the token at its input's head. -/
def viewOf (t : TileIn) (h : Option Head) : View :=
  match headData h with
  | some d =>
    if t.got < t.n then
      { t := t, img := (t.add d).img, bytes := 256 * (t.got + 1), masks := boundMasks t h }
    else { t := t, img := t.img, bytes := 256 * t.got, masks := t.masks }
  | none => { t := t, img := t.img, bytes := 256 * t.got, masks := t.masks }

/-- The progress of a walk within one firing. -/
structure WalkSt where
  st : OpSt
  flags : Flags := {}
  ctlUsed : Bool := false
  toks : List Tok := []
  owea : List Tok := []
  oweb : List Tok := []

/-- An element appended to a tile being written, where there is one. -/
def putOut (t : Option TileOut) (codes : List Nat) (mask : Option (Nat × Nat)) : Option TileOut :=
  t.map fun t =>
    let t1 := t.puts codes
    match mask with
    | some m => { t1 with masks := t1.masks ++ [m] }
    | none => t1

/-- Units worked through in one firing, at most `fuel`: until an input token is used up or an output token
is complete (R235). -/
def walkUnits (pl : Plan) (vs : List View) (whole : Bool) (ctlv : Option W64) (fuel : Nat) (w : WalkSt) :
    WalkSt :=
  match fuel with
  | 0 => w
  | fuel + 1 =>
    let k := w.st.pos
    let full (o : Option TileOut) : Bool :=
      match o with
      | some t => t.due whole
      | none => false
    let have' := ((List.range vs.length).zip vs).all fun (i, v) =>
      pl.use i (k + 1) ≤ elemsWithin v.t.geom v.t.x.rstride v.bytes
    let needs := pl.ctl.isSome && pl.ctlAt k
    let ctlOk := !needs || (ctlv.isSome && !w.ctlUsed)
    if k < pl.units && have' && ctlOk && !full w.st.outa && !full w.st.outb then
      let codes := ((List.range vs.length).zip vs).map fun (i, v) =>
        let lo := pl.use i k - pl.back k
        ((List.range (pl.use i (k + 1) - lo)).map fun q => elemCode v.t.geom v.img v.t.x.rstride (lo + q))
      let mask := groupMask (vs.map fun v => v.masks) (k / 64)
      let r := pl.unit w.st k codes mask (ctlv.getD 0)
      let st := { r.st with
        pos := k + 1
        outa := putOut r.st.outa r.outa (r.maska.map fun m => (k / 64, m))
        outb := putOut r.st.outb r.outb (r.maskb.map fun m => (k / 64, m)) }
      let w' : WalkSt := { st := st, flags := orFlags w.flags r.flags, ctlUsed := w.ctlUsed || needs, toks := w.toks ++ r.toks, owea := w.owea ++ r.owea, oweb := w.oweb ++ r.oweb }
      walkUnits pl vs whole ctlv fuel w'
    else w

/-- The DATA token due on an output, with its SEG tokens: the tile after it. -/
def emitDue (t : Option TileOut) (whole : Bool) (tail : Nat) (usesSeg : Bool) (pend : Option W64) :
    Option TileOut × List Tok :=
  match t with
  | none => (none, [])
  | some t =>
    if t.due whole then
      let segs := if usesSeg then t.segs
        else match pend with
          | some m => [segTok m]
          | none => []
      (some { t with sent := t.sent + 1 }, segs ++ [dataTok (t.img + tail) t.sent])
    else (some t, [])

/-- Whether a tile being written has been emitted to its last DATA token. -/
def outDone (t : Option TileOut) : Bool :=
  match t with
  | none => true
  | some t => t.sent == t.n

/-- The EOT of a tile being written. -/
def outEot (t : Option TileOut) : List Tok :=
  match t with
  | none => []
  | some t => [eotTok t.x.seq t.n]

/-- The HDR firing of R235: the open tiles, the checks, the headers that go out. `ctlIn` names a control
input consumed with the headers; its value is put in the counter `cnt1`. -/
def walkHdr (tiles : List Nat) (ctlIn : Option Nat) (plan : OpSt → List Hdr → Except HdrErr Plan)
    (st : OpSt) (ins : Ins) (o : WalkOpts := {}) : Res :=
  let hs := tiles.filterMap fun i => headHdr (ins.get i)
  let cv := match ctlIn with
    | some i => (headVal (ins.get i)).map BitVec.toNat
    | none => some 0
  if hs.length != tiles.length then .idle
  else
    match cv with
    | none => .idle
    | some v =>
      match hs.findSome? fun h => badHdr h o.scaled with
      | some r => r
      | none =>
        match hs.find? fun h => o.holds (Hdr.ofBits h) && 32768 < 256 * ({ hdr := h } : TileIn).n with
        | some h => badCheck 11 h
        | none =>
          let st0 := if ctlIn.isSome then { st with cnt1 := v } else st
          match plan st0 (hs.map Hdr.ofBits) with
          | .error (n, i) => badCheck n (hs.getD i 0)
          | .ok pl =>
            let st1 := (tiles.zip hs).foldl (fun s (i, h) => s.setInp i (some { hdr := h })) (pl.start st0)
            let st2 := { st1 with
              pos := 0, hold := pl.hold
              outa := if pl.hold then none else pl.outa.map fun x => { hdr := linkHdr x }
              outb := if pl.hold then none else pl.outb.map fun x => { hdr := linkHdr x } }
            .fire {
              st := st2
              take := bitsMask (tiles ++ ctlIn.toList)
              outa := match st2.outa with
                | some t => [.hdr t.hdr]
                | none => []
              outb := match st2.outb with
                | some t => [.hdr t.hdr]
                | none => []
              flags := pl.startFlags }

/-- Whether the SEG masks at a head are more than the groups that start in its token (10 R279). -/
def segOverflow (t : TileIn) (h : Option Head) : Bool :=
  (headData h).isSome && (groupsIn t.x.order t.geom t.x.rstride t.got).length < (headSegs h).length

/-- A data firing, or the EOT firing, of a walk (R235). -/
def walkData (pl : Plan) (tiles : List Nat) (usesSeg grouped : Bool) (st : OpSt) (ins : Ins) : Res :=
  let ts := tiles.filterMap fun i => (st.inp i).map fun t => (i, t)
  match (if grouped then ts.find? fun (i, t) => segOverflow t (ins.get i) else none) with
  | some (_, t) => badCheck 12 t.hdr
  | none =>
    if st.pos == pl.units && outDone st.outa && outDone st.outb
        && (ts.all fun (i, t) => t.got == t.n && headEot (ins.get i)) then
      let st1 := tiles.foldl (fun s i => s.setInp i none) (pl.done st)
      .fire {
        st := { st1 with outa := none, outb := none, pos := 0, seg := segLeft st.seg (pl.doneOwe st) }
        take := bitsMask tiles
        outa := outEot st.outa
        outb := outEot st.outb ++ pl.endb st
        owea := withSeg st.seg (pl.doneOwe st)
        flags := pl.doneFlags st }
    else
      let vs := ts.map fun (i, t) => viewOf t (ins.get i)
      let firstWhole := match vs with
        | v :: _ => v.t.n ≤ v.bytes / 256
        | [] => true
      let whole := !pl.hasTail || firstWhole
      let ctlv := match pl.ctl with
        | some i => headVal (ins.get i)
        | none => none
      let w := walkUnits pl vs whole ctlv (pl.units - st.pos) { st := st }
      let tail := match vs with
        | v :: _ => if pl.hasTail && firstWhole then pl.tail v.img else 0
        | [] => 0
      let used := ((List.range ts.length).zip (ts.zip vs)).filter fun (j, ((i, t), v)) =>
        (headData (ins.get i)).isSome && t.got < t.n
          && elemsWithin t.geom t.x.rstride v.bytes ≤ pl.use j w.st.pos
      let taken := used.map fun (_, ((i, _), _)) => i
      let masks := taken.flatMap fun i => headSegs (ins.get i)
      let pa := if usesSeg then none else orSegs w.st.seg masks
      let pb := if usesSeg || !pl.dataB then none else orSegs w.st.segb masks
      let (oa, ta) := emitDue w.st.outa whole tail usesSeg pa
      let (ob, tb) := emitDue w.st.outb whole 0 usesSeg pb
      let pa1 := segLeft pa ta
      let pb1 := segLeft pb tb
      let st1 := used.foldl (fun s (_, ((i, t), v)) =>
        s.setInp i (some { t with img := v.img, got := t.got + 1, masks := v.masks })) w.st
      let ctlTake := if w.ctlUsed then pl.ctl.toList else []
      if w.st.pos == st.pos && taken.isEmpty && ta.isEmpty && tb.isEmpty then .idle
      else
        .fire {
          st := { st1 with outa := oa, outb := ob, seg := segLeft pa1 w.owea, segb := segLeft pb1 w.oweb }
          take := bitsMask (taken ++ ctlTake)
          outa := ta
          outb := tb ++ w.toks
          owea := withSeg pa1 w.owea
          oweb := withSeg pb1 w.oweb
          flags := w.flags }

/-- A firing of an operation that holds its tiles (R236): a token of each input that has one, and with the
last EOT the whole work. -/
def holdData (c : Cfg) (pl : Plan) (tiles : List Nat) (usesSeg grouped : Bool) (st : OpSt) (ins : Ins) : Res :=
  let ts := tiles.filterMap fun i => (st.inp i).map fun t => (i, t)
  match (if grouped then ts.find? fun (i, t) => segOverflow t (ins.get i) else none) with
  | some (_, t) => badCheck 12 t.hdr
  | none =>
    if ts.all fun (i, t) => t.got == t.n && headEot (ins.get i) then
      let whole := ts.map fun (i, t) => tileOf t.x t.fmt (c.cutOf i) t.img
      let ctlv := match pl.ctl with
        | some i => headVal (ins.get i)
        | none => none
      match pl.heldCtl st whole (ctlv.getD 0) with
      | some r =>
        if ctlv.isNone then .idle
        else .fire { st := r.st, take := bitsMask pl.ctl.toList, outb := r.toks, flags := r.flags }
      | none =>
      match pl.whole st whole with
      | .error (n, j) => badCheck n ((ts.map fun e => e.2.hdr).getD j 0)
      | .ok (st1, oa, ob, fl) =>
        let st2 := tiles.foldl (fun s i => s.setInp i none) st1
        .fire {
          st := { st2 with pos := 0, hold := false, seg := segLeft st.seg oa }
          take := bitsMask tiles
          owea := withSeg st.seg oa
          oweb := ob
          flags := fl }
    else
      let used := ts.filterMap fun (i, t) =>
        match headData (ins.get i) with
        | some d => if t.got < t.n then some (i, t, d) else none
        | none => none
      if used.isEmpty then .idle
      else
        let st1 := used.foldl (fun s (i, t, d) =>
          s.setInp i (some { t.add d with masks := boundMasks t (ins.get i) })) st
        let pend := if usesSeg then none
          else orSegs st.seg (used.flatMap fun (i, _, _) => headSegs (ins.get i))
        .fire { st := { st1 with seg := pend }, take := bitsMask (used.map fun e => e.1) }

/-- The step of an operation that takes tiles together (R235, R236). -/
def walkStep (c : Cfg) (tiles : List Nat) (ctlIn : Option Nat) (usesSeg : Bool)
    (plan : OpSt → List Hdr → Except HdrErr Plan) (st : OpSt) (ins : Ins) (o : WalkOpts := {}) : Res :=
  match tiles.findSome? fun i => check12 (st.inp i) (ins.get i) with
  | some h => badCheck 12 h
  | none =>
    let ts := tiles.filterMap fun i => st.inp i
    if ts.isEmpty then walkHdr tiles ctlIn plan st ins o
    else
      match plan st (ts.map TileIn.x) with
      | .error _ => .idle
      | .ok pl =>
        if st.hold then holdData c pl tiles usesSeg (usesSeg || o.grouped) st ins
        else walkData pl tiles usesSeg (usesSeg || o.grouped) st ins

/-! ### Passing a tile's tokens -/

/-- How an operation passes the tokens of input A. -/
structure Pass where
  /-- The header as it goes out, and the registers after it. -/
  head : OpSt → Header → Header × OpSt := fun st h => (h, st)
  /-- Checks of the operation's own on the header. -/
  check : Hdr → Nat := fun _ => 0
  /-- The payload of DATA token `k`. -/
  data : TileIn → Nat → BitVec 2048 → BitVec 2048 := fun _ _ d => d
  /-- Whether the tile is discarded. -/
  drop : OpSt → Bool := fun _ => false
  /-- SEG tokens stand as they are (VPASS, VBUF) rather than ORed (R219). -/
  keepSegs : Bool := false
  /-- LATE tokens pass (R263). -/
  late : Bool := false
  /-- With EOT: tokens on o1, and the registers after the tile. -/
  last : OpSt → TileIn → List Tok × OpSt := fun st _ => ([], st)

/-- The step of an operation that passes the tokens of input A. While a tile is open, `outa` keeps the
header that went out. -/
def passStep (p : Pass) (st : OpSt) (ins : Ins) : Res :=
  match check12 st.ina ins.a with
  | some h => badCheck 12 h
  | none =>
    match st.ina, ins.a with
    | _, none => .idle
    | none, some hd =>
      match hd.tok with
      | .hdr h =>
        match badHdr h with
        | some r => r
        | none =>
          let k := p.check (Hdr.ofBits h)
          if k != 0 then badCheck k h
          else
            let (h', st1) := p.head st h
            .fire {
              st := { st1 with ina := some { hdr := h }, outa := some { hdr := h' } }
              take := 1
              outa := if p.drop st1 then [] else [.hdr h'] }
      | .ctl .late v => if p.late then .fire { st := st, take := 1, outa := [.ctl .late v] } else .idle
      | .ctl .data v => if p.late then .fire { st := st, take := 1, outa := [.ctl .data v] } else .idle
      | .ctl _ _ => .idle
      | .data _ => .idle
    | some t, some hd =>
      match hd.tok with
      | .data d =>
        let seg := orSegs st.seg hd.segs
        let outa : List Tok := if p.drop st then []
          else if p.keepSegs then hd.segs.map segTok ++ [.data (p.data t t.got d)]
          else withSeg seg [.data (p.data t t.got d)]
        .fire {
          st := { st with ina := some { t with got := t.got + 1 }, seg := if p.keepSegs then none else segLeft seg outa }
          take := 1
          outa := outa }
      | .ctl .eot _ =>
        let h' := (st.outa.map fun o => o.hdr).getD t.hdr
        let (ob, st1) := p.last st t
        .fire {
          st := { st1 with ina := none, outa := none }
          take := 1
          outa := if p.drop st then [] else [eotTok (Hdr.ofBits h').seq t.n]
          outb := ob }
      | _ => .idle

end Sys2Proof.Machine
end

