-- ==== Sys2Proof/Machine/Trans.lean ====
section
/-! DEFINITION. The exact functions of VEXP2, VLOG2, VTANH and VSIGM (09 R240) and the 9-bit estimates of
VRCPE and VRSQE (09 R241). Each value is enclosed between two integers over a power of two; the enclosure
is narrowed until it holds no point of the grid it is handed on in, so that the one rounding that follows is
that of the exact value. -/

namespace Sys2Proof

/-- An enclosure over 2^P: the value lies between `lo` and `hi`. -/
structure Encl where
  lo : Nat
  hi : Nat
  deriving DecidableEq, Repr

/-- The terms floor(2^P / (k · 2^k)) of the series of ln 2, summed for `n` values of k from `k`. -/
def ln2Sum (p : Nat) (n k : Nat) : Nat :=
  match n with
  | 0 => 0
  | n + 1 => 2 ^ p / (k * 2 ^ k) + ln2Sum p n (k + 1)

/-- ln 2 over 2^P. -/
def ln2Encl (p : Nat) : Encl := let s := ln2Sum p (p + 8) 1; { lo := s, hi := s + p + 10 }

/-- The terms of the exponential series with their sum: `t` is the current term, `k` the next divisor. -/
def expSum (p y t : Nat) (up : Bool) (n k : Nat) : Nat :=
  match n with
  | 0 => if up then t + 1 else 0
  | n + 1 =>
    let t' := t * y / (k * 2 ^ p) + (if up then 1 else 0)
    t + expSum p y t' up n (k + 1)

/-- e^y over 2^P for 0 ≤ y < 1 over 2^P. -/
def expEncl (p : Nat) (y : Encl) : Encl :=
  { lo := expSum p y.lo (2 ^ p) false (p / 2) 1, hi := expSum p y.hi (2 ^ p) true (p / 2) 1 + 1 }

/-- 2^f over 2^P for 0 ≤ f < 1 over 2^P. -/
def exp2Encl (p : Nat) (f : Encl) : Encl :=
  let l := ln2Encl p
  expEncl p { lo := f.lo * l.lo / 2 ^ p, hi := f.hi * l.hi / 2 ^ p + 1 }

/-- The odd powers of z over their exponents: `t` is the current power. -/
def atanhSum (p z2 t : Nat) (up : Bool) (n k : Nat) : Nat :=
  match n with
  | 0 => if up then t + 1 else 0
  | n + 1 =>
    let t' := t * z2 / 2 ^ p + (if up then 1 else 0)
    t / k + (if up then 1 else 0) + atanhSum p z2 t' up n (k + 2)

/-- log2 c over 2^P for a mantissa c = m / 2^b with 1 ≤ c < 2. -/
def log2Encl (p m b : Nat) : Encl :=
  let num := m - 2 ^ b
  let den := m + 2 ^ b
  let zl := num * 2 ^ p / den
  let zh := zl + 1
  let l := ln2Encl p
  let al := 2 * atanhSum p (zl * zl / 2 ^ p) zl false (p / 3 + 4) 1
  let ah := 2 * atanhSum p (zh * zh / 2 ^ p + 1) zh true (p / 3 + 4) 1
  { lo := al * 2 ^ p / l.hi, hi := ah * 2 ^ p / l.lo + 1 }

/-- An enclosed magnitude handed on with 71 bits, when the enclosure holds no point of that grid. -/
def Encl.val (p : Nat) (neg : Bool) (e : Encl) : Option Val :=
  if e.lo = 0 then none
  else
    let sh := Nat.log2 e.lo - 70
    let m := e.lo / 2 ^ sh
    if e.hi / 2 ^ sh = m && e.lo % 2 ^ sh != 0 then some (.fin neg m ((sh : Int) - (p : Int)) true) else none

/-- The first enclosure on a ladder of precisions that decides; the last attempt's magnitude otherwise. -/
def firstDecided (ps : List Nat) (neg : Bool) (f : Nat → Encl) : Val :=
  match ps with
  | [] => .fin neg 0 0 false
  | [p] =>
    match (f p).val p neg with
    | some v => v
    | none => .fin neg (f p).lo (-(p : Int)) true
  | p :: rest =>
    match (f p).val p neg with
    | some v => v
    | none => firstDecided rest neg f

/-- The precisions tried. -/
def ladder : List Nat := [512, 1024, 2048]

/-- Just above or just below 2^k. -/
def nearPow (k : Int) (above : Bool) : Val :=
  if above then .fin false (2 ^ 60) (k - 60) true else .fin false (2 ^ 61 - 1) (k - 61) true

/-- The integer part (toward −∞) of a dyadic value, and its fraction over 2^P, enclosed. -/
def splitAt (p : Nat) (neg : Bool) (m : Nat) (e : Int) : Int × Encl :=
  let k : Int := if neg then -(m : Int) else (m : Int)
  if 0 ≤ e then (k * (2 : Int) ^ e.toNat, { lo := 0, hi := 0 })
  else
    let d := (-e).toNat
    let n := k / (2 : Int) ^ d
    let fr := (k % (2 : Int) ^ d).toNat
    let lo := fr * 2 ^ p / 2 ^ d
    (n, { lo := lo, hi := if fr * 2 ^ p % 2 ^ d = 0 then lo else lo + 1 })

/-- Whether a dyadic value is an integer. -/
def isIntegral (m : Nat) (e : Int) : Bool := 0 ≤ e || m % 2 ^ (-e).toNat == 0

/-- A value scaled by 2^k. -/
def scalePow (v : Val) (k : Int) : Val :=
  match v with
  | .fin n m e s => .fin n m (e + k) s
  | v => v


/-- 2^a (R240). Beyond the exponent range of FP32 the magnitude is replaced by one further out. -/
def exp2V (a : Val) : Val × Flags :=
  match a with
  | .nan => (.nan, noFlags)
  | .inf neg => (if neg then .fin false 0 0 false else .inf false, noFlags)
  | .fin neg m e _ =>
    if m = 0 then (.fin false 1 0 false, noFlags)
    else if !ltV (.fin false m e false) (.fin false 1 9 false) then
      (if neg then .fin false 1 (-512) false else .fin false 1 512 false, noFlags)
    else if ltV (.fin false m e false) (.fin false 1 (-70) false) then (nearPow 0 (!neg), noFlags)
    else if isIntegral m e then (.fin false 1 (splitAt 0 neg m e).1 false, noFlags)
    else
      let n := (splitAt 512 neg m e).1
      (scalePow (firstDecided ladder false fun p => exp2Encl p (splitAt p neg m e).2) n, noFlags)

/-- log2 a (R240). -/
def log2V (a : Val) : Val × Flags :=
  match a with
  | .nan => (.nan, noFlags)
  | .inf neg => if neg then (.nan, invFlag) else (.inf false, noFlags)
  | .fin neg m e _ =>
    if m = 0 then (.inf true, { dz := true })
    else if neg then (.nan, invFlag)
    else
      let b := Nat.log2 m
      let k : Int := e + (b : Int)
      if m = 2 ^ b then (valOfInt k, noFlags)
      else if 0 ≤ k then
        (firstDecided ladder false fun p =>
          let l := log2Encl p m b
          { lo := k.toNat * 2 ^ p + l.lo, hi := k.toNat * 2 ^ p + l.hi }, noFlags)
      else
        (firstDecided ladder true fun p =>
          let l := log2Encl p m b
          { lo := (-k).toNat * 2 ^ p - l.hi, hi := (-k).toNat * 2 ^ p - l.lo }, noFlags)

/-- e^x over 2^P for a dyadic x between −400 and 400. -/
def expOfDyadic (p : Nat) (neg : Bool) (m : Nat) (e : Int) : Encl :=
  let w := p + 64
  let l := ln2Encl w
  let (n, f) := splitAt w neg m e
  -- x = n + f, and x / ln 2 = q + r with q an integer
  let x : Int := n * (2 : Int) ^ w + (f.lo : Int)
  let q := x / (l.lo : Int)
  let rl : Int := x - (if 0 ≤ q then q * (l.hi : Int) else q * (l.lo : Int))
  let rh : Int := x + ((f.hi - f.lo : Nat) : Int) - (if 0 ≤ q then q * (l.lo : Int) else q * (l.hi : Int))
  let ex := expEncl w { lo := rl.toNat, hi := rh.toNat }
  if 0 ≤ q then { lo := ex.lo * 2 ^ q.toNat / 2 ^ 64, hi := ex.hi * 2 ^ q.toNat / 2 ^ 64 + 1 }
  else { lo := ex.lo / 2 ^ (64 + (-q).toNat), hi := ex.hi / 2 ^ (64 + (-q).toNat) + 1 }

/-- tanh a (R240). -/
def tanhV (a : Val) : Val × Flags :=
  match a with
  | .nan => (.nan, noFlags)
  | .inf neg => (.fin neg 1 0 false, noFlags)
  | .fin neg m e _ =>
    if m = 0 then (.fin neg 0 0 false, noFlags)
    else if ltV (.fin false m e false) (.fin false 1 (-40) false) then
      -- x − x³/3 < tanh x < x
      (.fin neg (m * 2 ^ 50 - 1) (e - 50) true, noFlags)
    else if !ltV (.fin false m e false) (.fin false 32 0 false) then
      (if neg then negV (nearPow 0 false) else nearPow 0 false, noFlags)
    else
      (firstDecided ladder neg fun p =>
        let x := expOfDyadic p false (2 * m) e
        { lo := (x.lo - 2 ^ p) * 2 ^ p / (x.lo + 2 ^ p), hi := (x.hi - 2 ^ p) * 2 ^ p / (x.hi + 2 ^ p) + 1 }, noFlags)

/-- 1 / (1 + e^(−a)) (R240). -/
def sigmV (a : Val) : Val × Flags :=
  match a with
  | .nan => (.nan, noFlags)
  | .inf neg => (if neg then .fin false 0 0 false else .fin false 1 0 false, noFlags)
  | .fin neg m e _ =>
    if m = 0 then (.fin false 1 (-1) false, noFlags)
    else if ltV (.fin false m e false) (.fin false 1 (-70) false) then (nearPow (-1) (!neg), noFlags)
    else if !ltV (.fin false m e false) (.fin false 200 0 false) then
      (if neg then .fin false 1 (-280) false else nearPow 0 false, noFlags)
    else
      (firstDecided ladder false fun p =>
        let x := expOfDyadic p neg m e
        { lo := x.lo * 2 ^ p / (x.lo + 2 ^ p), hi := x.hi * 2 ^ p / (x.hi + 2 ^ p) + 1 }, noFlags)

/-- The FP32 value of a result: rounded RNE whatever the element's mode (R240). -/
def viaFp32 (r : Val × Flags) : Val × Flags :=
  let (c, fl) := roundFp32 .rne r.1
  (valF32 c, orFlags r.2 fl)

/-- The 9-bit grid of R241. -/
def est9 : FloatFmt := { frac := 8, qmin := -134, maxCode := 0xFEFF, width := 17, ieee := true }

/-- A value on the grid of R241, with FLT_OVF beyond the FP32 range. -/
def toEst (v : Val) : Val × Flags :=
  let (c, fl) := roundFloat est9 .rne v
  (decodeFloat est9 c, fl)

/-- 1/a on the 9-bit grid (R241). -/
def rcpeV (a : Val) : Val × Flags :=
  match a with
  | .nan => (.nan, noFlags)
  | .inf neg => (.fin neg 0 0 false, noFlags)
  | .fin neg m _ _ =>
    if m = 0 then (.inf neg, { dz := true })
    else toEst (quotV (.fin false 1 0 false) a)

/-- 1/√a on the 9-bit grid (R241). -/
def rsqeV (a : Val) : Val × Flags :=
  match a with
  | .nan => (.nan, noFlags)
  | .inf neg => if neg then (.nan, invFlag) else (.fin false 0 0 false, noFlags)
  | .fin neg m e _ =>
    if m = 0 then (.inf neg, { dz := true })
    else if neg then (.nan, invFlag)
    else
      -- floor of 2^s/√a, from the floor of 2^(2s)/a
      let odd : Nat := if e % 2 == 0 then 0 else 1
      let sh : Nat := 2 * (Nat.log2 m + 80) + odd
      let q := 2 ^ sh / m
      let r := isqrt q
      toEst (.fin false r (-((e + sh) / 2)) (r * r != q || 2 ^ sh % m != 0))

end Sys2Proof
end

