-- ==== Sys2Proof/Machine/OpsVec.lean ====
section
/-! DEFINITION. The vector operations as steps of an element (09 R231-R263): arithmetic, transcendentals,
integers, comparison, conversion, headers, lane movement, streams and state. -/

namespace Sys2Proof.Machine

/-! ### Classes of formats (R234) -/

/-- Float. -/
def clsFloat (f : Fmt) : Bool := isFloat f
/-- Integer. -/
def clsInt (f : Fmt) : Bool := isInt f && f != .i48
/-- Float or Integer. -/
def clsPlain (f : Fmt) : Bool := clsFloat f || clsInt f
/-- Numeric. -/
def clsNum (f : Fmt) : Bool := clsPlain f || isPsd f || f == .i48
/-- Any. -/
def clsAny (_ : Fmt) : Bool := true

/-- The format of a header that has passed check 4. -/
def Hdr.f (x : Hdr) : Fmt := (x.format).getD .fp32

/-- Whether a result of a PSD format would have to leave column by column: PSD tiles are written line by line in row
order only, and a conversion of such a tile fails check 15 (R246; DEDUCED for the other operations, log 117). -/
def psdAcross (out : Fmt) (x : Hdr) : Bool := isPsd out && x.order == 1

/-- The checks of R62 and R234 on the tile inputs: class, sparsity and scales of each header; then
agreement in format and order; then in shape. -/
def ewCheck (cls : Fmt → Bool) (xs : List Hdr) : Option HdrErr :=
  let ix := (List.range xs.length).zip xs
  let x0 := xs.headD {}
  match ix.find? fun e => !cls (Hdr.f e.2) || e.2.spar != 0 || e.2.slay != 0 with
  | some e => some (15, e.1)
  | none =>
    match ix.find? fun e => e.2.fmt != x0.fmt || e.2.order != x0.order with
    | some e => some (15, e.1)
    | none =>
      match ix.find? fun e => e.2.rowsM1 != x0.rowsM1 || e.2.colsM1 != x0.colsM1 with
      | some e => some (16, e.1)
      | none => none

/-! ### Element-by-element operations (R232, R235, R237) -/

/-- Whether operand B is the scalar of IMM32, and C that of the constant pool (R232). -/
def Cfg.scalarB (c : Cfg) : Bool := c.mode % 2 == 1
/-- Whether operand C is the scalar of the constant pool. -/
def Cfg.scalarC (c : Cfg) : Bool := c.mode / 2 % 2 == 1

/-- The tile inputs of an operation with `n` operands. -/
def Cfg.tiles (c : Cfg) (n : Nat) : List Nat :=
  [0] ++ (if 2 ≤ n && !c.scalarB then [1] else []) ++ (if 3 ≤ n && !c.scalarC then [2] else [])

/-- The value of a 4-byte scalar beside tiles of a format. -/
def scalarVal (f : Fmt) (w : Nat) : Val := if isFloat f then valF32 w else valOfInt (signedN 32 w)

/-- The code of the one element of tile input `i` in a unit. -/
def oneCode (c : Cfg) (n : Nat) (codes : List (List Nat)) (i : Nat) : Nat :=
  (codes.getD ((c.tiles n).idxOf i) []).headD 0

/-- The exact value of operand `i` of an element. -/
def operand (c : Cfg) (n : Nat) (f : Fmt) (codes : List (List Nat)) (i : Nat) : Val :=
  if i = 1 && c.scalarB then scalarVal f c.imm32
  else if i = 2 && c.scalarC then scalarVal f (c.poolWord c.imm16)
  else decodeElem f 0 (oneCode c n codes i)

/-- The walk of an element-by-element operation whose element result is `f`. -/
def ewPlan (cls : Fmt → Bool) (out : Fmt → Fmt)
    (f : Fmt → List (List Nat) → Nat × Flags) (_ : OpSt) (xs : List Hdr) : Except HdrErr Plan :=
  match ewCheck cls xs with
  | some e => .error e
  | none =>
    let x := xs.headD {}
    let fm := Hdr.f x
    if psdAcross (out fm) x then .error (15, 0)
    else
      .ok { outa := some (resultHdr x (out fm))
            units := (x.geom fm).elems
            unit := fun st _ codes _ _ =>
              let r := f fm codes
              { st := st, outa := [r.1], flags := r.2 } }

/-- The step of an element-by-element operation. -/
def ewStep (c : Cfg) (n : Nat) (cls : Fmt → Bool) (out : Fmt → Fmt)
    (f : Fmt → List (List Nat) → Nat × Flags) (st : OpSt) (ins : Ins) : Res :=
  walkStep c (c.tiles n) none false (ewPlan cls out f) st ins

/-- The result of an exact value and its flags, rounded once (R237). -/
def fitV (c : Cfg) (f : Fmt) (v : Val) (fl : Flags) : Nat × Flags :=
  let r := c.fit f v
  (r.1, orFlags fl r.2)

/-- INV where a computation is invalid. -/
def invIf (b : Bool) : Flags := { inv := b }

/-- A floating-point operation of `n` operands (R238). -/
def floatStep (n : Nat) (f : Cfg → List Val → Val × Flags) (c : Cfg) (st : OpSt) (ins : Ins) : Res :=
  ewStep c n clsFloat c.outFmt
    (fun fm codes =>
      let r := f c ((List.range n).map fun i => operand c n fm codes i)
      fitV c (c.outFmt fm) r.1 r.2) st ins

/-- The `i`-th operand. -/
def argV (vs : List Val) (i : Nat) : Val := vs.getD i .nan

/-- The exact sum of two values. -/
def sumV (c : Cfg) (a b : Val) : Val × Flags :=
  let r := addV (rndOf c.rnd) a b
  (r.1, invIf r.2)

/-- The smaller or the larger of two values: −0 below +0, NaN with any NaN (R239). -/
def pickV (larger : Bool) (a b : Val) : Val :=
  if isNan a || isNan b then .nan
  else if ltV a b then (if larger then b else a)
  else if ltV b a then (if larger then a else b)
  else if larger then (if valNeg a then b else a)
  else if valNeg a then a else b

/-- VADD (R238). -/
def stepVadd : Cfg → OpSt → Ins → Res := floatStep 2 fun c vs => sumV c (argV vs 0) (argV vs 1)
/-- VSUB (R238). -/
def stepVsub : Cfg → OpSt → Ins → Res := floatStep 2 fun c vs => sumV c (argV vs 0) (negV (argV vs 1))
/-- VMUL (R238). -/
def stepVmul : Cfg → OpSt → Ins → Res :=
  floatStep 2 fun _ vs => let r := mulV (argV vs 0) (argV vs 1); (r.1, invIf r.2)
/-- VFMA (R238): exact product and sum. -/
def stepVfma : Cfg → OpSt → Ins → Res :=
  floatStep 3 fun c vs =>
    let p := mulV (argV vs 0) (argV vs 1)
    let r := sumV c p.1 (argV vs 2)
    (r.1, orFlags (invIf p.2) r.2)
/-- VMIN (R238, R239). -/
def stepVmin : Cfg → OpSt → Ins → Res := floatStep 2 fun _ vs => (pickV false (argV vs 0) (argV vs 1), {})
/-- VMAX (R238, R239). -/
def stepVmax : Cfg → OpSt → Ins → Res := floatStep 2 fun _ vs => (pickV true (argV vs 0) (argV vs 1), {})
/-- VABS (R238). -/
def stepVabs : Cfg → OpSt → Ins → Res := floatStep 1 fun _ vs => (absV (argV vs 0), {})
/-- VNEG (R238). -/
def stepVneg : Cfg → OpSt → Ins → Res := floatStep 1 fun _ vs => (negV (argV vs 0), {})
/-- VDIV (R238, R239). -/
def stepVdiv : Cfg → OpSt → Ins → Res := floatStep 2 fun _ vs => divV (argV vs 0) (argV vs 1)

/-- VSQRT (R240). -/
def stepVsqrt : Cfg → OpSt → Ins → Res :=
  floatStep 1 fun _ vs => viaFp32 (let r := sqrtV (argV vs 0); (r.1, invIf r.2))
/-- VRCPE (R241). -/
def stepVrcpe : Cfg → OpSt → Ins → Res := floatStep 1 fun _ vs => rcpeV (argV vs 0)
/-- VRSQE (R241). -/
def stepVrsqe : Cfg → OpSt → Ins → Res := floatStep 1 fun _ vs => rsqeV (argV vs 0)
/-- VEXP2 (R240). -/
def stepVexp2 : Cfg → OpSt → Ins → Res := floatStep 1 fun _ vs => viaFp32 (exp2V (argV vs 0))
/-- VLOG2 (R240). -/
def stepVlog2 : Cfg → OpSt → Ins → Res := floatStep 1 fun _ vs => viaFp32 (log2V (argV vs 0))
/-- VTANH (R240). -/
def stepVtanh : Cfg → OpSt → Ins → Res := floatStep 1 fun _ vs => viaFp32 (tanhV (argV vs 0))
/-- VSIGM (R240). -/
def stepVsigm : Cfg → OpSt → Ins → Res := floatStep 1 fun _ vs => viaFp32 (sigmV (argV vs 0))

/-! ### Integer and logic (R242) -/

/-- Operand `i` of an integer operation. -/
def intOperand (c : Cfg) (f : Fmt) (codes : List (List Nat)) (i : Nat) : Int :=
  if i = 1 && c.scalarB then signedN 32 c.imm32 else decodeInt f (oneCode c 2 codes i)

/-- An integer operation of two operands whose exact result is fit to the format. -/
def intFitStep (f : Fmt → Int → Int → Int) (c : Cfg) (st : OpSt) (ins : Ins) : Res :=
  ewStep c 2 clsInt id
    (fun fm codes => c.fit fm (valOfInt (f fm (intOperand c fm codes 0) (intOperand c fm codes 1)))) st ins

/-- An integer operation on the w-bit patterns of its operands; it sets no flag. -/
def intBitsStep (n : Nat) (f : Fmt → Int → Nat → Nat → Nat → Nat) (c : Cfg) (st : OpSt) (ins : Ins) : Res :=
  ewStep { c with mode := if n = 1 then c.mode ||| 1 else c.mode } 2 clsInt id
    (fun fm codes =>
      let a := decodeInt fm (oneCode c 2 codes 0)
      let b := if n = 1 then 0 else intOperand c fm codes 1
      let w := fmtWidth fm
      (f fm a (wrapN w a) (wrapN w b) (wrapN 6 b) % 2 ^ w, {})) st ins

/-- The shift count b[5:0] of an integer operand. -/
def shiftOf (b : Int) : Nat := wrapN 6 b

/-- VIADD. -/
def stepViadd : Cfg → OpSt → Ins → Res := intFitStep fun _ a b => a + b
/-- VISUB. -/
def stepVisub : Cfg → OpSt → Ins → Res := intFitStep fun _ a b => a - b
/-- VIMUL. -/
def stepVimul : Cfg → OpSt → Ins → Res := intFitStep fun _ a b => a * b
/-- VIMULH: it always fits and sets no flag; with an IMM32 beyond the format's range the low bits of the result stay
(DEDUCED, log 130; R242). -/
def stepVimulh : Cfg → OpSt → Ins → Res :=
  fun c st ins =>
    ewStep c 2 clsInt id
      (fun fm codes =>
        (wrapN (fmtWidth fm) (intOperand c fm codes 0 * intOperand c fm codes 1 / (2 : Int) ^ fmtWidth fm), {}))
      st ins
/-- VSHL. -/
def stepVshl : Cfg → OpSt → Ins → Res := intFitStep fun _ a b => a * (2 : Int) ^ shiftOf b
/-- VSHR. -/
def stepVshr : Cfg → OpSt → Ins → Res := intBitsStep 2 fun _ _ pa _ s => pa / 2 ^ s
/-- VSAR. -/
def stepVsar : Cfg → OpSt → Ins → Res := intBitsStep 2 fun fm a _ _ s => wrapN (fmtWidth fm) (a / (2 : Int) ^ s)
/-- VAND. -/
def stepVand : Cfg → OpSt → Ins → Res := intBitsStep 2 fun _ _ pa pb _ => pa &&& pb
/-- VOR. -/
def stepVor : Cfg → OpSt → Ins → Res := intBitsStep 2 fun _ _ pa pb _ => pa ||| pb
/-- VXOR. -/
def stepVxor : Cfg → OpSt → Ins → Res := intBitsStep 2 fun _ _ pa pb _ => pa ^^^ pb
/-- VNOT: operand B is not used. -/
def stepVnot : Cfg → OpSt → Ins → Res := intBitsStep 1 fun fm _ pa _ _ => 2 ^ fmtWidth fm - 1 - pa
/-- VABSD. -/
def stepVabsd : Cfg → OpSt → Ins → Res := intFitStep fun _ a b => ((a - b).natAbs : Int)

/-! ### Compare, select and clamp (R243-R245) -/

/-- The predicates of VCMP (R243). -/
def cmpHolds (p : Nat) (a b : Val) : Bool :=
  match p with
  | 0 => eqV a b
  | 1 => !eqV a b
  | 2 => ltV a b
  | 3 => leV a b
  | 4 => ltV b a
  | 5 => leV b a
  | _ => isNan a || isNan b

/-- A control-plane DATA token. -/
def valTok (v : Nat) : Tok := .ctl .data (BitVec.ofNat 64 v)

/-- VCMP (R243): a UINT8 mask on o0; at EOT the count on o1, all ones when the predicate holds everywhere. -/
def stepVcmp (c : Cfg) (st : OpSt) (ins : Ins) : Res :=
  walkStep c (c.tiles 2) none false
    (fun _ xs =>
      match ewCheck clsPlain xs with
      | some e => .error e
      | none =>
        let x := xs.headD {}
        let fm := Hdr.f x
        let total := (x.geom fm).elems
        .ok { outa := some (resultHdr x .uint8)
              units := total
              start := fun st => { st with cnt := 0 }
              unit := fun st _ codes _ _ =>
                let h := cmpHolds c.pred (operand c 2 fm codes 0) (operand c 2 fm codes 1)
                { st := { st with cnt := st.cnt + (if h then 1 else 0) }, outa := [if h then 1 else 0] }
              endb := fun st => [valTok (if st.cnt = total then 2 ^ 64 - 1 else st.cnt)] })
    st ins

/-- An element taken over into a format: unchanged when it is the format it came from (02 R53). -/
def recode (c : Cfg) (src dst : Fmt) (cut code : Nat) : Nat × Flags :=
  if src == dst && (!isPsd src || cut = 0 || fmtPlanes src ≤ cut) then (code, {})
  else c.fit dst (decodeElem src cut code)

/-- The checks of R244 on a mask tile against A. -/
def maskCheck (x m : Hdr) (i : Nat) : Option HdrErr :=
  if Hdr.f m != .uint8 || m.spar != 0 || m.slay != 0 then some (15, i)
  else if m.rowsM1 != x.rowsM1 || m.colsM1 != x.colsM1 || m.order != x.order then some (16, i)
  else none

/-- VSEL (R244). -/
def stepVsel (c : Cfg) (st : OpSt) (ins : Ins) : Res :=
  let ts := if c.scalarB then [0, 2] else [0, 1, 2]
  walkStep c ts none false
    (fun _ xs =>
      let k := xs.length - 1
      let x := xs.headD {}
      match ewCheck (fun f => clsNum f && !isPsd f) (xs.take k) with
      | some e => .error e
      | none =>
        match (if psdAcross (c.outFmt (Hdr.f x)) x then some (15, 0) else maskCheck x (xs.getD k {}) k) with
        | some e => .error e
        | none =>
          let fm := Hdr.f x
          let out := c.outFmt fm
          .ok { outa := some (resultHdr x out)
                units := (x.geom fm).elems
                unit := fun st _ codes _ _ =>
                  let a := (codes.getD 0 []).headD 0
                  let b := (codes.getD 1 []).headD 0
                  let m := (codes.getD k []).headD 0
                  let r := if m != 0 then recode c fm out 0 a
                    else if c.scalarB then c.fit out (scalarVal fm c.imm32) else recode c fm out 0 b
                  { st := st, outa := [r.1], flags := r.2 } })
    st ins

/-- VCLAMP (R245). -/
def stepVclamp (c : Cfg) (st : OpSt) (ins : Ins) : Res :=
  ewStep c 3 clsPlain id
    (fun fm codes =>
      let a := operand c 3 fm codes 0
      let lo := operand c 3 fm codes 1
      let hi := operand c 3 fm codes 2
      if isNan a || isNan lo || isNan hi then c.fit fm .nan
      else
        let v := if ltV a lo then lo else a
        c.fit fm (if ltV hi v then hi else v)) st ins

/-! ### Conversion (R246-R248, 01 R32) -/

/-- The scale layout a conversion makes. -/
def convSlay (target slay : Nat) : Nat := if target = 15 then slay else target

/-- The header of a converted tile (R246). -/
def convHdr (x : Hdr) (tf : Fmt) (tslay : Nat) : Hdr :=
  let src := Hdr.f x
  { x with
    fmt := fmtCode tf
    slay := tslay
    sfmt := if tslay = 0 then 0 else if tslay = 1 && x.slay != 1 then 1 else x.sfmt
    ext := if tslay = 0 then 0 else if tslay = 1 && x.slay != 1 then 0x3F800000 else x.ext
    order := if isPsd tf then 2 else if isPsd src then 0 else x.order
    planesM1 := fmtPlanes tf - 1
    cut := 0 }

/-- A stored element converted: its code, in format `tf`, with its scales applied unless they are kept. -/
def convElem (rnd satp : Nat) (t : Tile) (tf : Fmt) (keep : Bool) (m q code : Nat) : Nat × Flags :=
  let c : Cfg := { rnd := rnd, satp := satp }
  if keep then recode c t.geom.fmt tf t.cut code
  else
    let (v, bad) := t.valAt m q code
    fitV c tf v (invIf bad)

/-- The lines of a converted tile and the flags. -/
def convLines (rnd satp : Nat) (t : Tile) (tf : Fmt) (keep : Bool) : List (List Nat) × Flags :=
  let rs := ((List.range t.lines.length).zip t.lines).map fun (m, l) =>
    ((List.range l.length).zip l).map fun (q, code) => convElem rnd satp t tf keep m q code
  (rs.map fun l => l.map fun r => r.1, rs.foldl (fun a l => l.foldl (fun b r => orFlags b r.2) a) {})

/-- A held tile converted: the tokens of the result (R246). -/
def convTile (rnd satp : Nat) (t : Tile) (tf : Fmt) (tslay : Nat) : List Tok × Flags :=
  let keep := tslay == t.hdr.slay
  let (ls, fl) := convLines rnd satp t tf keep
  let x := convHdr t.hdr tf tslay
  let out : Tile := { hdr := x, geom := x.linkGeom tf, cut := 0, lines := ls,
                      scales := if 2 ≤ tslay then t.scales else [], index := t.index }
  let (x', img) := out.image
  (tileToks x'.toBits img, fl)

/-- Whether a conversion to a format and scale layout fails check 15 (R246). -/
def convBad (x : Hdr) (tf : Fmt) (tslay : Nat) : Bool :=
  Hdr.f x == .kp64 || (tslay != x.slay && 2 ≤ tslay) || (isPsd tf && (x.order == 1 || x.spar != 0))

/-- Scale and index bytes moved from one tile's places to another's. -/
def carriedTail (x out : Hdr) (img : Nat) : Nat :=
  let g := x.linkGeom (Hdr.f x)
  let o := out.linkForm (out.linkGeom (Hdr.f out))
  (if 2 ≤ out.slay then imgBits img (8 * x.soff) (8 * g.scaleBytes) * 2 ^ (8 * o.soff) else 0)
  + (if out.spar != 0 then imgBits img (8 * x.xoff) (8 * g.indexBytes) * 2 ^ (8 * o.xoff) else 0)

/-- The row and column of a stored element that a walk meets, which only an inline scale needs. -/
def lineOf (g : Geom) (e : Nat) : Nat × Nat := if g.stored = 0 then (0, 0) else (e / g.stored, e % g.stored)

/-- Whether a conversion holds its tile (R236): it applies scales, or its source or target is PSD. -/
def convHolds (tf : Fmt) (target : Nat) (x : Hdr) : Bool :=
  (convSlay target x.slay != x.slay && 1 ≤ x.slay) || isPsd (Hdr.f x) || isPsd tf

/-- VCVT (R246). -/
def stepVcvt (c : Cfg) (st : OpSt) (ins : Ins) : Res :=
  let tf := (fmtOf c.ofmt).getD .fp32
  walkStep c [0] none false
    (fun _ xs =>
      let x := xs.headD {}
      let fm := Hdr.f x
      let tslay := convSlay c.tslay x.slay
      if convBad x tf tslay then .error (15, 0)
      else
        let out := convHdr x tf tslay
        .ok { hold := convHolds tf c.tslay x
              outa := some out
              units := (x.linkGeom fm).elems
              unit := fun st _ codes _ _ =>
                let code := (codes.getD 0 []).headD 0
                -- a walk changes the scales only from layout 0 to 1, where they are 1
                let r := recode c fm tf 0 code
                { st := st, outa := [r.1], flags := r.2 }
              hasTail := 2 ≤ tslay || x.spar != 0
              tail := carriedTail x out
              whole := fun st ts =>
                match ts with
                | t :: _ =>
                  let (toks, fl) := convTile c.rnd c.satp t tf tslay
                  .ok (st, toks, [], fl)
                | [] => .ok (st, [], [], {}) })
    st ins { holds := convHolds tf c.tslay, scaled := true }

/-- Whether a scale is zero, infinite or NaN. -/
def scaleBad (w : Nat) : Bool :=
  match valF32 w with
  | .fin _ 0 _ _ => true
  | .fin _ _ _ _ => false
  | _ => true

/-- VRESC (R247): the new scale is IMM32, or the control token taken with the header. -/
def stepVresc (c : Cfg) (st : OpSt) (ins : Ins) : Res :=
  let fromTok := c.mode % 2 == 1
  walkStep c [0] (if fromTok then some 1 else none) false
    (fun st xs =>
      let x := xs.headD {}
      let fm := Hdr.f x
      if !(clsPlain fm) || 2 ≤ x.slay then .error (15, 0)
      else
        let s' := if fromTok then st.cnt1 % 2 ^ 32 else c.imm32
        let bad := scaleBad s'
        let out := if bad then x else { x with slay := 1, sfmt := 1, ext := s' }
        let s := if x.slay == 1 then valF32 x.ext else valOfInt 1
        .ok { outa := some out
              units := (x.linkGeom fm).elems
              startFlags := invIf bad
              unit := fun st _ codes _ _ =>
                let code := (codes.getD 0 []).headD 0
                if bad then { st := st, outa := [code] }
                else
                  let p := mulV (decodeElem fm 0 code) s
                  let d := divV p.1 (valF32 s')
                  let r := fitV c fm d.1 (orFlags (invIf p.2) d.2)
                  { st := st, outa := [r.1], flags := r.2 }
              hasTail := x.spar != 0
              tail := carriedTail x out })
    st ins

/-- The code of a positive value rounded up to SX16 (02 R56). -/
def sx16Up (v : Val) : Nat :=
  match v with
  | .fin _ m e s =>
    if ltV v (.fin false 1 (-126) false) then 256
    else
      let k : Int := (Nat.log2 m : Int) + e
      let r := roundAt .rup false m e s (k - 8)
      ((k + 127).toNat * 256 + r - 256)
  | _ => 255 * 256

/-- A scale rounded up to a scale format. -/
def scaleUp (sfmt : Nat) (v : Val) : Nat :=
  match sfmt with
  | 0 => (roundFloat bf16 .rup v).1
  | 1 => (roundFloat Sys2Proof.fp32 .rup v).1
  | _ => sx16Up v

/-- Q of R248. -/
def quantMax (f : Fmt) : Val :=
  match f with
  | .k8 => valOfInt 240
  | .k6 => valOfInt 14
  | .int8 => valOfInt 127
  | .int4 => valOfInt 7
  | _ => valOfDyadic 255 (-1)

/-- The code of 1.0 in a scale format. -/
def scaleOne (sfmt : Nat) : Nat :=
  match sfmt with
  | 0 => 0x3F80
  | 1 => 0x3F800000
  | _ => 127 * 256

/-- The scale of a group of values (R248). -/
def groupScale (sfmt : Nat) (f : Fmt) (vs : List Val) : Nat :=
  let m := vs.foldl (fun a v =>
    match v with
    | .fin _ _ _ _ => if ltV a (absV v) then absV v else a
    | _ => a) (valOfInt 0)
  if valIsZero m then scaleOne sfmt else scaleUp sfmt (quotV m (quantMax f))

/-- Consecutive pieces of a list, of `n` elements each. -/
def piecesOf {α : Type} (fuel n : Nat) (l : List α) : List (List α) :=
  match fuel with
  | 0 => []
  | fuel + 1 => if l.isEmpty then [] else l.take n :: piecesOf fuel n (l.drop n)

/-- The work of VQNT on a held tile (R248). -/
def quantTile (c : Cfg) (t : Tile) : List Tok × Flags :=
  let f := (fmtOf c.ofmt).getD .k8
  let vals := t.lines.map fun l => l.map fun code => decodeElem t.geom.fmt 0 code
  let groups := match c.tslay with
    | 1 => [vals.flatten]
    | 2 => vals
    | _ => vals.flatMap fun (l : List Val) => piecesOf l.length 64 l
  let scales := groups.map fun g => groupScale c.tsfmt f g
  let per := t.geom.cols
  let scaleAt (i j : Nat) : Nat :=
    match c.tslay with
    | 1 => scales.getD 0 0
    | 2 => scales.getD i 0
    | _ => scales.getD (i * ceilDiv per 64 + j / 64) 0
  let rs := ((List.range vals.length).zip vals).map fun (i, l) =>
    ((List.range l.length).zip l).map fun (j, v) =>
      let d := divV v (decodeScale c.tsfmt (scaleAt i j))
      fitV c f d.1 d.2
  let x : Hdr :=
    { fmt := fmtCode f, slay := c.tslay, sfmt := c.tsfmt, order := if isPsd f then 2 else 0,
      planesM1 := fmtPlanes f - 1, rowsM1 := t.hdr.rowsM1, colsM1 := t.hdr.colsM1, tag := t.hdr.tag,
      seq := t.hdr.seq, ext := if c.tslay = 1 then scales.getD 0 0 else 0 }
  let out : Tile := { hdr := x, geom := x.linkGeom f, cut := 0, lines := rs.map fun l => l.map fun r => r.1,
                      scales := if c.tslay = 1 then [] else scales, index := 0 }
  let (x', img) := out.image
  (tileToks x'.toBits img, rs.foldl (fun a l => l.foldl (fun b r => orFlags b r.2) a) {})

/-- VQNT (R248): element flags only; the scales are rounded up whatever RND holds. -/
def stepVqnt (c : Cfg) (st : OpSt) (ins : Ins) : Res :=
  walkStep c [0] none false
    (fun _ xs =>
      let x := xs.headD {}
      if !clsFloat (Hdr.f x) || x.slay != 0 || x.spar != 0 || x.order != 0 then .error (15, 0)
      else
        .ok { hold := true
              whole := fun st ts =>
                match ts with
                | t :: _ =>
                  let (toks, fl) := quantTile c t
                  .ok (st, toks, [], fl)
                | [] => .ok (st, [], [], {}) })
    st ins { holds := fun _ => true }

/-! ### Headers and lanes (R249-R251) -/

/-- VHDR (R249). -/
def stepVhdr (c : Cfg) (st : OpSt) (ins : Ins) : Res :=
  passStep {
    head := fun st h =>
      let x := Hdr.ofBits h
      let x1 := if c.hsel % 2 == 1 then { x with tag := c.imm16 } else x
      let x2 := if c.hsel / 2 % 2 == 1 then { x1 with ext := c.imm32 } else x1
      let bySeq := c.hsel / 4 % 2 == 1
      let x3 := if bySeq then { x2 with seq := st.cnt } else x2
      (x3.toBits, if bySeq then { st with cnt := (st.cnt + 1) % 65536 } else st) } st ins

/-- Lane `k` of a DATA token. -/
def laneOf (d : Nat) (k : Nat) : Nat := d / 2 ^ (32 * k) % 2 ^ 32

/-- A DATA token with its lanes rearranged by `f`, which names the lane received or none for zero. -/
def mapLanes (d : BitVec 2048) (f : Nat → Option Nat) : BitVec 2048 :=
  BitVec.ofNat 2048 (packBits 32 ((List.range 64).map fun i =>
    match f i with
    | some k => laneOf d.toNat k
    | none => 0))

/-- A lane movement on the tokens of the data region (R250). -/
def laneStep (f : Nat → Option Nat) (st : OpSt) (ins : Ins) : Res :=
  passStep {
    data := fun t k d => if 256 * k < t.geom.dataBytes t.x.rstride then mapLanes d f else d } st ins

/-- VPERM. -/
def stepVperm (c : Cfg) (st : OpSt) (ins : Ins) : Res :=
  laneStep (fun i =>
    let p := c.poolByte (c.imm16 + i)
    if p / 128 % 2 == 1 then none else some (p % 64)) st ins
/-- VROT. -/
def stepVrot (c : Cfg) (st : OpSt) (ins : Ins) : Res :=
  laneStep (fun i =>
    if c.mode == 0 then some ((i + c.imm16) % 64)
    else if i + c.imm16 ≤ 63 then some (i + c.imm16) else none) st ins
/-- VBCAST. -/
def stepVbcast (c : Cfg) (st : OpSt) (ins : Ins) : Res := laneStep (fun _ => some (c.imm16 % 64)) st ins

/-- The checks of R251 on one input. -/
def packBad (x : Hdr) : Bool :=
  x.order != 0 || x.slay != 0 || x.spar != 0 || isPsd (Hdr.f x) || Hdr.f x == .i48

/-- VPACK (R251): element (m, q) of the result is taken from A for q below A's columns, else from B. -/
def stepVpack (c : Cfg) (st : OpSt) (ins : Ins) : Res :=
  walkStep c [0, 1] none false
    (fun _ xs =>
      let a := xs.headD {}
      let b := xs.getD 1 {}
      let ca := a.colsM1 + 1
      let cb := b.colsM1 + 1
      if packBad a then .error (15, 0)
      else if packBad b || a.fmt != b.fmt then .error (15, 1)
      else if a.rowsM1 != b.rowsM1 || 256 < ca + cb then .error (16, 1)
      else
        let w := ca + cb
        .ok { outa := some { resultHdr a (Hdr.f a) with colsM1 := w - 1 }
              units := (a.rowsM1 + 1) * w
              use := fun i k =>
                let m := k / w
                let r := k % w
                if i = 0 then m * ca + min r ca else m * cb + (r - min r ca)
              unit := fun st _ codes _ _ => { st := st, outa := codes.flatten } })
    st ins

/-- VUNPK (R251). -/
def stepVunpk (c : Cfg) (st : OpSt) (ins : Ins) : Res :=
  walkStep c [0] none false
    (fun _ xs =>
      let a := xs.headD {}
      let w := a.colsM1 + 1
      if packBad a then .error (15, 0)
      else if w ≤ c.imm16 then .error (16, 0)
      else
        let h := resultHdr a (Hdr.f a)
        .ok { dataB := true
              outa := some { h with colsM1 := c.imm16 - 1 }
              outb := some { h with colsM1 := w - c.imm16 - 1 }
              units := (a.rowsM1 + 1) * w
              unit := fun st k codes _ _ =>
                if k % w < c.imm16 then { st := st, outa := codes.flatten } else { st := st, outb := codes.flatten } })
    st ins

/-! ### Streams (R252-R256, R259) -/

/-- VPASS (R252). -/
def stepVpass (_ : Cfg) (st : OpSt) (ins : Ins) : Res := passStep { keepSegs := true, late := true } st ins

/-- VBUF (R252): the same, before the buffer that the element keeps of what it owes. -/
def stepVbuf (_ : Cfg) (st : OpSt) (ins : Ins) : Res := passStep { keepSegs := true, late := true } st ins

/-- VCNT (R253). -/
def stepVcnt (c : Cfg) (st : OpSt) (ins : Ins) : Res :=
  if c.mode == 1 && st.ina.isNone && headTag ins.a == some .eor && st.cnt1 == 0 then
    .fire { st := { st with cnt1 := 1 }, outb := [valTok st.cnt] }
  else
    passStep {
      last := fun st t =>
        let st1 := { st with cnt := st.cnt + 1 }
        match c.mode with
        | 0 => ([valTok st1.cnt], st1)
        | 2 => ([valTok t.n], st1)
        | _ => ([], st1) } st ins

/-- VTAKE (R259). -/
def stepVtake (c : Cfg) (st : OpSt) (ins : Ins) : Res :=
  passStep {
    drop := fun st => c.imm32 ≤ st.cnt
    last := fun st _ => ([], { st with cnt := min (st.cnt + 1) c.imm32 }) } st ins

/-- The tokens of a tile made from a pool header with every stored element, or digit, the low bits of a
pattern (R254). -/
def filledTile (h : Header) (seq code : Nat) : List Tok :=
  let x := { Hdr.ofBits h with seq := seq % 65536 }
  let f := Hdr.f x
  let g := x.linkGeom f
  let w := fmtWidth f
  let digit := code % 4
  let u := (List.range (fmtPlanes f)).foldl (fun a _ => 4 * a + digit) 0
  let line := List.replicate g.stored (if isPsd f then u else code % 2 ^ w)
  let y := x.linkForm g
  tileToks y.toBits (g.dataImage (List.replicate g.lines line))

/-- An EOS token. -/
def eosTok : Tok := .ctl .eos 0

/-- VCONST (R254): the next tile, or the EOS after the last; `cnt` counts tiles, `cnt1` is 1 after EOS. -/
def stepVconst (c : Cfg) (st : OpSt) (_ : Ins) : Res :=
  if st.cnt < c.imm32 then
    .fire { st := { st with cnt := st.cnt + 1 },
            owea := filledTile (c.poolHdr c.imm16) st.cnt (c.poolWord (c.imm16 + 32)) }
  else if st.cnt1 == 0 then .fire { st := { st with cnt1 := 1 }, owea := [eosTok] }
  else .idle

/-- VREP (R255): a tile for each control token. -/
def stepVrep (c : Cfg) (st : OpSt) (ins : Ins) : Res :=
  match headVal ins.a with
  | none => .idle
  | some v =>
    let h := c.poolHdr c.imm16
    let (code, fl) := if c.mode == 0 then (v.toNat, {}) else c.fit (Hdr.f (Hdr.ofBits h)) (valF32 (v.toNat % 2 ^ 32))
    -- MODE 1 on a PSD tile fills whole elements, MODE 0 each digit
    let x := Hdr.ofBits h
    let toks := if c.mode == 1 && isPsd (Hdr.f x) then
        let y := { x with seq := st.cnt % 65536 }
        let g := y.linkGeom (Hdr.f y)
        tileToks (y.linkForm g).toBits (g.dataImage (List.replicate g.lines (List.replicate g.stored code)))
      else filledTile h st.cnt code
    .fire { st := { st with cnt := (st.cnt + 1) % 65536 }, take := 1, owea := toks, flags := fl }

/-- VXTR (R256). -/
def stepVxtr (c : Cfg) (st : OpSt) (ins : Ins) : Res :=
  let i := c.imm16 % 256
  let j := c.imm16 / 256 % 256
  walkStep c [0] none false
    (fun _ xs =>
      let x := xs.headD {}
      let fm := Hdr.f x
      if fm == .kp64 || (c.mode == 0 && isPsd fm) then .error (15, 0)
      else if x.rowsM1 < i || x.colsM1 < j then .error (16, 0)
      else
        .ok { hold := true
              whole := fun st ts =>
                match ts with
                | [] => .ok (st, [], [], {})
                | t :: _ =>
                  if !t.indicesOk then .error (17, 0)
                  else
                    match t.find i j with
                    | none => .ok (st, [valTok 0], [], {})
                    | some (m, q) =>
                      let code := (t.lines.getD m []).getD q 0
                      if c.mode == 0 then .ok (st, [valTok code], [], {})
                      else
                        let (v, bad) := t.valAt m q code
                        let r := roundFp32 (rndOf c.rnd) v
                        .ok (st, [valTok r.1], [], orFlags (invIf bad) r.2) })
    st ins { holds := fun x => x.spar != 0 }

/-! ### Merging and splitting (R257, R258) -/

/-- A one-row tile of a format from the codes of its elements. -/
def rowTile (f : Fmt) (seq : Nat) (codes : List Nat) : List Tok :=
  let x : Hdr := { fmt := fmtCode f, colsM1 := codes.length - 1, seq := seq % 65536 }
  let g := x.linkGeom f
  tileToks (x.linkForm g).toBits (g.dataImage [codes])

/-- The next element of a run of VMERGE. -/
inductive Next where
  | some' (code : Nat)
  | fin'
  | wait'
  deriving DecidableEq, Repr

/-- The next element at an input: one of the tile that the element has taken in (16 R409), the end of the run,
or none yet. `used` elements of that tile have gone. -/
def nextOf (tile : Option (Header × Nat)) (open' : Option TileIn) (h : Option Head) (used : Nat) : Next :=
  match tile with
  | some (hd, img) =>
    let x := Hdr.ofBits hd
    let g := x.linkGeom (Hdr.f x)
    .some' (elemCode g img x.rstride used)
  | none => if open'.isNone && headTag h == some .eor then .fin' else .wait'

/-- An element taken of a tile of A or B: the tile goes with its last element. -/
def mergeUse (second : Bool) (st : OpSt) (code : Nat) : OpSt :=
  let left (k : Option (Header × Nat)) (n : Nat) : Bool := match k with
    | some (hd, _) => let x := Hdr.ofBits hd; n + 1 < (x.linkGeom (Hdr.f x)).elems
    | none => false
  let st1 := { st with lanes := st.lanes ++ [code] }
  if second then
    if left st.kept1 st.cnt1 then { st1 with cnt1 := st.cnt1 + 1 } else { st1 with cnt1 := 0, kept1 := none }
  else if left st.kept st.cnt then { st1 with cnt := st.cnt + 1 } else { st1 with cnt := 0, kept := none }

/-- The merge within one firing: `kept` and `kept1` are the tiles taken in, `cnt` and `cnt1` count the elements
gone of them, `lanes` is the open output tile, `cnt2` its number. -/
def mergeUnits (len : Nat) (ins : Ins) (fuel : Nat) (st : OpSt) : OpSt :=
  match fuel with
  | 0 => st
  | fuel + 1 =>
    if len ≤ st.lanes.length then st
    else
      match nextOf st.kept st.ina ins.a st.cnt, nextOf st.kept1 st.inb ins.b st.cnt1 with
      | .some' x, .some' y =>
        if x % 2 ^ 32 ≤ y % 2 ^ 32 then mergeUnits len ins fuel (mergeUse false st x)
        else mergeUnits len ins fuel (mergeUse true st y)
      | .some' x, .fin' => mergeUnits len ins fuel (mergeUse false st x)
      | .fin', .some' y => mergeUnits len ins fuel (mergeUse true st y)
      | _, _ => st

/-- What an input takes in while the element has no whole tile of it: the open tile and the whole tile after. -/
def mergeTake (t : Option TileIn) (kept : Option (Header × Nat)) (h : Option Head) :
    Option (Option TileIn × Option (Header × Nat)) :=
  match kept with
  | some _ => none
  | none =>
    match t with
    | none => (headHdr h).map fun x => (some { hdr := x }, none)
    | some t =>
      match headData h with
      | some d => if t.got < t.n then some (some (t.add d), none) else none
      | none => if headEot h && t.got == t.n then some (none, some (t.hdr, t.img)) else none

/-- The checks on a header that VMERGE reads (R257). -/
def mergeHdr (t : Option TileIn) (h : Option Head) : Option Res :=
  match t, headHdr h with
  | none, some x =>
    match badHdr x with
    | some r => some r
    | none =>
      let y := Hdr.ofBits x
      if Hdr.f y != .kp64 then some (badCheck 15 x) else if y.rowsM1 != 0 then some (badCheck 16 x) else none
  | _, _ => none

/-- VMERGE (R257). The open output tile closes at L elements, and at the end of a run. -/
def stepVmerge (c : Cfg) (st : OpSt) (ins : Ins) : Res :=
  match (match check12 st.ina ins.a with
         | some h => some h
         | none => check12 st.inb ins.b) with
  | some h => badCheck 12 h
  | none =>
    match (match mergeHdr st.ina ins.a with
           | some r => some r
           | none => mergeHdr st.inb ins.b) with
    | some r => r
    | none =>
      let close (s : OpSt) : OpSt × List Tok :=
        ({ s with lanes := [], cnt2 := s.cnt2 + 1 }, rowTile .kp64 s.cnt2 s.lanes)
      if st.ina.isNone && st.inb.isNone && st.kept.isNone && st.kept1.isNone && headTag ins.a == some .eor
          && headTag ins.b == some .eor then
        if st.lanes.isEmpty then .idle
        else let (s, ts) := close st; .fire { st := { s with seg := segLeft s.seg ts }, owea := withSeg s.seg ts }
      else
        let ta := mergeTake st.ina st.kept ins.a
        let tb := mergeTake st.inb st.kept1 ins.b
        let s1 := match ta with
          | some (t, k) => { st with ina := t, kept := k }
          | none => st
        let s2 := match tb with
          | some (t, k) => { s1 with inb := t, kept1 := k }
          | none => s1
        let s3 := mergeUnits c.imm16 ins 512 s2
        let (s4, ts) := if c.imm16 ≤ s3.lanes.length then close s3 else (s3, [])
        if s4 == st then .idle
        else
          let seg := orSegs st.seg ((if ta.isSome then headSegs ins.a else []) ++ if tb.isSome then headSegs ins.b else [])
          .fire {
            st := { s4 with seg := segLeft seg ts }
            take := (if ta.isSome then 1 else 0) + (if tb.isSome then 2 else 0)
            owea := withSeg seg ts }

/-- An element put in an open one-row tile of VSPLIT, closed at L elements. -/
def splitPut (f : Fmt) (len seq : Nat) (open' : List Nat) (code : Nat) : List Nat × Nat × List Tok :=
  let l := open' ++ [code]
  if len ≤ l.length then ([], seq + 1, rowTile f seq l) else (l, seq, [])

/-- VSPLIT (R258): `lanes` and `lanes1` are the open tiles of o0 and o1, `cnt2` and `cnt3` their numbers,
`cnt` the format of their elements. A tile of another format while an output tile is open fails check 15 (DESIGN CHOICE,
log 131). -/
def stepVsplit (c : Cfg) (st : OpSt) (ins : Ins) : Res :=
  let closes := st.ina.isNone && (match headTag ins.a with
    | some .eor => true
    | some .eos => true
    | some .fsw => true
    | _ => false) && (c.mode == 1 || headTag ins.b == headTag ins.a)
  if closes && !(st.lanes.isEmpty && st.lanes1.isEmpty) then
    let f := (fmtOf st.cnt).getD .fp32
    let oa := if st.lanes.isEmpty then [] else rowTile f st.cnt2 st.lanes
    let ob := if st.lanes1.isEmpty then [] else rowTile f st.cnt3 st.lanes1
    .fire {
      st := { st with lanes := [], lanes1 := [], cnt2 := if st.lanes.isEmpty then st.cnt2 else st.cnt2 + 1,
                      cnt3 := if st.lanes1.isEmpty then st.cnt3 else st.cnt3 + 1,
                      seg := segLeft st.seg oa, segb := segLeft st.segb ob }
      owea := withSeg st.seg oa
      oweb := withSeg st.segb ob }
  else
    let key := c.mode == 1
    walkStep c (if key then [0] else [0, 1]) none false
      (fun st xs =>
        let x := xs.headD {}
        let fm := Hdr.f x
        let bad := x.order != 0 || x.slay != 0 || x.spar != 0 || isPsd fm || fm == .i48 || (key && fm != .kp64)
          || (x.fmt != st.cnt && !(st.lanes.isEmpty && st.lanes1.isEmpty))
        if bad then .error (15, 0)
        else
          match (if key then none else maskCheck x (xs.getD 1 {}) 1) with
          | some e => .error e
          | none =>
            .ok { dataB := true
                  units := (x.geom fm).elems
                  start := fun st => { st with cnt := x.fmt }
                  unit := fun st _ codes _ _ =>
                    let code := (codes.getD 0 []).headD 0
                    let second := if key then c.imm32 ≤ code % 2 ^ 32 else (codes.getD 1 []).headD 0 != 0
                    if second then
                      let (l, n, ts) := splitPut fm c.imm16 st.cnt3 st.lanes1 code
                      { st := { st with lanes1 := l, cnt3 := n }, oweb := ts }
                    else
                      let (l, n, ts) := splitPut fm c.imm16 st.cnt2 st.lanes code
                      { st := { st with lanes := l, cnt2 := n }, owea := ts } })
      st ins

/-! ### The kept tile (R260) -/

/-- The tile VSTATE starts with: the pool header, zero data. -/
def vstateInit (c : Cfg) : Header × Nat :=
  let x := Hdr.ofBits (c.poolHdr c.imm16)
  (linkHdr x, 0)

/-- VSTATE (R260). A tile leaves with the header it was stored with, TAG and SEQ included: R260 emits the stored tile,
and the general rule of 02 R61 is for tiles that an element makes (DEDUCED, log 118). -/
def stepVstate (c : Cfg) (st : OpSt) (ins : Ins) : Res :=
  let kept := st.kept.getD (vstateInit c)
  let reads := c.mode == 1 || c.mode == 3
  match (if reads then headVal ins.b else none) with
  | some _ =>
    let ts := tileToks kept.1 kept.2
    .fire { st := { st with seg := segLeft st.seg ts }, take := 2, owea := withSeg st.seg ts }
  | none =>
    if c.mode == 1 then .idle
    else
      walkStep c [0] none false
        (fun _ xs =>
          let x := xs.headD {}
          if c.state < x.linkTokens (x.linkGeom (Hdr.f x)) then .error (11, 0)
          else
            .ok { hold := true
                  whole := fun st ts =>
                    match ts, st.ina with
                    | _ :: _, some t =>
                      .ok ({ st with kept := some (t.hdr, t.img) },
                           if c.mode == 0 then tileToks kept.1 kept.2 else [], [], {})
                    | _, _ => .ok (st, [], [], {}) })
        st ins { holds := fun _ => true }

end Sys2Proof.Machine
end

