-- ==== Sys2Proof/Machine/OpsScan.lean ====
section
/-! DEFINITION. Reductions, scans and recurrences as steps of an element (02 R66-R71, 10 R278-R285). -/

namespace Sys2Proof.Machine

/-! ### State arithmetic (02 R66-R71) -/

/-- Whether the state format of an input format is I48 (10 R279). -/
def stateI48 (f : Fmt) : Bool := isInt f || f == .i48

/-- The state format. -/
def stateFmt (i48 : Bool) : Fmt := if i48 then .i48 else .fp32

/-- An I48 state code from an exact integer, clamped (R71). -/
def satCode (v : Int) : Nat × Flags :=
  let r := satI48 v
  (wrapN 48 r.1, r.2)

/-- The exact product of two state values, rounded once. -/
def stMul (i48 : Bool) (x y : Nat) : Nat × Flags :=
  if i48 then satCode (signedN 48 x * signedN 48 y) else mulF32 x y

/-- The exact sum of two values rounded to FP32, RNE. A sum of two −0 is −0: the rules of the recurrences name only
round_fp32 of the sum (DEDUCED, log 119; 02 R68). -/
def addF32 (x y : Nat) : Nat × Flags :=
  let r := addV .rne (valF32 x) (valF32 y)
  let q := roundFp32 .rne r.1
  (q.1, orFlags (invIf r.2) q.2)

/-- x · y + z: rounded twice for FP32 (R68, R69). -/
def stMad (i48 : Bool) (x y z : Nat) : Nat × Flags :=
  if i48 then satCode (signedN 48 x * signedN 48 y + signedN 48 z)
  else
    let p := mulF32 x y
    let s := addF32 p.1 z
    (s.1, orFlags p.2 s.2)

/-- x · y + z, rounded once (R70). -/
def stFma (i48 : Bool) (x y z : Nat) : Nat × Flags :=
  if i48 then stMad true x y z
  else
    let p := mulV (valF32 x) (valF32 y)
    let s := addV .rne p.1 (valF32 z)
    let q := roundFp32 .rne s.1
    (q.1, orFlags (invIf (p.2 || s.2)) q.2)

/-- An FP32 code as a unit gives it on: a NaN is the canonical one (R45). -/
def canonF32 (code : Nat) : Nat := if isNan (valF32 code) then 0x7FC00000 else code

/-- An input value as it enters the recurrence (R67), from its code and exact value. -/
def enterV (f : Fmt) (scaled : Bool) (code : Nat) (v : Val × Bool) : Nat × Flags :=
  if f == .i48 then (code, {})
  else if isInt f then (wrapN 48 (decodeInt f code), {})
  else if f == .fp32 && !scaled then (canonF32 code, {})
  else
    let q := roundFp32 .rne v.1
    (q.1, orFlags (invIf v.2) q.2)

/-- An input element on a tile with no scale or an inline scale. -/
def enterCode (x : Hdr) (code : Nat) : Nat × Flags :=
  let f := Hdr.f x
  let d := decodeElem f 0 code
  if x.slay == 1 then enterV f true code (mulV d (valF32 x.ext)) else enterV f false code (d, false)

/-- The entered codes of a list of elements. -/
def enterAll (x : Hdr) (codes : List Nat) : List Nat × Flags :=
  let rs := codes.map (enterCode x)
  (rs.map fun r => r.1, rs.foldl (fun a r => orFlags a r.2) {})

/-- The entered codes of a held tile, in row-major order (R279). -/
def enterTile (t : Tile) : List Nat × Flags :=
  let rs := (List.range t.geom.rows).flatMap fun i => (List.range t.geom.cols).map fun j =>
    let (m, q) := if t.hdr.order == 1 then (j, i) else (i, j)
    let code := (t.lines.getD m []).getD q 0
    enterV t.geom.fmt (t.hdr.slay != 0) code (t.valAt m q code)
  (rs.map fun r => r.1, rs.foldl (fun a r => orFlags a r.2) {})

/-- A state value as an output element: the state format, or fit to OFMT (R237). -/
def outState (c : Cfg) (i48 : Bool) (code : Nat) : Nat × Flags :=
  if c.ofmt = 0 then (code, {})
  else c.fit (c.outFmt .fp32) (if i48 then valOfInt (signedN 48 code) else valF32 code)

/-- Output elements from state values. -/
def outStates (c : Cfg) (i48 : Bool) (codes : List Nat) : List Nat × Flags :=
  let rs := codes.map (outState c i48)
  (rs.map fun r => r.1, rs.foldl (fun a r => orFlags a r.2) {})

/-- The header of a result in the state format or OFMT: by rows, no scales. -/
def scanHdr (c : Cfg) (i48 : Bool) (x : Hdr) : Hdr :=
  resultHdr { x with order := 0 } (if c.ofmt = 0 then stateFmt i48 else c.outFmt .fp32)

/-- All the tokens of a tile that has been written whole, with the SEG tokens of its masks. -/
def outAll (t : TileOut) : List Tok :=
  .hdr t.hdr :: ((List.range t.n).flatMap fun k =>
    let u := { t with sent := k }
    u.segs ++ [dataTok t.img k]) ++ [eotTok t.x.seq t.n]

/-- A tile from its header fields, its codes in row-major order, and its masks. -/
def rowMajor (x : Hdr) (codes : List Nat) (masks : List (Nat × Nat)) : TileOut :=
  let t : TileOut := { hdr := linkHdr x, masks := masks }
  t.puts codes

/-- The masks of every group of the open tiles. -/
def heldMask (ts : List (Option TileIn)) (g : Nat) : Nat :=
  groupMask (ts.map fun t =>
    match t with
    | some t => t.masks
    | none => []) g

/-- The checks of R279 on one input; `ok` says which formats the operation takes. -/
def scanBad (ok : Fmt → Bool) (x : Hdr) : Bool :=
  let f := Hdr.f x
  !(clsNum f && ok f) || x.spar != 0 || (stateI48 f && x.slay != 0)

/-- Whether an input is held (R279). -/
def scanHeld (x : Hdr) : Bool := x.order != 0 || 2 ≤ x.slay

/-- Whether a held input exceeds 32 KiB (R236). -/
def scanBig (x : Hdr) : Bool := scanHeld x && 32768 < 256 * x.linkTokens (x.linkGeom (Hdr.f x))

/-- The checks of R279 on the tile inputs: size of those held, class, agreement, columns. -/
def scanCheck (ok : Fmt → Bool) (orders : Bool) (cols : Nat → Bool) (xs : List Hdr) : Option HdrErr :=
  let ix := (List.range xs.length).zip xs
  let x0 := xs.headD {}
  match ix.find? fun e => scanBig e.2 with
  | some e => some (11, e.1)
  | none =>
    match ix.find? fun e => scanBad ok e.2 || e.2.fmt != x0.fmt || (orders && e.2.order != x0.order) with
    | some e => some (15, e.1)
    | none =>
      match ix.find? fun e => e.2.rowsM1 != x0.rowsM1 || e.2.colsM1 != x0.colsM1 || !cols (e.2.colsM1 + 1) with
      | some e => some (16, e.1)
      | none => none

/-! ### VRED (R280) -/

/-- One level of the tree of R66. -/
def treeLevel (xs : List Nat) : List Nat × Flags :=
  let h := xs.length / 2
  let rs := (List.range h).map fun i => addF32 (xs.getD i 0) (xs.getD (i + h) 0)
  (rs.map fun r => r.1, rs.foldl (fun a r => orFlags a r.2) {})

/-- The tree of R66 over 64 lanes. -/
def treeSum (n : Nat) (xs : List Nat) (fl : Flags) : Nat × Flags :=
  match n with
  | 0 => (xs.headD 0, fl)
  | n + 1 =>
    let r := treeLevel xs
    treeSum n r.1 (orFlags fl r.2)

/-- The sum of a row in groups of 64, padded with +0.0. -/
def rowSum (xs : List Nat) : Nat × Flags :=
  (piecesOf xs.length 64 xs).foldl (fun a g =>
    let t := treeSum 6 (g ++ List.replicate (64 - g.length) 0) {}
    let s := sumF32 a.1 t.1
    (s.1, orFlags a.2 (orFlags t.2 s.2))) (0, {})

/-- The exact integer sum of I48 codes. -/
def intSum (xs : List Nat) : Int := xs.foldl (fun a x => a + signedN 48 x) 0

/-- The extreme of a row. -/
def rowExtreme (i48 larger : Bool) (xs : List Nat) : Nat :=
  match xs with
  | [] => 0
  | x :: rest =>
    if i48 then
      wrapN 48 (rest.foldl (fun a y => if larger then max a (signedN 48 y) else min a (signedN 48 y)) (signedN 48 x))
    else (roundFp32 .rne (rest.foldl (fun a y => pickV larger a (valF32 y)) (valF32 x))).1

/-- A row reduced: the state value of modes 0 to 2. -/
def reduceRow (c : Cfg) (i48 : Bool) (xs : List Nat) : Nat × Flags :=
  match c.mode with
  | 0 => if i48 then satCode (intSum xs) else rowSum xs
  | 1 => (rowExtreme i48 true xs, {})
  | _ => (rowExtreme i48 false xs, {})

/-- The whole tile reduced, from its entered rows (`.all`). -/
def reduceAll (i48 : Bool) (rows : List (List Nat)) : Nat × Flags :=
  if i48 then satCode (intSum rows.flatten)
  else rows.foldl (fun a xs =>
    let s := rowSum xs
    let t := sumF32 a.1 s.1
    (t.1, orFlags a.2 (orFlags s.2 t.2))) (0, {})

/-- The result elements of VRED from the entered rows of a tile. -/
def reduceTile (c : Cfg) (i48 : Bool) (rows : List (List Nat)) : List Nat × Flags :=
  let rs := if c.mode == 3 then [reduceAll i48 rows] else rows.map (reduceRow c i48)
  let os := outStates c i48 (rs.map fun r => r.1)
  (os.1, rs.foldl (fun a r => orFlags a r.2) os.2)

/-- VRED (R280). A tile taken as it arrives gives a result element with the last element of each row; with
`.all`, the rows' entered values wait in `lanes`. -/
def stepVred (c : Cfg) (st : OpSt) (ins : Ins) : Res :=
  walkStep c [0] none false
    (fun _ xs =>
      match scanCheck clsNum false (fun _ => true) xs with
      | some e => .error e
      | none =>
        let x := xs.headD {}
        let i48 := stateI48 (Hdr.f x)
        let w := x.colsM1 + 1
        let n := (x.linkGeom (Hdr.f x)).elems
        let h := { scanHdr c i48 x with colsM1 := 0, rowsM1 := if c.mode == 3 then 0 else x.rowsM1 }
        .ok { hold := scanHeld x
              outa := some h
              units := n
              back := fun k => if k % w == w - 1 then w - 1 else 0
              start := fun st => { st with lanes := [] }
              unit := fun st k codes _ _ =>
                if k % w == w - 1 then
                  let e := enterAll x codes.flatten
                  if c.mode == 3 then
                    let all := st.lanes ++ e.1
                    if k + 1 == n then
                      let r := reduceTile c i48 (piecesOf (x.rowsM1 + 1) w all)
                      { st := { st with lanes := [] }, outa := r.1, flags := orFlags e.2 r.2 }
                    else { st := { st with lanes := all }, flags := e.2 }
                  else
                    let r := reduceTile c i48 [e.1]
                    { st := st, outa := r.1, flags := orFlags e.2 r.2 }
                else { st := st }
              whole := fun st ts =>
                match ts with
                | [] => .ok (st, [], [], {})
                | t :: _ =>
                  let e := enterTile t
                  let r := reduceTile c i48 (piecesOf (x.rowsM1 + 1) w e.1)
                  .ok (st, outAll (rowMajor h r.1 []), [], orFlags e.2 r.2) })
    st ins { scaled := true, grouped := true }

/-! ### VSCAN (R282) -/

/-- The lanes of a scan. -/
structure ScanSt where
  a : List Nat
  b : List Nat
  f : List Bool
  fl : Flags := {}

/-- One level of R68 with distance `d`. -/
def scanLevel (i48 : Bool) (s : ScanSt) (d : Nat) : ScanSt :=
  let rs := (List.range 64).map fun i =>
    if d ≤ i && !s.f.getD i false then
      let p := stMul i48 (s.a.getD i 0) (s.a.getD (i - d) 0)
      let q := stMad i48 (s.a.getD i 0) (s.b.getD (i - d) 0) (s.b.getD i 0)
      (p.1, q.1, s.f.getD (i - d) false, orFlags p.2 q.2)
    else (s.a.getD i 0, s.b.getD i 0, s.f.getD i false, ({} : Flags))
  { a := rs.map fun r => r.1, b := rs.map fun r => r.2.1, f := rs.map fun r => r.2.2.1,
    fl := rs.foldl (fun x r => orFlags x r.2.2.2) s.fl }

/-- A mask from its lanes. -/
def maskOf (f : List Bool) : Nat := packBits 1 (f.map fun b => if b then 1 else 0)

/-- The scan of one group (R68, R71): scanned a, scanned b, f, flags. -/
def scanGroup (i48 : Bool) (a b : List Nat) (m : Nat) : List Nat × List Nat × Nat × Flags :=
  let f := (List.range 64).map fun i => m.testBit i
  let a0 := (List.range 64).map fun i => if m.testBit i then 0 else a.getD i 0
  let s := [1, 2, 4, 8, 16, 32].foldl (scanLevel i48) { a := a0, b := b, f := f }
  (s.a, s.b, maskOf s.f, s.fl)

/-- The scans of consecutive groups of a held tile. -/
def scanGroups (i48 : Bool) (mask : Nat → Nat) (a b : List Nat) :
    List Nat × List Nat × List (Nat × Nat) × Flags :=
  (List.range (a.length / 64)).foldl (fun acc g =>
    let r := scanGroup i48 ((a.drop (64 * g)).take 64) ((b.drop (64 * g)).take 64) (mask g)
    (acc.1 ++ r.1, acc.2.1 ++ r.2.1, acc.2.2.1 ++ [(g, r.2.2.1)], orFlags acc.2.2.2 r.2.2.2)) ([], [], [], {})

/-- Whether element `k` is the last of its group. -/
def lastOf64 (k : Nat) : Bool := k % 64 == 63

/-- VSCAN (R282). -/
def stepVscan (c : Cfg) (st : OpSt) (ins : Ins) : Res :=
  walkStep c [0, 1] none true
    (fun _ xs =>
      match scanCheck (fun f => f != .i48) false (fun w => w % 64 == 0) xs with
      | some e => .error e
      | none =>
        let x := xs.headD {}
        let y := xs.getD 1 {}
        let i48 := stateI48 (Hdr.f x)
        let h := scanHdr c i48 x
        .ok { hold := scanHeld x || scanHeld y
              outa := some h
              outb := some h
              units := (x.linkGeom (Hdr.f x)).elems
              back := fun k => if lastOf64 k then 63 else 0
              unit := fun st k codes mask _ =>
                if lastOf64 k then
                  let ea := enterAll x (codes.getD 0 [])
                  let eb := enterAll y (codes.getD 1 [])
                  let r := scanGroup i48 ea.1 eb.1 mask
                  { st := st, outa := r.1, outb := r.2.1, maska := some r.2.2.1, maskb := some r.2.2.1,
                    flags := orFlags ea.2 (orFlags eb.2 r.2.2.2) }
                else { st := st }
              whole := fun st ts =>
                match ts with
                | a :: b :: _ =>
                  let ea := enterTile a
                  let eb := enterTile b
                  let r := scanGroups i48 (heldMask [st.ina, st.inb]) ea.1 eb.1
                  .ok (st, outAll (rowMajor h r.1 r.2.2.1), outAll (rowMajor h r.2.1 r.2.2.1),
                       orFlags ea.2 (orFlags eb.2 r.2.2.2))
                | _ => .ok (st, [], [], {}) })
    st ins { scaled := true }

/-! ### VACC (R281) -/

/-- The tokens of VACC's sum. The header of the group's first tile is in `kept`, its entered values in
`lanes`. -/
def accEmit (c : Cfg) (st : OpSt) : List Tok :=
  match st.kept with
  | none => []
  | some (h, _) =>
    let x := Hdr.ofBits h
    let i48 := stateI48 (Hdr.f x)
    outAll (rowMajor (scanHdr c i48 x) (outStates c i48 st.lanes).1 [])

/-- The flags of emitting VACC's sum. -/
def accFlags (c : Cfg) (st : OpSt) : Flags :=
  match st.kept with
  | none => {}
  | some (h, _) => (outStates c (stateI48 (Hdr.f (Hdr.ofBits h))) st.lanes).2

/-- The registers after VACC's group. -/
def accClear (st : OpSt) : OpSt := { st with kept := none, lanes := [], lanes1 := [], cnt := 0 }

/-- The sum of an accumulator value and an entered value (R281). -/
def accAdd (i48 : Bool) (a x : Nat) : Nat × Flags :=
  if i48 then satCode (signedN 48 a + signedN 48 x) else addF32 a x

/-- Whether a tag that ends a run heads an input between tiles. -/
def endTag (h : Option Head) : Bool := headTag h == some .eor || headTag h == some .eos

/-- VACC (R281): `cnt` counts the tiles of the open group; `lanes1` collects the new sums of the open
tile. -/
def stepVacc (c : Cfg) (st : OpSt) (ins : Ins) : Res :=
  if st.ina.isNone && endTag ins.a && st.kept.isSome then
    let ts := accEmit c st
    .fire { st := { accClear st with seg := segLeft st.seg ts }, owea := withSeg st.seg ts, flags := accFlags c st }
  else
    let after (st : OpSt) (sums : List Nat) : OpSt := { st with lanes := sums, lanes1 := [], cnt := st.cnt + 1 }
    let full (st : OpSt) : Bool := c.imm16 != 0 && c.imm16 ≤ st.cnt
    walkStep c [0] none false
      (fun st xs =>
        let x := xs.headD {}
        let i48 := stateI48 (Hdr.f x)
        let acc := scanHdr { c with ext := 0 } i48 x
        let small := clsNum (Hdr.f x) && c.state < acc.linkTokens (acc.linkGeom (stateFmt i48))
        match (if small then some (11, 0) else scanCheck clsNum false (fun _ => true) xs) with
        | some e => .error e
        | none =>
          let first := match st.kept with
            | some (h, _) => Hdr.ofBits h
            | none => x
          if x.fmt != first.fmt || x.slay != first.slay then .error (15, 0)
          else if x.rowsM1 != first.rowsM1 || x.colsM1 != first.colsM1 then .error (16, 0)
          else
            .ok { hold := scanHeld x
                  units := (x.linkGeom (Hdr.f x)).elems
                  start := fun st => { st with kept := some ((st.kept.map fun k => k.1).getD x.toBits, 0), lanes1 := [] }
                  unit := fun st k codes _ _ =>
                    let e := enterCode x ((codes.getD 0 []).headD 0)
                    let r := if st.cnt == 0 then e else accAdd i48 (st.lanes.getD k 0) e.1
                    { st := { st with lanes1 := st.lanes1 ++ [r.1] }, flags := orFlags e.2 r.2 }
                  done := fun st =>
                    let s1 := after st st.lanes1
                    if full s1 then accClear s1 else s1
                  doneOwe := fun st =>
                    let s1 := after st st.lanes1
                    if full s1 then accEmit c s1 else []
                  doneFlags := fun st =>
                    let s1 := after st st.lanes1
                    if full s1 then accFlags c s1 else {}
                  whole := fun st ts =>
                    match ts with
                    | [] => .ok (st, [], [], {})
                    | t :: _ =>
                      let e := enterTile t
                      let rs := if st.cnt == 0 then e.1.map fun v => (v, ({} : Flags))
                        else (st.lanes.zip e.1).map fun p => accAdd i48 p.1 p.2
                      let fl := rs.foldl (fun a r => orFlags a r.2) e.2
                      let s1 := after st (rs.map fun r => r.1)
                      if full s1 then .ok (accClear s1, accEmit c s1, [], orFlags fl (accFlags c s1))
                      else .ok (s1, [], [], fl) })
      st ins { scaled := true, grouped := true }

/-! ### VCHUNK and VLREC (R283, R284) -/

/-- One group of R69 with the carry `hp`. -/
def chunkGroup (i48 : Bool) (a b : List Nat) (f hp : Nat) : List Nat × Flags :=
  let rs := (List.range 64).map fun i =>
    if f.testBit i then (b.getD i 0, ({} : Flags)) else stMad i48 (a.getD i 0) hp (b.getD i 0)
  (rs.map fun r => r.1, rs.foldl (fun x r => orFlags x r.2) {})

/-- A carry taken from a control token, and given on one (R283). -/
def carryIn (i48 : Bool) (v : W64) : Nat := v.toNat % 2 ^ (if i48 then 48 else 32)
/-- The control token of a carry. -/
def carryOut (i48 : Bool) (h : Nat) : Tok := if i48 then .ctl .data (BitVec.ofInt 64 (signedN 48 h)) else valTok h

/-- Consecutive groups of R69 of a held tile, from a carry. -/
def chunkGroups (i48 : Bool) (mask : Nat → Nat) (a b : List Nat) (hp : Nat) : List Nat × Nat × Flags :=
  (List.range (a.length / 64)).foldl (fun acc g =>
    let r := chunkGroup i48 ((a.drop (64 * g)).take 64) ((b.drop (64 * g)).take 64) (mask g) acc.2.1
    (acc.1 ++ r.1, r.1.getD 63 0, orFlags acc.2.2 r.2)) ([], hp, {})

/-- VCHUNK (R283): `cnt` is the carry hp; `cnt2` the groups done and `lanes1` their results while a held
tile waits on control tokens. -/
def stepVchunk (c : Cfg) (st : OpSt) (ins : Ins) : Res :=
  let chain := c.mode / 2 % 2 == 1
  walkStep c [0, 1] none true
    (fun _ xs =>
      match scanCheck (fun f => f == .fp32 || f == .i48) false (fun w => w % 64 == 0) xs with
      | some e => .error e
      | none =>
        let x := xs.headD {}
        let y := xs.getD 1 {}
        let i48 := stateI48 (Hdr.f x)
        let h := scanHdr c i48 x
        let groups := (x.linkGeom (Hdr.f x)).elems / 64
        .ok { hold := scanHeld x || scanHeld y
              outa := some h
              units := 64 * groups
              back := fun k => if lastOf64 k then 63 else 0
              ctl := if chain then some 2 else none
              ctlAt := lastOf64
              start := fun st => { st with cnt2 := 0, lanes1 := [] }
              unit := fun st k codes mask v =>
                if lastOf64 k then
                  let ea := enterAll x (codes.getD 0 [])
                  let eb := enterAll y (codes.getD 1 [])
                  let r := chunkGroup i48 ea.1 eb.1 mask (if chain then carryIn i48 v else st.cnt)
                  let o := outStates c i48 r.1
                  let last := r.1.getD 63 0
                  { st := if chain then st else { st with cnt := last }
                    outa := o.1
                    toks := if chain then [carryOut i48 last] else []
                    flags := orFlags (orFlags ea.2 eb.2) (orFlags r.2 o.2) }
                else { st := st }
              heldCtl := fun st ts v =>
                if !chain || groups ≤ st.cnt2 then none
                else
                  match ts with
                  | a :: b :: _ =>
                    let ea := enterTile a
                    let eb := enterTile b
                    let g := st.cnt2
                    let r := chunkGroup i48 ((ea.1.drop (64 * g)).take 64) ((eb.1.drop (64 * g)).take 64)
                      (heldMask [st.ina, st.inb] g) (carryIn i48 v)
                    some { st := { st with cnt2 := g + 1, lanes1 := st.lanes1 ++ r.1 }
                           toks := [carryOut i48 (r.1.getD 63 0)], flags := orFlags (orFlags ea.2 eb.2) r.2 }
                  | _ => none
              whole := fun st ts =>
                match ts with
                | a :: b :: _ =>
                  if chain then
                    let o := outStates c i48 st.lanes1
                    .ok ({ st with cnt2 := 0, lanes1 := [] }, outAll (rowMajor h o.1 []), [], o.2)
                  else
                    let ea := enterTile a
                    let eb := enterTile b
                    let r := chunkGroups i48 (heldMask [st.ina, st.inb]) ea.1 eb.1 st.cnt
                    let o := outStates c i48 r.1
                    .ok ({ st with cnt := r.2.1 }, outAll (rowMajor h o.1 []), [],
                         orFlags (orFlags ea.2 eb.2) (orFlags r.2.2 o.2))
                | _ => .ok (st, [], [], {}) })
    st ins { scaled := true }

/-- One row of R70. -/
def lrecRow (i48 : Bool) (a b h : List Nat) (m : Nat) : List Nat × Flags :=
  let rs := (List.range 64).map fun i =>
    if m.testBit i then (b.getD i 0, ({} : Flags)) else stFma i48 (a.getD i 0) (h.getD i 0) (b.getD i 0)
  (rs.map fun r => r.1, rs.foldl (fun x r => orFlags x r.2) {})

/-- Consecutive rows of R70 of a held tile: the outputs, the last row, the flags. -/
def lrecRows (i48 : Bool) (mask : Nat → Nat) (a b h : List Nat) : List Nat × List Nat × Flags :=
  (List.range (a.length / 64)).foldl (fun acc g =>
    let r := lrecRow i48 ((a.drop (64 * g)).take 64) ((b.drop (64 * g)).take 64) acc.2.1 (mask g)
    (acc.1 ++ r.1, r.1, orFlags acc.2.2 r.2)) ([], h, {})

/-- VLREC (R284): `lanes` is h. -/
def stepVlrec (c : Cfg) (st : OpSt) (ins : Ins) : Res :=
  walkStep c [0, 1] none true
    (fun _ xs =>
      let x := xs.headD {}
      let y := xs.getD 1 {}
      let i48 := stateI48 (Hdr.f x)
      if i48 && c.stateful && c.state == 0 then .error (11, 0)
      else
        match scanCheck (fun f => f != .i48) true (fun w => w == 64) xs with
        | some e => .error e
        | none =>
          let h := scanHdr c i48 x
          .ok { hold := scanHeld x || scanHeld y
                outa := some h
                units := (x.linkGeom (Hdr.f x)).elems
                back := fun k => if lastOf64 k then 63 else 0
                unit := fun st k codes mask _ =>
                  if lastOf64 k then
                    let ea := enterAll x (codes.getD 0 [])
                    let eb := enterAll y (codes.getD 1 [])
                    let r := lrecRow i48 ea.1 eb.1 st.lanes mask
                    let o := outStates c i48 r.1
                    { st := { st with lanes := r.1 }, outa := o.1,
                      flags := orFlags (orFlags ea.2 eb.2) (orFlags r.2 o.2) }
                  else { st := st }
                whole := fun st ts =>
                  match ts with
                  | a :: b :: _ =>
                    let ea := enterTile a
                    let eb := enterTile b
                    let r := lrecRows i48 (heldMask [st.ina, st.inb]) ea.1 eb.1 st.lanes
                    let o := outStates c i48 r.1
                    .ok ({ st with lanes := r.2.1 }, outAll (rowMajor h o.1 []), [],
                         orFlags (orFlags ea.2 eb.2) (orFlags r.2.2 o.2))
                  | _ => .ok (st, [], [], {}) })
    st ins { scaled := true }

/-! ### VSEG (R285) -/

/-- The SEG tokens of the groups that start in DATA token `k`. -/
def segsFor (t : TileIn) (k : Nat) (masks : List (Nat × Nat)) : List Tok :=
  let ms := (groupsIn t.x.order t.geom t.x.rstride k).map fun q => groupMask [masks] q
  if ms.all (· == 0) then [] else ms.map fun m => segTok (BitVec.ofNat 64 m)

/-- VSEG (R285). `lanes` holds the masks taken from B for the open tile, by group. -/
def stepVseg (c : Cfg) (st : OpSt) (ins : Ins) : Res :=
  let ctl := c.mode == 0
  match check12 st.ina ins.a with
  | some h => badCheck 12 h
  | none =>
    match st.ina with
    | none =>
      match headHdr ins.a with
      | none => .idle
      | some h =>
        match badHdr h true with
        | some r => r
        | none =>
          match scanCheck clsNum false (fun w => !ctl || w % 64 == 0) [Hdr.ofBits h] with
          | some e => badCheck e.1 h
          | none =>
            let held := scanHeld (Hdr.ofBits h)
            .fire {
              st := { st with ina := some { hdr := h }, hold := held, lanes := [], pos := 0 }
              take := 1
              outa := if held then [] else [.hdr h] }
    | some t =>
      if segOverflow t ins.a then badCheck 12 t.hdr
      else
        let own (masks : List Nat) : List (Nat × Nat) :=
          if ctl then (List.range masks.length).zip masks else [(0, 1)]
        let groups := ceilDiv t.geom.elems 64
        -- the control token taken with this firing
        let wants := ctl && st.lanes.length <
          (if st.hold then groups
           else (groupsIn t.x.order t.geom t.x.rstride t.got).foldl (fun a q => max a (q + 1)) 0)
        let v := if wants then headVal ins.b else none
        let masks := st.lanes ++ (v.map BitVec.toNat).toList
        let takeB := if v.isSome then 2 else 0
        if headEot ins.a && t.got == t.n then
          if st.hold then
            if ctl && masks.length < groups then
              if v.isSome then .fire { st := { st with lanes := masks }, take := takeB } else .idle
            else
              let all := t.masks ++ own masks
              .fire {
                st := { st with ina := none, hold := false, lanes := [] }
                take := 1 + takeB
                owea := .hdr t.hdr :: ((List.range t.n).flatMap fun k => segsFor t k all ++ [dataTok t.img k])
                  ++ [eotTok t.x.seq t.n] }
          else
            .fire { st := { st with ina := none, lanes := [] }, take := 1, outa := [eotTok t.x.seq t.n] }
        else
          match headData ins.a with
          | none => if v.isSome then .fire { st := { st with lanes := masks }, take := takeB } else .idle
          | some d =>
            let bound := boundMasks t ins.a
            if st.hold then
              .fire { st := { st with ina := some { t.add d with masks := bound }, lanes := masks }, take := 1 + takeB }
            else
              let need := (groupsIn t.x.order t.geom t.x.rstride t.got).foldl (fun a q => max a (q + 1)) 0
              if ctl && masks.length < need then
                if v.isSome then .fire { st := { st with lanes := masks }, take := takeB } else .idle
              else
                .fire {
                  st := { st with ina := some { t with got := t.got + 1, masks := bound }, lanes := masks }
                  take := 1 + takeB
                  outa := segsFor t t.got (bound ++ own masks) ++ [.data d] }

end Sys2Proof.Machine
end

