-- ==== Sys2Proof/Machine/OpsMat.lean ====
section
/-! DEFINITION. The matrix operations as steps of an element (02 R58-R65, 10 R264-R277). An element fills
one tile on each input while another waits whole: `kept`, `kept1` and `kept2` are the whole tiles of A, B
and C. The open group is `lanes` (the accumulator, row by row), `cnt1` (the bits of H), `lanes1` (the result
scales), `cnt` (the pairs consumed), with `cnt2` 1. -/

namespace Sys2Proof.Machine

/-! ### Filling (R265) -/

/-- The whole tile that waits on input `i`. -/
def OpSt.slot (st : OpSt) (i : Nat) : Option (Header × Nat) :=
  match i with
  | 0 => st.kept
  | 1 => st.kept1
  | _ => st.kept2

/-- The registers with the whole tile of input `i` replaced. -/
def OpSt.setSlot (st : OpSt) (i : Nat) (t : Option (Header × Nat)) : OpSt :=
  match i with
  | 0 => { st with kept := t }
  | 1 => { st with kept1 := t }
  | _ => { st with kept2 := t }

/-- The registers as a firing fills its inputs, the inputs it takes from, and the SEG masks taken. -/
structure FillSt where
  st : OpSt
  take : List Nat := []
  segs : List W64 := []

/-- One input's part in a firing; `eot` says whether the inputs' EOTs are taken, `scaled` which inputs take an I48 tile
with scales (`checks1to7`). -/
def fillOne (ins : Ins) (eot : Bool) (scaled : List Nat) (i : Nat) (s : FillSt) : Except Res FillSt :=
  let h := ins.get i
  match check12 (s.st.inp i) h with
  | some e => .error (badCheck 12 e)
  | none =>
    match s.st.inp i with
    | none =>
      match headHdr h with
      | none => .ok s
      | some x =>
        match badHdr x (scaled.contains i) with
        | some r => .error r
        | none =>
          let t : TileIn := { hdr := x }
          if 131072 < 256 * t.n then .error (badCheck 11 x)
          else .ok { s with st := s.st.setInp i (some t), take := s.take ++ [i] }
    | some t =>
      match headData h with
      | some d =>
        .ok { s with st := s.st.setInp i (some (t.add d)), take := s.take ++ [i], segs := s.segs ++ headSegs h }
      | none =>
        if eot && headEot h && (s.st.slot i).isNone then
          .ok { s with st := (s.st.setInp i none).setSlot i (some (t.hdr, t.img)), take := s.take ++ [i] }
        else .ok s

/-- The parts in a firing of the inputs `is`, lowest first; those of `want` take their EOTs in one firing. -/
def fillFrom (ins : Ins) (eot : Bool) (scaled want is : List Nat) (s : FillSt) : Except Res FillSt :=
  match is with
  | [] => .ok s
  | i :: rest =>
    match fillOne ins (eot && want.contains i) scaled i s with
    | .error r => .error r
    | .ok s1 => fillFrom ins eot scaled want rest s1

/-- The inputs' part in a firing: the tiles of the inputs `want` end together, in one EOT firing (09 R235), so that
no input runs ahead to an aligned tag while another stands in its tile (log 29). -/
def fillAll (ins : Ins) (want is : List Nat) (s : FillSt) (scaled : List Nat := [2]) : Except Res FillSt :=
  fillFrom ins (want.all fun i => (s.st.inp i).isSome && headEot (ins.get i)) scaled want is s

/-- A whole tile taken apart. -/
def slotTile (c : Cfg) (i : Nat) (t : Header × Nat) : Tile :=
  let x := Hdr.ofBits t.1
  tileOf x (Hdr.f x) (c.cutOf i) t.2

/-! ### Operands (R58-R60) -/

/-- The accumulator of a format pair: none when the pair is not supported, else whether it is I48 (R58). -/
def accOf (a b : Fmt) : Option Bool :=
  let both (p : Fmt → Bool) : Bool := p a && p b
  let withPsd (p : Fmt → Bool) : Bool := (isPsd a && p b) || (isPsd b && p a)
  if both (· == .fp32) || both (· == .bf16) || both (· == .fp16) || both (fun f => f == .k8 || f == .k6)
      || withPsd (fun f => f == .bf16 || f == .k8) then some false
  else if both (fun f => f == .int8 || f == .uint8) || both (fun f => f == .int4 || f == .uint4)
      || withPsd (fun f => f == .int8) then some true
  else none

/-- The unscaled integer of an element: twice the value for PSD (R60, R63). -/
def ivalOf (f : Fmt) (cut code : Nat) : Int :=
  if isPsd f then
    let p := fmtPlanes f
    psdTwice p (if cut == 0 then p else cut) (psdDigits p code)
  else decodeInt f code

/-- A tile as its dense rows of exact values, and whether a scale product is invalid (R55, R57). A position that is not
stored is a factor 0, as the val of R63 has it, also against a NaN or an infinity (DEDUCED, log 127; R64). -/
def denseVals (t : Tile) : List (List (Val × Bool)) :=
  (List.range t.geom.rows).map fun i => (List.range t.geom.cols).map fun j =>
    match t.find i j with
    | some (m, q) => t.valAt m q ((t.lines.getD m []).getD q 0)
    | none => (valOfInt 0, false)

/-- A tile as its dense rows of unscaled integers. -/
def denseInts (t : Tile) : List (List Int) :=
  (List.range t.geom.rows).map fun i => (List.range t.geom.cols).map fun j =>
    match t.find i j with
    | some (m, q) => ivalOf t.geom.fmt t.cut ((t.lines.getD m []).getD q 0)
    | none => 0

/-- Entry (i, j) of rows. -/
def entry {α : Type} (d : α) (m : List (List α)) (i j : Nat) : α := (m.getD i []).getD j d

/-! ### The order of sums (R63, R64) -/

/-- The exact sum of the terms of a chunk, and whether it is invalid (R64): infinities of both signs are, also where
another term is NaN (DEDUCED, log 120). -/
def chunkSum (terms : List Val) : Val × Bool :=
  let isInf (neg : Bool) (v : Val) : Bool :=
    match v with
    | .inf n => n == neg
    | _ => false
  let pos := terms.any (isInf false)
  let neg := terms.any (isInf true)
  if pos && neg then (.nan, true)
  else if terms.any isNan then (.nan, false)
  else if pos then (.inf false, false)
  else if neg then (.inf true, false)
  else
    let s := (terms.foldl (fun a t => (addV .rne a t).1) (valOfInt 0))
    (if valIsZero s then valOfInt 0 else s, false)

/-- One chunk added to an FP32 accumulator (R63, R64). -/
def accF32 (acc : Nat) (pairs : List (Val × Val)) : Nat × Flags :=
  let ps := pairs.map fun p => mulV p.1 p.2
  let s := chunkSum (ps.map fun p => p.1)
  let p := roundFp32 .rne s.1
  let r := sumF32 acc p.1
  (r.1, orFlags (invIf (s.2 || ps.any fun p => p.2)) (orFlags p.2 r.2))

/-- One chunk added to an I48 accumulator (R63). -/
def accI48 (acc : Nat) (pairs : List (Int × Int)) : Nat × Flags :=
  satCode (pairs.foldl (fun a p => a + p.1 * p.2) (signedN 48 acc))

/-- The chunk loop of R63 over operand pairs, 16 positions of K at a time. -/
def chunkLoop {α : Type} (step : Nat → List (α × α) → Nat × Flags) (acc : Nat) (pairs : List (α × α)) :
    Nat × Flags :=
  (piecesOf pairs.length 16 pairs).foldl (fun a g =>
    let r := step a.1 g
    (r.1, orFlags a.2 r.2)) (acc, {})

/-! ### Checks and result headers (R59-R61, R265, R269, R271, R272) -/

/-- The four operations that form groups of pairs. -/
inductive MatOp where
  | mma | mmag | mouter | mdot
  deriving DecidableEq, Repr

/-- Whether an operand may have sparsity 1 or 2: A with ORDER 0. -/
def sparOk (x : Hdr) : Bool := x.spar == 0 || ((x.spar == 1 || x.spar == 2) && x.order == 0)

/-- Operand check 15, with the header at fault; where A and B each fail by a field of their own it is the first that the
tests below meet (DESIGN CHOICE, log 128; R24). -/
def matCheck15 (op : MatOp) (a b : Hdr) : Option HdrErr :=
  let acc := accOf (Hdr.f a) (Hdr.f b)
  let sparA := match op with
    | .mma => sparOk a
    | .mmag => a.spar == 3
    | .mouter => a.spar == 0
    | .mdot => sparOk a
  let slayA := match op with
    | .mma => a.slay == 0 || a.slay == 2
    | .mmag => a.slay == 0
    | .mouter => a.slay == 0
    | .mdot => a.slay == 0
  let slayB := match op with
    | .mma => b.slay == 0 || b.slay == 3
    | .mmag => b.slay == 0 || b.slay == 3
    | .mouter => b.slay == 0
    | .mdot => b.slay == 0
  if acc.isNone then some (15, 1)
  else if acc == some true && !slayA then some (15, 0)
  else if acc == some true && !slayB then some (15, 1)
  else if b.spar != 0 then some (15, 1)
  else if !sparA then some (15, 0)
  else none

/-- Operand check 16. -/
def matCheck16 (op : MatOp) (a b : Hdr) : Option HdrErr :=
  match op with
  | .mma => if a.colsM1 != b.rowsM1 then some (16, 1) else none
  | .mmag => if a.colsM1 != b.rowsM1 then some (16, 1) else none
  | .mouter => if a.rowsM1 != 0 then some (16, 0) else if b.rowsM1 != 0 then some (16, 1) else none
  | .mdot => if a.rowsM1 != b.rowsM1 || a.colsM1 != b.colsM1 then some (16, 1) else none

/-- Row X(i) of a row-indexed tile (R19, R269). -/
def rowIndex (t : Tile) (i : Nat) : Nat := imgBits t.index (32 * i) 32

/-- Operand check 17. -/
def matCheck17 (op : MatOp) (mr : Nat) (a : Tile) : Option HdrErr :=
  match op with
  | .mmag => if (List.range a.geom.rows).all fun i => rowIndex a i < mr then none else some (17, 0)
  | _ => if a.indicesOk then none else some (17, 0)

/-- A result scale: FP32, exact (R60). -/
def scaleF32 (sfmt code : Nat) : Nat := if sfmt == 1 then code else (roundFp32 .rne (decodeScale sfmt code)).1
/-- Half of a result scale. -/
def halfF32 (code : Nat) : Nat := (roundFp32 .rne (mulV (valF32 code) (valOfDyadic 1 (-1))).1).1

/-- The inferred result: header fields and result scales (R60, R61). -/
def matResult (op : MatOp) (mr : Nat) (a b : Tile) : Hdr × List Nat :=
  let i48 := accOf a.geom.fmt b.geom.fmt == some true
  let ra := if i48 && a.hdr.slay == 2 then (a.scales.take a.geom.scaleCount).map (scaleF32 a.hdr.sfmt) else []
  let cb := if i48 && b.hdr.slay == 3 then (b.scales.take b.geom.scaleCount).map (scaleF32 b.hdr.sfmt) else []
  let halve := i48 && (isPsd a.geom.fmt || isPsd b.geom.fmt)
  let ra' := if halve then ra.map halfF32 else ra
  let cb' := if halve && ra.isEmpty then cb.map halfF32 else cb
  let slay := if !ra.isEmpty && !cb.isEmpty then 4 else if !ra.isEmpty then 2 else if !cb.isEmpty then 3
    else if halve then 1 else 0
  let rows := match op with
    | .mma => a.hdr.rowsM1
    | .mmag => mr - 1
    | .mouter => a.hdr.colsM1
    | .mdot => a.hdr.rowsM1
  let cols := match op with
    | .mdot => 0
    | _ => b.hdr.colsM1
  ({ fmt := fmtCode (stateFmt i48), slay := slay, sfmt := if slay = 0 then 0 else 1, rowsM1 := rows,
     colsM1 := cols, tag := a.hdr.tag, seq := a.hdr.seq, ext := if slay = 1 then 0x3F000000 else 0 },
   ra' ++ cb')

/-- Whether two result headers differ in FMT, SLAY or shape (check 18). -/
def hdrDiffers (h g : Hdr) : Bool :=
  h.fmt != g.fmt || h.slay != g.slay || h.rowsM1 != g.rowsM1 || h.colsM1 != g.colsM1

/-! ### A pair (R267, R269, R271, R272) -/

/-- The operand pairs of result element (i, j), by the operation, from dense rows. -/
def pairsAt {α : Type} (op : MatOp) (zero : α) (a b : List (List α)) (k i j : Nat) : List (α × α) :=
  match op with
  | .mma => (List.range k).map fun q => (entry zero a i q, entry zero b q j)
  | .mmag => (List.range k).map fun q => (entry zero a i q, entry zero b q j)
  | .mouter => [(entry zero a 0 i, entry zero b 0 j)]
  | .mdot => (List.range k).map fun q => (entry zero a i q, entry zero b i q)

/-- A whole result from the accumulator and a step for element (i, j). -/
def eachElem (rows cols : Nat) (acc : List Nat) (f : Nat → Nat → Nat → Nat × Flags) : List Nat × Flags :=
  let rs := (List.range rows).flatMap fun i => (List.range cols).map fun j => f i j (acc.getD (i * cols + j) 0)
  (rs.map fun r => r.1, rs.foldl (fun a r => orFlags a r.2) {})

/-- The accumulator after a pair. -/
def accPair (op : MatOp) (a b : Tile) (h : Hdr) (acc : List Nat) : List Nat × Flags :=
  let i48 := accOf a.geom.fmt b.geom.fmt == some true
  let k := a.geom.cols
  let rows := h.rowsM1 + 1
  let cols := h.colsM1 + 1
  let va := denseVals a
  let vb := denseVals b
  let ia := denseInts a
  let ib := denseInts b
  let bad := !i48 && ((va.any fun l => l.any fun v => v.2) || (vb.any fun l => l.any fun v => v.2))
  let fa := va.map fun l => l.map fun v => v.1
  let fb := vb.map fun l => l.map fun v => v.1
  let elem (src j acc : Nat) : Nat × Flags :=
    if i48 then chunkLoop accI48 acc (pairsAt op 0 ia ib k src j)
    else chunkLoop accF32 acc (pairsAt op (valOfInt 0) fa fb k src j)
  let r := match op with
    | .mmag => (List.range a.geom.rows).foldl (fun (s : List Nat × Flags) src =>
        let x := rowIndex a src
        let r := eachElem rows cols s.1 fun i j v => if i == x then elem src j v else (v, {})
        (r.1, orFlags s.2 r.2)) (acc, ({} : Flags))
    | _ => eachElem rows cols acc fun i j v => elem i j v
  (r.1, orFlags (invIf bad) r.2)

/-- The values of a C tile, row by row, as accumulator codes; a position that is not stored is +0 (R57, R63). -/
def accStart (t : Tile) : List Nat :=
  (List.range t.geom.rows).flatMap fun i => (List.range t.geom.cols).map fun j =>
    match t.find i j with
    | some (m, q) =>
      let code := (t.lines.getD m []).getD q 0
      if t.geom.fmt == .fp32 then canonF32 code else code
    | none => 0

/-- A pair of a group: the registers with the group after it and the flags, or the check that fails and the
index of the header at fault. -/
def pairStep (c : Cfg) (op : MatOp) (kt1 : Bool) (st : OpSt) (a b : Tile) (cin : Option Tile) :
    Except HdrErr (OpSt × Flags) :=
  let mr := c.imm32 % 256 + 1
  match matCheck15 op a.hdr b.hdr with
  | some e => .error e
  | none =>
    match matCheck16 op a.hdr b.hdr with
    | some e => .error e
    | none =>
      match matCheck17 op mr a with
      | some e => .error e
      | none =>
        let (h, scales) := matResult op mr a b
        let first := kt1 || st.cnt2 == 0
        let g := Hdr.ofBits (BitVec.ofNat 256 st.cnt1)
        let bad18 := if first then
            match cin with
            | some t => if !t.indicesOk then some (17, 2) else if hdrDiffers t.hdr h then some (18, 2) else none
            | none => none
          else if hdrDiffers h g || h.ext != g.ext || scales != st.lanes1 then some (18, 0) else none
        match bad18 with
        | some e => .error e
        | none =>
          let n := (h.rowsM1 + 1) * (h.colsM1 + 1)
          if 16384 < n then .error (19, 0)
          else
            let start := if first then
                match cin with
                | some t => accStart t
                | none => List.replicate n 0
              else st.lanes
            let r := accPair op a b h start
            let hb := if first then (Hdr.toBits h).toNat else st.cnt1
            .ok ({ st with lanes := r.1, lanes1 := scales, cnt1 := hb, cnt2 := 1, cnt := st.cnt + 1 },
                 r.2)

/-! ### Emission (R267) -/

/-- The result tile of a group: its tokens and flags. -/
def groupEmit (c : Cfg) (st : OpSt) : List Tok × Flags :=
  let h := Hdr.ofBits (BitVec.ofNat 256 st.cnt1)
  let i48 := Hdr.f h == .i48
  let rows := h.rowsM1 + 1
  let cols := h.colsM1 + 1
  let hg := h.geom (Hdr.f h)
  let of := c.outFmt .fp32
  let scaled := i48 && c.ofmt != 0 && isFloat of
  let r := if c.ofmt = 0 then (st.lanes, ({} : Flags))
    else eachElem rows cols st.lanes fun i j v =>
      let x := if i48 then valOfInt (signedN 48 v) else valF32 v
      let p := if scaled then scaledV x (scalesAt h hg st.lanes1 i j) else (x, false)
      fitV c of p.1 (invIf p.2)
  let f := if c.ofmt = 0 then Hdr.f h else of
  let y := if scaled then { h with fmt := fmtCode f, slay := 0, sfmt := 0, ext := 0 } else { h with fmt := fmtCode f }
  let t : Tile := { hdr := y, geom := y.geom f, cut := 0, lines := piecesOf rows cols r.1,
                    scales := if scaled then [] else st.lanes1, index := 0 }
  let (y', img) := t.image
  (tileToks y'.toBits img, r.2)

/-- The registers with no group open. -/
def groupClear (st : OpSt) : OpSt := { st with lanes := [], lanes1 := [], cnt := 0, cnt1 := 0, cnt2 := 0 }

/-- Whether a matrix element is between tiles on every input, with none waiting. -/
def matEmpty (st : OpSt) : Bool :=
  st.ina.isNone && st.inb.isNone && st.inc.isNone && st.kept.isNone && st.kept2.isNone

/-- The tile inputs of a group operation. -/
def matInputs (c : Cfg) : List Nat := if c.mode % 2 == 1 then [0, 1, 2] else [0, 1]

/-- Whether the same tag EOR or EOS heads every input of a list. -/
def allEnd (ins : Ins) (is : List Nat) : Bool :=
  (is.all fun i => headTag (ins.get i) == some .eor) || (is.all fun i => headTag (ins.get i) == some .eos)

/-- The step of MMA, MMAG, MOUTER and MDOT (R267-R269, R271, R272). -/
def groupStep (op : MatOp) (c : Cfg) (st : OpSt) (ins : Ins) : Res :=
  let is := matInputs c
  if matEmpty st && st.kept1.isNone && st.cnt2 == 1 && allEnd ins is then
    let e := groupEmit c st
    .fire { st := { groupClear st with seg := none }, owea := withSeg st.seg e.1, flags := e.2 }
  else
    let want := if st.cnt2 == 0 then is else [0, 1]
    match fillAll ins want is { st := st } with
    | .error r => r
    | .ok s =>
      let st1 := { s.st with seg := orSegs st.seg s.segs }
      let cin := c.mode % 2 == 1
      let needC := cin && st1.cnt2 == 0
      match st1.kept, st1.kept1 with
      | some a, some b =>
        if needC && st1.kept2.isNone then
          if s.take.isEmpty then .idle else .fire { st := st1, take := bitsMask s.take }
        else
          let ct := if needC then st1.kept2 else none
          match pairStep c op false st1 (slotTile c 0 a) (slotTile c 1 b) (ct.map (slotTile c 2)) with
          | .error (n, i) =>
            badCheck n (match i with
              | 0 => a.1
              | 1 => b.1
              | _ => (ct.map fun t => t.1).getD 0)
          | .ok (st2, fl) =>
            let st3 := { st2 with kept := none, kept1 := none, kept2 := if needC then none else st2.kept2 }
            if c.imm16 != 0 && c.imm16 ≤ st3.cnt then
              let e := groupEmit c st3
              .fire { st := { groupClear st3 with seg := none }, take := bitsMask s.take,
                      owea := withSeg st3.seg e.1, flags := orFlags fl e.2 }
            else .fire { st := st3, take := bitsMask s.take, flags := fl }
      | _, _ => if s.take.isEmpty then .idle else .fire { st := st1, take := bitsMask s.take }

/-- MMA (R267). -/
def stepMma : Cfg → OpSt → Ins → Res := groupStep .mma
/-- MMAG (R269). -/
def stepMmag : Cfg → OpSt → Ins → Res := groupStep .mmag
/-- MOUTER (R271). -/
def stepMouter : Cfg → OpSt → Ins → Res := groupStep .mouter
/-- MDOT (R272). -/
def stepMdot : Cfg → OpSt → Ins → Res := groupStep .mdot

/-- MLATB (R270): `kept1` is the latched B tile. EOR on B empties it between A tiles. -/
def stepMlatb (c : Cfg) (st : OpSt) (ins : Ins) : Res :=
  if headTag ins.b == some .eor && st.ina.isNone && st.kept.isNone && st.inb.isNone then
    .fire { st := { st with kept1 := none }, take := 2 }
  else
    let latch : List Nat := if st.kept1.isNone then [1] else []
    let is := (matInputs c).filter fun i => i != 1
    match (fillAll ins latch latch { st := st }).bind (fillAll ins is is) with
    | .error r => r
    | .ok s =>
      let st1 := { s.st with seg := orSegs st.seg s.segs }
      let cin := c.mode % 2 == 1
      match st1.kept, st1.kept1 with
      | some a, some b =>
        if cin && st1.kept2.isNone then
          if s.take.isEmpty then .idle else .fire { st := st1, take := bitsMask s.take }
        else
          match pairStep c .mma true st1 (slotTile c 0 a) (slotTile c 1 b)
              (if cin then st1.kept2.map (slotTile c 2) else none) with
          | .error (n, i) =>
            badCheck n (match i with
              | 0 => a.1
              | 1 => b.1
              | _ => (st1.kept2.map fun t => t.1).getD 0)
          | .ok (st2, fl) =>
            let e := groupEmit c st2
            .fire { st := { groupClear st2 with kept := none, kept2 := none, seg := none },
                    take := bitsMask s.take, owea := withSeg st2.seg e.1, flags := orFlags fl e.2 }
      | _, _ => if s.take.isEmpty then .idle else .fire { st := st1, take := bitsMask s.take }

/-! ### MOUT, MZERO, MTRN (R273-R275) -/

/-- The work of MOUT on a tile and its bias. -/
def moutTile (c : Cfg) (a : Tile) (b : Option Tile) : List Tok × Flags :=
  let of := c.outFmt .fp32
  let va := denseVals a
  let bias (j : Nat) : Val :=
    match b with
    | some t => (entry (valOfInt 0, false) (denseVals t) 0 j).1
    | none => valOfInt 0
  let x : Hdr := { fmt := fmtCode of, rowsM1 := a.hdr.rowsM1, colsM1 := a.hdr.colsM1, tag := a.hdr.tag,
                   seq := a.hdr.seq }
  let rs := (List.range a.geom.rows).flatMap fun i => (List.range a.geom.cols).map fun j =>
    let v := entry (valOfInt 0, false) va i j
    let s := addV (rndOf c.rnd) v.1 (bias j)
    fitV c of s.1 (invIf (v.2 || s.2))
  (outAll (rowMajor x (rs.map fun r => r.1) []), rs.foldl (fun a r => orFlags a r.2) {})

/-- The checks of MOUT: class and shape. -/
def moutCheck (a : Hdr) (b : Option Hdr) : Option HdrErr :=
  if (Hdr.f a != .fp32 && Hdr.f a != .i48) || a.spar != 0 then some (15, 0)
  else
    match b with
    | none => none
    | some b =>
      if Hdr.f b != .fp32 || b.slay != 0 || b.spar != 0 then some (15, 1)
      else if b.rowsM1 != 0 || b.colsM1 != a.colsM1 then some (16, 1)
      else none

/-- MOUT (R274). -/
def stepMout (c : Cfg) (st : OpSt) (ins : Ins) : Res :=
  let bias := c.mode % 2 == 1
  let is := if bias then [0, 1] else [0]
  match fillAll ins is is { st := st } [0] with
  | .error r => r
  | .ok s =>
    let st1 := { s.st with seg := orSegs st.seg s.segs }
    match st1.kept with
    | none => if s.take.isEmpty then .idle else .fire { st := st1, take := bitsMask s.take }
    | some a =>
      if bias && st1.kept1.isNone then
        if s.take.isEmpty then .idle else .fire { st := st1, take := bitsMask s.take }
      else
        let b := if bias then st1.kept1 else none
        match moutCheck (Hdr.ofBits a.1) (b.map fun t => Hdr.ofBits t.1) with
        | some (n, i) => badCheck n (if i == 0 then a.1 else (b.map fun t => t.1).getD 0)
        | none =>
          let e := moutTile c (slotTile c 0 a) (b.map (slotTile c 1))
          .fire { st := { st1 with kept := none, kept1 := none, seg := none }, take := bitsMask s.take,
                  owea := withSeg st1.seg e.1, flags := e.2 }

/-- MZERO (R275). -/
def stepMzero (c : Cfg) (st : OpSt) (ins : Ins) : Res :=
  match headVal ins.a with
  | none => .idle
  | some _ =>
    .fire { st := { st with cnt := (st.cnt + 1) % 65536 }, take := 1,
            owea := filledTile (c.poolHdr c.imm16) st.cnt 0 }

/-- The scale layout of a transposed tile. -/
def slayT (slay : Nat) : Nat :=
  match slay with
  | 2 => 3
  | 3 => 2
  | 5 => 6
  | 6 => 5
  | n => n

/-- The work of MTRN. -/
def trnTile (a : Tile) : List Tok :=
  let f := a.geom.fmt
  let x : Hdr := { fmt := a.hdr.fmt, slay := slayT a.hdr.slay, sfmt := a.hdr.sfmt, rowsM1 := a.hdr.colsM1,
                   colsM1 := a.hdr.rowsM1, tag := a.hdr.tag, seq := a.hdr.seq, ext := if a.hdr.slay == 1 then a.hdr.ext else 0 }
  let scales := if a.hdr.slay == 4 then a.scales.drop a.geom.rows ++ a.scales.take a.geom.rows else a.scales
  let lines := (List.range a.geom.cols).map fun j => (List.range a.geom.rows).map fun i =>
    let (m, q) := if a.hdr.order == 1 then (j, i) else (i, j)
    (a.lines.getD m []).getD q 0
  let t : Tile := { hdr := x, geom := x.geom f, cut := 0, lines := lines, scales := scales, index := 0 }
  let (y, img) := t.image
  tileToks y.toBits img

/-- MTRN (R273). -/
def stepMtrn (c : Cfg) (st : OpSt) (ins : Ins) : Res :=
  match fillAll ins [0] [0] { st := st } with
  | .error r => r
  | .ok s =>
    let st1 := { s.st with seg := orSegs st.seg s.segs }
    match st1.kept with
    | none => if s.take.isEmpty then .idle else .fire { st := st1, take := bitsMask s.take }
    | some a =>
      let x := Hdr.ofBits a.1
      if isPsd (Hdr.f x) || x.spar != 0 then badCheck 15 a.1
      else
        .fire { st := { st1 with kept := none, seg := none }, take := bitsMask s.take,
                owea := withSeg st1.seg (trnTile (slotTile c 0 a)) }

end Sys2Proof.Machine
end

