-- ==== Sys2Proof/Machine/OpsLig.lean ====
section
/-! DEFINITION. Ligatures (10 R286-R294): images, their validation, the micro-operations, and a ligature
element's step. -/

namespace Sys2Proof.Machine

/-! ### Images (R287, R288) -/

/-- A little-endian number from bytes. -/
def leNat (bs : List Byte) : Nat := packBits 8 (bs.map BitVec.toNat)

/-- The 16-byte header of an image, as a number. -/
def ligHead (img : List Byte) : Nat := leNat (img.take 16)
/-- N. -/
def ligN (img : List Byte) : Nat := bitsOf (ligHead img) 32 5
/-- NWORDS. -/
def ligWords (img : List Byte) : Nat := bitsOf (ligHead img) 40 7
/-- LIN. -/
def ligIn (img : List Byte) : Nat := bitsOf (ligHead img) 48 3
/-- LOUT. -/
def ligOut (img : List Byte) : Nat := bitsOf (ligHead img) 51 2
/-- Micro-operation word `w`. -/
def ligWord (img : List Byte) (w : Nat) : Nat := leNat ((img.drop (16 + 8 * w)).take 8)

/-- The fields of a micro-operation word (R288). -/
structure Micro where
  uop : Nat
  d : Nat
  sa : Nat
  sb : Nat
  sc : Nat
  type : Nat
  rnd : Nat
  sub : Nat
  imm : Nat
  deriving DecidableEq, Repr

/-- A micro-operation word taken apart. -/
def microOf (w : Nat) : Micro :=
  { uop := bitsOf w 0 8, d := bitsOf w 8 4, sa := bitsOf w 12 4, sb := bitsOf w 16 4, sc := bitsOf w 20 4,
    type := bitsOf w 24 2, rnd := bitsOf w 26 2, sub := bitsOf w 28 4, imm := bitsOf w 32 32 }

/-! ### Validation (R291) -/

/-- The fields that a micro-operation uses: d, and the number of sources in the order a, b, c. -/
def microUses (uop : Nat) : Bool × Nat :=
  if uop = 0x04 || uop = 0x09 then (true, 3)
  else if uop ≤ 0x06 || uop = 0x08 || (0x0A ≤ uop && uop ≤ 0x0E) then (true, 2)
  else if uop = 0x07 || (0x0F ≤ uop && uop ≤ 0x14) then (true, 1)
  else if uop = 0x15 then (true, 0)
  else if uop = 0x16 || uop = 0x17 then (false, 1)
  else (false, 0)

/-- Whether a code is assigned. -/
def microKnown (uop : Nat) : Bool := 1 ≤ uop && uop ≤ 0x18

/-- The values of SUB below this bound are allowed. -/
def microSubs (uop : Nat) : Nat :=
  match uop with
  | 0x08 => 5
  | 0x0E => 2
  | 0x0F => 6
  | 0x16 => 3
  | _ => 1

/-- Whether RND may be other than 0. -/
def microRnd (m : Micro) : Bool := (1 ≤ m.uop && m.uop ≤ 4) || (m.uop = 0x0F && m.sub != 3 && m.sub != 5)

/-- Whether IMM32 is a value the operation takes. -/
def microImmOk (m : Micro) : Bool :=
  match m.uop with
  | 0x15 => true
  | 0x16 => 1 ≤ m.imm && m.imm ≤ 63
  | 0x17 => m.imm ≤ 1
  | _ => m.imm == 0

/-- The source fields that an operation uses; every one of an unassigned operation, which says nothing of them. -/
def microSrcs (m : Micro) : List Nat :=
  if microKnown m.uop then [m.sa, m.sb, m.sc].take (microUses m.uop).2 else [m.sa, m.sb, m.sc]

/-- FORMAT on a word: of an unassigned operation TYPE and the source codes, of an assigned one every field. -/
def microFormat (m : Micro) : Bool :=
  2 ≤ m.type || (microSrcs m).any (13 ≤ ·)
  || (microKnown m.uop
    && ((m.type == 1 && 9 ≤ m.uop) || microSubs m.uop ≤ m.sub || (m.rnd != 0 && !microRnd m) || !microImmOk m
      || ([m.sa, m.sb, m.sc].drop (microUses m.uop).2).any (· != 0) || (!(microUses m.uop).1 && m.d != 0)))

/-- LIMIT on a word: a destination beyond m7, a source input not in LIN, an output not in LOUT. -/
def microLimit (lin lout : Nat) (m : Micro) : Bool :=
  (((microUses m.uop).1 || !microKnown m.uop) && 8 ≤ m.d)
  || (microSrcs m).any (fun s => 8 ≤ s && s ≤ 10 && !lin.testBit (s - 8))
  || (m.uop == 0x17 && m.imm ≤ 1 && !lout.testBit m.imm)

/-- The result of LIGBIND on an image read for entry `n`, BUSY apart (R291): the lowest code that applies. -/
def ligCheck (img : List Byte) (n : Nat) : Nat :=
  let h := ligHead img
  let nw := ligWords img
  let ms := (List.range nw).map fun w => microOf (ligWord img w)
  let ix := (List.range nw).zip ms
  let outs (o : Nat) : Nat := (ms.filter fun m => m.uop == 0x17 && m.imm == o).length
  let outBad (o : Nat) : Bool := 1 < outs o || ((ligOut img).testBit o && outs o == 0)
  if bitsOf h 0 32 != 0x3147494C || bitsOf h 37 3 != 0 || bitsOf h 47 1 != 0 || bitsOf h 53 75 != 0 || nw == 0
      || ligN img != n || ms.any microFormat then 1
  else if 64 < nw || ms.any (microLimit (ligIn img) (ligOut img)) || outBad 0 || outBad 1 then 2
  else if ix.any fun e => (e.2.uop == 0x16 && nw - 1 ≤ e.1 + e.2.imm) || ((e.2.uop == 0x18) != (e.1 + 1 == nw)) then 3
  else if ms.any fun m => !microKnown m.uop then 4
  else 0

/-! ### The micro-operations (R290) -/

/-- INT32 results. -/
def wrap32 (i : Int) : Nat := wrapN 32 i

/-- An FP32 result rounded under a mode. -/
def lig32 (rnd : Nat) (r : Val × Bool) : Nat × Flags :=
  let q := roundFp32 (rndOf rnd) r.1
  (q.1, orFlags (invIf r.2) q.2)

/-- An FP32 function's result. -/
def ligFn (r : Val × Flags) : Nat × Flags :=
  let q := roundFp32 .rne r.1
  (q.1, orFlags r.2 q.2)

/-- The predicates of L.CMP on FP32 values. -/
def ligCmp (sub : Nat) (a b : Val) : Bool :=
  match sub with
  | 0 => eqV a b
  | 1 => ltV a b
  | 2 => leV a b
  | 3 => isNan a || isNan b
  | _ => !eqV a b

/-- The predicates of L.CMP on integers. -/
def ligCmpInt (sub : Nat) (a b : Int) : Bool :=
  match sub with
  | 0 => a == b
  | 1 => a < b
  | 2 => a ≤ b
  | 3 => false
  | _ => a != b

/-- The value a word gives its destination, and its flags. -/
def microValue (m : Micro) (a b c : Nat) : Nat × Flags :=
  let x := valF32 a
  let y := valF32 b
  let z := valF32 c
  let i := signedN 32 a
  let j := signedN 32 b
  let k := signedN 32 c
  let int := m.type == 1
  match m.uop with
  | 0x01 => if int then (wrap32 (i + j), {}) else lig32 m.rnd (addV (rndOf m.rnd) x y)
  | 0x02 => if int then (wrap32 (i - j), {}) else lig32 m.rnd (addV (rndOf m.rnd) x (negV y))
  | 0x03 => if int then (wrap32 (i * j), {}) else lig32 m.rnd (mulV x y)
  | 0x04 =>
    if int then (wrap32 (i * j + k), {})
    else
      let p := mulV x y
      let s := addV (rndOf m.rnd) p.1 z
      lig32 m.rnd (s.1, p.2 || s.2)
  | 0x05 => if int then (wrap32 (min i j), {}) else lig32 0 (pickV false x y, false)
  | 0x06 => if int then (wrap32 (max i j), {}) else lig32 0 (pickV true x y, false)
  | 0x07 => if int then (wrap32 (i.natAbs : Int), {}) else lig32 0 (absV x, false)
  | 0x08 => (if (if int then ligCmpInt m.sub i j else ligCmp m.sub x y) then 1 else 0, {})
  | 0x09 => (if c != 0 then a else b, {})
  | 0x0A => (a &&& b, {})
  | 0x0B => (a ||| b, {})
  | 0x0C => (a ^^^ b, {})
  | 0x0D => (a * 2 ^ (b % 32) % 2 ^ 32, {})
  | 0x0E => (if m.sub == 0 then a / 2 ^ (b % 32) else wrap32 (i / (2 : Int) ^ (b % 32)), {})
  | 0x0F =>
    match m.sub with
    | 0 => convertTo .int32 (rndOf m.rnd) false x
    | 1 => lig32 m.rnd (valOfInt i, false)
    | 2 => convertTo .bf16 (rndOf m.rnd) false x
    | 3 => lig32 0 (decodeElem .bf16 0 (a % 2 ^ 16), false)
    | 4 => convertTo .k8 (rndOf m.rnd) false x
    | _ => lig32 0 (decodeElem .k8 0 (a % 2 ^ 8), false)
  | 0x10 => ligFn (rcpeV x)
  | 0x11 => ligFn (rsqeV x)
  | 0x12 => ligFn (viaFp32 (exp2V x))
  | 0x13 => ligFn (viaFp32 (log2V x))
  | 0x14 => (a, {})
  | _ => (m.imm, {})

/-! ### A lane, and a firing (R289, R293) -/

/-- A lane within a firing: m0-m7, the words to skip, the outputs, the flags. -/
structure Lane where
  m : List Nat
  skip : Nat := 0
  out0 : Nat := 0
  out1 : Nat := 0
  fl : Flags := {}
  deriving DecidableEq, Repr

/-- The value of a source code on lane `i`. -/
def laneSrc (l : Lane) (ins : List Nat) (i imm s : Nat) : Nat :=
  if s < 8 then l.m.getD s 0 else if s < 11 then ins.getD (s - 8) 0 else if s == 11 then i else imm

/-- One word on one lane. -/
def laneWord (ins : List Nat) (i imm : Nat) (l : Lane) (w : Micro) : Lane :=
  if 0 < l.skip then { l with skip := l.skip - 1 }
  else
    let a := laneSrc l ins i imm w.sa
    let b := laneSrc l ins i imm w.sb
    let c := laneSrc l ins i imm w.sc
    if w.uop == 0x16 then
      if w.sub == 0 || (w.sub == 1 && a == 0) || (w.sub == 2 && a != 0) then { l with skip := w.imm } else l
    else if w.uop == 0x17 then
      if w.imm == 0 then { l with out0 := a } else { l with out1 := a }
    else
      let r := microValue w a b c
      { l with m := l.m.set w.d (r.1 % 2 ^ 32), fl := orFlags l.fl r.2 }

/-- An image run on lane `i`: m6 and m7 as they stand. -/
def laneRun (ws : List Micro) (ins : List Nat) (i imm m6 m7 : Nat) : Lane :=
  ws.foldl (laneWord ins i imm) { m := [0, 0, 0, 0, 0, 0, m6, m7] }

/-- The lanes of a DATA token that lie in the data region, others zero. -/
def liveLanes (bytes k : Nat) (d : Nat) : List Nat :=
  (List.range 64).map fun i => if 256 * k + 4 * i < bytes then laneOf d i else 0

/-- The step of a ligature element with its image: `lanes` and `lanes1` are m6 and m7 of the 64 lanes. -/
def ligStep (img : List Byte) (c : Cfg) (st : OpSt) (ins : Ins) : Res :=
  let is := (List.range 3).filter c.inOn
  match is.findSome? fun i => check12 (st.inp i) (ins.get i) with
  | some h => badCheck 12 h
  | none =>
    let ts := is.filterMap fun i => (st.inp i).map fun t => (i, t)
    if ts.isEmpty then
      walkHdr is none (fun _ xs =>
        match ewCheck (fun f => f == .fp32 || f == .int32) xs with
        | some e => .error e
        | none =>
          let x := xs.headD {}
          let h := resultHdr x (Hdr.f x)
          .ok { outa := if c.outOn 0 then some h else none, outb := if c.outOn 1 then some h else none })
        st ins
    else if ts.all fun e => e.2.got == e.2.n && headEot (ins.get e.1) then
      .fire {
        st := { is.foldl (fun s i => s.setInp i none) st with outa := none, outb := none }
        take := bitsMask is
        outa := outEot st.outa
        outb := outEot st.outb }
    else
      let ds := ts.filterMap fun e => (headData (ins.get e.1)).map fun d => (e.1, e.2, d)
      if ds.length != is.length then .idle
      else
        let ws := ((List.range (ligWords img - 1)).map fun w => microOf (ligWord img w))
        let inp (i : Nat) : List Nat :=
          match ds.find? fun e => e.1 == i with
          | some (_, t, d) => liveLanes (t.geom.dataBytes t.x.rstride) t.got d.toNat
          | none => []
        let a := inp 0
        let b := inp 1
        let e := inp 2
        let t0 := (ts.map fun e => e.2).headD { hdr := 0 }
        let live := t0.geom.dataBytes t0.x.rstride
        let ls := (List.range 64).map fun i =>
          laneRun ws [a.getD i 0, b.getD i 0, e.getD i 0] i c.imm32 (st.lanes.getD i 0) (st.lanes1.getD i 0)
        let outTok (f : Lane → Nat) : Tok :=
          .data (BitVec.ofNat 2048 (packBits 32 (((List.range 64).zip ls).map fun (i, l) =>
            if 256 * t0.got + 4 * i < live then f l else 0)))
        let segs := (orSegs none (is.flatMap fun i => headSegs (ins.get i))).toList.map segTok
        let st1 := ts.foldl (fun s e => s.setInp e.1 (some { e.2 with got := e.2.got + 1 })) st
        .fire {
          st := { st1 with lanes := ls.map fun l => l.m.getD 6 0, lanes1 := ls.map fun l => l.m.getD 7 0 }
          take := bitsMask is
          outa := if c.outOn 0 then segs ++ [outTok fun l => l.out0] else []
          outb := if c.outOn 1 then segs ++ [outTok fun l => l.out1] else []
          flags := ls.foldl (fun f l => orFlags f l.fl) {} }

end Sys2Proof.Machine
end

