-- ==== Sys2Proof/Machine/Galley.lean ====
section
/-! DEFINITION. Galley and forme images (08 R208-R217, R222): the galley head and its controller tree
(05 R128, R129), element, link and router words, and the checks of R228. An image is one natural number,
little-endian. -/

namespace Sys2Proof.Machine

/-! ### The galley head (R208, R209) -/

/-- NNODES. -/
def ghNodes (h : Nat) : Nat := bitsOf h 40 6
/-- GID. -/
def ghGid (h : Nat) : Nat := bitsOf h 48 16
/-- NFORMES. -/
def ghFormes (h : Nat) : Nat := bitsOf h 64 17
/-- The run length B. -/
def ghB (h : Nat) : Nat := bitsOf h 96 6 + 1
/-- MARKINT. -/
def ghMark (h : Nat) : Nat := bitsOf h 104 16

/-- The tree nodes of a head. -/
def ghTree (h : Nat) : List Nat := (List.range (ghNodes h)).map fun i => bitsOf h (512 + 128 * i) 128

/-- KIND of a node: 0 LEAF, 1 SEQ, 2 PIPE, 3 STRM. -/
def nKind (w : Nat) : Nat := bitsOf w 0 2
/-- NCHILD. -/
def nChild (w : Nat) : Nat := bitsOf w 8 8
/-- FIRST. -/
def nFirst (w : Nat) : Nat := bitsOf w 32 16
/-- The forme count of a leaf. -/
def nCount (w : Nat) : Nat := bitsOf w 48 16 + 1
/-- HBYTES. -/
def nHbytes (w : Nat) : Nat := bitsOf w 64 32
/-- OPORT. -/
def nOport (w : Nat) : Nat := bitsOf w 96 6
/-- IPORT. -/
def nIport (w : Nat) : Nat := bitsOf w 104 6

/-- The index behind the subtree of node `i`; `fuel` bounds the depth. -/
def nodeEnd (ns : List Nat) (fuel i : Nat) : Option Nat :=
  match fuel with
  | 0 => none
  | fuel + 1 =>
    match ns[i]? with
    | none => none
    | some w =>
      if nKind w = 0 then some (i + 1)
      else (List.range (nChild w)).foldl (fun (a : Option Nat) _ => a.bind fun j => nodeEnd ns fuel j) (some (i + 1))

/-- The nodes of a tree are at most this deep: the fuel of the walks below. -/
def treeFuel : Nat := 64

/-- The children of node `i`, in order. -/
def nodeKids (ns : List Nat) (i : Nat) : List Nat :=
  let w := ns.getD i 0
  if nKind w = 0 then []
  else
    ((List.range (nChild w)).foldl (fun (a : List Nat × Option Nat) _ =>
      match a.2 with
      | some j => (a.1 ++ [j], nodeEnd ns treeFuel j)
      | none => a) ([], some (i + 1))).1

/-- The depth of the subtree of a node, the node included. -/
def nodeDepth (ns : List Nat) (fuel i : Nat) : Nat :=
  match fuel with
  | 0 => 1
  | fuel + 1 => 1 + ((nodeKids ns i).map fun j => nodeDepth ns fuel j).foldl max 0

/-- The size of a node (R128). -/
def nodeSize (ns : List Nat) (fuel i : Nat) : Nat :=
  match fuel with
  | 0 => 0
  | fuel + 1 =>
    let w := ns.getD i 0
    if nKind w = 0 then nCount w
    else
      let ss := (nodeKids ns i).map fun j => nodeSize ns fuel j
      if nKind w = 1 then ss.foldl max 0 else ss.foldl (· + ·) 0

/-- Whether a node is a flattened STRM (R129). -/
def nodeFlat (ns : List Nat) (fuel i : Nat) : Bool :=
  match fuel with
  | 0 => false
  | fuel + 1 =>
    nKind (ns.getD i 0) == 3
    && (nodeKids ns i).all fun j => nKind (ns.getD j 0) == 0 || nodeFlat ns fuel j

/-- The nodes below and at `i` that form one pipeline each: leaves and flattened STRM nodes. -/
def pipeNodes (ns : List Nat) (fuel i : Nat) : List Nat :=
  match fuel with
  | 0 => []
  | fuel + 1 =>
    if nKind (ns.getD i 0) = 0 || nodeFlat ns treeFuel i then [i]
    else (nodeKids ns i).flatMap fun j => pipeNodes ns fuel j

/-- The formes of all leaves below a node, first forme first. -/
def nodeFormes (ns : List Nat) (i : Nat) : Nat × Nat :=
  let stop := (nodeEnd ns treeFuel i).getD (i + 1)
  let leaves := ((List.range (stop - i)).map fun k => ns.getD (i + k) 0).filter fun w => nKind w == 0
  (nFirst (leaves.headD 0), leaves.foldl (fun a w => a + nCount w) 0)

/-- The pipeline node that holds a forme. -/
def pipeOf (ns : List Nat) (k : Nat) : Option Nat :=
  (pipeNodes ns treeFuel 0).find? fun i =>
    let (f, n) := nodeFormes ns i
    f ≤ k && k < f + n

/-- Whether leaves cover formes from `k` on, once each and in order (R128). -/
def leavesFrom (ns : List Nat) (k : Nat) : Option Nat :=
  match ns with
  | [] => some k
  | w :: rest =>
    if nKind w = 0 then (if nFirst w = k then leavesFrom rest (k + nCount w) else none)
    else leavesFrom rest k

/-- Whether a child of a PIPE node other than the first (R209). -/
def isPipeNext (ns : List Nat) (i : Nat) : Bool :=
  (List.range ns.length).any fun p =>
    nKind (ns.getD p 0) == 2 && ((nodeKids ns p).drop 1).contains i

/-- The conditions of a list that fail, each as an entry with its offset: every offence is listed by itself (R228). -/
def flagged (xs : List (Bool × Nat)) : List Nat := xs.filterMap fun (bad, off) => if bad then some off else none

/-- The conditions of R209 on a node word, true where it fails. -/
def nodeBads (ns : List Nat) (i : Nat) : List Bool :=
  let w := ns.getD i 0
  [bitsOf w 2 6 != 0 || bitsOf w 16 16 != 0 || bitsOf w 102 2 != 0 || bitsOf w 110 18 != 0,
   if nKind w = 0 then nChild w != 0 else nChild w = 0 || 59 < nChild w, nKind w != 0 && bitsOf w 32 32 != 0]
  ++ (if isPipeNext ns i then [nHbytes w = 0 || nHbytes w % 256 != 0, nOport w < 48, nIport w < 48]
      else [nHbytes w != 0, nOport w != 0, nIport w != 0])

/-- The offsets of the words of a galley head that fail R228: the 8-byte words of its header and the 16-byte words behind
it (log 25). `room` is the bytes the section has from the head on, none when the image is in memory, where a GID has been
written. -/
def headOffs (h : Nat) (room : Option Nat) : List Nat :=
  let n := ghNodes h
  let ns := ghTree h
  flagged
    [(bitsOf h 0 32 != 0x4C475847, 0), (bitsOf h 32 8 != 1, 0), (bitsOf h 46 2 != 0, 0), (n = 0 || 60 < n, 0),
     (room.isSome && ghGid h != 0, 0), (nodeEnd ns treeFuel 0 != some ns.length, 0),
     (bitsOf h 81 15 != 0 || bitsOf h 102 2 != 0 || bitsOf h 120 8 != 0, 8),
     ((match room with
        | some r => decide (r < 1024 * (ghFormes h + 1))
        | none => false), 8),
     (ghFormes h = 0 || 65536 < ghFormes h, 8), (leavesFrom ns 0 != some (ghFormes h), 8)]
  ++ flagged ((List.range 6).map fun i => (bitsOf h (128 + 64 * i) 64 != 0, 16 + 8 * i))
  ++ flagged [(8 < nodeDepth ns treeFuel 0, 64)]
  ++ ((List.range n).flatMap fun i => flagged ((nodeBads ns i).map fun b => (b, 64 + 16 * i)))
  ++ flagged ((List.range (60 - n)).map fun i => (bitsOf h (512 + 128 * (n + i)) 128 != 0, 64 + 16 * (n + i)))

/-- Whether a galley head fails R228. -/
def headBad (h : Nat) (room : Option Nat) : Bool := !(headOffs h room).isEmpty

/-! ### The forme image (R210) -/

/-- EMASK bit `c`. -/
def fConf (img c : Nat) : Bool := bitsOf img c 1 == 1
/-- NLINKS. -/
def fLinks (img : Nat) : Nat := bitsOf img 16 6
/-- FINDEX. -/
def fIndex (img : Nat) : Nat := bitsOf img 32 16
/-- The element word of column `c`. -/
def fElem (img c : Nat) : Nat := bitsOf img (8 * (0x40 + 16 * c)) 128
/-- Link word `i`. -/
def fLink (img i : Nat) : Nat := bitsOf img (8 * (0x140 + 8 * i)) 64
/-- Router word `r`. -/
def fRtr (img r : Nat) : Nat := bitsOf img (8 * (0x2C0 + 16 * r)) 128
/-- The constant pool. -/
def fPool (img : Nat) : Nat := bitsOf img (8 * 0x340) (8 * 192)
/-- The configuration of column `c`, without the cuts of its links. -/
def fCfg (img c : Nat) : Cfg := cfgOf (fElem img c) (fPool img)

/-- The fields of a link word (R214). -/
structure LinkW where
  srcCol : Nat := 0
  srcOut : Nat := 0
  delta : Nat := 0
  dstCol : Nat := 0
  dstIn : Nat := 0
  slots : Nat := 0
  plane : Nat := 0
  lfmt : Nat := 0x3F
  lslay : Nat := 15
  conv : Bool := false
  lrnd : Nat := 0
  rel : Bool := false
  comm : Bool := false
  spill : Bool := false
  defer : Bool := false
  srcRtr : Bool := false
  dstRtr : Bool := false
  xend : Nat := 0
  xnum : Nat := 0
  lcut : Nat := 0
  circuit : Nat := 0
  deriving DecidableEq, Repr

/-- The fields of a 64-bit link word. -/
def linkW (w : Nat) : LinkW :=
  { srcCol := bitsOf w 0 4, srcOut := bitsOf w 4 1, delta := bitsOf w 5 3, dstCol := bitsOf w 8 4,
    dstIn := bitsOf w 12 2, slots := bitsOf w 14 4, plane := bitsOf w 18 1, lfmt := bitsOf w 19 6,
    lslay := bitsOf w 25 4, conv := bitsOf w 29 1 == 1, lrnd := bitsOf w 30 2, rel := bitsOf w 32 1 == 1,
    comm := bitsOf w 33 1 == 1, spill := bitsOf w 34 1 == 1, defer := bitsOf w 35 1 == 1,
    srcRtr := bitsOf w 36 1 == 1, dstRtr := bitsOf w 37 1 == 1, xend := bitsOf w 38 2, xnum := bitsOf w 40 5,
    lcut := bitsOf w 45 3, circuit := bitsOf w 48 4 }

/-- The link words in use of a forme, with their indices. -/
def fLinkWs (img : Nat) : List (Nat × LinkW) :=
  (List.range (min (fLinks img) 48)).map fun i => (i, linkW (fLink img i))

/-- Whether a typed link has a conversion stage (R32). -/
def LinkW.typed (l : LinkW) : Bool := l.plane == 0 && (l.lfmt != 0x3F || l.lslay != 15)

/-- Where a link's source lies in its forme: column, or 16 + router, and output; none when external. -/
def LinkW.src (l : LinkW) : Option (Nat × Nat) :=
  if l.xend = 1 then none else some ((if l.srcRtr then 16 + l.srcCol % 8 else l.srcCol), l.srcOut)

/-- Where its destination lies: column, or 16 + router, and input; none when external. -/
def LinkW.dst (l : LinkW) : Option (Nat × Nat) :=
  if l.xend = 2 then none else some ((if l.dstRtr then 16 + l.dstCol % 8 else l.dstCol), l.dstIn)

/-- RCODE, RMODE, LIMIT, EXITR and EXITOUT of a router word (R222). -/
def rCode (w : Nat) : Nat := bitsOf w 0 8
/-- RMODE. -/
def rMode (w : Nat) : Nat := bitsOf w 8 4
/-- LIMIT. -/
def rLimit (w : Nat) : Nat := bitsOf w 16 8
/-- EXITR. -/
def rExit (w : Nat) : Nat := bitsOf w 24 3
/-- EXITOUT. -/
def rExitOut (w : Nat) : Nat := bitsOf w 27 1

/-- The inputs a router uses. -/
def rIns (w : Nat) : List Nat :=
  match rCode w with
  | 1 => [0, 1]
  | 2 => if rMode w = 1 then [0, 1, 2] else [0, 1]
  | 3 => [0, 1]
  | 4 => [0, 1]
  | 5 => [0]
  | 6 => [0, 1]
  | _ => []

/-- The outputs a router uses. -/
def rOuts (w : Nat) : List Nat :=
  match rCode w with
  | 1 => [0, 1]
  | 2 => [0]
  | 3 => [0]
  | 4 => if rMode w = 1 then [0, 1] else [0]
  | 5 => [0, 1]
  | 6 => [0]
  | _ => []

/-- Whether input `i` of a router is always on the control plane. -/
def rCtlIn (w i : Nat) : Bool := (rCode w == 1 && i == 1) || (rCode w == 2 && i == 2)

/-! ### Element words (R211-R213, 09 R232, R233 and each operation) -/

/-- The two-operand operations of R232. -/
def opTwo (op : Nat) : Bool :=
  op == 1 || op == 2 || op == 3 || op == 5 || op == 6 || op == 9 || op == 0x20
  || (0x11 ≤ op && op ≤ 0x1C && op != 0x1B)
/-- The vector operations that have a code (09 R231, 10 R278). -/
def opVec (op : Nat) : Bool :=
  (1 ≤ op && op ≤ 0x1C) || (0x20 ≤ op && op ≤ 0x22) || (0x28 ≤ op && op ≤ 0x2B) || (0x30 ≤ op && op ≤ 0x34)
  || (0x38 ≤ op && op ≤ 0x3D) || (0x40 ≤ op && op ≤ 0x49)
/-- Matrix operations. -/
def opMat (op : Nat) : Bool := 0x60 ≤ op && op ≤ 0x67
/-- AG operations. -/
def opAg (op : Nat) : Bool := 0x70 ≤ op && op ≤ 0x75
/-- Ligature opcodes. -/
def opLig (op : Nat) : Bool := 0xC0 ≤ op
/-- Whether an opcode is assigned to an operation. -/
def opKnown (op : Nat) : Bool := opVec op || opMat op || opAg op || opLig op

/-- Whether an opcode may stand in column `c` (R212). -/
def opColumn (op c : Nat) : Bool :=
  if op < 0x60 || opLig op then (1 ≤ c && c ≤ 5) || (10 ≤ c && c ≤ 14)
  else if op < 0x70 then 6 ≤ c && c ≤ 9
  else c == 0 || c == 15

/-- Whether an opcode lies in a range that R212 gives to some columns, assigned or not. -/
def opRange (op : Nat) : Bool := (1 ≤ op && op < 0x78) || opLig op

/-- The largest MODE of an operation. -/
def modeMax (op : Nat) : Nat :=
  if opTwo op then 1
  else
    match op with
    | 0x04 => 3
    | 0x22 => 3
    | 0x21 => 1
    | 0x29 => 1
    | 0x31 => 1
    | 0x38 => 3
    | 0x3B => 1
    | 0x3C => 3
    | 0x3D => 1
    | 0x42 => 2
    | 0x44 => 1
    | 0x45 => 1
    | 0x47 => 1
    | 0x49 => 3
    | 0x60 => 1
    | 0x61 => 1
    | 0x62 => 1
    | 0x63 => 1
    | 0x65 => 1
    | 0x67 => 1
    | 0x75 => 2
    | _ => 0

/-- The inputs an operation uses in its mode. -/
def needIn (c : Cfg) : Nat :=
  let m0 := c.mode % 2
  if opTwo c.op then (if m0 = 1 then 1 else 3)
  else
    match c.op with
    | 0x04 => 1 + (if m0 = 1 then 0 else 2) + (if c.mode / 2 % 2 = 1 then 0 else 4)
    | 0x22 => 1 + (if m0 = 1 then 0 else 2) + (if c.mode / 2 % 2 = 1 then 0 else 4)
    | 0x21 => 5 + (if m0 = 1 then 0 else 2)
    | 0x29 => if m0 = 1 then 3 else 1
    | 0x33 => 3
    | 0x39 => 3
    | 0x3B => 3
    | 0x3C => if c.mode / 2 % 2 = 1 then 7 else 3
    | 0x3D => if m0 = 1 then 1 else 3
    | 0x43 => 0
    | 0x46 => 3
    | 0x47 => if m0 = 1 then 1 else 3
    | 0x49 => if c.mode = 1 then 2 else if c.mode = 3 then 3 else 1
    | 0x60 => 3 + 4 * m0
    | 0x61 => 3 + 4 * m0
    | 0x62 => 3 + 4 * m0
    | 0x65 => 3 + 4 * m0
    | 0x67 => 3 + 4 * m0
    | 0x63 => 1 + 2 * m0
    | 0x70 => 0
    | 0x73 => 3
    | _ => 1

/-- Whether an OUTEN is one the operation allows in its mode. -/
def outOk (c : Cfg) : Bool :=
  match c.op with
  | 0x20 => c.outen != 0
  | 0x34 => c.outen != 0
  | 0x39 => c.outen != 0
  | 0x42 => c.outen != 0
  | 0x47 => c.outen != 0
  | 0x3C => if c.mode / 2 % 2 = 1 then 2 ≤ c.outen else c.outen == 1
  | 0x49 => if c.mode = 2 then c.outen == 0 else c.outen == 1
  | 0x71 => c.outen ≤ 1
  | 0x73 => c.outen ≤ 1
  | 0x74 => c.outen ≤ 1
  | 0x75 => if c.mode = 1 then c.outen == 0 else c.outen == 1
  | _ => c.outen == 1

/-- Whether input `i` of an operation is on the control plane (R213). -/
def ctlIn (c : Cfg) (i : Nat) : Bool :=
  match c.op with
  | 0x29 => i == 1
  | 0x3C => i == 2
  | 0x3D => i == 1
  | 0x44 => true
  | 0x49 => i == 1
  | 0x64 => true
  | 0x72 => true
  | 0x73 => i == 1
  | 0x75 => c.mode == 2
  | _ => false

/-- Whether output `o` of an operation is on the control plane. -/
def ctlOut (c : Cfg) (o : Nat) : Bool :=
  match c.op with
  | 0x20 => o == 1
  | 0x3C => o == 1
  | 0x42 => o == 1
  | 0x45 => true
  | 0x71 => true
  | 0x73 => true
  | 0x74 => true
  | _ => false

/-- A pool header that VCONST, VREP and VSTATE (09 R254) or MZERO (10 R275) accept. -/
def poolHdrOk (c : Cfg) (zero : Bool) : Bool :=
  let h := c.poolHdr c.imm16
  let x := Hdr.ofBits h
  checks1to10 h false == 0 && x.doff == 0 && x.spar == 0
  && (if zero then (x.fmt == fmtCode .fp32 || x.fmt == fmtCode .i48) && x.slay == 0 && x.order == 0
      else x.slay < 2 && x.fmt != fmtCode .i48 && x.fmt != fmtCode .kp64)

/-- Whether an OFMT is 0 or a format a result can take. -/
def ofmtNum (c : Cfg) : Bool :=
  c.ofmt == 0 || (match fmtOf c.ofmt with
    | some .any => false
    | some .kp64 => false
    | some _ => true
    | none => false)
/-- Whether an OFMT is a Float code. -/
def ofmtFloat (c : Cfg) : Bool :=
  match fmtOf c.ofmt with
  | some f => isFloat f
  | none => false
/-- Whether an OFMT is one of the given formats. -/
def ofmtIn (c : Cfg) (fs : List Fmt) : Bool :=
  match fmtOf c.ofmt with
  | some f => fs.contains f
  | none => false

/-- Whether EXT holds only OFMT. -/
def extOnlyFmt (c : Cfg) : Bool := c.ext < 64

/-- Whether the EXT of an operation is allowed. -/
def extOk (c : Cfg) : Bool :=
  match c.op with
  | 0x20 => c.ext % 2 ^ 12 == 0 && c.ext < 2 ^ 16 && c.pred ≤ 6
  | 0x28 => c.ext < 2 ^ 10 && c.ofmt != 0 && ofmtNum c && (c.tslay ≤ 6 || c.tslay == 15)
  | 0x2A =>
    c.ext < 2 ^ 12 && ofmtIn c [.k8, .k6, .int8, .int4, .psd8]
    && (c.tslay == 1 || c.tslay == 2 || c.tslay == 5) && c.tsfmt != 3 && (c.tslay != 1 || c.tsfmt == 1)
  | 0x2B => c.ext % 2 ^ 16 == 0 && c.ext < 2 ^ 19 && c.hsel != 0
  | 0x21 => extOnlyFmt c && ofmtNum c
  | 0x38 => extOnlyFmt c && ofmtNum c
  | 0x3A => extOnlyFmt c && ofmtNum c
  | 0x3B => extOnlyFmt c && ofmtNum c
  | 0x3C => extOnlyFmt c && ofmtNum c
  | 0x63 => extOnlyFmt c && c.ofmt != 0 && (ofmtFloat c || ofmtIn c [.int32, .int16, .int8, .int4, .uint8, .uint4])
  | op =>
    if op ≤ 9 then extOnlyFmt c && (c.ofmt == 0 || ofmtFloat c)
    else if op ≤ 0x10 then extOnlyFmt c && ofmtNum c
    else if op = 0x60 || op = 0x61 || op = 0x62 || op = 0x65 || op = 0x67 then
      extOnlyFmt c && (c.ofmt == 0 || ofmtIn c [.fp32, .fp16, .bf16, .k8, .k6, .int32, .int16, .int8])
    else c.ext == 0

/-- Whether the IMM16 of an operation is allowed. -/
def imm16Ok (c : Cfg) : Bool :=
  let pool32 := c.imm16 % 32 == 0 && c.imm16 ≤ 128
  match c.op with
  | 0x04 => if c.mode / 2 % 2 = 1 then c.imm16 % 4 == 0 && c.imm16 ≤ 188 else c.imm16 == 0
  | 0x22 => if c.mode / 2 % 2 = 1 then c.imm16 % 4 == 0 && c.imm16 ≤ 188 else c.imm16 == 0
  | 0x2B => c.hsel % 2 == 1 || c.imm16 == 0
  | 0x30 => c.imm16 ≤ 128 && (List.range 64).all fun i => c.poolByte (c.imm16 + i) / 64 % 2 == 0
  | 0x31 => c.imm16 ≤ 63
  | 0x32 => c.imm16 ≤ 63
  | 0x34 => 1 ≤ c.imm16 && c.imm16 ≤ 255
  | 0x3A => true
  | 0x43 => pool32 && poolHdrOk c false
  | 0x44 => pool32 && poolHdrOk c false
  | 0x49 => pool32 && poolHdrOk c false
  | 0x64 => pool32 && poolHdrOk c true
  | 0x45 => true
  | 0x46 => 1 ≤ c.imm16 && c.imm16 ≤ 256
  | 0x47 => 1 ≤ c.imm16 && c.imm16 ≤ 256
  | 0x60 => true
  | 0x61 => true
  | 0x65 => true
  | 0x67 => true
  | 0x62 => c.imm16 == 1
  | _ => c.imm16 == 0

/-- Whether the IMM32 of an operation is allowed. -/
def imm32Ok (c : Cfg) : Bool :=
  let m0 := c.mode % 2 == 1
  match c.op with
  | 0x04 => m0 || c.imm32 == 0
  | 0x21 => m0 || c.imm32 == 0
  | 0x22 => m0 || c.imm32 == 0
  | 0x29 => if m0 then c.imm32 == 0 else !scaleBad c.imm32
  | 0x2B => c.hsel / 2 % 2 == 1 || c.imm32 == 0
  | 0x43 => c.imm32 != 0
  | 0x47 => m0 || c.imm32 == 0
  | 0x48 => true
  | 0x61 => c.imm32 < 256
  | op => opLig op || (opTwo op && m0) || c.imm32 == 0

/-- Whether an operation allows the state bits of its element word (09 R260, 10 R265, R281, R292, 11 R317). -/
def stateOk (c : Cfg) : Bool :=
  match c.op with
  | 0x3A => c.stateful
  | 0x49 => c.stateful && 1 ≤ c.state && ({ hdr := c.poolHdr c.imm16 } : TileIn).n ≤ c.state
  | op => if opMat op || opAg op then !c.stateful else if opLig op then !c.stateful || 1 ≤ c.state else true

/-- The conditions of R211 on every element word, true where it fails: a reserved bit, SATP, SC, REPL, STATE. -/
def wordBads (w : Nat) (c : Cfg) : List Bool :=
  [bitsOf w 21 3 != 0 || bitsOf w 39 9 != 0, 1 < c.satp, c.sc && !opAg c.op, c.repl && c.op != 0x44,
   c.state != 0 && !c.stateful]

/-- The conditions of an assigned opcode on its element word, true where it fails. -/
def elemBads (c : Cfg) : List Bool :=
  [c.op == 0x44 && !c.repl, !stateOk c]
  ++ if opLig c.op then [c.mode != 0, c.rnd != 0, c.satp == 1, c.imm16 != 0, c.ext != 0]
    else
      [decide (modeMax c.op < c.mode), c.inen != needIn c, !outOk c, !extOk c, !imm16Ok c, !imm32Ok c]
      ++ if opAg c.op then [c.rnd != 0, c.satp == 1, c.crate != 0, c.prate != 0] else []

/-! ### The checks of R228 on a forme -/

/-- An offence of R93 or R228: the offset of the lowest of its words in the forme image, LAYER and OPCODE of R94; and, where
a word of an earlier forme takes part, how many formes before, and the offset there. -/
structure Offence where
  off : Nat
  layer : Nat
  opcode : Nat := 0
  low : Option (Nat × Nat) := none
  deriving DecidableEq, Repr

/-- Offset of an element word. -/
def elemOff (c : Nat) : Nat := 0x40 + 16 * c
/-- Offset of a link word. -/
def linkOff (i : Nat) : Nat := 0x140 + 8 * i
/-- Offset of a router word. -/
def rtrOff (r : Nat) : Nat := 0x2C0 + 16 * r

/-- A galley as a whole: its tree, its forme count and its images by forme. -/
structure Galley where
  nodes : List Nat
  n : Nat
  img : Nat → Nat

/-- The links that end at input `i` of place `p` (column, or 16 + router) of forme `k`: forme and index. -/
def Galley.into (g : Galley) (k p i : Nat) : List (Nat × Nat × LinkW) :=
  (List.range (min 7 k + 1)).flatMap fun d =>
    ((fLinkWs (g.img (k - d))).filter fun (_, l) =>
      l.delta == d && l.dst == some (p, i)).map fun (j, l) => (k - d, j, l)

/-- The links that start at output `o` of place `p` of forme `k`. -/
def fFrom (img p o : Nat) : List (Nat × LinkW) := (fLinkWs img).filter fun (_, l) => l.src == some (p, o)

/-- Whether place `p` accepts LATE tokens on a link (R217, R263, 11 R308). -/
def acceptsLate (img p : Nat) : Bool :=
  if 16 ≤ p then rCode (fRtr img (p - 16)) != 0
  else
    let op := (fCfg img p).op
    op == 0x40 || op == 0x41 || op == 0x71

/-- Whether place `p` passes LATE tokens to its outputs. -/
def passesLate (img p : Nat) : Bool := 16 ≤ p || (fCfg img p).op != 0x71

/-- Whether input `i` of place `p` of an image exists and is in use. -/
def inUse (img p i : Nat) : Bool :=
  if 16 ≤ p then (rIns (fRtr img (p - 16))).contains i else fConf img p && (fCfg img p).inOn i && i < 3

/-- Whether output `o` of place `p` of an image exists and is in use. -/
def outUse (img p o : Nat) : Bool :=
  if 16 ≤ p then (rOuts (fRtr img (p - 16))).contains o else fConf img p && (fCfg img p).outOn o

/-- The plane of an element input or output; none at a router. -/
def planeIn (img p i : Nat) : Option Nat :=
  if 16 ≤ p then none else some (if ctlIn (fCfg img p) i then 1 else 0)
/-- The plane of an element output. -/
def planeOut (img p o : Nat) : Option Nat :=
  if 16 ≤ p then none else some (if ctlOut (fCfg img p) o then 1 else 0)

/-- An offence of some links, each with its forme and index, and of a word of forme `k` at offset `own`: at the lowest. -/
def endOff (k own : Nat) (ls : List (Nat × Nat × LinkW)) : Offence :=
  let lower (a : Option (Nat × Nat)) (x : Nat × Nat × LinkW) : Option (Nat × Nat) :=
    match a with
    | some (f, o) => if x.1 < f || (x.1 == f && linkOff x.2.1 < o) then some (x.1, linkOff x.2.1) else a
    | none => some (x.1, linkOff x.2.1)
  let here := ((ls.filter fun x => x.1 == k).map fun x => linkOff x.2.1).foldl min own
  { off := here, layer := 4, low := ((ls.filter fun x => x.1 < k).foldl lower none).map fun (f, o) => (k - f, o) }

/-- The conditions of R214, R215 and R217 on a link word by itself, true where it fails. -/
def linkBads (l : LinkW) (w : Nat) : List Bool :=
  [bitsOf w 52 12 != 0, l.dstIn == 3, (fmtOf l.lfmt).isNone, 7 ≤ l.lslay && l.lslay ≤ 14, l.xend == 3, 24 ≤ l.xnum,
   l.srcRtr && 8 ≤ l.srcCol, l.dstRtr && 8 ≤ l.dstCol,
   l.plane == 1 && (l.lfmt != 0x3F || l.lslay != 15 || l.conv || l.lcut != 0), l.rel && l.srcRtr,
   l.xend == 1 && (l.srcCol != 0 || l.srcOut != 0 || l.srcRtr || l.delta != 0), l.xend == 1 && 20 ≤ l.xnum && l.xnum < 24,
   l.xend == 2 && (l.dstCol != 0 || l.dstIn != 0 || l.dstRtr || l.comm), l.xend == 2 && 16 ≤ l.xnum && l.xnum < 20,
   l.xend != 0 && 16 ≤ l.xnum && l.plane != 1]

/-- The offset of the word at the end of a link that lies at place `p`, if it is lower than the link's: that of a configured
element. -/
def endWord (img p link : Nat) : Nat := if p < 16 && fConf img p then min (elemOff p) link else link

/-- The offences of link word `i`: of the word, of its reach, and of either end (R214, R215, R217). -/
def linkOffs (g : Galley) (k i w : Nat) : List Offence :=
  let l := linkW w
  let img := g.img k
  let dimg := g.img (k + l.delta)
  let src := match l.src with
    | some (p, o) =>
      let off := endWord img p (linkOff i)
      [(!outUse img p o, off), (outUse img p o && (match planeOut img p o with
        | some pl => pl != l.plane
        | none => false), off)]
    | none => []
  let dst := match l.dst with
    | some (p, n) =>
      let off := if l.delta = 0 then endWord dimg p (linkOff i) else linkOff i
      [(!inUse dimg p n, off), (l.comm && !acceptsLate dimg p, off), (inUse dimg p n && (match planeIn dimg p n with
        | some pl => pl != l.plane
        | none => false), off)]
    | none => []
  (flagged ((linkBads l w).map (fun b => (b, linkOff i))
    ++ [(decide (g.n ≤ k + l.delta), linkOff i), (decide (k + l.delta < g.n) && pipeOf g.nodes k != pipeOf g.nodes (k + l.delta), linkOff i)]
    ++ src ++ dst)).map fun off => { off := off, layer := 4 }

/-- The links whose COMM lets a LATE token reach a link without COMM (R263): an offence at the lower word. -/
def commOffs (g : Galley) (k : Nat) : List Offence :=
  let img := g.img k
  (List.range 24).filterMap fun p =>
    if !passesLate img p then none
    else
      let ins := ((List.range 3).flatMap fun i => g.into k p i).filter fun (_, _, l) => l.comm
      let outs := ((List.range 2).flatMap fun o => fFrom img p o).filter fun (_, l) => !l.comm && l.plane == 0
      match ins, outs with
      | x :: _, (i, _) :: _ => some (endOff k (linkOff i) [x])
      | _, _ => none

/-- The offences of an element word; `lig` answers, for a ligature opcode, whether it may be used and the
INEN and OUTEN of its binding, where they are checked. -/
def elemOffs (g : Galley) (lig : Nat → Option (Option (Nat × Nat))) (k c : Nat) : List Offence :=
  let img := g.img k
  let w := fElem img c
  let cf := fCfg img c
  if !fConf img c then (if w = 0 then [] else [{ off := elemOff c, layer := 4 }])
  else
    let own (b : Bool) : List Offence := if b then [{ off := elemOff c, layer := 4 }] else []
    let op : List Offence :=
      if !opKnown cf.op then [{ off := elemOff c, layer := 2, opcode := cf.op }]
      else if opLig cf.op then
        match lig cf.op with
        | none => [{ off := elemOff c, layer := 2, opcode := cf.op }]
        | some none => []
        | some (some (lin, lout)) => own (cf.inen != lin) ++ own (cf.outen != lout)
      else []
    op ++ (wordBads w cf).flatMap own
    ++ (if opKnown cf.op then (elemBads cf).flatMap own else []) ++ own (opRange cf.op && !opColumn cf.op c)
    ++ ((List.range 3).filterMap fun i =>
      if cf.inOn i && (g.into k c i).length != 1 then some (endOff k (elemOff c) (g.into k c i)) else none)
    ++ ((List.range 2).flatMap fun o => own (cf.outOn o && ((fFrom img c o).length = 0 || 4 < (fFrom img c o).length)))

/-- The offence of a reserved bit of a router word (R222). -/
def rtrReserved (r w : Nat) : List Offence :=
  if bitsOf w 12 4 != 0 || bitsOf w 28 100 != 0 then [{ off := rtrOff r, layer := 4 }] else []

/-- The offences of the word of a router in use: of the word, of each input and output, of its planes, of an ORDJ
(R222-R227). -/
def rtrUsed (g : Galley) (k r : Nat) : List Offence :=
  let img := g.img k
  let w := fRtr img r
  let ins := rIns w
  let outs := rOuts w
  let inL (i : Nat) : List (Nat × Nat × LinkW) := g.into k (16 + r) i
  let outL (o : Nat) : List (Nat × Nat × LinkW) := (fFrom img (16 + r) o).map fun (j, l) => (k, j, l)
  let maxMode := match rCode w with
    | 1 => 2
    | 2 => 1
    | 4 => 1
    | 5 => 1
    | _ => 0
  let own (b : Bool) (ls : List (Nat × Nat × LinkW)) : List Offence := if b then [endOff k (rtrOff r) ls] else []
  let mixed := ((List.range 3).flatMap fun i => if rCtlIn w i then [] else inL i) ++ (List.range 2).flatMap outL
  rtrReserved r w
  ++ own (maxMode < rMode w) []
  ++ own (if rCode w = 3 then rLimit w = 0 else rLimit w != 0) []
  ++ own (rCode w != 3 && (rExit w != 0 || rExitOut w != 0)) []
  ++ (if rCode w = 3 && rCode (fRtr img (rExit w)) != 1 then
      [{ off := min (rtrOff r) (rtrOff (rExit w)), layer := 4 }] else [])
  ++ ((List.range 3).flatMap fun i => own ((inL i).length != (if ins.contains i then 1 else 0)) (inL i))
  ++ ((List.range 2).flatMap fun o => own ((outL o).length != (if outs.contains o then 1 else 0)) (outL o))
  ++ ((List.range 3).flatMap fun i => own (rCtlIn w i && (inL i).any fun (_, _, l) => l.plane == 0) (inL i))
  ++ own ((mixed.any fun x => x.2.2.plane == 0) && mixed.any fun x => x.2.2.plane == 1) mixed
  ++ own (rCode w = 6 && (match inL 0, inL 1 with
      | (_, _, a) :: _, (_, _, b) :: _ => a.circuit == b.circuit || a.delta == 0 || b.delta == 0
      | _, _ => true)) (inL 0 ++ inL 1)

/-- The offences of a router word. -/
def rtrOffs (g : Galley) (k r : Nat) : List Offence :=
  let w := fRtr (g.img k) r
  if rCode w = 0 then (if w = 0 then [] else [{ off := rtrOff r, layer := 4 }])
  else if 7 ≤ rCode w then { off := rtrOff r, layer := 3, opcode := rCode w } :: rtrReserved r w
  else rtrUsed g k r

/-! ### Cycles -/

/-- An edge of a forme's graph: places, weight, link index. -/
structure Edge where
  u : Nat
  v : Nat
  w : Nat
  slots : Nat
  entry : Nat
  idx : Nat
  deriving DecidableEq, Repr

/-- The tokens that an element adds to the capacity of a link into it: the 16 of a VBUF (09 R252); the region of an
AGSPAD FIFO, which SC.SPAD binds later, as the largest there can be (11 R323; log 113). -/
def elemPlaces (img v plane : Nat) : Nat :=
  if 16 ≤ v then 0
  else
    let c := fCfg img v
    if c.op == 0x41 then 16 else if c.op == 0x75 && c.mode == 0 then (if plane = 1 then 16384 else 2048) else 0

/-- The links that stay within a forme. -/
def fEdges (img : Nat) : List Edge :=
  (fLinkWs img).filterMap fun (i, l) =>
    match l.src, l.dst with
    | some (u, _), some (v, e) =>
      if l.delta = 0 then
        some { u := u, v := v, w := l.slots + 1 + elemPlaces img v l.plane, slots := l.slots, entry := e, idx := i }
      else none
    | _, _ => none

/-- An unreachable distance. -/
def farAway : Nat := 1000000

/-- Shortest distances between the 24 places over edges, the empty path not counted. -/
def distances (es : List Edge) : List (List Nat) :=
  let d0 := (List.range 24).map fun u => (List.range 24).map fun v =>
    (es.filter fun e => e.u == u && e.v == v).foldl (fun a e => min a e.w) farAway
  (List.range 24).foldl (fun (d : List (List Nat)) m =>
    let viaM := d.getD m []
    d.map fun row =>
      let um := row.getD m farAway
      (List.range 24).map fun v => min (row.getD v farAway) (um + viaM.getD v farAway)) d0

/-- A distance of a table. -/
def distOf (d : List (List Nat)) (u v : Nat) : Nat := (d.getD u []).getD v farAway

/-- One offence for each group of links that lie on cycles of a graph, at its lowest link. -/
def cycleOffs (es : List Edge) : List Offence :=
  let d := distances es
  let reach (u v : Nat) : Bool := u == v || distOf d u v < farAway
  let on := es.filter fun e => reach e.v e.u
  (on.filter fun e => on.all fun e' => e.idx ≤ e'.idx || !(reach e.u e'.u && reach e'.u e.u)).map fun e =>
    { off := linkOff e.idx, layer := 4 }

/-- The offences of the Cycles row of R228. -/
def formeCycles (img : Nat) : List Offence :=
  let es := fEdges img
  let back (e : Edge) : Bool := 16 ≤ e.v && rCode (fRtr img (e.v - 16)) == 3 && e.entry == 1
  let open' := cycleOffs (es.filter fun e => !back e)
  let zero := cycleOffs (es.filter fun e => e.slots == 0)
  let carry := (List.range 8).filterMap fun r =>
    let w := fRtr img r
    if rCode w != 3 then none
    else
      -- distances without the other entrances of this CARRY
      let p := 16 + r
      let d := distances (es.filter fun e => e.v != p || e.entry == 1)
      let total := distOf d p p
      if total < farAway && total ≤ rLimit w then
        let on := es.filter fun e =>
          (if e.u = p then 0 else distOf d p e.u) + e.w + (if e.v = p then 0 else distOf d e.v p) == total
        some { off := (on.map fun e => linkOff e.idx).foldl min (rtrOff r), layer := 4 }
      else none
  open' ++ zero ++ carry

/-- The offsets of the 8-byte words of a forme header that fail R228, an entry for each offence (log 25). -/
def fHeadOffs (img k : Nat) : List Nat :=
  flagged ([(fIndex img != k, 0), (bitsOf img 22 10 != 0 || bitsOf img 48 16 != 0, 0), (48 < fLinks img, 0)]
    ++ (List.range 7).map fun i => (bitsOf img (64 + 64 * i) 64 != 0, 8 + 8 * i))

/-- Every offence of forme `k` (R93, R228), by rising offset within each kind of word. -/
def formeOffs (g : Galley) (lig : Nat → Option (Option (Nat × Nat))) (k : Nat) : List Offence :=
  let img := g.img k
  let n := fLinks img
  ((fHeadOffs img k).map fun off => { off := off, layer := 4 })
  ++ ((List.range 16).flatMap fun c => elemOffs g lig k c)
  ++ ((List.range 48).flatMap fun i =>
      if i < n then linkOffs g k i (fLink img i)
      else if fLink img i = 0 then [] else [{ off := linkOff i, layer := 4 }])
  ++ ((List.range 8).flatMap fun r => rtrOffs g k r)
  ++ commOffs g k ++ formeCycles img

end Sys2Proof.Machine
end

