-- ==== Sys2Proof/Machine/Keys.lean ====
section
/-! DEFINITION. The keys of the fabric's tables, and reading and changing their entries. A launch is known
by the number `lk` of its ring, slot and launch slot; the keys of everything that belongs to it begin with
that number. -/

namespace Sys2Proof.Machine

/-- The key of a launch. -/
def launchKey (l : LaunchId) : Nat := (4 * l.ring.val + l.slot.val) * 4 + l.ls.val
/-- The launch slot of a launch key. -/
def launchOf (lk : Nat) : LaunchId :=
  { ring := Fin.ofNat 16 (lk / 16), slot := Fin.ofNat 4 (lk / 4), ls := Fin.ofNat 4 lk }
/-- The thread of a launch. -/
def lkThread (lk : Nat) : Nat := lk / 4
/-- The key of a window stripe of a launch. -/
def stripeKey (lk j : Nat) : Nat := lk * 512 + j
/-- The key of an element. -/
def elemKey (lk j c : Nat) : Nat := stripeKey lk j * 16 + c
/-- The key of link word `i` of forme `k`. -/
def linkKey (lk k i : Nat) : Nat := (lk * 65536 + k) * 64 + i
/-- The key of a router. -/
def rtrKey (lk k r : Nat) : Nat := (lk * 65536 + k) * 8 + r
/-- The key of a state record, and of a VCONST's count. -/
def recKey (lk k c : Nat) : Nat := (lk * 65536 + k) * 16 + c
/-- The key of the AG port at column `c` (0 or 15) of forme `k`. -/
def agPort (lk k c : Nat) : Nat := lk * 2 ^ 20 + 2 * k + (if c = 0 then 0 else 1)
/-- The key of ring port `q` (48-63) of thread index `n`. -/
def ringPort (lk n q : Nat) : Nat := lk * 2 ^ 20 + 0x80000 + 16 * n + (q - 48)
/-- The key of the queue of port 255 of thread index `n`. -/
def noPort (lk n : Nat) : Nat := lk * 2 ^ 20 + 0xC0000 + n
/-- The key of the queue of a port number that names nothing. -/
def badPort (lk n q : Nat) : Nat := lk * 2 ^ 20 + 0x40000 + 256 * n + q
/-- The key of a ring-port FIFO. -/
def fifoKey (lk n q : Nat) : Nat := lk * 256 + 16 * n + (q - 48)
/-- The key of the PIPE buffer in front of node `i`. -/
def bufKey (lk i : Nat) : Nat := lk * 64 + i
/-- The key of exchange queue `q` of a thread. -/
def xqKey (th q : Nat) : Nat := 8 * th + q

/-! ### Entries -/

/-- The machine with the fabric changed. -/
def State.modFab (s : State) (f : Fabric → Fabric) : State := { s with fab := f s.fab }
/-- A launch. -/
def State.launch (s : State) (lk : Nat) : Option Launch := tget none s.fab.launches lk
/-- The machine with a launch replaced. -/
def State.setLaunch (s : State) (lk : Nat) (l : Option Launch) : State :=
  s.modFab fun f => { f with launches := tset none f.launches lk l }
/-- The machine with a launch changed, where there is one. -/
def State.modLaunch (s : State) (lk : Nat) (f : Launch → Launch) : State :=
  match s.launch lk with
  | some l => s.setLaunch lk (some (f l))
  | none => s
/-- An element. -/
def State.elem (s : State) (key : Nat) : Option ElemSt := tget none s.fab.elems key
/-- The machine with an element replaced. -/
def State.setElem (s : State) (key : Nat) (e : ElemSt) : State :=
  s.modFab fun f => { f with elems := tset none f.elems key (some e) }
/-- A link. -/
def State.link (s : State) (key : Nat) : LinkSt := tget {} s.fab.links key
/-- The machine with a link replaced. -/
def State.setLink (s : State) (key : Nat) (l : LinkSt) : State :=
  s.modFab fun f => { f with links := tset {} f.links key l }
/-- A router. -/
def State.rtr (s : State) (key : Nat) : RtSt := tget {} s.fab.routers key
/-- The machine with a router replaced. -/
def State.setRtr (s : State) (key : Nat) (r : RtSt) : State :=
  s.modFab fun f => { f with routers := tset {} f.routers key r }
/-- A port. -/
def State.port (s : State) (key : Nat) : PortSt := tget {} s.fab.ports key
/-- The machine with a port replaced. -/
def State.setPort (s : State) (key : Nat) (p : PortSt) : State :=
  s.modFab fun f => { f with ports := tset {} f.ports key p }
/-- The machine with a port changed. -/
def State.modPort (s : State) (key : Nat) (g : PortSt → PortSt) : State := s.setPort key (g (s.port key))
/-- The key of the state of exchange queue `q` of a segment at the fabric. -/
def xqPort (lk n q : Nat) : Nat := lk * 2 ^ 20 + 0xE0000 + 8 * n + q
/-- A ring-port FIFO. -/
def State.fifo (s : State) (key : Nat) : List Tok := tget [] s.fab.fifos key
/-- The machine with a FIFO replaced. -/
def State.setFifo (s : State) (key : Nat) (q : List Tok) : State :=
  s.modFab fun f => { f with fifos := tset [] f.fifos key q }
/-- An exchange queue. -/
def State.queueOf (s : State) (key : Nat) : List W64 := tget [] s.xq key
/-- A notify bit of a thread set (07 R186). -/
def State.notify (s : State) (k b : Nat) : State :=
  s.modThread k fun th => { th with note := th.note ||| (1 : BitVec 16) <<< b }
/-- Whether a queue of `n` entries meets a threshold: free entries for queues 0-3, held ones for 4-7 (R186). -/
def meets (q n t : Nat) : Bool := t != 0 && (if q < 4 then t ≤ 256 - n else t ≤ n)
/-- The notify bit of a queue set, and the queue disarmed, if its condition holds (R186). -/
def State.noteQueue (s : State) (k q : Nat) : State :=
  if meets q (s.queueOf (xqKey k q)).length ((s.thread k).qarm.toList.getD q 0) then
    (s.modThread k fun th => { th with qarm := th.qarm.setIfInBounds q 0 }).notify k q
  else s
/-- The machine with an exchange queue replaced. -/
def State.setQueue (s : State) (key : Nat) (q : List W64) : State :=
  ({ s with xq := tset [] s.xq key q }).noteQueue (key / 8) (key % 8)

/-! ### A launch and its formes -/

/-- The cached image of a forme. -/
def Launch.img (l : Launch) (k : Nat) : Option Nat := tget none l.formes k
/-- Whether writes of a launch are held: not once its final cut is complete (14 R388). -/
def Launch.holding (l : Launch) : Bool := l.snapOn && !l.unprot && !(l.finalReq && l.cut == l.mark)
/-- The pipeline on a window stripe. -/
def Launch.pipeAt (l : Launch) (j : Nat) : Option Pipe := l.pipes.find? fun p => p.stripe ≤ j && j < p.stripe + p.p
/-- The pipeline that holds a forme, as imposed now. -/
def Launch.pipeFor (l : Launch) (k : Nat) : Option Pipe := l.pipes.find? fun p => p.forme ≤ k && k < p.forme + p.n
/-- Whether a pipeline scrolls (05 R131). -/
def Pipe.scrolls (p : Pipe) : Bool := p.p < p.n
/-- The galley forme of virtual forme `v` of a pipeline. -/
def Pipe.formeAt (p : Pipe) (v : Nat) : Nat := p.forme + (if p.n = 0 then 0 else v % p.n)
/-- Whether a forme lies in a scrolling pipeline. -/
def Launch.scrollsAt (l : Launch) (k : Nat) : Bool :=
  match l.pipeFor k with
  | some p => p.scrolls
  | none => false

/-- The link words of the formes in the cache of a launch: forme, index, word. -/
def Launch.links (l : Launch) : List (Nat × Nat × LinkW) :=
  l.formes.flatMap fun (k, img) =>
    match img with
    | some x => (fLinkWs x).map fun (i, w) => (k, i, w)
    | none => []

/-- The link into input `i` of place `p` (column, or 16 + router) of forme `k`. -/
def Launch.linkTo (l : Launch) (k p i : Nat) : Option (Nat × Nat × LinkW) :=
  (List.range (min 7 k + 1)).findSome? fun d =>
    match l.img (k - d) with
    | some x =>
      ((fLinkWs x).find? fun (_, w) => w.delta == d && w.dst == some (p, i)).map fun (j, w) => (k - d, j, w)
    | none => none

/-- The links from output `o` of place `p` of forme `k`. -/
def Launch.linksFrom (l : Launch) (k p o : Nat) : List (Nat × LinkW) :=
  match l.img k with
  | some x => fFrom x p o
  | none => []

/-- The configuration of column `c` of forme `k`, with the cuts of its input links (08 R214). -/
def Launch.cfg (l : Launch) (k c : Nat) : Option Cfg :=
  match l.img k with
  | some x =>
    if fConf x c then
      let cut (i : Nat) : Nat := match l.linkTo k c i with
        | some (_, _, w) => w.lcut
        | none => 0
      some { fCfg x c with cuta := cut 0, cutb := cut 1, cutc := cut 2 }
    else none
  | none => none

/-- The window stripe on which virtual forme `v` of a pipeline lies. -/
def Pipe.stripeOf (p : Pipe) (v : Nat) : Nat := p.stripe + (if p.p = 0 then 0 else v % p.p)

/-- Ring and logical stripe of a window stripe. -/
def Launch.place (l : Launch) (j : Nat) : Nat × Nat := l.win.getD j (0, 0)
/-- The thread index of the segment that holds a window stripe. -/
def Launch.segAt (l : Launch) (j : Nat) : Nat := l.segOf.getD j 0

/-- The window stripe a forme lies on now, or would next: in a scrolling pipeline, that of the element `c`
that holds it. -/
def Launch.stripeFor (l : Launch) (k : Nat) : Option Nat :=
  (l.pipeFor k).map fun p => p.stripeOf (k - p.forme)

/-- The job of a launch. -/
def State.jobOf (s : State) (lk : Nat) : Option Job := (s.launch lk).bind fun l => s.job l.job

/-- The ASID a launch runs in. -/
def State.lkAsid (s : State) (lk : Nat) : Nat :=
  match s.launch lk with
  | some l => (s.queue l.job.queue).asid
  | none => 0

/-- Whether a launch's elements, routers and ports may act: the job runs or is being saved. -/
def State.lkActive (s : State) (lk : Nat) : Bool :=
  match s.launch lk, s.jobOf lk with
  | some l, some j => !l.ended && !l.struck && (j.phase == .started || j.phase == .saving)
  | _, _ => false

/-- The vendor ligature of an entry, once the bank is loaded and the image is valid (10 R294, 17 R428). -/
def State.vendorLig (s : State) (n : Nat) : Option (List Byte) :=
  if s.bd.bank && n < 32 then
    match Config.vendorImage n with
    | some img => if ligCheck img n = 0 then some img else none
    | none => none
  else none

/-- COVER (03 R91): the opcodes whose images the bank holds. -/
def State.cover (s : State) : Nat :=
  ((List.range 32).filter fun i => (s.vendorLig i).isSome).foldl (fun a i => a + 2 ^ i) 0

/-- The ligature image an opcode runs in a context (10 R286, R294). -/
def State.ligImage (s : State) (asid op : Nat) : Option (List Byte) :=
  if 0xE0 ≤ op then (tget none (s.ctx asid).ligs (op - 0xE0)).map fun e => e.image
  else if 0xC0 ≤ op then s.vendorLig (op - 0xC0)
  else none

/-- Whether ligature opcodes of a context may be used, with LIN and LOUT of their bindings. -/
def State.ligUse (s : State) (asid op : Nat) : Option (Option (Nat × Nat)) :=
  (s.ligImage asid op).map fun img => some (ligIn img, ligOut img)

end Sys2Proof.Machine
end

