-- ==== Sys2Proof/Machine/Links.lean ====
section
/-! DEFINITION. Tokens on links (08 R214-R221): what heads an input, the capacity of a link, sending and
consuming, and the external ends: ring-port FIFOs (11 R297), PIPE buffers (05 R130), exchange queues
(07 R184, R185) and overflow queues (11 R324). -/

namespace Sys2Proof.Machine

/-! ### Token sequences -/

/-- Whether a token is a SEG. -/
def Tok.isSeg : Tok → Bool
  | .ctl .seg _ => true
  | _ => false
/-- Whether a token is an ERR. -/
def Tok.isErr : Tok → Bool
  | .ctl .err _ => true
  | _ => false
/-- Whether a token is data-width: DATA or HDR (R218). -/
def Tok.wide : Tok → Bool
  | .data _ => true
  | .hdr _ => true
  | .ctl _ _ => false
/-- The tag of a control token. -/
def Tok.tag : Tok → Option Tag
  | .ctl t _ => some t
  | _ => none
/-- The payload of a control token. -/
def Tok.pay : Tok → W64
  | .ctl _ p => p
  | _ => 0

/-- The head of a token sequence: its SEG masks and the token behind them. -/
def headOf (segs : List W64) (ts : List Tok) : Option Head :=
  match ts with
  | [] => none
  | t :: rest =>
    match t with
    | .ctl .seg m => headOf (segs ++ [m]) rest
    | .ctl _ _ => some { segs := segs, tok := t }
    | .data _ => some { segs := segs, tok := t }
    | .hdr _ => some { segs := segs, tok := t }

/-- A token sequence without its head. -/
def dropHead (ts : List Tok) : List Tok :=
  match ts with
  | [] => []
  | t :: rest => if t.isSeg then dropHead rest else rest

/-- A queue of timed tokens without its head. -/
def dropHeadL (ts : List LTok) : List LTok :=
  match ts with
  | [] => []
  | t :: rest => if t.tok.isSeg then dropHeadL rest else rest

/-! ### Links -/

/-- The tokens of a link that can be consumed in fc `fc`: those that have arrived (R220). -/
def LinkSt.ready (l : LinkSt) (fc : Nat) : List Tok := (l.q.takeWhile fun t => t.at' ≤ fc).map fun t => t.tok

/-- What heads the destination end of a link: a typed link delivers through its latch (01 R32). -/
def LinkSt.head (l : LinkSt) (w : LinkW) (fc : Nat) : Option Head :=
  if w.typed then headOf [] l.latch else headOf [] (l.ready fc)

/-- A link after its destination has consumed the head. -/
def LinkSt.pop (l : LinkSt) (w : LinkW) : LinkSt :=
  if w.typed then { l with latch := dropHead l.latch } else { l with q := dropHeadL l.q }

/-- The tokens of a list that take places: no SEG, no ERR (R216). -/
def places (ts : List Tok) : Nat := (ts.filter fun t => !t.isSeg && !t.isErr).length

/-- The tokens that take places of a link; on a data-plane link of distance at least 1 of a scrolling pipeline the
data-width tokens, by which B is counted (R132, R135; log 20). -/
def LinkSt.held (l : LinkSt) (w : LinkW) (scrolls : Bool) : Nat :=
  places (((l.q.map fun t => t.tok) ++ l.latch).filter fun t => !(scrolls && w.delta != 0 && w.plane == 0) || t.wide)

/-- The capacity of a link beside its overflow queue (R216, 05 R135). -/
def LinkW.cap (w : LinkW) (scrolls : Bool) (b : Nat) : Nat := w.slots + 1 + (if scrolls then w.delta * b else 0)

/-- The bytes that a token takes in ring SRAM and in memory queues: by the plane of its link (R324, 05 R135). -/
def LinkW.slot (w : LinkW) : Nat := if w.plane = 1 then 8 else 256

/-- The tokens an overflow queue can hold (R324). -/
def Overflow.cap (o : Overflow) (w : LinkW) : Nat := o.places + o.size / w.slot
/-- Its tokens in send order. -/
def Overflow.toks (o : Overflow) : List Tok := o.q ++ o.far ++ o.ins
/-- The queue without its tokens (14 R390). -/
def Overflow.emptied (o : Overflow) : Overflow := { o with q := [], far := [], ins := [], frozen := false, head := o.tail }

/-- The segment (thread index) whose ring holds the link words of a forme (11 R296); for a forme that is not
imposed now, that of the window's first stripe. -/
def Launch.segOfForme (l : Launch) (k : Nat) : Nat :=
  match l.stripeFor k with
  | some j => l.segAt j
  | none => l.segAt 0

/-- Whether a command's accesses write memory (11 R300). -/
def Cmd.writes (c : Cmd) : Bool := [2, 4, 5, 9, 10].contains c.scop

/-- Whether a write that a port has issued is still to be performed: a whole tile that waits, or an access that does
(11 R306). -/
def PortSt.unwritten (p : PortSt) : Bool :=
  p.full.isSome || (match p.cur with
    | some c => c.cmd.writes && c.freeze.isSome
    | none => false)

/-- The segment of a port of a launch, by its key: an AG port's is its forme's. -/
def Launch.portSeg (l : Launch) (key : Nat) : Nat :=
  let x := key % 2 ^ 20
  if x < 0x40000 then l.segOfForme (x / 2) else x % 0x40000 / 16

/-- Whether the port group of a forme's elements, its segment's ports, has written all that it has issued: what a token
waits for that leaves on a link with REL = 1 (R217, 11 R306, 13 R374). A held write counts as made (14 R387). -/
def State.released (s : State) (lk : Nat) (l : Launch) (k : Nat) : Bool :=
  s.fab.ports.all fun (key, p) => key / 2 ^ 20 != lk || l.portSeg key != l.segOfForme k || !p.unwritten

/-- Whether a link has capacity for one more token (R220), and with REL = 1 the token may leave (R217). -/
def State.room (s : State) (lk k i : Nat) (w : LinkW) : Bool :=
  match s.launch lk with
  | none => false
  | some l =>
    let st := s.link (linkKey lk k i)
    let own := st.held w (l.scrollsAt k) < w.cap (l.scrollsAt k) l.b
    (!w.rel || s.released lk l k) &&
    match st.ovf with
    | none => own
    | some o => if o.toks.isEmpty && own then true else !o.frozen && places o.toks < o.cap w

/-- The elements that hold a forme at a column, or wait for it: virtual forme, key, element. -/
def State.holders (s : State) (lk : Nat) (l : Launch) (k c : Nat) : List (Nat × Nat × ElemSt) :=
  match l.pipeFor k with
  | none => []
  | some p => (List.range p.p).filterMap fun i =>
    let key := elemKey lk (p.stripe + i) c
    match s.elem key with
    | some e => if p.formeAt e.v == k then some (e.v, key, e) else none
    | none => none

/-- The element that holds a forme at a column now, or last did: the one of the earliest sweep, whose tokens come
first on every link of the forme. -/
def State.holder (s : State) (lk : Nat) (l : Launch) (k c : Nat) : Option Nat :=
  ((s.holders lk l k c).foldl (fun (b : Option (Nat × Nat)) x => match b with
    | some y => if x.1 < y.1 then some (x.1, x.2.1) else some y
    | none => some (x.1, x.2.1)) none).map fun y => y.2

/-- The sweep in which a forme is imposed now at a place (column, or 16 + router), by which it lies on a stripe. -/
def State.sweepAt (s : State) (lk : Nat) (l : Launch) (k place : Nat) : Nat :=
  if 16 ≤ place then (s.rtr (rtrKey lk k (place - 16))).sweep
  else
    match l.pipeFor k, (s.holder lk l k place).bind s.elem with
    | some p, some e => if p.n = 0 then 0 else e.v / p.n
    | _, _ => 0

/-- The window stripes at the ends of a link of forme `k` in a sweep (05 R131). -/
def Launch.linkEnds (l : Launch) (k sweep : Nat) (w : LinkW) : Option (Nat × Nat) :=
  (l.pipeFor k).map fun p =>
    let v := (if p.scrolls then sweep * p.n else 0) + (k - p.forme)
    (p.stripeOf v, p.stripeOf (v + w.delta))

/-- The segment from which a link crosses, in a sweep, to another segment of the launch (05 R126). -/
def Launch.crosses (l : Launch) (k sweep : Nat) (w : LinkW) : Option Nat :=
  match l.linkEnds k sweep w with
  | some (a, b) => if w.xend == 0 && l.segAt a != l.segAt b then some (l.segAt a) else none
  | none => none

/-- The stamps that tokens take as units enter a circuit, and whether the tile of a LATE token is still to come (R227):
one for each unit, at its first token, which for a late element is its LATE (R222). -/
def unitStarts (late : Bool) (ts : List Tok) : Nat × Bool :=
  ts.foldl (fun (a : Nat × Bool) t => match t with
    | .hdr _ => (if a.2 then a.1 else a.1 + 1, false)
    | .ctl .data _ => (if a.2 then a.1 else a.1 + 1, false)
    | .ctl .late p => (a.1 + 1, !p.getLsbD 63)
    | _ => a) (0, late)

/-! ### Overflow queues (11 R324) -/

/-- The payload of a token. -/
def Tok.payload (t : Tok) : Nat :=
  match t with
  | .data d => d.toNat
  | .hdr h => h.toNat
  | .ctl _ p => p.toNat
/-- A token with its payload replaced. -/
def Tok.withPayload (t : Tok) (n : Nat) : Tok :=
  match t with
  | .data _ => .data (BitVec.ofNat _ n)
  | .hdr _ => .hdr (BitVec.ofNat _ n)
  | .ctl g _ => .ctl g (BitVec.ofNat _ n)

/-- The overflow queue of a link replaced. -/
def State.setOvf (s : State) (key : Nat) (o : Overflow) : State := s.setLink key { s.link key with ovf := some o }

/-- The ring through whose ring port a launch's overflow queues reach memory. -/
def ovfRing (lk : Nat) : Nat := lkThread lk / 4
/-- The record's key handle. -/
def Overflow.handle (o : Overflow) : Nat := (o.cmd.lh.map fun r => r.2).getD 0
/-- The address of place `i` of the part in memory, a circular buffer over the extent. -/
def Overflow.va (o : Overflow) (w : LinkW) (i : Nat) : Nat := o.base + i % (o.size / w.slot) * w.slot

/-- The budget class of a launch's job. -/
def State.launchClass (s : State) (lk : Nat) : Nat :=
  match s.launch lk with
  | some l => s.classOf l.job
  | none => 31

/-- What an access of a queue's traffic is charged: tier H, and the bridges on the way (R324, 04 R115). -/
def State.ovfCharges (s : State) (lk : Nat) (ps : List (Nat × Nat)) : List Charge :=
  let cls := s.launchClass lk
  ps.flatMap fun (pa, n) =>
    { res := 0, inst := Config.channelOf pa, cls := cls, units := Config.channelCycles n } ::
      (match s.ms.tierOf pa with
       | some (_, d) => bridgeCharges (ovfRing lk / 4) d n cls
       | none => [])

/-- The granules around a place of the queue in memory, translated and decrypted for an access: the machine charged,
their parts, the key and the bytes. -/
def State.ovfOpen (s : State) (lk key : Nat) (o : Overflow) (va n : Nat) (k : AccessKind) :
    State × Except AErr (List (Nat × Nat) × Option KeySlot × List Byte) :=
  match s.cryptOf o.cmd.asid o.handle with
  | none => (s, .error .key)
  | some ks =>
    let lo := va / 32 * 32
    let len := roundUp (va % 32 + n) 32
    let walks := s.ms.rangeWalks (.port (ovfRing lk * 2 ^ 40 + 2 ^ 36 + key)) (ovfRing lk / 4) o.cmd.asid lo len k
      (s.launchClass lk) 3
    match s.ms.vparts (.port (ovfRing lk * 2 ^ 40 + 2 ^ 36 + key)) (ovfRing lk / 4) o.cmd.asid lo len k 3 with
    | (ms, .error (e, _)) => (({ s with ms := ms } : State).charge walks, .error e)
    | (ms, .ok ps) =>
      let s1 := ({ s with ms := ms } : State).charge (walks ++ s.ovfCharges lk ps)
      let base := (o.cmd.lh.map fun r => fieldN 512 r.1 0 56).getD 0
      if k == .read && ps.any fun (pa, m) => ms.rangeBad pa m then (s1, .error .ue)
      else (s1, .ok (ps, ks, crypt false ks base lo (ps.flatMap fun (pa, m) => readMem ms.mem pa m)))

/-- A token's payload read from a place of the queue in memory (log 50). -/
def State.ovfRead (s : State) (lk key : Nat) (w : LinkW) (o : Overflow) (i : Nat) : State × Except AErr Nat :=
  let va := o.va w i
  match s.ovfOpen lk key o va w.slot .read with
  | (s1, .error e) => (s1, .error e)
  | (s1, .ok (_, _, bs)) => (s1, .ok (ofBytesLE ((bs.drop (va % 32)).take w.slot)))

/-- A token's payload written to a place of the queue in memory. -/
def State.ovfWrite (s : State) (lk key : Nat) (w : LinkW) (o : Overflow) (i v : Nat) : State × Option AErr :=
  let va := o.va w i
  match s.ovfOpen lk key o va w.slot .write with
  | (s1, .error e) => (s1, some e)
  | (s1, .ok (ps, ks, bs)) =>
    let base := (o.cmd.lh.map fun r => fieldN 512 r.1 0 56).getD 0
    let out := bs.take (va % 32) ++ bytesLE w.slot v ++ bs.drop (va % 32 + w.slot)
    ({ s1 with ms := s1.ms.writeParts ps (crypt true ks base (va / 32 * 32) out) }, none)

/-- An access of a queue that is not performed: the queue stops accepting; an XLATE is posted (12 R342), anything else
is unrecoverable. -/
def State.ovfStop (s : State) (lk key : Nat) (o : Overflow) (va : Nat) (k : AccessKind) (e : AErr) : State :=
  let th := lkThread lk
  let s1 := s.setOvf key { o with frozen := true, faultVa := va }
  let fault (c : FaultClass) (d : Nat) : State :=
    match s.launch lk with
    | some l => s1.recordFault l.job
        { cls := c, site := 2, ring := th / 4, slot := th % 4, detail := BitVec.ofNat 64 d, addr := BitVec.ofNat 64 va }
    | none => s1
  match e with
  | .key => fault .key o.handle
  | .perm => fault .perm 0
  | .ue => fault .dataUe 0
  | .xlate r =>
    { s1 with ms := (s1.ms.post (ovfRing lk / 4)
      { fid := 0, asid := o.cmd.asid, granule := va / 65536, reason := r, va := BitVec.ofNat 64 va, agentCode := 4,
        ring := th / 4, slot := th % 4, col := 0, forme := 0, link := 0, kinds := [k], waiters := [.overflow key] }).1 }

/-- The oldest token that waits for its write goes to memory. A SEG and an ERR take no place there (log 50). -/
def State.ovfPut (s : State) (lk key : Nat) (w : LinkW) : Option State :=
  match (s.link key).ovf with
  | none => none
  | some o =>
    match o.ins with
    | [] => none
    | t :: rest =>
      if o.frozen then none
      else if t.isSeg || t.isErr then some (s.setOvf key { o with far := o.far ++ [t], ins := rest })
      else
        match s.ovfWrite lk key w o o.tail t.payload with
        | (s1, none) => some (s1.setOvf key { o with far := o.far ++ [t], ins := rest, tail := o.tail + 1 })
        | (s1, some e) => some (s1.ovfStop lk key o (o.va w o.tail) .write e)

/-- The oldest token in memory comes to ring SRAM, where there is a place for it; a queue without places reads it when
the link can take it. -/
def State.ovfFetch (s : State) (lk key : Nat) (w : LinkW) (own : Bool) : Option State :=
  match (s.link key).ovf with
  | none => none
  | some o =>
    match o.far with
    | [] => none
    | t :: rest =>
      if t.isSeg || t.isErr then some (s.setOvf key { o with q := o.q ++ [t], far := rest })
      else if o.frozen || (if own then max 1 o.places else o.places) ≤ places o.q then none
      else
        match s.ovfRead lk key w o o.head with
        | (s1, .ok v) => some (s1.setOvf key { o with q := o.q ++ [t.withPayload v], far := rest, head := o.head + 1 })
        | (s1, .error e) => some (s1.ovfStop lk key o (o.va w o.head) .read e)

/-- Moves repeated while they can be made, at most `fuel` times. -/
def repeatMove (f : State → Option State) (fuel : Nat) (s : State) : State :=
  match fuel with
  | 0 => s
  | fuel + 1 =>
    match f s with
    | some s1 => repeatMove f fuel s1
    | none => s

/-- Tokens that enter an overflow queue (R324): its first 64 lie in ring SRAM, the others go to memory. -/
def State.ovfEnter (s : State) (lk key : Nat) (w : LinkW) (o : Overflow) (ts : List Tok) : State :=
  if o.far.isEmpty && o.ins.isEmpty && places o.q < o.places then s.setOvf key { o with q := o.q ++ ts }
  else repeatMove (fun a => a.ovfPut lk key w) (o.ins.length + ts.length) (s.setOvf key { o with ins := o.ins ++ ts })

/-! ### Sending and consuming -/

/-- The fc from which a token sent now can be consumed: fc + 1 + d on a resident link of distance d (R220). -/
def State.arrival (s : State) (l : Launch) (k : Nat) (w : LinkW) : Nat :=
  s.clk.fc + 1 + (if l.scrollsAt k then 0 else w.delta)

/-- The place, column or 16 + router, at which a link begins. -/
def LinkW.source (w : LinkW) : Nat := if w.srcRtr then 16 + w.srcCol else w.srcCol

/-- The gateway of the source segment stamps units that enter a circuit (R227). -/
def State.stamp (s : State) (lk : Nat) (l : Launch) (k key : Nat) (w : LinkW) (ts : List Tok) : State :=
  match l.crosses k (s.sweepAt lk l k w.source) w with
  | none => s
  | some seg =>
    let (n, late) := unitStarts (s.link key).late ts
    let base := tget 0 l.stamps seg
    (s.setLink key { s.link key with
        stamps := (s.link key).stamps ++ (List.range n).map fun x => base + 1 + x
        late := late }).modLaunch lk
      fun l => { l with stamps := tset 0 l.stamps seg (base + n) }

/-- Tokens sent on a link (R220); with an overflow queue, once the link is full or the queue holds tokens, into it
(11 R324). -/
def State.send (s : State) (lk k i : Nat) (w : LinkW) (ts : List Tok) : State :=
  match s.launch lk with
  | none => s
  | some l =>
    let key := linkKey lk k i
    let st := s.link key
    let passed := s.setLink key { st with q := st.q ++ ts.map fun x => { tok := x, at' := s.arrival l k w } }
    let s1 := match st.ovf with
      | some o =>
        if o.toks.isEmpty && st.held w (l.scrollsAt k) < w.cap (l.scrollsAt k) l.b then passed
        else s.ovfEnter lk key w o ts
      | none => passed
    s1.stamp lk l k key w ts

/-- The head of input `i` of place `p` of forme `k` of a launch. -/
def State.headAt (s : State) (lk : Nat) (l : Launch) (k p i : Nat) : Option Head :=
  match l.linkTo k p i with
  | some (k', j, w) => (s.link (linkKey lk k' j)).head w s.clk.fc
  | none => none

/-- The machine after the head of an input has been consumed. -/
def State.popAt (s : State) (lk : Nat) (l : Launch) (k p i : Nat) : State :=
  match l.linkTo k p i with
  | some (k', j, w) =>
    let key := linkKey lk k' j
    s.setLink key ((s.link key).pop w)
  | none => s

/-- Whether every link of an output has capacity (R221). -/
def State.outRoom (s : State) (lk : Nat) (l : Launch) (k p o : Nat) : Bool :=
  (l.linksFrom k p o).all fun (i, w) => s.room lk k i w

/-- One copy of tokens sent on every link of an output (R221). -/
def State.sendOut (s : State) (lk : Nat) (l : Launch) (k p o : Nat) (ts : List Tok) : State :=
  if ts.isEmpty then s else (l.linksFrom k p o).foldl (fun (a : State) (i, w) => a.send lk k i w ts) s

/-! ### External ends -/

/-- The number of the thread with index `n` of a job. -/
def Job.threadNo (j : Job) (n : Nat) : Nat :=
  match j.segs[n]? with
  | some g => 4 * g.ring + g.slot
  | none => 0

/-- The tree node in front of which the PIPE buffer lies that a forme writes through port `q` (05 R130). -/
def Launch.bufOut (l : Launch) (k q : Nat) : Option Nat :=
  let ns := l.nodes.map BitVec.toNat
  (List.range ns.length).find? fun i =>
    isPipeNext ns i && nOport (ns.getD i 0) == q
    && (List.range ns.length).any fun p =>
      let kids := nodeKids ns p
      nKind (ns.getD p 0) == 2
      && (List.range kids.length).any fun x =>
        kids.getD (x + 1) 0 == i && x + 1 < kids.length
        && (let (f, n) := nodeFormes ns (kids.getD x 0)
            f ≤ k && k < f + n)

/-- The tree node in front of which the PIPE buffer lies that a forme reads through port `q`. -/
def Launch.bufIn (l : Launch) (k q : Nat) : Option Nat :=
  let ns := l.nodes.map BitVec.toNat
  (List.range ns.length).find? fun i =>
    isPipeNext ns i && nIport (ns.getD i 0) == q
    && (let (f, n) := nodeFormes ns i
        f ≤ k && k < f + n)

/-- A token written into a PIPE buffer: an item ends with its EOR; an EOS, and a tag between items, stands
alone (R130; log 21). -/
def PipeBuf.put (b : PipeBuf) (ts : List Tok) : PipeBuf :=
  let cur := b.cur ++ ts
  let closes := match ts.getLast? with
    | some (.ctl .eor _) => true
    | some (.ctl .eos _) => true
    | some (.ctl .err _) => true
    | some (.ctl .mark _) => b.cur.isEmpty
    | some (.ctl .fence _) => b.cur.isEmpty
    | some (.ctl .fsw _) => b.cur.isEmpty
    | _ => false
  if closes then { b with items := b.items ++ [cur], cur := [] } else { b with cur := cur }

/-- Whether the producer may write: item t + 2 begins only after item t has been consumed (R130). -/
def PipeBuf.canPut (b : PipeBuf) : Bool := !b.cur.isEmpty || b.items.length < 2

/-- What the consumer may read: only whole items. -/
def PipeBuf.avail (b : PipeBuf) : List Tok := b.items.headD []

/-- The buffer after its head has been consumed. -/
def PipeBuf.pop (b : PipeBuf) : PipeBuf :=
  match b.items with
  | [] => b
  | it :: rest => let r := dropHead it; { b with items := if r.isEmpty then rest else r :: rest }

/-- A fault of a launch's job at a ring port. -/
def State.portFault (s : State) (lk : Nat) (f : FaultRec) : State :=
  match s.launch lk with
  | some l => s.recordFault l.job f
  | none => s

/-- The SEG tokens and the token at the head of a sequence, as they travel. -/
def Head.toks (h : Head) : List Tok := h.segs.map segTok ++ [h.tok]

/-- One token moved from a link into its external destination, if it can be. An FSW ends here, or at the ring port that
stores what comes (11 R308): a port that feeds another pipeline counts its own blocks (log 22). -/
def State.moveOut (s : State) (lk : Nat) (l : Launch) (k i : Nat) (w : LinkW) : Option State :=
  let key := linkKey lk k i
  match (s.link key).head w s.clk.fc with
  | none => none
  | some h =>
    let popped := s.setLink key ((s.link key).pop w)
    let n := l.segOfForme k
    let feeds := (l.bufOut k (48 + w.xnum)).isSome
      || l.links.any fun (k', _, w') => w'.xend == 1 && w'.xnum == w.xnum && l.segOfForme k' == n
    if h.tok.tag == some .fsw && (16 ≤ w.xnum || feeds) then some popped
    else if 20 ≤ w.xnum then
      -- exchange queue 4-7: DATA makes an entry, every other tag ends here (R185)
      match h.tok with
      | .ctl .data v =>
        match s.job l.job with
        | none => none
        | some j =>
          let qk := xqKey (j.threadNo n) (w.xnum - 16)
          let waiting := (l.xqSent.filter fun e => e.1 == qk).length
          if (s.queueOf qk).length + waiting < 256 then
            if l.holding then
              some (popped.setLaunch lk (some { l with xqSent := l.xqSent ++ [(qk, v, (s.port (xqPort lk n (w.xnum - 16))).mark)] }))
            else some (popped.setQueue qk (s.queueOf qk ++ [v]))
          else none
      | .ctl .mark v => some (popped.modPort (xqPort lk n (w.xnum - 16)) fun p => { p with mark := v.toNat })
      | _ => some popped
    else
      let q := 48 + w.xnum
      match l.bufOut k q with
      | some node =>
        let bk := bufKey lk node
        let b := tget {} s.fab.bufs bk
        if b.canPut || h.tok.isErr then
          let b1 := b.put h.toks
          let size := places (b.cur ++ h.toks) * w.slot
          let s1 := popped.modFab fun f => { f with bufs := tset {} f.bufs bk b1 }
          some (if nHbytes ((l.nodes.getD node 0).toNat) < size then
              s1.portFault lk { cls := .shape, site := 2, ring := (l.place ((l.stripeFor k).getD 0)).1, slot := lk / 4 % 4, forme := 0 }
            else s1)
        else none
      | none =>
        let fk := fifoKey lk n q
        if ((s.fifo fk).filter fun t => !t.isSeg && !t.isErr).length < 64 || h.tok.isErr then
          some (popped.setFifo fk (s.fifo fk ++ h.toks))
        else none

/-- The data-width tokens of a sweep block of the pipeline of a forme: P·B; none where it does not scroll
(05 R132). -/
def Launch.blockLen (l : Launch) (k : Nat) : Option Nat :=
  match l.pipeFor k with
  | some p => if p.scrolls then some (p.p * l.b) else none
  | none => none

/-- The sweeps in which a forme is imposed now at a place (column, or 16 + router). -/
def State.sweepsOf (s : State) (lk : Nat) (l : Launch) (k place : Nat) : List Nat :=
  let n := match l.pipeFor k with
    | some p => p.n
    | none => 0
  if 16 ≤ place then
    (List.range 16).flatMap fun c => ((s.holders lk l k c).filter fun x => !x.2.2.await).map fun x => x.1 / n
  else
    ((s.holders lk l k place).filter fun x => !x.2.2.await && s.holder lk l k place == some x.2.1).map fun x => x.1 / n

/-- Whether a source port may deliver its next token: into a pipeline that is imposed (05 R129); in a scrolling one while
its forme is imposed for the port's block, and the block is open (05 R132). -/
def State.mayDeliver (s : State) (lk : Nat) (l : Launch) (k place : Nat) (p : PortSt) : Bool :=
  (l.pipeFor k).isSome &&
  match l.blockLen k with
  | none => true
  | some n => (s.sweepsOf lk l k place).contains p.sweep && (p.block < n || p.mid)

/-- The number of the rate window of a launch (04 R117). -/
def State.rateWin (s : State) (l : Launch) : Nat :=
  let c := fieldN 64 l.rate 16 16
  if c = 0 then 0 else (s.clk.fc - l.startFc) / c

/-- Whether the rate limiter admits one more token at a port. -/
def State.rateOk (s : State) (l : Launch) (p : PortSt) : Bool :=
  !l.rate.getLsbD 32 || (if p.win = s.rateWin l then p.admitted else 0) < fieldN 64 l.rate 0 16

/-- A port that has admitted `n` more tokens in the rate window (04 R117). -/
def State.rated (s : State) (l : Launch) (p : PortSt) (n : Nat) : PortSt :=
  let w := s.rateWin l
  { p with win := w, admitted := (if p.win = w then p.admitted else 0) + n }

/-- A source port after it has delivered tokens: its block, its place in a tile, its counts (05 R132,
14 R384, 04 R117). An EOS ends the block. -/
def State.delivered (s : State) (l : Launch) (k : Nat) (p : PortSt) (ts : List Tok) : PortSt :=
  let wide := (ts.filter Tok.wide).length
  let eos := ts.any fun t => t.tag == some .eos
  { s.rated l p (ts.filter fun t => !t.isSeg).length with
    block := if eos then max (p.block + wide) ((l.blockLen k).getD 0) else p.block + wide
    toks := p.toks + wide
    mid := if ts.any fun t => t.tag == some .eot then false
      else if ts.any fun t => match t with
        | .hdr _ => true
        | _ => false then true else p.mid
    eos := p.eos || eos }

/-- The data-width tokens that a source of a launch has admitted, counted for its job (14 R397). -/
def State.countIn (s : State) (lk : Nat) (ts : List Tok) : State :=
  match s.launch lk with
  | some l => s.modJob l.job fun j => { j with tokens := j.tokens + (ts.filter Tok.wide).length }
  | none => s

/-- A MARK token. -/
def markTok (k : Nat) : Tok := .ctl .mark (BitVec.ofNat 64 (k % 2 ^ 32))
/-- An FSW token. -/
def fswTok (k : Nat) : Tok := .ctl .fsw (BitVec.ofNat 64 (k % 2 ^ 32))
/-- An ERR token of a class. -/
def errTok (c : FaultClass) : Tok := .ctl .err (BitVec.ofNat 64 c.code)

/-- The entry of a marker number among a launch's snapshots changed, or begun (14 R385). -/
def Launch.snap (l : Launch) (k : Nat) (f : Snap → Snap) : Launch :=
  if l.snaps.any fun x => x.k == k then { l with snaps := l.snaps.map fun x => if x.k == k then f x else x }
  else { l with snaps := l.snaps ++ [f { k := k, seq := l.seq, pipes := l.pipes }] }

/-- A source port that places the marker requested: its block is recorded, with the tokens read for it that
have still to be delivered (R384). An SC.MARK at work ends with it (11 R313). -/
def State.markPort (s : State) (lk pk : Nat) (fifo : List Tok) : State :=
  match s.launch lk with
  | none => s
  | some l =>
    let p := { s.port pk with mark := l.mark }
    let q := { p with
      cur := p.cur.filter fun c => c.cmd.scop != 13
      reply := fifo.map (fun t => (2 ^ 48, t)) ++ p.reply }
    (s.setPort pk p).setLaunch lk (some (l.snap l.mark fun x => { x with ports := x.ports ++ [(pk, q)] }))

/-- Whether a source port owes the marker requested, and stands between tiles; under the save sequencer, at the
point where it stops. -/
def Launch.owesMark (l : Launch) (p : PortSt) : Bool :=
  l.snapOn && p.mark < l.mark && !p.mid && (!p.stopping || p.mayStop)

/-- Whether an SC.MARK is at work on a port: its MARK goes behind the tokens of the commands before it (11 R313). -/
def PortSt.marks (p : PortSt) : Bool := p.cur.any fun c => c.cmd.scop == 13

/-- Whether a ring port of a segment is fed by the launch itself, as a stream buffer or PIPE port, and so is no
source (11 R297). -/
def Launch.pushed (l : Launch) (k n x : Nat) : Bool :=
  (l.bufIn k (48 + x)).isSome || l.links.any fun (k', _, w) => w.xend == 2 && w.xnum == x && l.segOfForme k' == n

/-- Replies of a memory ring port that enter its FIFO. -/
def State.fillFifo (s : State) (lk n q : Nat) : State :=
  let pk := ringPort lk n q
  let p := s.port pk
  if p.reply.isEmpty then s
  else
    let fk := fifoKey lk n q
    let free := 64 - (s.fifo fk).length
    if free = 0 then s
    else
      (s.setFifo fk (s.fifo fk ++ (p.reply.take free).map fun x => x.2)).setPort pk { p with reply := p.reply.drop free }

/-- The tokens of `h` delivered by the source of link `i` of forme `k` and sent on the link. A port that the fabric
itself feeds is no source of the launch (14 R384). -/
def State.arrive (s : State) (lk : Nat) (l : Launch) (k i : Nat) (w : LinkW) (h : Head) : State :=
  let n := l.segOfForme k
  let pk := ringPort lk n (48 + w.xnum)
  let s2 := s.setPort pk (s.delivered l k (s.port pk) h.toks)
  (if l.pushed k n w.xnum then s2 else s2.countIn lk h.toks).send lk k i w h.toks

/-- One token moved from an external source into its link, if it can be. A source port delivers under
05 R132, 04 R117 and 14 R384. -/
def State.moveIn (s : State) (lk : Nat) (l : Launch) (k i : Nat) (w : LinkW) : Option State :=
  if 16 ≤ w.xnum || !s.room lk k i w then none
  else
    let q := 48 + w.xnum
    let n := l.segOfForme k
    let pk := ringPort lk n q
    let place := match w.dst with
      | some (p, _) => p
      | none => 0
    let fk := fifoKey lk n q
    if !s.mayDeliver lk l k place (s.port pk) || !s.rateOk l (s.port pk) || (s.port pk).sealed
        || ((s.port pk).stopping && !(s.port pk).mid && (l.bufIn k q).isSome) then none
    else if l.owesMark (s.port pk) && (l.blockLen k).isNone && !l.pushed k n w.xnum
        && ((!(s.port pk).stopping && !(s.port pk).marks) || ((s.fifo fk).isEmpty && (s.port pk).reply.isEmpty)) then
      some (((s.markPort lk pk (s.fifo fk)).modPort pk fun p => s.rated l p 1).send lk k i w [markTok l.mark])
    else
      match l.bufIn k q with
      | some node =>
        let bk := bufKey lk node
        let b := tget {} s.fab.bufs bk
        match headOf [] b.avail with
        | some h => some ((s.modFab fun f => { f with bufs := tset {} f.bufs bk b.pop }).arrive lk l k i w h)
        | none => none
      | none =>
        let s0 := s.fillFifo lk n q
        match headOf [] (s0.fifo fk) with
        | some h => some ((s0.setFifo fk (dropHead (s0.fifo fk))).arrive lk l k i w h)
        | none =>
          -- GSTOP: a source that has not emitted EOS emits it (07 R194)
          if l.stopped && !l.pushed k n w.xnum && !(s0.port pk).eos && !(s0.port pk).mid then
            some (s0.arrive lk l k i w { segs := [], tok := .ctl .eos 0 })
          else none

/-- One move of an overflow queue, if there is one (11 R324): a token that waits for its write goes to memory, the
oldest in memory comes to ring SRAM, the oldest of all goes onto the link. -/
def State.moveOver (s : State) (lk : Nat) (l : Launch) (k i : Nat) (w : LinkW) : Option State :=
  let key := linkKey lk k i
  let st := s.link key
  let own := st.held w (l.scrollsAt k) < w.cap (l.scrollsAt k) l.b
  ((s.ovfPut lk key w).or (s.ovfFetch lk key w own)).or
    (match st.ovf with
     | none => none
     | some o =>
       match headOf [] o.q with
       | none => none
       | some h =>
         if own || h.tok.isErr then
           some (s.setLink key { st with
             q := st.q ++ h.toks.map fun x => { tok := x, at' := s.arrival l k w }
             ovf := some { o with q := dropHead o.q } })
         else none)

/-- The moves at the external ends and overflow queues of one link. -/
def State.settleLink (s : State) (lk : Nat) (k i : Nat) (w : LinkW) : State :=
  let go (f : State → Launch → Option State) (s : State) : Option State :=
    match s.launch lk with
    | some l => f s l
    | none => none
  let s1 := if (s.link (linkKey lk k i)).ovf.isSome then repeatMove (go fun s l => s.moveOver lk l k i w) 512 s else s
  if w.xend = 2 then repeatMove (go fun s l => s.moveOut lk l k i w) 128 s1
  else if w.xend = 1 then repeatMove (go fun s l => s.moveIn lk l k i w) 128 s1
  else s1

/-- Every move at the external ends of a launch's links that can be made: no element or port takes part in
them. Destinations first, so that a stream buffer passes tokens on at once. -/
def State.settle (s : State) (lk : Nat) : State :=
  match s.launch lk with
  | none => s
  | some l =>
    let ls := l.links.filter fun (k, i, w) => w.xend != 0 || (s.link (linkKey lk k i)).ovf.isSome
    let outs := ls.filter fun (_, _, w) => w.xend != 1
    let ins := ls.filter fun (_, _, w) => w.xend == 1
    (outs ++ ins ++ outs).foldl (fun (a : State) (k, i, w) => a.settleLink lk k i w) s

end Sys2Proof.Machine
end

