-- ==== Sys2Proof/Machine/Device.lean ====
section
/-! DEFINITION. What a thread reads in the device window beside the scratchpad: the port status page
(11 R298) and the capability list (03 R90, R91, 17 R423). -/

namespace Sys2Proof.Machine

/-- The port status page of a thread. -/
def statusBase : Nat := 0x00FFFFFFFFFE0000
/-- The capability list in every context. -/
def capBase : Nat := 0x00FFFFFFFFFF0000

/-- The launch that a thread's launch slot shows: its own, or a chained launch of its job (log 24); with the
thread's index in the job. -/
def State.shown (s : State) (id : LaunchId) : Option (Nat × Nat) :=
  let lk := launchKey id
  let th := s.thread (lkThread lk)
  match s.launch lk with
  | some _ => some (lk, th.n)
  | none =>
    match th.job with
    | none => none
    | some j =>
      (s.fab.launches.find? fun e =>
        match e.2 with
        | some l => l.chain && l.job == j && e.1 % 4 == id.ls.val
        | none => false).map fun e => (e.1, th.n)

/-- Whether a command binds a port. -/
def PortSt.bound (p : PortSt) : Bool := p.cur.isSome || p.spad.isSome || p.peer.isSome || !p.trail.isEmpty

/-- The 64-bit word of the port status page at a byte offset (R298). -/
def State.portStatus (s : State) (off : Nat) : W64 :=
  let i := off / 8
  let id : LaunchId := { ring := Fin.ofNat 16 s.ring, slot := Fin.ofNat 4 s.slot, ls := Fin.ofNat 4 (i / 16) }
  let x := i % 16
  match s.shown id with
  | none => 0x40
  | some (lk, n) =>
    match s.launch lk with
    | none => 0x40
    | some l =>
      let held := min 64 (places (s.fifo (fifoKey lk n (48 + x))))
      let ends (e : Nat) : Bool := l.links.any fun (k, _, w) => w.xend == e && w.xnum == x && l.segOfForme k == n
      let bit (b : Bool) (k : Nat) : Nat := if b then 2 ^ k else 0
      BitVec.ofNat 64 (64 - held + held * 2 ^ 16 + bit (s.port (ringPort lk n (48 + x))).bound 32
        + bit (ends 2) 33 + bit (ends 1) 34)

/-- The bytes of the port status page from an offset on. -/
def State.portBytes (s : State) (off n : Nat) : List Byte :=
  (List.range n).map fun i => ((s.portStatus (off + i)) >>> (8 * ((off + i) % 8))).setWidth 8

/-- A capability record before its NEXT is known: ID and the bytes after the header (R90); VER is 1. -/
def capRecord (id : Nat) (body : List Byte) (off : Nat) (last : Bool) : List Byte :=
  let len := (body.length + 8) / 4
  bytesLE 8 (id + 2 ^ 16 + len * 2 ^ 24 + (if last then 0 else off + 4 * len) * 2 ^ 32) ++ body

/-- Records laid one behind another, by rising ID (log 28). -/
def capChain (off : Nat) (rs : List (Nat × List Byte)) : List Byte :=
  match rs with
  | [] => []
  | (id, body) :: rest => capRecord id body off rest.isEmpty ++ capChain (off + body.length + 8) rest

/-- The peer links that are up, by bit. -/
def Boundary.peerUp (b : Boundary) : Nat :=
  (List.range 16).foldl (fun a i => a + (if (tget {} b.peers i).up then 2 ^ i else 0)) 0

/-- The bytes of an SM3 digest in the order in which SM3 gives them, the same wherever a digest is reported (R91, R423,
R427; DEDUCED, log 123: no rule gives the byte order). -/
def digestBytes (d : BitVec 256) : List Byte := (bytesLE 32 d.toNat).reverse

/-- The capability list (R91, R423): DEVICE and SECURITY alone before reduced service, REDUCED until full
service (R424). -/
def State.capList (s : State) : List Byte :=
  let b := s.bd
  let full := b.stage == 3
  let device := (1, bytesLE 2 0x840 ++ bytesLE 2 Config.deviceStep.toNat ++ bytesLE 1 (if b.stage == 2 then 1 else 16)
    ++ bytesLE 1 24 ++ bytesLE 2 1750 ++ bytesLE 8 Config.deviceSerial.toNat ++ bytesLE 8 (Config.firmwareVersion b.firmware).toNat)
  let security := (7, bytesLE 1 0x13 ++ bytesLE 1 3 ++ bytesLE 2 4096 ++ bytesLE 4 0 ++ digestBytes (Config.firmwareDigest b.firmware))
  let bankV (v : Nat) : Nat := if b.bank then v else 0
  if b.stage < 2 then capChain 0 [device, security]
  else
    let gib (p : Nat) : List Byte := bytesLE 4 (if s.ms.reduced then 0 else tget 0 s.ms.tierX p / 2 ^ 30)
    capChain 0
      ([device,
        (2, bytesLE 4 3 ++ bytesLE 4 0),
        (3, bytesLE 4 (bankV Config.bankVersion.toNat) ++ bytesLE 4 s.cover
          ++ digestBytes (Config.bankDigest b.bank)),
        (4, bytesLE 4 (if full then 192 else 48) ++ bytesLE 4 (if full then 512 else 0)
          ++ ((List.range 7).flatMap fun i => gib (i + 1)) ++ bytesLE 4 (fieldN 64 b.safecfg 1 7 * 2)),
        (5, bytesLE 2 b.peerUp ++ bytesLE 1 b.cxlUp.toNat ++ bytesLE 5 0),
        (6, bytesLE 8 0x8000000001133F3E),
        security]
       ++ if full then [] else [(8, bytesLE 1 b.stage ++ bytesLE 7 0)])

end Sys2Proof.Machine
end

