-- ==== Sys2Proof/Machine/Flags.lean ====
section
/-! DEFINITION. The sticky flags of a thread (06 R147) and the flags of an element's status in memory
(09 R261): how a computation's flags enter them. -/

namespace Sys2Proof.Machine

/-- One bit of a flag word. -/
def flagBit (b : Bool) (i : Nat) : Nat := if b then 2 ^ i else 0

/-- FSTAT[3:0] of a computation's flags: INV, DZ, FLT_OVF, SAT (06 R147). -/
def fstatBits (f : Flags) : BitVec 4 :=
  BitVec.ofNat 4 (flagBit f.inv 0 + flagBit f.dz 1 + flagBit f.fltOvf 2 + flagBit f.sat 3)

/-- Floating-point instructions only ever set flags (06 R147). -/
def Thread.flag (th : Thread) (f : Flags) : Thread := { th with fstat := th.fstat ||| fstatBits f }

/-- A write of FSTAT: a 1 clears the bit (06 R147, 00 R6). -/
def Thread.clearFlags (th : Thread) (v : W64) : Thread := { th with fstat := th.fstat &&& ~~~(v.setWidth 4) }

end Sys2Proof.Machine
end

