-- ==== Sys2Proof/Machine/Operands.lean ====
section
/-! DEFINITION. The operand forms of the scalar instructions: effective addresses, immediate fields, the
loads, stores and atomic accesses of a thread with their faults, and the check of a control transfer's
target (06 R153, 07 R174-R180). -/

namespace Sys2Proof.Machine

/-- A sign-extended field. -/
def sx {n : Nat} (v : BitVec n) : W64 := v.signExtend 64
/-- A zero-extended field. -/
def zx {n : Nat} (v : BitVec n) : W64 := v.setWidth 64

/-- The bytes of a size code (07 R177). -/
def sizeBytes (z : BitVec 2) : Nat := 2 ^ z.toNat

/-- The effective address of form F (07 R177). -/
def eaF (th : Thread) (a : BitVec 5) (o : BitVec 12) : W64 := th.get a + sx o

/-- The effective address of HLD and HST, in granules (07 R188). -/
def eaG (th : Thread) (a : BitVec 5) (s : BitVec 8) : W64 := th.get a + sx s * 32

/-- The target of a PC-relative transfer, in the 56 bits of the pc (06 R144, R171; 00 R8). -/
def relTarget {n : Nat} (th : Thread) (o : BitVec n) : W64 :=
  (th.pc + (o.signExtend 56) * 4).setWidth 64

/-- The bytes a thread reads in the device window (11 R298, R321, 03 R90); none where no rule allows it. -/
def State.deviceRead (s : State) (va n : Nat) : Option (List Byte) :=
  if va < deviceBase + 24 * 0x100000 then
    match s.spPlace va n with
    | some (stripe, off) => some (s.spRead s.ring s.slot stripe off n)
    | none => none
  else if statusBase ≤ va && va + n ≤ statusBase + 512 then
    some (s.portBytes (va - statusBase) n)
  else if capBase ≤ va && va + n ≤ capBase + s.capList.length then
    some ((s.capList.drop (va - capBase)).take n)
  else none

/-- Whether an address lies in the part of the device window that is scratchpad, where no watchpoint is checked (12
R362). -/
def inScratch (va : W64) : Bool := va.toNat < deviceBase + 24 * 0x100000

/-- A load of `n` bytes by the issuing thread: ALIGN, XLATE, PERM, WATCH, DATA_UE in order (07 R178). -/
def State.load (s : State) (va : W64) (n : Nat) : Acc Nat :=
  if va.toNat % n != 0 then .trap s (trapAt .align va)
  else if inDevice va then
    match s.deviceRead va.toNat n with
    | some bs =>
      match if inScratch va then none else s.watchMe va.toNat n true false with
      | some w => .trap s { trapAt .watch va with detail := w }
      | none => .ok s (ofBytesLE bs)
    | none => .trap s (trapAt .perm va)
  else
    match s.dataPa va n .read false true false with
    | .ok s' pa =>
      if s'.ms.rangeBad pa n then .trap s' (trapAt .dataUe va) else .ok s' (s'.ms.readPa pa n)
    | .trap s' t => .trap s' t
    | .post s' => .post s'

/-- A store of bytes by the issuing thread (07 R178). -/
def State.store (s : State) (va : W64) (bs : List Byte) : Acc Unit :=
  if va.toNat % bs.length != 0 then .trap s (trapAt .align va)
  else if inDevice va then
    if va.toNat < deviceBase + 24 * 0x100000 then
      match s.spPlace va.toNat bs.length with
      | some (stripe, off) => .ok (s.spWrite s.ring s.slot stripe off bs) ()
      | none => .trap s (trapAt .perm va)
    else .trap s (trapAt .perm va)
  else
    match s.dataPa va bs.length .write true false true with
    | .ok s' pa => .ok { s' with ms := s'.ms.writeData pa bs } ()
    | .trap s' t => .trap s' t
    | .post s' => .post s'

/-- An atomic read, modify and write of `n` bytes by the issuing thread (07 R179, R180): `f` gives the new
value, none when nothing is written (a CAS that fails). The page must have R and W. An AMO (`always`) is a
read and a write for watchpoints, a CAS a write only when it writes (12 R362). -/
def State.atomic (s : State) (va : W64) (n : Nat) (always : Bool) (f : Nat → Option Nat) : Acc Nat :=
  if va.toNat % n != 0 then .trap s (trapAt .align va)
  else if inDevice va then .trap s (trapAt .perm va)
  else
    match s.dataPa va n .atomic false false false with
    | .trap s' t => .trap s' t
    | .post s' => .post s'
    | .ok s1 pa =>
      let bad := s1.ms.rangeBad pa n
      let old := s1.ms.readPa pa n
      let new := f old
      match s.watchMe va.toNat n true (always || (!bad && new.isSome)) with
      | some w => .trap s1 { trapAt .watch va with detail := w }
      | none =>
        if bad then .trap s1 (trapAt .dataUe va)
        else
          match new with
          | none => .ok s1 old
          | some v =>
            match s1.dataPa va n .atomic true false false with
            | .trap s' t => .trap s' t
            | .post s' => .post s'
            | .ok s2 pa' => .ok { s2 with ms := s2.ms.writeData pa' (bytesLE n v) } old

/-- The check that an instruction can be fetched at an address (06 R153): XLATE without posting for an
address beyond 56 bits or in the first 64 KiB, PERM in the device window and on a page without X. -/
def State.fetchable (s : State) (va : W64) : Acc Nat :=
  if highVa va || va.toNat < 0x10000 then .trap s (trapAt .xlate va)
  else if inDevice va then .trap s (trapAt .perm va)
  else s.translateMe va .fetch false

/-- A control transfer: the target must be fetchable, or the transfer makes no update (06 R153). -/
def transfer (s : State) (target : W64) (f : Thread → Thread) : Out :=
  (s.fetchable target).andThen fun s' _ => .next (s'.setMe ((f s'.me).jump target))

/-- An instruction that only writes its thread and goes on (06 R145). -/
def update (s : State) (th : Thread) : Out := .next (s.setMe th.adv)

end Sys2Proof.Machine
end

