-- ==== Sys2Proof/Machine/Fetch.lean ====
section
/-! DEFINITION. The passing of time, the choice of the thread that issues, and fetching an instruction
(06 R145, R149, R151, R153, 07 R192). -/

namespace Sys2Proof.Machine

/-- Time passes: `n` fc, each exactly one period of the clock (00 R5, 06 R148, 07 R197). -/
def Clock.pass (c : Clock) (n : Nat) : Clock :=
  let t := c.part + n * 1000000000
  { c with fc := c.fc + n, fs := c.fs + t / c.mhz, part := t % c.mhz }

/-- The clock at another frequency; the part of a femtosecond that has passed is kept in the new unit, rounded
down (log 14). -/
def Clock.retune (c : Clock) (mhz : Nat) : Clock := { c with mhz := mhz, part := c.part * mhz / c.mhz }

/-- Time passes. -/
def State.pass (s : State) (n : Nat) : State := { s with clk := s.clk.pass n }

/-- A job's threads execute while it is started (04 R103, 14 R391, R394). -/
def State.jobRuns (s : State) (th : Thread) : Bool :=
  match th.job with
  | none => true
  | some j =>
    match s.job j with
    | some x => x.phase == .started
    | none => false

/-- Whether a thread can issue: it runs, and waits on no posted fault. -/
def State.ready (s : State) (k : Nat) : Bool :=
  let th := s.thread k
  th.run == .running && th.wait.isNone && s.jobRuns th

/-- A word fetched at an address: the newest bytes, with a FENCE behind their store or without (DESIGN CHOICE, log 7; R146).
An uncorrectable error of its line is met here, and not at the transfer that led to it (DEDUCED, log 129; R153). -/
def State.fetchWord (s : State) (va : W64) : Acc W32 :=
  match s.fetchable va with
  | .ok s1 pa =>
    if s1.ms.rangeBad pa 4 then .trap s1 (trapAt .dataUe va)
    else .ok s1 (BitVec.ofNat 32 (s1.ms.readPa pa 4))
  | .trap s1 t => .trap s1 t
  | .post s1 => .post s1

/-- Words fetched one after another. -/
def State.fetchWords (s : State) (va : W64) (n : Nat) : Acc (List W32) :=
  match n with
  | 0 => .ok s []
  | n + 1 =>
    match s.fetchWord va with
    | .ok s1 w =>
      match s1.fetchWords (va + 4) n with
      | .ok s2 ws => .ok s2 (w :: ws)
      | r => r
    | .trap s1 t => .trap s1 t
    | .post s1 => .post s1

/-- The words of the instruction at the issuing thread's pc: one, or SCL's five (R149, 07 R192). -/
def State.fetchInstr (s : State) : Acc (List W32) :=
  let pc := s.me.pc64
  match s.fetchWord pc with
  | .ok s1 w =>
    if isScl w then
      match s1.fetchWords (pc + 4) 4 with
      | .ok s2 ws => .ok s2 (w :: ws)
      | r => r
    else .ok s1 [w]
  | .trap s1 t => .trap s1 t
  | .post s1 => .post s1

/-- The instruction that words encode, or the ILLEGAL trap of R151. -/
def decodeFetched (ws : List W32) : Except TrapReq Instr :=
  match decodeWords ws with
  | .ok (i, _) => .ok i
  | .error _ => .error { cause := .illegal, info := (ws.headD 0).setWidth 64 }

/-- Whether a turn's step may be `i`: a scalar instruction is executed only by a thread's issue. -/
def isEvent (i : Instr) : Bool := (encodeWord i).isNone

end Sys2Proof.Machine
end

