-- ==== Sys2Proof/Machine/Fire.lean ====
section
/-! DEFINITION. The firing rule (08 R219-R221): the site of an element, what holds it, one firing of it, and
what an aligned tag or a forme switch does to an operation's registers. -/

namespace Sys2Proof.Machine

/-! ### The site of an element -/

/-- An element about to act: its launch, key, pipeline, registers, the forme it holds and its word. -/
structure Site where
  lk : Nat
  j : Nat
  c : Nat
  key : Nat
  l : Launch
  p : Pipe
  e : ElemSt
  k : Nat
  cfg : Cfg

/-- The site of an element, where a launch has configured one. -/
def State.site (s : State) (id : ElemId) : Option Site :=
  let lk := launchKey id.launch
  match s.launch lk with
  | none => none
  | some l =>
    let key := elemKey lk id.stripe id.col.val
    match l.pipeAt id.stripe, s.elem key with
    | some p, some e =>
      let k := p.formeAt e.v
      match l.cfg k id.col.val with
      | some cfg => some { lk := lk, j := id.stripe, c := id.col.val, key := key, l := l, p := p, e := e, k := k, cfg := cfg }
      | none => none
    | _, _ => none

/-- The slot whose bank holds a window stripe of a launch: that of the segment's thread. -/
def State.bankOf (s : State) (lk : Nat) (l : Launch) (j : Nat) : Nat :=
  match s.job l.job with
  | some x => x.threadNo (l.segAt j) % 4
  | none => lkThread lk % 4

/-- Whether an element may fire in this fc (R220): its launch runs, its bank is active, its shadow is staged,
its record is restored, and it has not fired. -/
def State.may (s : State) (x : Site) : Bool :=
  let (g, i) := x.l.place x.j
  s.lkActive x.lk && tget 0 (s.ringSt g).active i == s.bankOf x.lk x.l x.j + 1
  && !x.e.await && !x.e.restore && x.e.lastFc != some s.clk.fc
  && s.holder x.lk x.l x.k x.c == some x.key

/-- The head of an enabled input. -/
def State.inHead (s : State) (x : Site) (i : Nat) : Option Head :=
  if x.cfg.inOn i then s.headAt x.lk x.l x.k x.c i else none

/-- The heads of an element's inputs. -/
def State.insOf (s : State) (x : Site) : Ins := { a := s.inHead x 0, b := s.inHead x 1, c := s.inHead x 2 }

/-- The heads of its enabled inputs. -/
def State.headsOf (s : State) (x : Site) : List (Option Head) :=
  ((List.range 3).filter x.cfg.inOn).map fun i => s.inHead x i

/-- Whether an output's links have capacity; an output that is not enabled takes every token. -/
def State.roomOf (s : State) (x : Site) (o : Nat) : Bool := !x.cfg.outOn o || s.outRoom x.lk x.l x.k x.c o

/-! ### What holds an element (R219) -/

/-- Whether the head of an input holds the element: an aligned tag or an FSW; the EOR of VMERGE (09 R257)
and that of MLATB's input B (10 R270) do not. -/
def holds (c : Cfg) (i : Nat) (h : Option Head) : Bool :=
  match headTag h with
  | some t => (t.aligned || t == .fsw) && !(t == .eor && (c.op == 0x46 || (c.op == 0x62 && i == 1)))
  | none => false

/-- Whether some enabled input holds the element. -/
def heldBy (c : Cfg) (ins : Ins) : Bool := (List.range 3).any fun i => holds c i (ins.get i)

/-- Whether an ERR heads some input. -/
def errAt (hs : List (Option Head)) : Bool := hs.any fun h => headTag h == some .err

/-! ### A firing (R220) -/

/-- The first token of a list with the SEG masks bound to it, and the rest. -/
def splitTok (ts : List Tok) : List Tok × List Tok :=
  match ts with
  | [] => ([], [])
  | t :: rest =>
    if t.isSeg then
      let (a, b) := splitTok rest
      (t :: a, b)
    else ([t], rest)

/-- The tokens of a list that take places. -/
def tokCount (ts : List Tok) : Nat := (ts.filter fun t => !t.isSeg).length

/-- What an element can do: nothing, fault, or fire: its registers after the firing, the inputs it consumes
from by bit, and the tokens it emits. -/
inductive Try where
  | idle
  | bad (cls : FaultClass) (detail : W64)
  | go (e : ElemSt) (take : Nat) (outa outb : List Tok)

/-- The firing that emits tokens an element owes. -/
def State.emitOwed (s : State) (x : Site) : Try :=
  let e := x.e
  let (a, ra) := if s.roomOf x 0 then splitTok e.owea else ([], e.owea)
  let (b, rb) := if s.roomOf x 1 then splitTok e.oweb else ([], e.oweb)
  if a.isEmpty && b.isEmpty then .idle else .go { e with owea := ra, oweb := rb } 0 a b

/-- A firing of the operation: refused without capacity for a token it must emit; what it owes besides goes
out as capacity allows. -/
def State.offer (s : State) (x : Site) (f : Fire) : Try :=
  let e := x.e
  let buf := x.cfg.op == 0x41
  let on (o : Nat) (ts : List Tok) : List Tok := if x.cfg.outOn o then ts else []
  let allA := e.owea ++ on 0 (f.outa ++ f.owea)
  let allB := e.oweb ++ on 1 (f.outb ++ f.oweb)
  let roomA := s.roomOf x 0
  let roomB := s.roomOf x 1
  let (a, ra) := if roomA then splitTok allA else ([], allA)
  let (b, rb) := if roomB then splitTok allB else ([], allB)
  let stuck := if buf then 16 < tokCount ra else (!roomA && !(on 0 f.outa).isEmpty) || (!roomB && !(on 1 f.outb).isEmpty)
  if stuck then .idle
  else .go { e with st := f.st, owea := ra, oweb := rb, flags := orFlags e.flags f.flags } f.take a b

/-- What an element can do with its operation's step: emit what it owes; or a step, which under an aligned
tag or an FSW consumes nothing. VBUF takes tokens while it owes (09 R252). -/
def State.tryFire (s : State) (x : Site) (f : Cfg → OpSt → Ins → Res) : Try :=
  let owes := !x.e.owea.isEmpty || !x.e.oweb.isEmpty
  if owes && x.cfg.op != 0x41 then s.emitOwed x
  else
    let ins := s.insOf x
    if errAt (s.headsOf x) then .idle
    else
      match f x.cfg x.e.st ins with
      | .idle => if owes then s.emitOwed x else .idle
      | .bad cls d => .bad cls d
      | .fire r =>
        let latch := x.cfg.op == 0x62 && r.take == 2 && headTag ins.b == some .eor
        if heldBy x.cfg ins && r.take != 0 && !latch then (if owes then s.emitOwed x else .idle)
        else s.offer x r

/-- A progress mark of a launch's job (14 R392, R393). -/
def State.progress (s : State) (lk : Nat) : State :=
  match s.launch lk with
  | some l => s.modJob l.job fun j => { j with progressFs := s.clk.fs, quietFc := s.clk.fc }
  | none => s

/-- A ring changed. -/
def State.modRing (s : State) (g : Nat) (f : RingSt → RingSt) : State := { s with rings := tmod {} s.rings g f }

/-- The active bank of a stripe has had work in this fc (05 R142). -/
def State.busy (s : State) (l : Launch) (j : Nat) : State :=
  let (g, i) := l.place j
  s.modRing g fun r => { r with idleFc := tset 0 r.idleFc i s.clk.fc }

/-- An element's heads consumed, by bit of the input. -/
def State.popAll (s : State) (x : Site) (take : Nat) : State :=
  (List.range 3).foldl (fun (a : State) i => if take / 2 ^ i % 2 = 1 then a.popAt x.lk x.l x.k x.c i else a) s

/-- A firing performed: heads consumed, tokens sent, registers written, counted (R220, 14 R401). -/
def State.commit (s : State) (x : Site) (e : ElemSt) (take : Nat) (outa outb : List Tok) : State :=
  let s1 := (s.popAll x take).sendOut x.lk x.l x.k x.c 0 outa
  let s2 := s1.sendOut x.lk x.l x.k x.c 1 outb
  let s3 := s2.setElem x.key { e with fired := e.fired + 1, lastFc := some s.clk.fc }
  ((s3.progress x.lk).busy x.l x.j).settle x.lk

/-- A fault of an element: SITE 3, or SITE 1 at an AG element (14 R400). -/
def State.elemFault (s : State) (x : Site) (cls : FaultClass) (detail : W64) : State :=
  let (g, _) := x.l.place x.j
  s.recordFault x.l.job
    { cls := cls, site := if opAg x.cfg.op then 1 else 3, ring := g, slot := s.bankOf x.lk x.l x.j, col := x.c,
      forme := x.k, detail := detail }

/-- The outcome of a try. -/
def State.tried (s : State) (x : Site) (t : Try) : State :=
  match t with
  | .idle => s
  | .bad cls d => s.elemFault x cls d
  | .go e take a b => s.commit x e take a b

/-- A firing of the element `id`, which holds the operation `op`, by that operation's step. -/
def fireElem (op : Nat) (f : Cfg → OpSt → Ins → Res) (id : ElemId) (s : State) : Out :=
  match (s.settle (launchKey id.launch)).site id with
  | none => .next s
  | some x =>
    let s1 := s.settle (launchKey id.launch)
    if x.cfg.op == op && s1.may x then .next (s1.tried x (s1.tryFire x f)) else .next s

/-! ### Tags and switches -/

/-- Whether a matrix element holds a whole tile that waits. -/
def matWaits (c : Cfg) (st : OpSt) : Bool :=
  st.kept.isSome || st.kept2.isSome || (st.kept1.isSome && c.op != 0x62)

/-- The registers of an operation after an aligned tag or an FSW (09 R253, R257-R259, 10 R268, R281, R283,
R284); none while it stands in a tile, or has a group, a run or a tile to close first. An EOS at VMERGE before the EOR of its run leaves the open tile unsent (DESIGN
CHOICE, log 132). -/
def opTag (c : Cfg) (st : OpSt) (t : Tag) : Option OpSt :=
  let ends := t == .eor || t == .eos
  -- an EOR at MLATB depends on A and C only (10 R270)
  if st.ina.isSome || (st.inb.isSome && !(c.op == 0x62 && t == .eor)) || st.inc.isSome then none
  else if opMat c.op then
    if matWaits c st || (st.cnt2 == 1 && (ends || t == .fsw)) then none else some st
  else
    match c.op with
    | 0x3A => if ends && st.kept.isSome then none else some st
    | 0x3B => some (if t == .eor && c.mode % 2 == 1 then { st with lanes := [] } else st)
    | 0x3C => some (if t == .eor && c.mode % 2 == 1 then { st with cnt := 0 } else st)
    | 0x42 =>
      if t == .eor && c.mode == 1 then (if st.cnt1 == 1 then some { st with cnt := 0, cnt1 := 0 } else none)
      else some st
    | 0x46 => if t == .eor && !(st.lanes.isEmpty && st.kept.isNone && st.kept1.isNone) then none else some st
    | 0x47 => if (ends || t == .fsw) && !(st.lanes.isEmpty && st.lanes1.isEmpty) then none else some st
    | 0x48 => some (if t == .eor then { st with cnt := 0 } else st)
    | _ => some st

/-- The inputs over which a tag is aligned: every enabled one; an EOR at MLATB over A and C (10 R270). -/
def tagInputs (c : Cfg) (t : Tag) : List Nat :=
  (List.range 3).filter fun i => c.inOn i && !(c.op == 0x62 && t == .eor && i == 1)

/-- The tag that heads every input over which it is aligned. -/
def alignedAt (c : Cfg) (ins : Ins) : Option Tag :=
  ([Tag.eos, .eor, .mark, .fence, .fsw]).find? fun t =>
    let is := tagInputs c t
    !is.isEmpty && is.all fun i => headTag (ins.get i) == some t

/-- The payload at the lowest of some inputs. -/
def payOf (ins : Ins) (is : List Nat) : W64 :=
  match (is.head?).bind ins.get with
  | some h => h.tok.pay
  | none => 0

end Sys2Proof.Machine
end

