-- ==== Sys2Proof/Machine/Matrix.lean ====
section
/-! DEFINITION. Matrix and ligature operations (10 R264-R276, R286-R294): each is one firing, by its step, of an element that holds it
(08 R220). -/

namespace Sys2Proof.Machine

/-- MMA (R267). -/
def execMma (e : ElemId) (s : State) : Out := fireElem 0x60 stepMma e s
/-- MMAG (R269). -/
def execMmag (e : ElemId) (s : State) : Out := fireElem 0x61 stepMmag e s
/-- MLATB (R270). -/
def execMlatb (e : ElemId) (s : State) : Out := fireElem 0x62 stepMlatb e s
/-- MOUT (R274). -/
def execMout (e : ElemId) (s : State) : Out := fireElem 0x63 stepMout e s
/-- MZERO (R275). -/
def execMzero (e : ElemId) (s : State) : Out := fireElem 0x64 stepMzero e s
/-- MOUTER (R271). -/
def execMouter (e : ElemId) (s : State) : Out := fireElem 0x65 stepMouter e s
/-- MTRN (R273). -/
def execMtrn (e : ElemId) (s : State) : Out := fireElem 0x66 stepMtrn e s
/-- MDOT (R272). -/
def execMdot (e : ElemId) (s : State) : Out := fireElem 0x67 stepMdot e s

/-! ### Ligatures (10 R286-R294) -/

/-- LIGATURE (R289): a firing of an element with a ligature opcode, by its image in the launch's context. -/
def execLigature (e : ElemId) (s : State) : Out :=
  let lk := launchKey e.launch
  let s1 := s.settle lk
  match s1.site e with
  | none => .next s
  | some x =>
    match s1.ligImage (s1.lkAsid lk) x.cfg.op with
    | none => .next s
    | some img => if opLig x.cfg.op && s1.may x then .next (s1.tried x (s1.tryFire x (ligStep img))) else .next s

end Sys2Proof.Machine
end

