-- ==== Sys2Proof/Machine/Routers.lean ====
section
/-! DEFINITION. Routers (08 R222-R227) and the conversion stage of a typed link (01 R32). -/

namespace Sys2Proof.Machine

/-! ### The site of a router -/

/-- A router about to act: its launch, forme, word and registers. -/
structure RSite where
  lk : Nat
  l : Launch
  k : Nat
  r : Nat
  w : Nat
  st : RtSt

/-- Whether a router's forme is imposed for it: in a scrolling pipeline for the sweep that it has reached by the FSW
tokens it has passed, from the moment that some element of the stripe has taken the forme (R222, 05 R133). -/
def State.rtrOn (s : State) (lk : Nat) (l : Launch) (k : Nat) (st : RtSt) : Bool :=
  match l.pipeFor k with
  | none => false
  | some p =>
    let v := (if p.scrolls then st.sweep * p.n else 0) + (k - p.forme)
    (List.range 16).any fun c =>
      match s.elem (elemKey lk (p.stripeOf v) c) with
      | some e => v < e.v || (e.v == v && !e.await)
      | none => false

/-- Whether an aligned tag, or an FSW, which routers treat as one, heads an input. -/
def rTag (h : Option Head) : Bool :=
  match headTag h with
  | some t => t.aligned || t == .fsw
  | none => false

/-- The site of a router of a code, where its forme is imposed, its launch runs and it has not acted in this
fc. The tag that comes round the loop of a CARRY is consumed after the switch too (R225). -/
def State.rsite (s : State) (id : RouterId) (code : Nat) : Option RSite :=
  let lk := launchKey id.launch
  match s.launch lk with
  | none => none
  | some l =>
    match l.img id.forme with
    | none => none
    | some img =>
      let w := fRtr img id.rtr.val
      let st := s.rtr (rtrKey lk id.forme id.rtr.val)
      let on := s.rtrOn lk l id.forme st || (code == 3 && rTag (s.headAt lk l id.forme (16 + id.rtr.val) 1))
      if rCode w == code && s.lkActive lk && on && st.lastFc != some s.clk.fc then
        some { lk := lk, l := l, k := id.forme, r := id.rtr.val, w := w, st := st }
      else none

/-- The head of a router's input. -/
def State.rHead (s : State) (x : RSite) (i : Nat) : Option Head := s.headAt x.lk x.l x.k (16 + x.r) i
/-- Whether a router's output has capacity. -/
def State.rRoom (s : State) (x : RSite) (o : Nat) : Bool := s.outRoom x.lk x.l x.k (16 + x.r) o
/-- The tokens at a head, as they travel. -/
def headToks (h : Option Head) : List Tok :=
  match h with
  | some h => h.toks
  | none => []

/-- A router's registers recorded under the marker that passes it (14 R390): in a resident pipeline, since behind the
marker of a scrolling one its forme switches. -/
def State.snapRtr (s : State) (x : RSite) (h : Option Head) (st : RtSt) : State :=
  let k := match h with
    | some h => h.tok.pay.toNat
    | none => 0
  if x.l.snapOn && !x.l.scrollsAt x.k then
    s.modLaunch x.lk fun l => l.snap k fun n => { n with routers := n.routers ++ [(rtrKey x.lk x.k x.r, st)] }
  else s

/-- A router's step performed: heads consumed, tokens sent, registers written. With an FSW that it passes its forme
switches, and no state is left (R222). -/
def State.rStep (s : State) (x : RSite) (st : RtSt) (takes : List Nat) (outs : List (Nat × List Tok)) : State :=
  let s1 := takes.foldl (fun (a : State) i => a.popAt x.lk x.l x.k (16 + x.r) i) s
  let s2 := outs.foldl (fun (a : State) (o, ts) => a.sendOut x.lk x.l x.k (16 + x.r) o ts) s1
  let switch := !outs.isEmpty && takes.any fun i => headTag (s.rHead x i) == some .fsw
  let st1 : RtSt := if switch then { sweep := st.sweep + 1 } else st
  let s3 := match takes.find? fun i => headTag (s.rHead x i) == some .mark with
    | some i => if outs.isEmpty then s2 else s2.snapRtr x (s.rHead x i) { st1 with lastFc := none }
    | none => s2
  (s3.setRtr (rtrKey x.lk x.k x.r) { st1 with lastFc := some s.clk.fc }).settle x.lk

/-- Whether a unit, or the rest of one, heads an input. -/
def rUnit (h : Option Head) : Bool := h.isSome && !rTag h && headTag h != some .err

/-- Whether a unit is still open behind a token (R222). -/
def openAfter (was : Bool) (h : Option Head) : Bool :=
  match h with
  | some { tok := .hdr _, .. } => true
  | some { tok := .data _, .. } => was
  | some { tok := .ctl .late p, .. } => !p.getLsbD 63
  | _ => false

/-- The same aligned tag heads every one of some inputs. -/
def State.rAligned (s : State) (x : RSite) (is : List Nat) : Bool :=
  match is with
  | [] => false
  | i :: rest => rTag (s.rHead x i) && rest.all fun j => headTag (s.rHead x j) == headTag (s.rHead x i)

/-- An ERR at an input goes to every output at once, and the unit in progress ends (R222, R219). -/
def State.rErr (s : State) (x : RSite) (is os : List Nat) : Option State :=
  match is.find? fun i => headTag (s.rHead x i) == some .err with
  | some i => some (s.rStep x { x.st with open' := none } [i] (os.map fun o => (o, headToks (s.rHead x i))))
  | none => none

/-- A router's step, where it has one: an ERR first, else what its code does. -/
def State.route (s : State) (id : RouterId) (code : Nat) (ins outs : RSite → List Nat)
    (f : State → RSite → Option State) : Out :=
  let s1 := s.settle (launchKey id.launch)
  match s1.rsite id code with
  | none => .next s
  | some x =>
    match s1.rErr x (ins x) (outs x) with
    | some t => .next (t.progress x.lk)
    | none =>
      match f s1 x with
      | some t => .next t
      | none => .next s

/-! ### The codes -/

/-- Whether STEER's predicate holds (R223). -/
def steerHolds (mode : Nat) (p : W64) : Bool :=
  match mode with
  | 0 => p != 0
  | 1 => p == BitVec.allOnes 64
  | _ => p.getLsbD 0

/-- The CARRYs of the forme that count the units leaving by an output of a router lose one each (R225). -/
def State.carryExit (s : State) (x : RSite) (o : Nat) : State :=
  match x.l.img x.k with
  | none => s
  | some img =>
    (List.range 8).foldl (fun (a : State) r =>
      let w := fRtr img r
      if rCode w == 3 && rExit w == x.r && rExitOut w == o then
        let key := rtrKey x.lk x.k r
        a.setRtr key { a.rtr key with occ := (a.rtr key).occ - 1 }
      else a) s

/-- STEER (R223): `open'` is the output of the unit in progress. -/
def State.stepSteer (s : State) (x : RSite) : Option State :=
  let h0 := s.rHead x 0
  let h1 := s.rHead x 1
  let sendTo (o : Bool) (takes : List Nat) (was : Bool) : Option State :=
    let oi := if o then 1 else 0
    if !s.rRoom x oi then none
    else
      let more := openAfter was h0
      let s1 := s.rStep x { x.st with open' := if more then some o else none } takes [(oi, headToks h0)]
      some (if more then s1 else s1.carryExit x oi)
  match x.st.open' with
  | some o => if rUnit h0 then sendTo o [0] true else none
  | none =>
    if rTag h0 then
      if s.rAligned x [0, 1] && s.rRoom x 0 && s.rRoom x 1 then
        some (s.rStep x x.st [0, 1] [(0, headToks h0), (1, headToks h0)])
      else none
    else if rUnit h0 then
      match headVal h1 with
      | some p => sendTo (steerHolds (rMode x.w) p) [0, 1] false
      | none => none
    else none

/-- A token of input `i` sent on o0, by a router whose `open'` is the input in progress. -/
def State.joinUnit (s : State) (x : RSite) (i : Bool) (extra : List Nat) (was : Bool) (st : RtSt) : Option State :=
  let ii := if i then 1 else 0
  let h := s.rHead x ii
  if rUnit h && s.rRoom x 0 then
    some (s.rStep x { st with open' := if openAfter was h then some i else none, last := i } (ii :: extra) [(0, headToks h)])
  else none

/-- MERGE (R224): `open'` is the input of the unit in progress, `last` the input used last. -/
def State.stepMerge (s : State) (x : RSite) : Option State :=
  match x.st.open' with
  | some i => s.joinUnit x i [] true x.st
  | none =>
    if s.rAligned x (rIns x.w) then
      if s.rRoom x 0 then some (s.rStep x x.st (rIns x.w) [(0, headToks (s.rHead x 0))]) else none
    else if rMode x.w = 1 then
      match headVal (s.rHead x 2) with
      | some p => s.joinUnit x (p.getLsbD 0) [2] false x.st
      | none => none
    else
      match rUnit (s.rHead x 0), rUnit (s.rHead x 1) with
      | true, true => s.joinUnit x (!x.st.last) [] false x.st
      | true, false => s.joinUnit x false [] false x.st
      | false, true => s.joinUnit x true [] false x.st
      | false, false => none

/-- CARRY (R225): `open'` is the input of the unit in progress, `occ` the count of units in the loop. -/
def State.stepCarry (s : State) (x : RSite) : Option State :=
  let h0 := s.rHead x 0
  let h1 := s.rHead x 1
  if rTag h1 then some (s.rStep x x.st [1] [])
  else
    match x.st.open' with
    | some i => s.joinUnit x i [] true x.st
    | none =>
      if rUnit h1 then s.joinUnit x true [] false x.st
      else if rTag h0 then
        if x.st.occ = 0 && s.rRoom x 0 then some (s.rStep x x.st [0] [(0, headToks h0)]) else none
      else if rUnit h0 && x.st.occ < rLimit x.w then
        s.joinUnit x false [] false { x.st with occ := x.st.occ + 1 }
      else none

/-- JOIN (R226): `open'` is the input whose unit is in progress, `ready` says that i1's unit has arrived
whole. In mode 1 i1's unit goes out on o1 as it arrives. -/
def State.stepJoin (s : State) (x : RSite) : Option State :=
  let h0 := s.rHead x 0
  let h1 := s.rHead x 1
  if x.st.ready then
    if rUnit h0 && s.rRoom x 0 then
      let more := openAfter (x.st.open' == some false) h0
      some (s.rStep x { x.st with open' := if more then some false else none, ready := more } [0] [(0, headToks h0)])
    else none
  else if x.st.open'.isNone && s.rAligned x [0, 1] then
    if (rOuts x.w).all fun o => s.rRoom x o then
      some (s.rStep x x.st [0, 1] ((rOuts x.w).map fun o => (o, headToks h0)))
    else none
  else if rUnit h1 && (rMode x.w != 1 || s.rRoom x 1) then
    let more := openAfter (x.st.open' == some true) h1
    some (s.rStep x { x.st with open' := if more then some true else none, ready := !more } [1]
      (if rMode x.w = 1 then [(1, headToks h1)] else []))
  else none

/-- FORK (R226): `open'` is the output of the unit in progress, `last` the output used last. -/
def State.stepFork (s : State) (x : RSite) : Option State :=
  let h := s.rHead x 0
  let both := s.rRoom x 0 && s.rRoom x 1
  if rTag h then (if both then some (s.rStep x x.st [0] [(0, headToks h), (1, headToks h)]) else none)
  else if !rUnit h then none
  else if rMode x.w = 0 then
    if both then
      some (s.rStep x { x.st with open' := if openAfter x.st.open'.isSome h then some false else none } [0]
        [(0, headToks h), (1, headToks h)])
    else none
  else
    let o := x.st.open'.getD (!x.st.last)
    let oi := if o then 1 else 0
    if s.rRoom x oi then
      some (s.rStep x { x.st with open' := if openAfter x.st.open'.isSome h then some o else none, last := o } [0]
        [(oi, headToks h)])
    else none

/-- The link word and key of a router's input. -/
def State.rLink (s : State) (x : RSite) (i : Nat) : Option (Nat × LinkSt) :=
  (x.l.linkTo x.k (16 + x.r) i).map fun (k, j, _) => (linkKey x.lk k j, s.link (linkKey x.lk k j))

/-- Whether ORDJ may send the unit with stamp `n` while the other input's link is `o` and its head `h`: it
holds a higher stamp, has reported one as idle, or is headed by an aligned tag (R227; log 23). -/
def ordjMay (n : Nat) (o : LinkSt) (h : Option Head) : Bool :=
  rTag h || (if rUnit h then (match o.stamps.head? with
    | some m => n < m
    | none => false) else n < o.idle)

/-- The oldest stamp of an input's link dropped with its unit. -/
def State.dropStamp (s : State) (key : Nat) : State :=
  s.setLink key { s.link key with stamps := (s.link key).stamps.drop 1 }

/-- ORDJ (R227): `open'` is the input of the unit in progress. -/
def State.stepOrdj (s : State) (x : RSite) : Option State :=
  match x.st.open' with
  | some i => s.joinUnit x i [] true x.st
  | none =>
    if s.rAligned x [0, 1] then
      if s.rRoom x 0 then some (s.rStep x x.st [0, 1] [(0, headToks (s.rHead x 0))]) else none
    else
      match s.rLink x 0, s.rLink x 1 with
      | some (ka, a), some (kb, b) =>
        let may (l : LinkSt) (h : Option Head) (o : LinkSt) (oh : Option Head) : Bool :=
          rUnit h && (match l.stamps.head? with
            | some n => ordjMay n o oh
            | none => true)
        if may a (s.rHead x 0) b (s.rHead x 1) then (s.joinUnit x false [] false x.st).map fun t => t.dropStamp ka
        else if may b (s.rHead x 1) a (s.rHead x 0) then (s.joinUnit x true [] false x.st).map fun t => t.dropStamp kb
        else none
      | _, _ => none

/-- STEER (R223). -/
def execSteer (r : RouterId) (s : State) : Out :=
  s.route r 1 (fun x => rIns x.w) (fun x => rOuts x.w) fun s x => s.stepSteer x
/-- MERGE (R224). -/
def execMerge (r : RouterId) (s : State) : Out :=
  s.route r 2 (fun x => rIns x.w) (fun x => rOuts x.w) fun s x => s.stepMerge x
/-- CARRY (R225). -/
def execCarry (r : RouterId) (s : State) : Out :=
  s.route r 3 (fun x => rIns x.w) (fun x => rOuts x.w) fun s x => s.stepCarry x
/-- JOIN (R226). -/
def execJoin (r : RouterId) (s : State) : Out :=
  s.route r 4 (fun x => rIns x.w) (fun x => rOuts x.w) fun s x => s.stepJoin x
/-- FORK (R226). -/
def execFork (r : RouterId) (s : State) : Out :=
  s.route r 5 (fun x => rIns x.w) (fun x => rOuts x.w) fun s x => s.stepFork x
/-- ORDJ (R227). -/
def execOrdj (r : RouterId) (s : State) : Out :=
  s.route r 6 (fun x => rIns x.w) (fun x => rOuts x.w) fun s x => s.stepOrdj x

/-- The links that leave a segment of a launch for another and hold nothing, in an overflow queue neither: its idle
circuits. -/
def State.idleCircuits (s : State) (lk : Nat) (l : Launch) (seg : Nat) : List Nat :=
  (l.links.filter fun (k, i, w) =>
    l.crosses k (s.sweepAt lk l k w.source) w == some seg
      && (let st := s.link (linkKey lk k i)
          st.q.isEmpty && st.latch.isEmpty && st.stage.out.isEmpty && st.stage.tin.isNone
            && st.ovf.all fun o => o.toks.isEmpty)).map fun (k, i, _) => linkKey lk k i

/-- ORDJ_IDLE_STAMP (R227): every 64 fc the gateway of a segment reports the highest stamp issued on its idle
circuits. -/
def execOrdjIdleStamp (l : LaunchId) (seg : Fin 16) (s : State) : Out :=
  let lk := launchKey l
  match s.launch lk with
  | some x =>
    if s.clk.fc % 64 = 0 && s.lkActive lk then
      .next ((s.idleCircuits lk x seg.val).foldl (fun (a : State) key =>
        a.setLink key { a.link key with idle := tget 0 x.stamps seg.val }) s)
    else .next s
  | none => .next s

/-! ### The conversion stage of a typed link (01 R32) -/

/-- A failed check of the stage; SITE 3 of the detail word is a router (01 R24). -/
def stageBad (n : Nat) (h : Header) : FaultClass × W64 := (checkClass n, detailWord n 3 h)

/-- The scale layout a link's conversion makes. -/
def LinkW.tslay (w : LinkW) (x : Hdr) : Nat := if w.lslay = 15 then x.slay else w.lslay

/-- Whether a tile agrees with a link's type. -/
def LinkW.agrees (w : LinkW) (x : Hdr) : Bool :=
  (w.lfmt == 0x3F || w.lfmt == x.fmt) && (w.lslay == 15 || w.lslay == x.slay)

/-- Whether a link offers conversion of a tile. -/
def LinkW.offers (w : LinkW) (x : Hdr) : Bool :=
  let bad (f : Fmt) : Bool := isPsd f || f == .kp64
  w.conv && w.lfmt != 0x3F && !bad (Hdr.f x)
  && (match fmtOf w.lfmt with
      | some f => !bad f && f != .i48 && f != .any
      | none => false)
  && (w.tslay x == x.slay || w.tslay x ≤ 1)

/-- Whether the stage holds a tile whole. -/
def LinkW.holdsTile (w : LinkW) (x : Hdr) : Bool := w.tslay x != x.slay && 2 ≤ x.slay

/-- The DATA tokens of a converted tile that are complete, masks before the first; `fuel` bounds them. -/
def stageEmit (fuel : Nat) (whole : Bool) (tail : Nat) (t : TileOut) (segs : List Tok) :
    TileOut × List Tok × List Tok :=
  match fuel with
  | 0 => (t, segs, [])
  | fuel + 1 =>
    if t.due whole then
      let (t1, segs1, rest) := stageEmit fuel whole tail { t with sent := t.sent + 1 } []
      (t1, segs1, segs ++ dataTok (t.img + tail) t.sent :: rest)
    else (t, segs, [])

/-- The stage with the elements in sight of its open tile converted. -/
def stageWalk (w : LinkW) (st : Stage) (t : TileIn) (o : TileOut) : Stage × Flags :=
  let tf := (fmtOf w.lfmt).getD .fp32
  let g := t.geom
  let stop := elemsWithin g t.x.rstride (256 * t.got)
  let tile := tileOf t.x t.fmt w.lcut t.img
  -- from layout 0 to 1 every scale is 1, as in a walk of VCVT (09 R246)
  let keep := w.tslay t.x == t.x.slay || t.x.slay == 0
  let rs := (List.range (stop - st.pos)).map fun i =>
    let e := st.pos + i
    let (m, q) := lineOf g e
    convElem w.lrnd 0 tile tf keep m q (elemCode g t.img t.x.rstride e)
  let o1 := o.puts (rs.map fun r => r.1)
  let whole := t.got == t.n
  let tail := if whole then carriedTail t.x (convHdr t.x tf (w.tslay t.x)) t.img else 0
  let (o2, segs, toks) := stageEmit o1.n whole tail o1 st.segs
  ({ st with tin := some t, tout := some o2, pos := max st.pos stop, segs := segs, out := toks },
   rs.foldl (fun (f : Flags) r => orFlags f r.2) {})

/-- The tokens of a converted tile with the masks of the source tile `t`: each before the first converted DATA token that
holds a position of its source DATA token. -/
def maskedToks (t : TileIn) (h : Header) (marks : List (Nat × Tok)) (toks : List Tok) : List Tok :=
  let x := Hdr.ofBits h
  let g := x.linkGeom (Hdr.f x)
  let place (i : Nat) : Nat := min (packedBit g (elemsWithin t.geom t.x.rstride (256 * i)) / 2048) (toks.length - 3)
  ((List.range toks.length).zip toks).flatMap fun (i, tok) =>
    (marks.filterMap fun (j, m) => if i = place j + 1 then some m else none) ++ [tok]

/-- The stage after it has taken a source token, with the tokens to deliver. -/
def stageTake (w : LinkW) (st : Stage) (h : Head) : Except (FaultClass × W64) (Stage × Flags) :=
  let tf := (fmtOf w.lfmt).getD .fp32
  match st.tin with
  | none =>
    match h.tok with
    | .hdr b =>
      let x := Hdr.ofBits b
      let k := checks1to11 b false none
      if k != 0 then .error (stageBad k b)
      else if w.agrees x then .ok ({ st with tin := some { hdr := b }, pass := true, out := h.toks }, {})
      else if !w.offers x then .error (stageBad 13 b)
      else if w.holdsTile x then
        if 32768 < 256 * ({ hdr := b } : TileIn).n then .error (stageBad 11 b)
        else .ok ({ st with tin := some { hdr := b }, pass := false, hold := true }, {})
      else
        let hb := linkHdr (convHdr x tf (w.tslay x))
        .ok ({ st with tin := some { hdr := b }, pass := false, hold := false, pos := 0, tout := some { hdr := hb },
                       out := [.hdr hb] }, {})
    | _ => .ok ({ st with out := h.toks }, {})
  | some t =>
    match h.tok with
    | .ctl .err _ => .ok ({ out := h.toks }, {})
    | .data d =>
      if st.pass then .ok ({ st with tin := some { t with got := t.got + 1 }, out := h.toks }, {})
      else if t.n ≤ t.got then .error (stageBad 12 t.hdr)
      else
        match st.tout with
        | some o => .ok (stageWalk w { st with segs := st.segs ++ h.segs.map segTok } (t.add d) o)
        | none => .ok ({ st with tin := some (t.add d), marks := st.marks ++ h.segs.map fun m => (t.got, segTok m) }, {})
    | .ctl .eot p =>
      if st.pass then .ok ({ out := h.toks }, {})
      else if t.got != t.n || !eotFits t p then .error (stageBad 12 t.hdr)
      else
        match st.tout with
        | some o => .ok ({ out := [eotTok o.x.seq o.n] }, {})
        | none =>
          let (toks, fl) := convTile w.lrnd 0 (tileOf t.x t.fmt w.lcut t.img) tf (w.tslay t.x)
          let h := match toks with
            | .hdr h :: _ => h
            | _ => t.hdr
          .ok ({ out := maskedToks t h st.marks toks }, fl)
    | _ => if st.pass then .ok ({ st with out := h.toks }, {}) else .error (stageBad 12 t.hdr)

/-- Flags of a conversion: to the consuming element, or, where the link ends at no element, to the launch
(R32, 09 R261). -/
def State.linkFlags (s : State) (lk k : Nat) (w : LinkW) (f : Flags) : State :=
  match s.launch lk with
  | none => s
  | some l =>
    match (if w.xend = 2 || w.dstRtr then none else s.holder lk l (k + w.delta) w.dstCol) with
    | some key =>
      match s.elem key with
      | some e => s.setElem key { e with flags := orFlags e.flags f }
      | none => s
    | none => s.setLaunch lk (some { l with flags := orFlags l.flags f })

/-- The stage's delivery: one token into the destination latch, when that is free. -/
def LinkSt.deliver (l : LinkSt) : LinkSt :=
  if l.latch.isEmpty && !l.stage.out.isEmpty then
    let (a, b) := splitTok l.stage.out
    { l with latch := a, stage := { l.stage with out := b } }
  else l

/-- ROUTER_CONVERSION (R32): the stage delivers a token if the latch is free, and, when it has delivered all
it made, takes the next source token. -/
def execRouterConversion (id : LinkId) (s : State) : Out :=
  let lk := launchKey id.launch
  let s1 := s.settle lk
  match s1.launch lk with
  | none => .next s
  | some l =>
    match l.img id.forme with
    | none => .next s
    | some img =>
      let w := linkW (fLink img id.link)
      let key := linkKey lk id.forme id.link
      let st := (s1.link key).deliver
      if !w.typed || fLinks img ≤ id.link || !s1.lkActive lk then .next s
      else if !st.stage.out.isEmpty then .next ((s1.setLink key st).settle lk)
      else
        match headOf [] (st.ready s1.clk.fc) with
        | none => .next ((s1.setLink key st).settle lk)
        | some h =>
          match stageTake w st.stage h with
          | .error (cls, d) =>
            let (g, _) := l.place ((l.stripeFor id.forme).getD 0)
            .next (s1.recordFault l.job
              { cls := cls, site := 4, ring := g, slot := lkThread lk % 4, col := w.dstCol, forme := id.forme, detail := d })
          | .ok (stage, fl) =>
            let st1 := { st with q := dropHeadL st.q, stage := stage }
            .next (((s1.setLink key st1.deliver).linkFlags lk id.forme w fl).settle lk)

end Sys2Proof.Machine
end

