-- ==== Sys2Proof/Machine/Scan.lean ====
section
/-! DEFINITION. Reductions and scans (10 R278-R285): each is one firing, by its step, of an element that holds it
(08 R220). -/

namespace Sys2Proof.Machine

/-- VRED (R280). -/
def execVred (e : ElemId) (s : State) : Out := fireElem 0x38 stepVred e s
/-- VSCAN (R282). -/
def execVscan (e : ElemId) (s : State) : Out := fireElem 0x39 stepVscan e s
/-- VACC (R281). -/
def execVacc (e : ElemId) (s : State) : Out := fireElem 0x3A stepVacc e s
/-- VLREC (R284). -/
def execVlrec (e : ElemId) (s : State) : Out := fireElem 0x3B stepVlrec e s
/-- VCHUNK (R283). -/
def execVchunk (e : ElemId) (s : State) : Out := fireElem 0x3C stepVchunk e s
/-- VSEG (R285). -/
def execVseg (e : ElemId) (s : State) : Out := fireElem 0x3D stepVseg e s

end Sys2Proof.Machine
end

