-- ==== Sys2Proof/Machine/Vector.lean ====
section
/-! DEFINITION. The vector operations (09 R231-R263): each is one firing, by its step, of an element that holds it
(08 R220). -/

namespace Sys2Proof.Machine

/-- VADD (R238). -/
def execVadd (e : ElemId) (s : State) : Out := fireElem 0x01 stepVadd e s
/-- VSUB (R238). -/
def execVsub (e : ElemId) (s : State) : Out := fireElem 0x02 stepVsub e s
/-- VMUL (R238). -/
def execVmul (e : ElemId) (s : State) : Out := fireElem 0x03 stepVmul e s
/-- VFMA (R238). -/
def execVfma (e : ElemId) (s : State) : Out := fireElem 0x04 stepVfma e s
/-- VMIN (R238). -/
def execVmin (e : ElemId) (s : State) : Out := fireElem 0x05 stepVmin e s
/-- VMAX (R238). -/
def execVmax (e : ElemId) (s : State) : Out := fireElem 0x06 stepVmax e s
/-- VABS (R238). -/
def execVabs (e : ElemId) (s : State) : Out := fireElem 0x07 stepVabs e s
/-- VNEG (R238). -/
def execVneg (e : ElemId) (s : State) : Out := fireElem 0x08 stepVneg e s
/-- VDIV (R238). -/
def execVdiv (e : ElemId) (s : State) : Out := fireElem 0x09 stepVdiv e s
/-- VSQRT (R240). -/
def execVsqrt (e : ElemId) (s : State) : Out := fireElem 0x0A stepVsqrt e s
/-- VRCPE (R241). -/
def execVrcpe (e : ElemId) (s : State) : Out := fireElem 0x0B stepVrcpe e s
/-- VRSQE (R241). -/
def execVrsqe (e : ElemId) (s : State) : Out := fireElem 0x0C stepVrsqe e s
/-- VEXP2 (R240). -/
def execVexp2 (e : ElemId) (s : State) : Out := fireElem 0x0D stepVexp2 e s
/-- VLOG2 (R240). -/
def execVlog2 (e : ElemId) (s : State) : Out := fireElem 0x0E stepVlog2 e s
/-- VTANH (R240). -/
def execVtanh (e : ElemId) (s : State) : Out := fireElem 0x0F stepVtanh e s
/-- VSIGM (R240). -/
def execVsigm (e : ElemId) (s : State) : Out := fireElem 0x10 stepVsigm e s
/-- VIADD (R242). -/
def execViadd (e : ElemId) (s : State) : Out := fireElem 0x11 stepViadd e s
/-- VISUB (R242). -/
def execVisub (e : ElemId) (s : State) : Out := fireElem 0x12 stepVisub e s
/-- VIMUL (R242). -/
def execVimul (e : ElemId) (s : State) : Out := fireElem 0x13 stepVimul e s
/-- VIMULH (R242). -/
def execVimulh (e : ElemId) (s : State) : Out := fireElem 0x14 stepVimulh e s
/-- VSHL (R242). -/
def execVshl (e : ElemId) (s : State) : Out := fireElem 0x15 stepVshl e s
/-- VSHR (R242). -/
def execVshr (e : ElemId) (s : State) : Out := fireElem 0x16 stepVshr e s
/-- VSAR (R242). -/
def execVsar (e : ElemId) (s : State) : Out := fireElem 0x17 stepVsar e s
/-- VAND (R242). -/
def execVand (e : ElemId) (s : State) : Out := fireElem 0x18 stepVand e s
/-- VOR (R242). -/
def execVor (e : ElemId) (s : State) : Out := fireElem 0x19 stepVor e s
/-- VXOR (R242). -/
def execVxor (e : ElemId) (s : State) : Out := fireElem 0x1A stepVxor e s
/-- VNOT (R242). -/
def execVnot (e : ElemId) (s : State) : Out := fireElem 0x1B stepVnot e s
/-- VABSD (R242). -/
def execVabsd (e : ElemId) (s : State) : Out := fireElem 0x1C stepVabsd e s
/-- VCMP (R243). -/
def execVcmp (e : ElemId) (s : State) : Out := fireElem 0x20 stepVcmp e s
/-- VSEL (R244). -/
def execVsel (e : ElemId) (s : State) : Out := fireElem 0x21 stepVsel e s
/-- VCLAMP (R245). -/
def execVclamp (e : ElemId) (s : State) : Out := fireElem 0x22 stepVclamp e s
/-- VCVT (R246). -/
def execVcvt (e : ElemId) (s : State) : Out := fireElem 0x28 stepVcvt e s
/-- VRESC (R247). -/
def execVresc (e : ElemId) (s : State) : Out := fireElem 0x29 stepVresc e s
/-- VQNT (R248). -/
def execVqnt (e : ElemId) (s : State) : Out := fireElem 0x2A stepVqnt e s
/-- VHDR (R249). -/
def execVhdr (e : ElemId) (s : State) : Out := fireElem 0x2B stepVhdr e s
/-- VPERM (R250). -/
def execVperm (e : ElemId) (s : State) : Out := fireElem 0x30 stepVperm e s
/-- VROT (R250). -/
def execVrot (e : ElemId) (s : State) : Out := fireElem 0x31 stepVrot e s
/-- VBCAST (R250). -/
def execVbcast (e : ElemId) (s : State) : Out := fireElem 0x32 stepVbcast e s
/-- VPACK (R251). -/
def execVpack (e : ElemId) (s : State) : Out := fireElem 0x33 stepVpack e s
/-- VUNPK (R251). -/
def execVunpk (e : ElemId) (s : State) : Out := fireElem 0x34 stepVunpk e s
/-- VPASS (R252). -/
def execVpass (e : ElemId) (s : State) : Out := fireElem 0x40 stepVpass e s
/-- VBUF (R252). -/
def execVbuf (e : ElemId) (s : State) : Out := fireElem 0x41 stepVbuf e s
/-- VCNT (R253). -/
def execVcnt (e : ElemId) (s : State) : Out := fireElem 0x42 stepVcnt e s
/-- VREP (R255). -/
def execVrep (e : ElemId) (s : State) : Out := fireElem 0x44 stepVrep e s
/-- VXTR (R256). -/
def execVxtr (e : ElemId) (s : State) : Out := fireElem 0x45 stepVxtr e s
/-- VMERGE (R257). -/
def execVmerge (e : ElemId) (s : State) : Out := fireElem 0x46 stepVmerge e s
/-- VSPLIT (R258). -/
def execVsplit (e : ElemId) (s : State) : Out := fireElem 0x47 stepVsplit e s
/-- VTAKE (R259). -/
def execVtake (e : ElemId) (s : State) : Out := fireElem 0x48 stepVtake e s
/-- VSTATE (R260). -/
def execVstate (e : ElemId) (s : State) : Out := fireElem 0x49 stepVstate e s

/-! ### VCONST (R254) -/

/-- What a VCONST's stream depends on beside its word: the length of a sweep block, the marker it owes, and
whether it stops (07 R194, 14 R384, R388, R394). -/
structure ConstEnv where
  block : Option Nat := none
  mark : Option Nat := none
  /-- GSTOP: it ends after the tile in progress. -/
  stop : Bool := false
  /-- The save sequencer: it pauses after the tile in progress. -/
  saving : Bool := false
  /-- Its final FSW waits for the final marker. -/
  waitFinal : Bool := false

/-- The end of a sweep block: marker and FSW behind the tokens owed; `cnt2` at the block's length says that
the block has ended, `cnt3` counts FSW tokens, `cnt1` is 2 after the final one. -/
def constBlockEnd (env : ConstEnv) (n : Nat) (st : OpSt) (toks : List Tok) : Res :=
  .fire { st := { st with cnt1 := if st.cnt1 = 1 then 2 else st.cnt1, cnt2 := n, cnt3 := st.cnt3 + 1 },
          owea := toks ++ (env.mark.map markTok).toList ++ [fswTok st.cnt3] }

/-- VCONST in its launch: resident, a marker stands between tiles; in a scrolling pipeline the element counts
its block and ends it with FSW, as a source port does (R254, 05 R132). -/
def constStep (env : ConstEnv) (c : Cfg) (st : OpSt) (ins : Ins) : Res :=
  match env.block with
  | none =>
    match env.mark with
    | some k => .fire { st := st, owea := [markTok k] }
    | none =>
      if env.saving then .idle
      else if env.stop && st.cnt1 == 0 then .fire { st := { st with cnt1 := 1 }, owea := [eosTok] }
      else stepVconst c st ins
  | some n =>
    if n ≤ st.cnt2 || 2 ≤ st.cnt1 then .idle
    else if st.cnt1 == 1 then
      if !env.waitFinal then constBlockEnd env n st []
      else match env.mark with
        | some k => .fire { st := st, owea := [markTok k] }
        | none => .idle
    else if env.saving then constBlockEnd env n st []
    else if env.stop then .fire { st := { st with cnt1 := 1 }, owea := [eosTok] }
    else
      match stepVconst c st ins with
      | .fire f =>
        let st1 := { f.st with cnt2 := st.cnt2 + (f.owea.filter Tok.wide).length }
        if n ≤ st1.cnt2 && st1.cnt1 == 0 then constBlockEnd env n st1 f.owea
        else .fire { f with st := st1 }
      | r => r

/-- What the stream of the VCONST at a site depends on. -/
def State.constEnv (s : State) (x : Site) : ConstEnv :=
  { block := x.l.blockLen x.k
    mark := if x.l.snapOn && x.e.mark < x.l.mark then some x.l.mark else none
    stop := x.l.stopped
    saving := match s.job x.l.job with
      | some j => j.phase == .saving
      | none => false
    waitFinal := x.l.snapOn && !x.l.finalReq }

/-- The element at a site recorded under a marker (14 R385): in a resident pipeline its registers; in a
scrolling one only a source's position. -/
def State.snapElem (s : State) (x : Site) (k : Nat) (e : ElemSt) : State :=
  if x.l.snapOn then
    let own := (x.l.blockLen x.k).isNone || x.cfg.op == 0x43
    let port := opAg x.cfg.op && x.cfg.op != 0x70 && x.cfg.op != 0x72
    let pk := agPort x.lk x.k x.c
    s.modLaunch x.lk fun l => l.snap k fun n => { n with
      elems := if own then n.elems ++ [(x.key, e)] else n.elems
      ports := if port then n.ports ++ [(pk, s.port pk)] else n.ports }
  else s

/-- Whether a firing has emitted or owes a MARK. -/
def hasMark (ts : List Tok) : Bool := ts.any fun t => t.tag == some .mark

/-- VCONST (R254). -/
def execVconst (id : ElemId) (s : State) : Out :=
  let s1 := s.settle (launchKey id.launch)
  match s1.site id with
  | none => .next s
  | some x =>
    if x.cfg.op == 0x43 && s1.may x then
      match s1.tryFire x (constStep (s1.constEnv x)) with
      | .go e t a b =>
        let placed := (x.e.owea.isEmpty && (hasMark a || hasMark e.owea))
        let e1 := if placed then { e with mark := x.l.mark } else e
        -- the record stands behind the tile that the firing emits, and before the FSW (09 R262)
        let at' : ElemSt := { e with
          st := { e.st with cnt1 := x.e.st.cnt1, cnt2 := x.e.st.cnt2, cnt3 := x.e.st.cnt3 }, owea := [], mark := x.l.mark }
        let s2 := if placed then s1.snapElem x x.l.mark at' else s1
        -- a marker placed is no firing (08 R219), and no progress mark (14 R393)
        if a.isEmpty then .next s
        else if a.length == 1 && hasMark a then
          .next ((((s2.sendOut x.lk x.l x.k x.c 0 a).setElem x.key { e1 with lastFc := some s1.clk.fc }).busy x.l x.j).settle x.lk)
        else .next ((s2.countIn x.lk a).commit x e1 t a b)
      | r => .next (s1.tried x r)
    else .next s

end Sys2Proof.Machine
end

