-- ==== Sys2Proof/Machine/Imposer.lean ====
section
/-! DEFINITION. The imposer and what it does at an element's side (05 R129-R143, 08 R219, R229): tags and
switches, staging of shadows, fetching of formes, the sources of a launch, the choice of banks, and the end
of a launch. -/

namespace Sys2Proof.Machine

/-! ### Ports of a launch (11 R296, 05 R127) -/

/-- The first stripe of a thread's segment in a chained window: CHAINOFF (R123). -/
def Job.chainOff (j : Job) (n : Nat) : Nat := ((j.segs.take n).map fun g => g.width).foldl (· + ·) 0

/-- The forme that the port numbers of a thread count from (R127). -/
def State.portBase (s : State) (l : Launch) (n : Nat) : Nat :=
  if l.chain then
    match s.job l.job with
    | some j => j.chainOff n
    | none => 0
  else 0

/-- The key of the port that a number names for a thread (R296). -/
def State.portKey (s : State) (lk : Nat) (l : Launch) (n q : Nat) : Nat :=
  if q < 48 then agPort lk (s.portBase l n + q / 2) (if q % 2 = 0 then 0 else 15)
  else if q < 64 then ringPort lk n q
  else if q = 255 then noPort lk n
  else badPort lk n q

/-- The key of the port of an element's site. -/
def Site.port (x : Site) : Nat := agPort x.lk x.k x.c

/-- The reply stream of a load or gather element is one of its inputs (11 R318). -/
def Cfg.replies (c : Cfg) : Bool := c.op == 0x70 || c.op == 0x72

/-- What heads the reply stream of a port. -/
def PortSt.replyHead (p : PortSt) : Option Head := headOf [] (p.reply.map fun x => x.2)

/-! ### Aligned tags and ERR (08 R219) -/

/-- Tags that an AG operation handles itself (11 R307, R308, R323). -/
def agOwnTag (c : Cfg) (t : Tag) : Bool :=
  match c.op with
  | 0x71 => t == .eor || t == .eos
  | 0x73 => t == .eor || t == .eos
  | 0x74 => t == .eor || t == .eos
  | 0x72 => t == .eos
  | 0x75 => c.mode == 0
  | _ => false

/-- Whether every access that a port has issued has been performed: none is frozen, parked or held back
(11 R312). -/
def PortSt.settled (p : PortSt) : Bool :=
  p.div.isEmpty && p.full.isNone && (match p.cur with
    | some c => c.freeze.isNone
    | none => true)

/-- Whether a tile has begun to arrive at the port of a store element: a MARK, FENCE or FSW at its input then fails
check 12 (01 R30). -/
def PortSt.inTile (p : PortSt) (x : Site) : Bool :=
  opAg x.cfg.op && !x.cfg.replies && p.tile.isSome && !p.sealed && !x.l.stopped

/-- The job of a launch has acted in this fc (14 R392). -/
def State.stirred (s : State) (lk : Nat) : State :=
  match s.launch lk with
  | some l => s.modJob l.job fun j => { j with quietFc := s.clk.fc }
  | none => s

/-- The outcome of a step of a launch that led from `s` to `s1`: nothing has happened where they are equal. -/
def State.acted (s : State) (lk : Nat) (s1 : State) : Out :=
  if s1 = s then .next s else .next ((s1.stirred lk).settle lk)

/-- ALIGNED_TAG (R219): the tag that heads every enabled input is consumed and emitted on every enabled
output. A MARK is passed after the element's snapshot (14 R385). -/
def execAlignedTag (e : ElemId) (s : State) : Out :=
  let s1 := s.settle (launchKey e.launch)
  match s1.site e with
  | none => .next s
  | some x =>
    let ins := s1.insOf x
    match alignedAt x.cfg ins with
    | none => .next s
    | some t =>
      let buf := x.cfg.op == 0x41
      let owes := !x.e.owea.isEmpty || !x.e.oweb.isEmpty
      let room := if buf then tokCount x.e.owea < 16 else s1.roomOf x 0 && s1.roomOf x 1
      let port := s1.port x.port
      let fence := ((t != .fence && t != .mark) || !opAg x.cfg.op || port.settled) && !port.inTile x
        && (x.cfg.op != 0x72 || (port.reply.isEmpty && port.index.isNone && port.div.isEmpty))
      if !s1.may x || t == .fsw || agOwnTag x.cfg t || errAt (s1.headsOf x) || (owes && !buf) || !room || !fence then
        .next s
      else
        match opTag x.cfg x.e.st t with
        | none => .next s
        | some st =>
          let is := tagInputs x.cfg t
          let tok := Tok.ctl t (payOf ins is)
          let k := (payOf ins is).toNat
          let e0 := { x.e with
            st := st, eos := if t == .eos then x.e.eos ||| bitsMask is else x.e.eos,
            mark := if t == .mark then k else x.e.mark, lastFc := some s.clk.fc }
          let s2 := if t == .mark then s1.snapElem x k e0 else s1
          let s3 := s2.popAll x (bitsMask is)
          let outs := fun (o : Nat) => if x.cfg.outOn o && !buf then [tok] else []
          let s4 := (s3.sendOut x.lk x.l x.k x.c 0 (outs 0)).sendOut x.lk x.l x.k x.c 1 (outs 1)
          let e1 := if buf then { e0 with owea := e0.owea ++ [tok] } else e0
          .next (((s4.setElem x.key e1).stirred x.lk).settle x.lk)

/-- ERR_TOKEN (R219): the ERR at the lowest input is consumed, ERR goes out on every enabled output ahead of
what the element owes, and that is discarded. -/
def execErrToken (e : ElemId) (s : State) : Out :=
  let s1 := s.settle (launchKey e.launch)
  match s1.site e with
  | none => .next s
  | some x =>
    match (List.range 3).find? fun i => headTag (s1.inHead x i) == some .err with
    | none => .next s
    | some i =>
      if s1.lkActive x.lk then
        let tok := Tok.ctl .err (match s1.inHead x i with
          | some h => h.tok.pay
          | none => 0)
        let s2 := s1.popAll x (2 ^ i)
        let outs := fun (o : Nat) => if x.cfg.outOn o then [tok] else []
        let s3 := (s2.sendOut x.lk x.l x.k x.c 0 (outs 0)).sendOut x.lk x.l x.k x.c 1 (outs 1)
        .next (((s3.setElem x.key { x.e with owea := [], oweb := [] }).stirred x.lk).settle x.lk)
      else .next s

/-! ### The offences of a forme that a stripe takes (08 R229, 10 R292) -/

/-- The address of a forme image of a launch. -/
def Launch.formeVa (l : Launch) (k : Nat) : Nat := l.galley + 1024 * (k + 1)

/-- The galley of a launch, with formes that are not cached read from memory. -/
def State.galleyOf (s : State) (lk : Nat) (l : Launch) : Galley :=
  { nodes := l.nodes.map BitVec.toNat
    n := l.nformes
    img := fun k => match l.img k with
      | some x => x
      | none => s.sysWord (s.lkAsid lk) (l.formeVa k) 1024 }

/-- Whether an ORDJ of a forme, as imposed in a sweep, joins links that are no circuits from one source segment, which only the window tells
(08 R227, R229). -/
def Launch.ordjBad (l : Launch) (k sweep r : Nat) : Bool :=
  match l.img k with
  | none => false
  | some img =>
    rCode (fRtr img r) == 6 &&
      (match l.linkTo k (16 + r) 0, l.linkTo k (16 + r) 1 with
       | some (ka, _, a), some (kb, _, b) =>
         (l.crosses ka sweep a).isNone || l.crosses ka sweep a != l.crosses kb sweep b
       | _, _ => true)

/-- The offence for which a stripe refuses the forme of virtual forme `v`: the lowest word that fails R228 (log 25), an ORDJ that joins no
circuits (R227), else a ligature that fails R292; with its class. -/
def State.takeOffence (s : State) (lk : Nat) (l : Launch) (p : Pipe) (v : Nat) : Option (FaultClass × Nat) :=
  let k := p.formeAt v
  let sweep := if p.n = 0 then 0 else v / p.n
  let asid := s.lkAsid lk
  let ligs (op : Nat) : Option (Option (Nat × Nat)) := if opLig op then some none else none
  match formeOffs (s.galleyOf lk l) ligs k with
  | o :: os => some (.illegal, os.foldl (fun a x => min a x.off) o.off)
  | [] =>
    ((List.range 8).findSome? fun r => if l.ordjBad k sweep r then some (.illegal, rtrOff r) else none).or <|
    (List.range 16).findSome? fun c =>
      match l.cfg k c with
      | none => none
      | some cfg =>
        if !opLig cfg.op then none
        else
          match s.ligUse asid cfg.op with
          | some (some (lin, lout)) => if cfg.inen = lin && cfg.outen = lout then none else some (.ligLimit, elemOff c)
          | _ => some (if cfg.op < 0xE0 then .illegal else .ligUnbound, elemOff c)

/-- The fault entry of a forme that a stripe refuses (R229). -/
def formeFault (l : Launch) (j slot k off : Nat) (cls : FaultClass) : FaultRec :=
  let (g, _) := l.place j
  { cls := cls, site := if 0x2C0 ≤ off && off < 0x340 then 4 else 3, ring := g, slot := slot,
    col := if 0x40 ≤ off && off < 0x140 then (off - 0x40) / 16 else 0, forme := k,
    detail := BitVec.ofNat 64 off, addr := BitVec.ofNat 64 (l.formeVa k) }

/-! ### Switches (05 R132-R137) -/

/-- A VCONST's count, the state of its EOS, the last marker it has placed and its FSW tokens, as the imposer keeps
them (09 R262, 14 R384). -/
def constPack (st : OpSt) (mark : Nat) : Nat :=
  st.cnt + 2 ^ 33 * st.cnt1 + 2 ^ 36 * (mark % 2 ^ 32) + 2 ^ 68 * st.cnt3
/-- A VCONST's registers from what the imposer keeps. -/
def constUnpack (n : Nat) : OpSt := { cnt := n % 2 ^ 33, cnt1 := n / 2 ^ 33 % 8, cnt3 := n / 2 ^ 68 }
/-- The last marker that a VCONST has placed, from what the imposer keeps. -/
def constMark (n : Nat) : Nat := n / 2 ^ 36 % 2 ^ 32

/-- An element as it takes virtual forme `v`: its operation's initial state, or its record still to be
restored (R137, 09 R262). Flags that conversions on its links have raised while it waited stay (09 R261). -/
def State.enter (s : State) (lk : Nat) (l : Launch) (p : Pipe) (c v : Nat) (e : ElemSt) : ElemSt :=
  let k := p.formeAt v
  let e0 : ElemSt := { v := v, fired := e.fired, lastFc := e.lastFc, mark := e.mark, flags := e.flags }
  match l.cfg k c with
  | none => e0
  | some cfg =>
    if cfg.op == 0x43 then
      let n := tget 0 s.fab.consts (recKey lk k c)
      { e0 with st := constUnpack n, mark := max (constMark n) p.mark0 }
    else if cfg.stateful && (tget none s.fab.recs (recKey lk k c)).isSome then { e0 with restore := true }
    else e0

/-- Whether virtual forme `v` has been staged on a stripe: each element has a shadow of its own, which keeps the
forme until the element takes it (R134). -/
def State.staged (s : State) (lk j v : Nat) : Bool := v < tget 0 s.fab.shadows (stripeKey lk j)

/-- The launch's count of sweeps begun by forme 0 (07 R196). -/
def Launch.begin (l : Launch) (p : Pipe) (v : Nat) : Launch :=
  if p.scrolls && p.formeAt v = 0 then { l with sweeps := max l.sweeps (p.swept + v / p.n + 1) } else l

/-- A state record taken under a marker, the first time it is saved after the marker has passed (14 R385). -/
def Launch.snapRec (l : Launch) (k key : Nat) (r : OpSt × Flags) : Launch :=
  if l.snapOn && l.cut < k && !(l.snaps.any fun x => x.k == k && x.recs.any fun e => e.1 == key) then
    l.snap k fun x => { x with recs := x.recs ++ [(key, r)] }
  else l

/-- What a stripe finds as its first element takes virtual forme `v`: the offence of its forme, if it has one (08 R229). -/
def State.takeBad (s : State) (lk : Nat) (l : Launch) (p : Pipe) (j v : Nat) : Option (FaultClass × Nat) :=
  let held := (List.range 16).any fun c => match s.elem (elemKey lk j c) with
    | some e => e.v == v && !e.await
    | none => false
  if held then none else s.takeOffence lk l p v

/-- The fault of a stripe that takes a forme that fails its checks (08 R229). -/
def State.refuseForme (s : State) (lk : Nat) (l : Launch) (p : Pipe) (j v : Nat) (bad : FaultClass × Nat) : State :=
  s.recordFault l.job (formeFault l j (s.bankOf lk l j) (p.formeAt v) bad.2 bad.1)

/-- An element leaves its forme: its record is saved, or its flags pass to the launch, and it takes the forme
due, or waits for its shadow (R133, R134, R137); a forme that fails its checks faults as its stripe first takes it
(08 R229). -/
def State.leave (s : State) (lk : Nat) (p : Pipe) (j c : Nat) : State :=
  match s.launch lk, s.elem (elemKey lk j c) with
  | some l, some e =>
    let k := p.formeAt e.v
    let v := e.v + p.p
    let e' : ElemSt := { e with flags := {} }
    let s1 := match l.cfg k c with
      | some cfg =>
        if cfg.op == 0x43 then
          (s.modFab fun f => { f with consts := tset 0 f.consts (recKey lk k c) (constPack e.st e.mark) }).setLaunch lk
            (some { l with flags := orFlags l.flags e.flags })
        else if cfg.stateful then
          (s.setLaunch lk (some (l.snapRec e.mark (recKey lk k c) (e.st, e.flags)))).modFab fun f =>
            { f with recs := tset none f.recs (recKey lk k c) (some (e.st, e.flags)) }
        else s.setLaunch lk (some { l with flags := orFlags l.flags e.flags })
      | none => s
    if s1.staged lk j v then
      match s1.takeBad lk l p j v with
      | some bad => s1.refuseForme lk l p j v bad
      | none => (s1.modLaunch lk fun l => l.begin p v).setElem (elemKey lk j c) (s1.enter lk l p c v e')
    else s1.setElem (elemKey lk j c) { v := v, await := true, fired := e.fired, lastFc := e.lastFc, mark := e.mark }
  | _, _ => s

/-- Whether a configured element has an input for switching: an enabled one, or a reply stream (R133). -/
def Cfg.switches (c : Cfg) : Bool := c.inen != 0 || c.replies

/-- The columns of a stripe that still hold virtual forme `v` and have an input, or do not. -/
def State.behind (s : State) (lk : Nat) (l : Launch) (p : Pipe) (j v : Nat) (withInput : Bool) : List Nat :=
  (List.range 16).filter fun c =>
    match s.elem (elemKey lk j c) with
    | some e => e.v == v && !e.await && ((match l.cfg (p.formeAt v) c with
        | some cfg => cfg.switches
        | none => false) == withInput)
    | none => false

/-- With the last element that has an input, the columns without one leave too; a VCONST leaves by itself
when it has ended its block. -/
def State.follow (s : State) (lk : Nat) (p : Pipe) (j v : Nat) : State :=
  match s.launch lk with
  | none => s
  | some l =>
    if (s.behind lk l p j v true).isEmpty then
      ((s.behind lk l p j v false).filter fun c => (l.cfg (p.formeAt v) c).isNone).foldl
        (fun (a : State) c => a.leave lk p j c) s
    else s

/-- FORME_SWITCH (R133): FSW heads every enabled input, and the reply stream of an AG element; the element
consumes them, emits FSW on every enabled output and leaves its forme. A store element tells of the tiles before it first
(11 R317); an FSW of a source port counts for its rate (04 R117). A VCONST leaves when the elements with inputs have
left. -/
def execFormeSwitch (e : ElemId) (s : State) : Out :=
  let s1 := s.settle (launchKey e.launch)
  match s1.site e with
  | none => .next s
  | some x =>
    let v := x.e.v
    let owes := !x.e.owea.isEmpty || !x.e.oweb.isEmpty
    let port := s1.port x.port
    let told := !opAg x.cfg.op || x.cfg.replies || !x.cfg.outOn 0 || (port.reply.isEmpty && port.full.isNone)
    let paced := !x.cfg.replies || s1.rateOk x.l port
    if !s1.may x || owes || !x.p.scrolls || !told || !paced || port.inTile x then .next s
    else if !x.cfg.switches then
      match x.l.blockLen x.k with
      | some n =>
        if n ≤ x.e.st.cnt2 && (s1.behind x.lk x.l x.p x.j v true).isEmpty then
          .next (((s1.leave x.lk x.p x.j x.c).stirred x.lk).settle x.lk)
        else .next s
      | none => .next s
    else
      let ins := s1.insOf x
      let is := (List.range 3).filter x.cfg.inOn
      let reply := (s1.port x.port).replyHead
      let heads := (is.map fun i => ins.get i) ++ (if x.cfg.replies then [reply] else [])
      if !(heads.all fun h => headTag h == some .fsw) || !s1.roomOf x 0 || !s1.roomOf x 1 then .next s
      else
        match opTag x.cfg x.e.st .fsw with
        | none => .next s
        | some st =>
          let pay := match heads.headD none with
            | some h => h.tok.pay
            | none => 0
          let tok := Tok.ctl .fsw pay
          let s2 := s1.popAll x x.cfg.inen
          let s3 := if x.cfg.replies then s2.modPort x.port fun p => { s2.rated x.l p 1 with reply := p.reply.drop 1 } else s2
          let outs := fun (o : Nat) => if x.cfg.outOn o then [tok] else []
          let s4 := (s3.sendOut x.lk x.l x.k x.c 0 (outs 0)).sendOut x.lk x.l x.k x.c 1 (outs 1)
          let s5 := (s4.setElem x.key { x.e with st := st, lastFc := some s.clk.fc }).leave x.lk x.p x.j x.c
          .next (((s5.follow x.lk x.p x.j v).stirred x.lk).settle x.lk)

/-- STATE_RESTORE (R137): the record of the element's forme is restored before its first firing. -/
def execStateRestore (e : ElemId) (s : State) : Out :=
  match s.site e with
  | none => .next s
  | some x =>
    match x.e.restore, tget none s.fab.recs (recKey x.lk x.k x.c) with
    | true, some (st, fl) => .next (s.setElem x.key { x.e with restore := false, st := st, flags := orFlags fl x.e.flags })
    | _, _ => .next s

/-! ### Formes and shadows (05 R134, 08 R229, 10 R292) -/

/-- The formes that the forme cache of a ring holds for running jobs: 4 MiB, less the 1 MiB for the next job
(00 R2, 04 R114). -/
def formeRoom : Nat := 3072

/-- Whether a forme of a launch is in the forme cache. -/
def State.cached (s : State) (lk : Nat) (l : Launch) (k : Nat) : Bool := (l.img k).isSome && !s.fab.evicted.contains (lk, k)

/-- The formes of running launches that lie in the forme cache of a ring. -/
def State.cachedOn (s : State) (g : Nat) : List (Nat × Nat) :=
  s.fab.launches.flatMap fun (lk, l) =>
    match l with
    | some l => if l.win.any fun w => w.1 == g then ((tkeys l.formes).filter (s.cached lk l)).map fun k => (lk, k) else []
    | none => []

/-- The virtual forme due in the shadow of a stripe: the first of the launch, or the one after that which
some element of the stripe has reached (R134). -/
def State.due (s : State) (lk : Nat) (p : Pipe) (j : Nat) : Option Nat :=
  let sh := tget 0 s.fab.shadows (stripeKey lk j)
  if sh = 0 then (if j - p.stripe < p.n then some (j - p.stripe) else none)
  else if p.scrolls && (List.range 16).any fun c =>
      match s.elem (elemKey lk j c) with
      | some e => e.v + 1 == sh && !e.await
      | none => false then some (sh - 1 + p.p)
  else none

/-- The formes of a launch that are due on its stripes: those the imposer demands of the forme cache (R134, 03 R87). -/
def State.dueFormes (s : State) (lk : Nat) (l : Launch) : List Nat :=
  (List.range l.win.length).filterMap fun j =>
    match l.pipeAt j with
    | some p => (s.due lk p j).map p.formeAt
    | none => none

/-- Whether a forme is due on a stripe of its launch. -/
def State.isDue (s : State) (lk k : Nat) : Bool :=
  match s.launch lk with
  | some l => (s.dueFormes lk l).contains k
  | none => false

/-- Room made for a forme that has been fetched: where the cache of a ring is past its size another forme leaves it,
one that no stripe is due to take where there is one (03 R87; DESIGN CHOICE, log 124). -/
def State.makeRoom (s : State) (lk k : Nat) (win : List (Nat × Nat)) : State :=
  (win.map fun w => w.1).eraseDups.foldl (fun (a : State) g =>
    let held := a.cachedOn g
    if held.length ≤ formeRoom then a
    else
      match (held.find? fun e => e != (lk, k) && !s.isDue e.1 e.2).or (held.find? fun e => e != (lk, k)) with
      | some e => a.modFab fun f => { f with evicted := f.evicted ++ [e] }
      | none => a) s

/-- FORME_FETCH (R229): the imposer brings a forme image into its cache, charged to the job's class (04 R115); it waits
while memory, or an arbiter, does not give it. -/
def execFormeFetch (l : LaunchId) (k : Nat) (s : State) : Out :=
  let lk := launchKey l
  match s.launch lk with
  | none => .next s
  | some x =>
    if x.ended || x.nformes ≤ k || s.cached lk x k then .next s
    else
      let va := x.formeVa k
      let asid := s.lkAsid lk
      match s.ms.vread (dispPlace asid va) 0 asid va 1024 with
      | (ms, .ok bs) =>
        let s1 := ({ s with ms := ms } : State).charge (s.ms.readCharges (dispPlace asid va) 0 asid va 1024 (s.classOf x.job))
        let s2 := s1.setLaunch lk (some { x with formes := tset none x.formes k (some (ofBytesLE bs)) })
        let s3 := (s2.modFab fun f => { f with evicted := f.evicted.filter fun e => e != (lk, k) }).makeRoom lk k x.win
        .next (s.arbitrate s3 (.forme lk k) [])
      | (_, .error _) => .next s

/-- SHADOW_STAGE (R134): the forme due is staged in a stripe's shadow registers; elements that wait for it
take it. A forme that fails its checks faults as the stripe first takes it, here where an element takes it at once. -/
def execShadowStage (id : LaunchId) (j : Nat) (s : State) : Out :=
  let lk := launchKey id
  match s.launch lk with
  | none => .next s
  | some l =>
    match l.pipeAt j with
    | none => .next s
    | some p =>
      match s.due lk p j with
      | none => .next s
      | some v =>
        let k := p.formeAt v
        if !s.lkActive lk || !s.cached lk l k then .next s
        else
          let first := tget 0 s.fab.shadows (stripeKey lk j) = 0
          let waited := (List.range 16).any fun c => match s.elem (elemKey lk j c) with
            | some e => e.await && e.v == v
            | none => false
          match if first || waited then s.takeBad lk l p j v else none with
          | some bad => .next (s.refuseForme lk l p j v bad)
          | none =>
            let s1 := s.modFab fun f => { f with shadows := tset 0 f.shadows (stripeKey lk j) (v + 1) }
            let s2 := s1.modLaunch lk fun l => if first then l.begin p v else l
            .next (((List.range 16).foldl (fun (a : State) c =>
              let key := elemKey lk j c
              match a.elem key with
              | none => if first then a.setElem key (a.enter lk l p c v { mark := p.mark0 }) else a
              | some e =>
                if e.await && e.v == v then
                  (a.setElem key (a.enter lk l p c v e)).modLaunch lk fun l => l.begin p v
                else a) s2).stirred lk)

/-! ### Sources (05 R132, 07 R185, 14 R384) -/

/-- The number of the ticket that replies without a command carry. -/
def noTicket : Nat := 2 ^ 48

/-- What ends a source's sweep block of `n` data-width tokens next, between tiles, once its count is reached or the save
sequencer ends it early: the marker that the source owes, behind the elements diverted before it (11 R327), and then FSW.
The final FSW of a launch with snapshots waits for the final marker (log 26). -/
def Launch.blockTok (l : Launch) (n : Nat) (p : PortSt) : Option Tok :=
  if p.mid || p.sealed || !(n ≤ p.block || (p.stopping && !p.eos && p.mayStop)) then none
  else if l.owesMark p then (if p.div.isEmpty then some (markTok l.mark) else none)
  else if p.block < n || !p.eos || !l.snapOn || l.finalReq then some (fswTok p.sweep) else none

/-- A port after its FSW: the next block, of the next sweep; under the save sequencer it delivers no more. -/
def PortSt.nextBlock (p : PortSt) : PortSt :=
  { p with block := 0, sweep := p.sweep + 1, sealed := p.stopping && !p.eos }

/-- A source that sends what ends its block: its block is recorded under a marker, with the tokens read for it; an FSW
begins the next block. -/
def State.endBlock (s : State) (lk pk : Nat) (t : Tok) (fifo : List Tok) : State :=
  if t.tag == some .mark then s.markPort lk pk fifo else s.modPort pk PortSt.nextBlock

/-- SWEEP_BLOCK_END (R132): a source port of a scrolling pipeline whose block has reached P·B data-width
tokens emits FSW behind the tile in progress, and a marker it owes before that, each under the port's rate (04 R117). -/
def execSweepBlockEnd (id : PortId) (s : State) : Out :=
  match s.shown id.launch with
  | none => .next s
  | some (lk, n) =>
    let s1 := s.settle lk
    match s1.launch lk with
    | none => .next s
    | some l =>
      let pk := s1.portKey lk l n id.port
      let p := s1.port pk
      if !s1.lkActive lk then .next s
      else if id.port < 48 then
        let k := s1.portBase l n + id.port / 2
        match (l.blockLen k).bind fun n => l.blockTok n p with
        | some t =>
          if headTag p.replyHead == some .mark then .next s
          else .next ((s1.endBlock lk pk t []).modPort pk fun q => { q with reply := (noTicket, t) :: q.reply })
        | none => .next s
      else
        match l.links.find? fun (k, _, w) => w.xend == 1 && 48 + w.xnum == id.port && l.segOfForme k == n with
        | none => .next s
        | some (k, i, w) =>
          match (l.blockLen k).bind fun n => l.blockTok n p with
          | some t =>
            if s1.room lk k i w && s1.rateOk l p then
              let s2 := (s1.endBlock lk pk t (s1.fifo (fifoKey lk n id.port))).modPort pk fun q => s1.rated l q 1
              .next ((s2.send lk k i w [t]).settle lk)
            else .next s
          | none => .next s

/-- XQ_SOURCE_EMIT (R185): the oldest entry of an outbound exchange queue enters the fabric as a control token
tagged DATA, where its pipeline is imposed (05 R129); a marker that the source owes goes first, and GSTOP makes it emit
EOS (07 R194). In a scrolling pipeline markers and FSW end its block, as at a port (05 R132). With snapshots an entry
keeps its place in the queue until its interval commits (14 R387). -/
def execXqSourceEmit (id : LaunchId) (q : Fin 4) (s : State) : Out :=
  match s.shown id with
  | none => .next s
  | some (lk, n) =>
    let s1 := s.settle lk
    match s1.launch lk with
    | none => .next s
    | some l =>
      match l.links.find? fun (k, _, w) => w.xend == 1 && w.xnum == 16 + q.val && l.segOfForme k == n with
      | none => .next s
      | some (k, i, w) =>
        let pk := xqPort lk n q.val
        let p := s1.port pk
        let qk := xqKey (lkThread (launchKey id)) q.val
        let taken := (l.xqTaken.filter fun e => e.1 == qk).length
        let scrolls := (l.blockLen k).isSome
        if !s1.lkActive lk || !s1.room lk k i w || (l.pipeFor k).isNone then .next s
        else if !scrolls && l.owesMark p then .next (((s1.markPort lk pk []).send lk k i w [markTok l.mark]).settle lk)
        else if p.eos || p.stopping then
          match (l.blockLen k).bind fun n => l.blockTok n p with
          | some t => .next (((s1.endBlock lk pk t []).send lk k i w [t]).settle lk)
          | none => .next s
        else if l.stopped then
          .next (((s1.setPort pk (s1.delivered l k p [eosTok])).send lk k i w [eosTok]).settle lk)
        else
          match (s1.queueOf qk)[taken]? with
          | none => .next s
          | some v =>
            let s2 := if l.holding then s1.setLaunch lk (some { l with xqTaken := l.xqTaken ++ [(qk, v, p.mark)] })
              else s1.setQueue qk ((s1.queueOf qk).drop 1)
            .next (((s2.send lk k i w [.ctl .data v]).stirred lk).settle lk)

/-! ### The controller tree (05 R129, R131) -/

/-- The stripes of the children of a split node, by their sizes (R129); none for TREE. -/
def splitWidths (sizes : List Nat) (p : Nat) : Option (List Nat) :=
  let m := sizes.length
  if p < m then none
  else
    some ((List.range (p - m)).foldl (fun (ws : List Nat) _ =>
      let best := (List.range m).foldl (fun (b : Nat) i =>
        -- n(i)/p(i) > n(b)/p(b)
        if sizes.getD b 0 * ws.getD i 1 < sizes.getD i 0 * ws.getD b 1 then i else b) 0
      lmod ws best (· + 1)) (List.replicate m 1))

/-- The pipelines imposed on `p` window stripes from `j` for node `i`, with the child of each SEQ node given;
none where a split node has too few stripes. -/
def imposeNode (ns : List Nat) (seq : Tab Nat) (fuel i j p : Nat) : Option (List Pipe) :=
  match fuel with
  | 0 => none
  | fuel + 1 =>
    let w := ns.getD i 0
    if nKind w = 0 || nodeFlat ns treeFuel i then
      let (f, n) := nodeFormes ns i
      some [{ forme := f, n := n, stripe := j, p := p, node := i }]
    else if nKind w = 1 then imposeNode ns seq fuel ((nodeKids ns i).getD (tget 0 seq i) 0) j p
    else
      let kids := nodeKids ns i
      match splitWidths (kids.map fun c => nodeSize ns treeFuel c) p with
      | none => none
      | some ws =>
        (kids.zip ws).foldl (fun (a : Option (List Pipe × Nat)) (c, w) =>
          match a with
          | none => none
          | some (ps, j') => (imposeNode ns seq fuel c j' w).map fun q => (ps ++ q, j' + w)) (some ([], j))
        |>.map fun r => r.1

/-- Whether an element's sources of a pipeline have emitted EOS, and in a scrolling pipeline the final FSW:
its ports, and how many FSW each has emitted. -/
def State.sources (s : State) (lk : Nat) (l : Launch) (p : Pipe) : List (Bool × Nat) :=
  (List.range p.n).flatMap fun i =>
    let k := p.forme + i
    match l.img k with
    | none => [(false, 0)]
    | some img =>
      (((fLinkWs img).filter fun (_, w) => w.xend == 1).map fun (_, w) =>
        let n := l.segOfForme k
        let q := s.port (if w.xnum < 16 then ringPort lk n (48 + w.xnum) else xqPort lk n (w.xnum - 16))
        (q.eos && (!p.scrolls || q.block == 0), q.sweep))
      ++ ((List.range 16).filterMap fun c =>
        match l.cfg k c with
        | none => none
        | some cfg =>
          if cfg.replies then
            let q := s.port (agPort lk k c)
            some (q.eos && (!p.scrolls || (q.block == 0 && q.reply.isEmpty)), q.sweep)
          else if cfg.op == 0x43 then
            let st := match s.holder lk l k c with
              | some key => ((s.elem key).getD {}).st
              | none => constUnpack (tget 0 s.fab.consts (recKey lk k c))
            some (if p.scrolls then 2 ≤ st.cnt1 else 1 ≤ st.cnt1, st.cnt3)
          else none)

/-- Whether a pipeline has drained: its sources have ended, and its elements have consumed EOS on every
enabled input (15 R406), or, where it scrolls, the last block has passed its last forme (R138). -/
def State.drained (s : State) (lk : Nat) (l : Launch) (p : Pipe) : Bool :=
  let src := s.sources lk l p
  (src.all fun e => e.1) &&
    (if p.scrolls then
      let f := (src.map fun e => e.2).foldl max 0
      f != 0 && (List.range p.p).all fun i => (List.range 16).all fun c =>
        match s.elem (elemKey lk (p.stripe + i) c) with
        | some e => p.n * f ≤ e.v
        | none => true
    else
      (List.range p.n).all fun i => (List.range 16).all fun c =>
        match l.cfg (p.forme + i) c, s.elem (elemKey lk (p.stripe + i) c) with
        | some cfg, some e => e.eos % 8 == cfg.inen && e.owea.isEmpty && e.oweb.isEmpty
        | some _, none => false
        | none, _ => true)

/-- Whether every store issued from the formes of a pipeline has been performed (R129): its AG ports have written what
they took, and copy and fill no more; the ring ports that store what its links bring have taken and written it. -/
def State.childStored (s : State) (lk : Nat) (l : Launch) (p : Pipe) : Bool :=
  (List.range p.n).all fun i =>
    let k := p.forme + i
    let n := l.segOfForme k
    ([0, 15].all fun c =>
      let q := s.port (agPort lk k c)
      !q.unwritten && q.tile.isNone && !(q.cur.any fun c => c.cmd.scop == 5 || c.cmd.scop == 10))
    && (l.links.all fun (k', _, w) =>
      let q := s.port (ringPort lk n (48 + w.xnum))
      k' != k || w.xend != 2 || 16 ≤ w.xnum || !(q.cur.any fun c => c.cmd.stores)
        || (!q.unwritten && q.tile.isNone && (s.fifo (fifoKey lk n (48 + w.xnum))).isEmpty))

/-- Whether a launch's ports have no command left and hold no tile. -/
def State.portsDone (s : State) (lk : Nat) : Bool :=
  s.fab.ports.all fun (k, p) =>
    k / 2 ^ 20 != lk || (p.q.isEmpty && p.cur.isNone && p.trail.isEmpty && p.peer.isNone && p.tile.isNone
      && p.full.isNone)

/-- Entries of a table that a launch owns removed. -/
def dropKeys {α : Type} (t : Tab α) (own : Nat → Bool) : Tab α := t.filter fun e => !own e.1

/-- The elements and shadows of some window stripes of a launch given up; the elements' flags pass to the
launch. -/
def State.vacate (s : State) (lk : Nat) (js : List Nat) : State :=
  let mine (k : Nat) : Bool := k / 16 / 512 == lk && js.contains (k / 16 % 512)
  let fl := s.fab.elems.foldl (fun (f : Flags) (k, e) =>
    if mine k then orFlags f (e.getD {}).flags else f) ({} : Flags)
  (s.modLaunch lk fun l => { l with flags := orFlags l.flags fl }).modFab fun f =>
    { f with elems := dropKeys f.elems mine
             shadows := dropKeys f.shadows fun k => k / 512 == lk && js.contains (k % 512) }

/-- The ports that may feed the formes of a pipeline, by key. -/
def Launch.sourcePorts (l : Launch) (lk : Nat) (img : Nat → Nat) (p : Pipe) : List Nat :=
  (List.range p.n).flatMap fun i =>
    let k := p.forme + i
    let n := l.segOfForme k
    [agPort lk k 0, agPort lk k 15] ++ ((fLinkWs (img k)).filter fun (_, w) => w.xend == 1).map fun (_, w) =>
      if w.xnum < 16 then ringPort lk n (48 + w.xnum) else xqPort lk n (w.xnum - 16)

/-- SEQ_CHILD_IMPOSE (R129): the child of a SEQ node has drained, and the next is imposed on the sub-window. -/
def execSeqChildImpose (id : LaunchId) (node : Nat) (s : State) : Out :=
  let lk := launchKey id
  let s1 := s.settle lk
  match s1.launch lk with
  | none => .next s
  | some l =>
    let ns := l.nodes.map BitVec.toNat
    let kids := nodeKids ns node
    let c := tget 0 l.seq node
    let cur := kids.getD c 0
    let stop := (nodeEnd ns treeFuel cur).getD 0
    let mine := l.pipes.filter fun p => cur ≤ p.node && p.node < stop
    if !s1.lkActive lk || ((s1.jobOf lk).any fun j => j.phase == .saving) || nKind (ns.getD node 0) != 1 || kids.length ≤ c + 1 || mine.isEmpty
        || !(mine.all fun p => s1.drained lk l p && s1.childStored lk l p) then .next s
    else
      let nextSeq := (l.seq.filter fun e => !(cur ≤ e.1 && e.1 < stop))
      let seq := tset 0 nextSeq node (c + 1)
      match imposeNode ns seq treeFuel 0 0 l.win.length with
      | none => .next s
      | some ps =>
        let js := mine.flatMap fun p => (List.range p.p).map fun i => p.stripe + i
        let ps1 := ps.map fun p => match l.pipes.find? fun q => q.node == p.node && !mine.contains q with
          | some q => q
          | none => { p with mark0 := l.mark }
        let l1 := { l with seq := seq, pipes := ps1 }
        let s2 := (s1.vacate lk js).modLaunch lk fun x => { l1 with flags := x.flags }
        let fresh := ps1.filter fun p => !(l.pipes.contains p)
        .next (((fresh.flatMap fun p => l1.sourcePorts lk (s1.galleyOf lk l).img p).foldl (fun (a : State) k =>
          a.modPort k fun p => { p with mark := l.mark }) s2).stirred lk)


end Sys2Proof.Machine
end

