-- ==== Sys2Proof/Machine/Integer.lean ====
section
/-! DEFINITION. The integer instructions (06 R162-R166): ALU, multiplication and division, bit fields and
immediates. -/

namespace Sys2Proof.Machine

/-- A bit as a register value. -/
def ofBool (b : Bool) : W64 := if b then 1 else 0

/-- An instruction of two sources and a destination. -/
def alu (i : Instr) (s : State) (d a b : BitVec 5) (f : W64 → W64 → W64) : Out :=
  checked i s fun th => update s (th.put d (f (th.get a) (th.get b)))

/-- An instruction of one source and a destination. -/
def alu1 (i : Instr) (s : State) (d a : BitVec 5) (f : W64 → W64) : Out :=
  checked i s fun th => update s (th.put d (f (th.get a)))

/-- The shift amount: the low six bits (R162). -/
def shamt (v : W64) : Nat := v.toNat % 64

/-- `idiv` of R8: truncates toward zero. -/
def idiv (a b : Int) : Int := Int.tdiv a b

/-- DIV (R163): division by zero goes to the end of the range on the dividend's side; −2^63 / −1 clamps. -/
def divS (u v : W64) : W64 :=
  if v = 0 then
    if u = 0 then 0 else if 0 < u.toInt then 0x7FFFFFFFFFFFFFFF else 0x8000000000000000
  else BitVec.ofInt 64 (satI (idiv u.toInt v.toInt) (-9223372036854775808) 9223372036854775807)

/-- REM (R163): the remainder of the exact truncated quotient; the dividend when the divisor is zero. -/
def remS (u v : W64) : W64 := if v = 0 then u else BitVec.ofInt 64 (Int.tmod u.toInt v.toInt)

/-- DIVU (R163). -/
def divU (u v : W64) : W64 :=
  if v = 0 then (if u = 0 then 0 else 0xFFFFFFFFFFFFFFFF) else BitVec.ofNat 64 (u.toNat / v.toNat)

/-- REMU (R163). -/
def remU (u v : W64) : W64 := if v = 0 then u else BitVec.ofNat 64 (u.toNat % v.toNat)

/-- The number of leading zero bits, 0-64 (R164). -/
def clzN (v : W64) : Nat := if v = 0 then 64 else 63 - Nat.log2 v.toNat

/-- Trailing zero bits among the low `n` bits. -/
def ctzAux (n v : Nat) : Nat :=
  match n with
  | 0 => 0
  | n + 1 => if v % 2 = 1 then 0 else 1 + ctzAux n (v / 2)

/-- One bits among the low `n` bits. -/
def popcAux (n v : Nat) : Nat :=
  match n with
  | 0 => 0
  | n + 1 => v % 2 + popcAux n (v / 2)

/-- The eight bytes in reverse order (R164). -/
def bswap (v : W64) : W64 := BitVec.ofNat 64 (ofBytesLE (bytesLE 8 v.toNat).reverse)

/-- The length of a field instruction (R164). -/
def fieldLen (n : BitVec 5) (m : BitVec 1) : Nat := 32 * m.toNat + n.toNat + 1

/-- The field [pos+len-1:pos], zero-extended (R164). -/
def extractZ (v : W64) (pos len : Nat) : W64 := BitVec.ofNat 64 (v.toNat / 2 ^ pos % 2 ^ len)

/-- The field [pos+len-1:pos], sign-extended (R164). -/
def extractS (v : W64) (pos len : Nat) : W64 := BitVec.ofInt 64 (signedN len (v.toNat / 2 ^ pos))

/-- The mask of a field. -/
def fieldMask (pos len : Nat) : W64 := BitVec.ofNat 64 ((2 ^ len - 1) * 2 ^ pos)

/-- The low bits of `v` in place of the field of `old` (R164). -/
def insert (old v : W64) (pos len : Nat) : W64 :=
  (old &&& ~~~(fieldMask pos len)) ||| ((v <<< pos) &&& fieldMask pos len)

/-- ADD (R162). -/
def execAdd (d a b : BitVec 5) (s : State) : Out :=
  alu (.add d a b) s d a b fun u v => u + v

/-- SUB (R162). -/
def execSub (d a b : BitVec 5) (s : State) : Out :=
  alu (.sub d a b) s d a b fun u v => u - v

/-- AND (R162). -/
def execAnd (d a b : BitVec 5) (s : State) : Out :=
  alu (.and d a b) s d a b fun u v => u &&& v

/-- OR (R162). -/
def execOr (d a b : BitVec 5) (s : State) : Out :=
  alu (.or d a b) s d a b fun u v => u ||| v

/-- XOR (R162). -/
def execXor (d a b : BitVec 5) (s : State) : Out :=
  alu (.xor d a b) s d a b fun u v => u ^^^ v

/-- SLL (R162). -/
def execSll (d a b : BitVec 5) (s : State) : Out :=
  alu (.sll d a b) s d a b fun u v => u <<< shamt v

/-- SRL (R162). -/
def execSrl (d a b : BitVec 5) (s : State) : Out :=
  alu (.srl d a b) s d a b fun u v => u >>> shamt v

/-- SRA (R162). -/
def execSra (d a b : BitVec 5) (s : State) : Out :=
  alu (.sra d a b) s d a b fun u v => u.sshiftRight (shamt v)

/-- SLT (R162). -/
def execSlt (d a b : BitVec 5) (s : State) : Out :=
  alu (.slt d a b) s d a b fun u v => ofBool (u.slt v)

/-- SLTU (R162). -/
def execSltu (d a b : BitVec 5) (s : State) : Out :=
  alu (.sltu d a b) s d a b fun u v => ofBool (u.ult v)

/-- MIN (R162). -/
def execMin (d a b : BitVec 5) (s : State) : Out :=
  alu (.min d a b) s d a b fun u v => if u.sle v then u else v

/-- MAX (R162). -/
def execMax (d a b : BitVec 5) (s : State) : Out :=
  alu (.max d a b) s d a b fun u v => if v.sle u then u else v

/-- MINU (R162). -/
def execMinu (d a b : BitVec 5) (s : State) : Out :=
  alu (.minu d a b) s d a b fun u v => if u.ule v then u else v

/-- MAXU (R162). -/
def execMaxu (d a b : BitVec 5) (s : State) : Out :=
  alu (.maxu d a b) s d a b fun u v => if v.ule u then u else v

/-- MUL (R163). -/
def execMul (d a b : BitVec 5) (s : State) : Out :=
  alu (.mul d a b) s d a b fun u v => u * v

/-- MULH (R163). -/
def execMulh (d a b : BitVec 5) (s : State) : Out :=
  alu (.mulh d a b) s d a b fun u v => BitVec.ofInt 64 (u.toInt * v.toInt / 2 ^ 64)

/-- MULHU (R163). -/
def execMulhu (d a b : BitVec 5) (s : State) : Out :=
  alu (.mulhu d a b) s d a b fun u v => BitVec.ofNat 64 (u.toNat * v.toNat / 2 ^ 64)

/-- DIV (R163). -/
def execDiv (d a b : BitVec 5) (s : State) : Out :=
  alu (.div d a b) s d a b divS

/-- REM (R163). -/
def execRem (d a b : BitVec 5) (s : State) : Out :=
  alu (.rem d a b) s d a b remS

/-- DIVU (R163). -/
def execDivu (d a b : BitVec 5) (s : State) : Out :=
  alu (.divu d a b) s d a b divU

/-- REMU (R163). -/
def execRemu (d a b : BitVec 5) (s : State) : Out :=
  alu (.remu d a b) s d a b remU

/-- CLZ (R164). -/
def execClz (d a : BitVec 5) (s : State) : Out :=
  alu1 (.clz d a) s d a fun u => BitVec.ofNat 64 (clzN u)

/-- CTZ (R164). -/
def execCtz (d a : BitVec 5) (s : State) : Out :=
  alu1 (.ctz d a) s d a fun u => BitVec.ofNat 64 (ctzAux 64 u.toNat)

/-- POPC (R164). -/
def execPopc (d a : BitVec 5) (s : State) : Out :=
  alu1 (.popc d a) s d a fun u => BitVec.ofNat 64 (popcAux 64 u.toNat)

/-- BSWP (R164). -/
def execBswp (d a : BitVec 5) (s : State) : Out :=
  alu1 (.bswp d a) s d a bswap

/-- EXTS (R164). -/
def execExts (d a n : BitVec 5) (m : BitVec 1) (p : BitVec 6) (s : State) : Out :=
  alu1 (.exts d a n m p) s d a fun u => extractS u p.toNat (fieldLen n m)

/-- EXTZ (R164). -/
def execExtz (d a n : BitVec 5) (m : BitVec 1) (p : BitVec 6) (s : State) : Out :=
  alu1 (.extz d a n m p) s d a fun u => extractZ u p.toNat (fieldLen n m)

/-- INSF (R164): reads x[d] as a source. -/
def execInsf (d a n : BitVec 5) (m : BitVec 1) (p : BitVec 6) (s : State) : Out :=
  alu (.insf d a n m p) s d d a fun old u => insert old u p.toNat (fieldLen n m)

/-- SEL (R164): reads x[d] as a source. -/
def execSel (d a b : BitVec 5) (s : State) : Out :=
  checked (.sel d a b) s fun th =>
    update s (th.put d (if th.get d ≠ 0 then th.get a else th.get b))

/-- ADDI (R165). -/
def execAddi (d a : BitVec 5) (i : BitVec 16) (s : State) : Out :=
  alu1 (.addi d a i) s d a fun u => u + sx i

/-- ANDI (R165). -/
def execAndi (d a : BitVec 5) (i : BitVec 16) (s : State) : Out :=
  alu1 (.andi d a i) s d a fun u => u &&& zx i

/-- ORI (R165). -/
def execOri (d a : BitVec 5) (i : BitVec 16) (s : State) : Out :=
  alu1 (.ori d a i) s d a fun u => u ||| zx i

/-- XORI (R165). -/
def execXori (d a : BitVec 5) (i : BitVec 16) (s : State) : Out :=
  alu1 (.xori d a i) s d a fun u => u ^^^ zx i

/-- SLTI (R165). -/
def execSlti (d a : BitVec 5) (i : BitVec 16) (s : State) : Out :=
  alu1 (.slti d a i) s d a fun u => ofBool (u.slt (sx i))

/-- SLLI (R165). -/
def execSlli (d a : BitVec 5) (sh : BitVec 6) (s : State) : Out :=
  alu1 (.slli d a sh) s d a fun u => u <<< sh.toNat

/-- SRLI (R165). -/
def execSrli (d a : BitVec 5) (sh : BitVec 6) (s : State) : Out :=
  alu1 (.srli d a sh) s d a fun u => u >>> sh.toNat

/-- SRAI (R165). -/
def execSrai (d a : BitVec 5) (sh : BitVec 6) (s : State) : Out :=
  alu1 (.srai d a sh) s d a fun u => u.sshiftRight sh.toNat

/-- LUI (R166). -/
def execLui (d : BitVec 5) (i : BitVec 21) (s : State) : Out :=
  checked (.lui d i) s fun th => update s (th.put d (sx i <<< 16))

/-- ADDPC (R166): the address of the instruction plus 4 times the immediate. -/
def execAddpc (d : BitVec 5) (i : BitVec 21) (s : State) : Out :=
  checked (.addpc d i) s fun th => update s (th.put d (th.pc64 + sx i * 4))

end Sys2Proof.Machine
end

