-- ==== Sys2Proof/Machine/Control.lean ====
section
/-! DEFINITION. Control transfer (06 R171-R173, 03 R81, R88): branches, jumps, calls, the call depth and
the safe-point count. -/

namespace Sys2Proof.Machine

/-- ILL (R151): the all-zero word traps ILLEGAL when executed. -/
def execIll (s : State) : Out := illegal s .ill

/-- A branch (R171). -/
def branch (i : Instr) (s : State) (a b : BitVec 5) (o : BitVec 13) (c : W64 → W64 → Bool) : Out :=
  checked i s fun th =>
    if c (th.get a) (th.get b) then transfer s (relTarget th o) id else update s th

/-- A call that has not yet returned is counted, stopping at 65,535 (R88). -/
def Thread.deeper (th : Thread) : Thread :=
  { th with cdepth := if th.cdepth = 0xFFFF then th.cdepth else th.cdepth + 1 }

/-- The link of a call (R152, R172, R173): pc + 4 in x[d], and the call depth with d ≠ 0 (R88). -/
def Thread.link (th : Thread) (d : BitVec 5) : Thread :=
  if d = 0 then th else (th.put d (th.pc64 + 4)).deeper

/-- BEQ (R171). -/
def execBeq (a b : BitVec 5) (o : BitVec 13) (s : State) : Out :=
  branch (.beq a b o) s a b o fun u v => u == v

/-- BNE (R171). -/
def execBne (a b : BitVec 5) (o : BitVec 13) (s : State) : Out :=
  branch (.bne a b o) s a b o fun u v => u != v

/-- BLT (R171). -/
def execBlt (a b : BitVec 5) (o : BitVec 13) (s : State) : Out :=
  branch (.blt a b o) s a b o fun u v => u.slt v

/-- BGE (R171). -/
def execBge (a b : BitVec 5) (o : BitVec 13) (s : State) : Out :=
  branch (.bge a b o) s a b o fun u v => v.sle u

/-- BLTU (R171). -/
def execBltu (a b : BitVec 5) (o : BitVec 13) (s : State) : Out :=
  branch (.bltu a b o) s a b o fun u v => u.ult v

/-- BGEU (R171). -/
def execBgeu (a b : BitVec 5) (o : BitVec 13) (s : State) : Out :=
  branch (.bgeu a b o) s a b o fun u v => v.ule u

/-- J (R172). -/
def execJ (o : BitVec 26) (s : State) : Out :=
  checked (.j o) s fun th => transfer s (relTarget th o) id

/-- CALL (R172): the link goes to ra. -/
def execCall (o : BitVec 26) (s : State) : Out :=
  checked (.call o) s fun th => transfer s (relTarget th o) fun th => th.link 1

/-- A jump to a register's value (R173): misaligned targets trap ALIGN. -/
def jumpTo (s : State) (t : W64) (k : Out) : Out :=
  if t.toNat % 4 != 0 then trapOut s (trapAt .align t) else k

/-- The safe-point word of the issuing thread (03 R88). -/
def safeWord (s : State) : W64 :=
  match s.myJob with
  | some j => BitVec.ofNat 64 (j.cx + 0x0200 + 8 * s.me.n)
  | none => 0

/-- A write of the safe-point word by the core, with release ordering at SYS scope (03 R88): the block is
mapped and pinned (04 R108), so the write goes to its page; without a job or a mapping there is no word. -/
def State.writeSafe (s : State) (v : W64) : State :=
  match s.myJob with
  | none => s
  | some _ =>
    let va := (safeWord s).toNat
    let walks := s.ms.walkCharges (.core s.ring) (s.ring / 4) s.asid va .write true s.myClass
    match s.ms.translate (.core s.ring) (s.ring / 4) s.asid va .write true with
    | (ms, .ok pa) =>
      ({ s with ms := ms.writeData pa (bytesLE 8 v.toNat) } : State).charge (walks ++ s.coreCharges pa)
    | (_, .error _) => s

/-- What `jr ra` does to the call depth and to SAFEPT (03 R88): 1 to 0 advances SAFEPT and writes the
safe-point word. -/
def State.returned (s : State) : State :=
  let th := s.me
  if th.cdepth = 0 then s
  else if th.cdepth = 1 then
    (s.setMe { th with cdepth := 0, safept := th.safept + 1 }).writeSafe (th.safept + 1)
  else s.setMe { th with cdepth := th.cdepth - 1 }

/-- JR (R173); as `jr ra` it lowers the call depth and may advance SAFEPT (R88). -/
def execJr (a : BitVec 5) (s : State) : Out :=
  checked (.jr a) s fun th =>
    let t := th.get a
    jumpTo s t <| (s.fetchable t).andThen fun s1 _ =>
      let s2 := s1.setMe (s1.me.jump t)
      .next (if a = 1 then s2.returned else s2)

/-- CALLR (R173): x[a] is read before x[d] is written. -/
def execCallr (d a : BitVec 5) (s : State) : Out :=
  checked (.callr d a) s fun th =>
    jumpTo s (th.get a) <| transfer s (th.get a) fun u => u.link d

/-- CALLT (03 R81): the entry is read with acquire ordering; a non-code entry traps ILLEGAL with its
address. -/
def execCallt (d a : BitVec 5) (i : BitVec 16) (s : State) : Out :=
  checked (.callt d a i) s fun th =>
    let ea := th.get a + zx i * 8
    (s.load ea 8).andThen fun s1 e =>
      if e % 4 != 1 then trapOut s1 { cause := .illegal, info := ea, va := ea }
      else transfer s1 (BitVec.ofNat 64 (e / 4 % 2 ^ 54 * 4)) fun u => u.link d

end Sys2Proof.Machine
end

