-- ==== Sys2Proof/Machine/Memory.lean ====
section
/-! DEFINITION. Loads, stores, prefetch, atomics and FENCE (07 R177-R181). Every access of this machine is
performed when its step is taken, in the order of the steps, so that the orderings of acquire, release and
FENCE hold of every run (13 R370; log 7). -/

namespace Sys2Proof.Machine

/-- A load into a register (R177). -/
def loadReg (i : Instr) (s : State) (d a : BitVec 5) (z : BitVec 2) (o : BitVec 12) (f : Nat → W64) : Out :=
  checked i s fun th =>
    (s.load (eaF th a o) (sizeBytes z)).andThen fun s1 v => update s1 (s1.me.put d (f v))

/-- An atomic (R179): `f` combines the old value and x[b] at the size's width; the old value returns
sign-extended. -/
def amo (i : Instr) (s : State) (d a b : BitVec 5) (z : BitVec 2) (f : Nat → Nat → Nat → Nat) : Out :=
  checked i s fun th =>
    let n := sizeBytes z
    let v := (th.get b).toNat % 2 ^ (8 * n)
    (s.atomic (th.get a) n true fun old => some (f (8 * n) old v)).andThen fun s1 old =>
      update s1 (s1.me.put d (BitVec.ofInt 64 (signedN (8 * n) old)))

/-- LD (R177). -/
def execLd (d a : BitVec 5) (z q : BitVec 2) (o : BitVec 12) (s : State) : Out :=
  loadReg (.ld d a z q o) s d a z o fun v => BitVec.ofNat 64 v

/-- LDS (R177). -/
def execLds (d a : BitVec 5) (z q : BitVec 2) (o : BitVec 12) (s : State) : Out :=
  loadReg (.lds d a z q o) s d a z o fun v => BitVec.ofInt 64 (signedN (8 * sizeBytes z) v)

/-- ST (R177): the low bytes of x[s]. -/
def execSt (t a : BitVec 5) (z q : BitVec 2) (o : BitVec 12) (s : State) : Out :=
  checked (.st t a z q o) s fun th =>
    (s.store (eaF th a o) (bytesLE (sizeBytes z) (th.get t).toNat)).andThen fun s1 _ => update s1 s1.me

/-- PREF for reading (R177): a hint without effect on any result; it never traps on its address. -/
def execPrefR (a : BitVec 5) (o : BitVec 12) (s : State) : Out :=
  checked (.prefR a o) s fun th => update s th

/-- PREF for writing (R177). -/
def execPrefW (a : BitVec 5) (o : BitVec 12) (s : State) : Out :=
  checked (.prefW a o) s fun th => update s th

/-- AMOADD (R179). -/
def execAmoadd (d a b : BitVec 5) (q z : BitVec 2) (s : State) : Out :=
  amo (.amoadd d a b q z) s d a b z fun w old v => (old + v) % 2 ^ w

/-- AMOAND (R179). -/
def execAmoand (d a b : BitVec 5) (q z : BitVec 2) (s : State) : Out :=
  amo (.amoand d a b q z) s d a b z fun _ old v => old &&& v

/-- AMOOR (R179). -/
def execAmoor (d a b : BitVec 5) (q z : BitVec 2) (s : State) : Out :=
  amo (.amoor d a b q z) s d a b z fun _ old v => old ||| v

/-- AMOXOR (R179). -/
def execAmoxor (d a b : BitVec 5) (q z : BitVec 2) (s : State) : Out :=
  amo (.amoxor d a b q z) s d a b z fun _ old v => old ^^^ v

/-- AMOMIN (R179). -/
def execAmomin (d a b : BitVec 5) (q z : BitVec 2) (s : State) : Out :=
  amo (.amomin d a b q z) s d a b z fun w old v => if signedN w old ≤ signedN w v then old else v

/-- AMOMAX (R179). -/
def execAmomax (d a b : BitVec 5) (q z : BitVec 2) (s : State) : Out :=
  amo (.amomax d a b q z) s d a b z fun w old v => if signedN w old ≥ signedN w v then old else v

/-- AMOSWAP (R179). -/
def execAmoswap (d a b : BitVec 5) (q z : BitVec 2) (s : State) : Out :=
  amo (.amoswap d a b q z) s d a b z fun _ _ v => v

/-- CAS (R180): writes x[b] if memory equals x[d]; the old value returns sign-extended. -/
def execCas (d a b : BitVec 5) (q z : BitVec 2) (s : State) : Out :=
  checked (.cas d a b q z) s fun th =>
    let n := sizeBytes z
    let w := 2 ^ (8 * n)
    (s.atomic (th.get a) n false fun old =>
        if old == (th.get d).toNat % w then some ((th.get b).toNat % w) else none).andThen fun s1 old =>
      update s1 (s1.me.put d (BitVec.ofInt 64 (signedN (8 * n) old)))

/-- FENCE (R181): every earlier access of the thread has been performed when its step is taken (log 7). -/
def execFence (c : BitVec 3) (k : BitVec 2) (s : State) : Out :=
  checked (.fence c k) s fun th => update s th

end Sys2Proof.Machine
end

