-- ==== Sys2Proof/Machine/HeaderOps.lean ====
section
/-! DEFINITION. The header-register instructions (07 R187-R189). -/

namespace Sys2Proof.Machine

/-- The place of a field of R189: lowest bit and length; none where the number names no field. -/
def headerField (f : Nat) : Option (Nat × Nat) :=
  match f with
  | 0 => some (0, 8)
  | 1 => some (8, 4)
  | 2 => some (12, 6)
  | 3 => some (18, 4)
  | 4 => some (22, 2)
  | 5 => some (24, 3)
  | 6 => some (27, 2)
  | 7 => some (29, 3)
  | 8 => some (32, 3)
  | 9 => some (36, 8)
  | 10 => some (44, 8)
  | 11 => some (52, 24)
  | 12 => some (76, 24)
  | 13 => some (100, 24)
  | 14 => some (124, 16)
  | 15 => some (140, 16)
  | 16 => some (156, 16)
  | 17 => some (192, 32)
  | 18 => some (224, 32)
  | 32 => some (0, 64)
  | 33 => some (64, 64)
  | 34 => some (128, 64)
  | 35 => some (192, 64)
  | _ => none

/-- A header with the bits of a field replaced and the CRC regenerated (R189, 01 R22). -/
def setField (h : Header) (lo len v : Nat) : Header :=
  let old := h.toNat % 2 ^ 224
  withCrc (old - hf h lo len * 2 ^ lo + v % 2 ^ len * 2 ^ lo)

/-- The trap of a header check at a header register: SITE 4 (R188, 01 R24). -/
def headerTrap (check : Nat) (h : Header) : TrapReq :=
  { cause := if check ≤ 3 then .hdrCrc else .combo, detail := check, info := detailWord check 4 h }

/-- HLD (R188). -/
def execHld (h : BitVec 3) (a : BitVec 5) (sel : BitVec 8) (s : State) : Out :=
  checked (.hld h a sel) s fun th =>
    (s.load (eaG th a sel) 32).andThen fun s1 v =>
      let hd : Header := BitVec.ofNat 256 v
      let c := checks1to7 hd
      if c != 0 then trapOut s1 (headerTrap c hd) else update s1 (s1.me.putH h hd)

/-- HST (R188): the register exactly as held. -/
def execHst (h : BitVec 3) (a : BitVec 5) (sel : BitVec 8) (s : State) : Out :=
  checked (.hst h a sel) s fun th =>
    (s.store (eaG th a sel) (bytesLE 32 (th.getH h).toNat)).andThen fun s1 _ => update s1 s1.me

/-- HGET (R188, R189): an empty register reads 0. -/
def execHget (d : BitVec 5) (h : BitVec 3) (f : BitVec 8) (s : State) : Out :=
  checked (.hget d h f) s fun th =>
    match headerField f.toNat with
    | some (lo, len) => update s (th.put d (BitVec.ofNat 64 (hf (th.getH h) lo len)))
    | none => illegal s (.hget d h f)

/-- HSET (R188, R189): an empty register, or a value that does not fit, traps ILLEGAL; a header that would
fail checks 4-7 traps COMBO; the register then keeps its value. -/
def execHset (h : BitVec 3) (a : BitVec 5) (f : BitVec 8) (s : State) : Out :=
  checked (.hset h a f) s fun th =>
    let old := th.getH h
    let v := (th.get a).toNat
    match headerField f.toNat with
    | none => illegal s (.hset h a f)
    | some (lo, len) =>
      let new := setField old lo len v
      if old = 0 || 2 ^ len ≤ v || (f = 32 && hf new 0 12 != hf old 0 12) then illegal s (.hset h a f)
      else
        let c := checks1to7 new
        if c != 0 then trapOut s (headerTrap c new) else update s (th.putH h new)

/-- HCHK (R188): the first of checks 1-10 that fails in memory form, or 0. -/
def execHchk (d : BitVec 5) (h : BitVec 3) (s : State) : Out :=
  checked (.hchk d h) s fun th => update s (th.put d (BitVec.ofNat 64 (checks1to10 (th.getH h) true)))

end Sys2Proof.Machine
end

