-- ==== Sys2Proof/Machine/System.lean ====
section
/-! DEFINITION. The system instructions (07 R197-R205): control and status registers, traps and their
return, HALT and BRK, TLB maintenance, thread images. -/

namespace Sys2Proof.Machine

/-! ### CSRs (R197-R200) -/

/-- CTX_STATUS of the issuing thread (R198). -/
def State.ctxStatus (s : State) : W64 :=
  let snap : Bool := match s.myJob with
    | some j => j.rcd.getLsbD 35
    | none => false
  BitVec.ofNat 64 ((if s.priv then 1 else 0) + (if s.me.inTrap then 2 else 0) + (if snap then 4 else 0)
    + s.asid * 2 ^ 8 + s.slot * 2 ^ 24)

/-- A CSR of the issuing thread (R197). -/
def State.csr (s : State) (c : Nat) : W64 :=
  let th := s.me
  match c with
  | 0x00 => s.ctxStatus
  | 0x01 => th.trapPc
  | 0x02 => th.trapCause
  | 0x03 => th.trapInfo
  | 0x04 => th.trapBase
  | 0x08 => BitVec.ofNat 64 s.clk.fc
  | 0x09 => BitVec.ofNat 64 s.time
  | 0x0A => th.ltbase
  | 0x0B => th.safept
  | 0x0C => th.grant
  | 0x0D => th.fstat.setWidth 64
  | 0x0E => th.profile
  | _ => 0

/-- ADDR [55:2] of TRAP_PC and TRAP_BASE (R197). -/
def addrField (v : W64) : W64 := v &&& 0x00FFFFFFFFFFFFFC

/-- PROFILE after a write: EN, and PERIOD unless it is written as 0 (R200). -/
def profileWrite (old v : W64) : W64 :=
  (v &&& 1) ||| (if fieldN 64 v 16 16 = 0 then old &&& 0xFFFF0000 else v &&& 0xFFFF0000)

/-- A register of a thread written by system software through the management path, which no access code of a thread
binds (R197; log 111). CTX_STATUS, CYCLE and TIME hold nothing of the thread's own. -/
def Thread.pathCsr (th : Thread) (c : Nat) (v : W64) : Thread :=
  match c with
  | 0x01 => { th with trapPc := addrField v }
  | 0x02 => { th with trapCause := v &&& 0xFFFF }
  | 0x03 => { th with trapInfo := v }
  | 0x04 => { th with trapBase := addrField v }
  | 0x0A => { th with ltbase := v }
  | 0x0B => { th with safept := v }
  | 0x0C => { th with grant := v }
  | 0x0D => { th with fstat := v.setWidth 4 }
  | 0x0E => { th with profile := profileWrite th.profile v }
  | _ => th

/-- A write of a writable CSR under the access codes of its fields (R197). -/
def Thread.writeCsr (th : Thread) (c : Nat) (v : W64) : Thread :=
  match c with
  | 0x01 => { th with trapPc := addrField v }
  | 0x04 => { th with trapBase := addrField v }
  | 0x0D => th.clearFlags v
  | 0x0E => { th with profile := profileWrite th.profile v }
  | _ => th

/-- CSRR (R197). -/
def execCsrr (d : BitVec 5) (c : BitVec 8) (s : State) : Out :=
  checked (.csrr d c) s fun th => update s (th.put d (s.csr c.toNat))

/-- CSRW (R197). -/
def execCsrw (a : BitVec 5) (c : BitVec 8) (s : State) : Out :=
  checked (.csrw a c) s fun th => update s (th.writeCsr c.toNat (th.get a))

/-- CSRX (R197): read and write as one step; the old value returns. -/
def execCsrx (d a : BitVec 5) (c : BitVec 8) (s : State) : Out :=
  checked (.csrx d a c) s fun th => update s ((th.writeCsr c.toNat (th.get a)).put d (s.csr c.toNat))

/-! ### Traps, HALT and BRK (R203) -/

/-- TRAP (R203): SOFT with the code as detail. -/
def execTrap (c : BitVec 8) (s : State) : Out :=
  checked (.trap c) s fun _ => trapOut s { cause := .soft, detail := c.toNat }

/-- ERET (R203): outside a handler it traps ILLEGAL. -/
def execEret (s : State) : Out :=
  checked .eret s fun th => if th.inTrap then .next (s.setMe th.eret) else illegal s .eret

/-- HALT (R203): the thread ends; a progress mark of its job (14 R393). -/
def execHalt (s : State) : Out :=
  checked .halt s fun th =>
    let s1 := s.setMe { th with run := .halted }
    match th.job with
    | some j => .next (s1.modJob j fun x => { x with progressFs := s.clk.fs })
    | none => .next s1

/-- BRK (R203): BREAK with the code as detail, or a stop for the agent that has claimed the context. -/
def execBrk (c : BitVec 8) (s : State) : Out :=
  checked (.brk c) s fun th =>
    if (s.ctx s.asid).claimed then .next (s.setMe { th with run := .agent })
    else trapOut s { cause := .break, detail := c.toNat }

/-! ### TLB maintenance (R204) -/

/-- Memory with the roots of an ASID as last written, once TLBINV of kind 1 for it completes (12 R333). -/
def MemSys.takeRoot (ms : MemSys) (kind asid : Nat) : MemSys :=
  if kind = 1 then { ms with rootNow := tset 0 ms.rootNow asid (tget 0 ms.roots asid) } else ms

/-- TLBINV (R204): privileged; x[d] above the ASID must be zero. The translations are dropped; it completes when no
write that used one is held any more. -/
def execTlbinv (d a : BitVec 5) (k : BitVec 2) (s : State) : Out :=
  privileged (.tlbinv d a k) s fun th =>
    let v := (th.get d).toNat
    if 65536 ≤ v then illegal s (.tlbinv d a k)
    else
      let ms := s.ms.invalidate k.toNat v (th.get a).toNat
      if s.undrained k.toNat v (th.get a).toNat s.clk.fs then .next { s with ms := ms }
      else update { s with ms := ms.takeRoot k.toNat v } th

/-! ### Thread images (R205) -/

/-- The 96 doublewords of the image of a thread, `pc` given (R205). -/
def Thread.image (th : Thread) (pc : W64) : List W64 :=
  [pc] ++ (List.range 31).map (fun i => th.x.toList.getD (i + 1) 0)
  ++ (List.range 32).map (fun i => (th.h.toList.getD (i / 4) 0).extractLsb' (64 * (i % 4)) 64)
  ++ [th.trapPc, th.trapCause, th.trapInfo, th.trapBase, th.fstat.setWidth 64, th.profile,
      if th.inTrap then 1 else 0,
      BitVec.ofNat 64 (th.note.toNat + th.tickets.toNat * 65536), th.cdepth.setWidth 64]
  ++ List.replicate 23 0

/-- Translation of each doubleword of an image before any is accessed. -/
def State.probe (s : State) (va : W64) (n : Nat) (rd : Bool) : Acc Unit :=
  match n with
  | 0 => .ok s ()
  | n + 1 =>
    match (if inDevice va then .ok s 0
           else s.dataPa va 8 (if rd then .read else .write) (!rd) rd (!rd)) with
    | .ok s1 _ => s1.probe (va + 8) n rd
    | .trap s1 t => .trap s1 t
    | .post s1 => .post s1

/-- Doublewords stored one after another, all or, where one traps, none. -/
def State.storeWords (s : State) (va : W64) (ws : List W64) : Acc Unit :=
  match ws with
  | [] => .ok s ()
  | w :: rest =>
    match s.store va (bytesLE 8 w.toNat) with
    | .ok s1 _ =>
      match s1.storeWords (va + 8) rest with
      | .trap _ t => .trap s t
      | r => r
    | .trap _ t => .trap s t
    | .post s1 => .post s1

/-- Doublewords loaded one after another. -/
def State.loadWords (s : State) (va : W64) (n : Nat) : Acc (List W64) :=
  match n with
  | 0 => .ok s []
  | n + 1 =>
    match s.load va 8 with
    | .ok s1 w =>
      match s1.loadWords (va + 8) n with
      | .ok s2 ws => .ok s2 (BitVec.ofNat 64 w :: ws)
      | r => r
    | .trap s1 t => .trap s1 t
    | .post s1 => .post s1

/-- CTXSAVE (R205): privileged; the image of the issuing thread at x[a], its pc the next instruction. -/
def execCtxsave (a : BitVec 5) (s : State) : Out :=
  privileged (.ctxsave a) s fun th =>
    let va := th.get a
    if va.toNat % 64 != 0 then trapOut s (trapAt .align va)
    else
      (s.probe va 96 false).andThen fun s1 _ =>
        (s1.storeWords va (th.image (th.pc64 + 4))).andThen fun s2 _ => update s2 s2.me

/-- Word `i` of an image. -/
def imgWord (ws : List W64) (i : Nat) : W64 := ws.getD i 0

/-- The header registers of an image. -/
def imgHeaders (ws : List W64) : Vector Header 8 :=
  Vector.ofFn fun i : Fin 8 =>
    imgWord ws (35 + 4 * i.val) ++ imgWord ws (34 + 4 * i.val) ++ imgWord ws (33 + 4 * i.val)
      ++ imgWord ws (32 + 4 * i.val)

/-- Whether an image has a non-zero reserved bit, or a misaligned pc (R205). -/
def imageBad (ws : List W64) : Bool :=
  let w (i : Nat) : Nat := (imgWord ws i).toNat
  w 0 % 4 != 0 || 2 ^ 56 ≤ w 0
  || w 64 % 4 != 0 || 2 ^ 56 ≤ w 64 || 2 ^ 16 ≤ w 65 || w 67 % 4 != 0 || 2 ^ 56 ≤ w 67
  || 16 ≤ w 68 || w 69 / 2 % 2 ^ 15 != 0 || 2 ^ 32 ≤ w 69
  || 2 ≤ w 70 || w 71 / 2 ^ 13 % 8 != 0 || 2 ^ 16 ≤ w 72 || (List.range 23).any fun i => w (73 + i) != 0

/-- The first header of an image that is neither empty nor passes checks 1-7 (R205). -/
def imageHeaderFault (hs : List Header) : Option TrapReq :=
  hs.findSome? fun h =>
    if h = 0 then none
    else
      let c := checks1to7 h
      if c != 0 then some (headerTrap c h) else none

/-- A thread with the fields of an image installed (R205). -/
def Thread.install (th : Thread) (ws : List W64) : Thread :=
  { th with
    pc := (imgWord ws 0).setWidth 56
    x := Vector.ofFn fun i : Fin 32 => if i.val = 0 then 0 else imgWord ws i.val
    h := imgHeaders ws
    trapPc := imgWord ws 64
    trapCause := imgWord ws 65
    trapInfo := imgWord ws 66
    trapBase := imgWord ws 67
    fstat := (imgWord ws 68).setWidth 4
    profile := profileWrite th.profile (imgWord ws 69)
    inTrap := (imgWord ws 70).getLsbD 0
    note := (imgWord ws 71).setWidth 16
    tickets := (imgWord ws 71).extractLsb' 16 48
    cdepth := (imgWord ws 72).setWidth 16 }

/-- CTXLD (R205): privileged; the image at x[a] is read and checked, then installed, and execution
continues at its pc. -/
def execCtxld (a : BitVec 5) (s : State) : Out :=
  privileged (.ctxld a) s fun th =>
    let va := th.get a
    if va.toNat % 64 != 0 then trapOut s (trapAt .align va)
    else
      (s.probe va 96 true).andThen fun s1 _ =>
        (s1.loadWords va 96).andThen fun s2 ws =>
          if imageBad ws then illegal s2 (.ctxld a)
          else
            match imageHeaderFault (imgHeaders ws).toList with
            | some t => trapOut s2 t
            | none => .next (s2.setMe (s2.me.install ws))

end Sys2Proof.Machine
end

