-- ==== Sys2Proof/Machine/Layout.lean ====
section
/-! DEFINITION. Layout records (01 R33-R40) and the layout-record instructions (07 R190). -/

namespace Sys2Proof.Machine

/-- A field of a layout record (01 R33). -/
def lrF (r : BitVec 512) (lo len : Nat) : Nat := fieldN 512 r lo len

/-- BASE. -/
def lrBase (r : BitVec 512) : Nat := lrF r 0 56
/-- PIN. -/
def lrPin (r : BitVec 512) : Bool := r.getLsbD 56
/-- WSET. -/
def lrWset (r : BitVec 512) : Bool := r.getLsbD 57
/-- TIER. -/
def lrTier (r : BitVec 512) : Nat := lrF r 58 2
/-- NDIM. -/
def lrNdim (r : BitVec 512) : Nat := lrF r 60 3
/-- TEMPLATE. -/
def lrTemplate (r : BitVec 512) : Nat := lrF r 64 40
/-- KEY. -/
def lrKey (r : BitVec 512) : Nat := lrF r 104 16
/-- TBYTES. -/
def lrTbytes (r : BitVec 512) : Nat := lrF r 128 24
/-- COUNT_M1 of a dimension. -/
def lrCountM1 (r : BitVec 512) (k : Nat) : Nat := lrF r (192 + 64 * k) 24
/-- STRIDE of a dimension, signed. -/
def lrStride (r : BitVec 512) (k : Nat) : Int := signedN 40 (lrF r (192 + 64 * k + 24) 40)

/-- The dimensions in use. -/
def lrDims (r : BitVec 512) : List Nat := List.range (min (lrNdim r) 5)

/-- The distance from BASE of the highest (or lowest) tile start (R34). -/
def lrReach (r : BitVec 512) (hi : Bool) : Int :=
  (lrDims r).foldl (fun acc k =>
    let d := lrStride r k * (lrCountM1 r k : Int)
    acc + (if hi then max d 0 else min d 0)) 0

/-- The first byte of the extent (R34). -/
def lrLow (r : BitVec 512) : Int := (lrBase r : Int) + lrReach r false
/-- The end of the extent: the byte after its last (R34). -/
def lrEnd (r : BitVec 512) : Int := (lrBase r : Int) + lrReach r true + (lrTbytes r : Int)

/-- The start of tile (i0, …, i4) (R34). -/
def lrTile (r : BitVec 512) (idx : List Nat) : Int :=
  ((List.range idx.length).zip idx).foldl (fun acc (k, i) => acc + (i : Int) * lrStride r k) (lrBase r : Int)

/-- The bases of the pages that hold [va, end): pages are stepped by the size their leaf has, 64 KiB where
none is mapped. Answers none if a page has no valid leaf, or one with R = 0 (R36 cause 9). -/
def pagesOf (ms : MemSys) (asid : Nat) (fuel va stop : Nat) : Option (List Walked) :=
  match fuel with
  | 0 => some []
  | fuel + 1 =>
    if stop ≤ va then some []
    else
      match ms.walk asid va with
      | .ok w =>
        if pteR w.leaf then
          (pagesOf ms asid fuel ((va / 2 ^ w.size + 1) * 2 ^ w.size) stop).map fun ws => w :: ws
        else none
      | .error _ => none

/-- The leaves of a record's extent. -/
def extentLeaves (ms : MemSys) (asid : Nat) (r : BitVec 512) : Option (List Walked) :=
  let lo := (lrLow r).toNat
  let hi := (lrEnd r).toNat
  pagesOf ms asid ((hi - lo) / 65536 + 2) lo hi

/-- The cause of R36 for which LRREG refuses a record, 0 for none; `free` is a free handle. -/
def lrCause (s : State) (asid : Nat) (r : BitVec 512) (free : Option Nat) : Nat :=
  let c := s.ctx asid
  let nd := lrNdim r
  let tmpl := lrTemplate r
  let dimsUsed := (List.range 5).filter (· < nd)
  let reserved := r.getLsbD 63 || lrF r 120 8 != 0 || lrF r 152 40 != 0
    || ((List.range 5).any fun k => nd ≤ k && lrF r (192 + 64 * k) 64 != 0)
    || (templateAny tmpl && tmpl / 64 != 0)
  let x := templateHdr tmpl
  if !c.priv && (lrPin r || lrKey r != 0) then 1
  else if reserved then 2
  else if nd = 0 || 5 < nd then 3
  else if lrBase r % 32 != 0 || lrTbytes r % 32 != 0 || lrTbytes r = 0
      || (dimsUsed.any fun k => lrStride r k % 32 != 0) then 4
  else if !templateAny tmpl && templateBad tmpl then 5
  else if !templateAny tmpl && (match x.format with
      | some f => decide (lrTbytes r < x.memSize (x.geom f))
      | none => true) then 6
  else if lrLow r < 0 || (deviceBase : Int) < lrEnd r then 7
  else if lrKey r != 0 && (c.keySlot (lrKey r)).isNone then 8
  else if lrPin r && (extentLeaves s.ms asid r).isNone then 9
  else if free.isNone then 10
  else 0

/-- The PIN bit of leaves set or cleared in memory (R38). -/
def MemSys.pinLeaves (ms : MemSys) (on : Bool) (entries : List Nat) : MemSys :=
  entries.foldl (fun m e =>
    let old := m.readPa e 8
    let new := if on then old ||| 64 else if ptePin old then old - 64 else old
    m.writePa e (bytesLE 8 new)) ms

/-- The lowest free handle of a context: empty, or freed with no command left that captured it (R37; the
lowest is log 8). `busy` says whether a command still holds a handle. -/
def Ctx.freeHandle (c : Ctx) (busy : Nat → Bool) : Option Nat :=
  ((List.range 4095).map (· + 1)).find? fun h =>
    match tget none c.layouts h with
    | none => true
    | some l => l.freed && !busy h

/-- The registered record of a handle (R36): none for 0, above 4,095, empty or freed entries. -/
def Ctx.layout (c : Ctx) (h : Nat) : Option Layout :=
  if h = 0 || 4095 < h then none
  else
    match tget none c.layouts h with
    | some l => if l.freed then none else some l
    | none => none

/-- The leaf entries whose PIN registered records hold, but for one record (R38). -/
def State.pinned (s : State) (but : Option (Nat × Nat)) : List Nat :=
  s.ctxs.flatMap fun (a, c) => c.layouts.flatMap fun (h, o) =>
    match o with
    | some o => if but == some (a, h) || o.freed then [] else o.pins
    | none => []

/-- Registration of a record in a context (R36, R38): the handle, or the cause. A PIN that software had set is not one
that the record sets. -/
def State.register (s : State) (asid : Nat) (r : BitVec 512) (busy : Nat → Bool) : State × (Nat ⊕ Nat) :=
  let free := (s.ctx asid).freeHandle busy
  let cause := lrCause s asid r free
  if cause != 0 then (s, .inr cause)
  else
    match free with
    | none => (s, .inr 10)
    | some h =>
      let leaves := if lrPin r then ((extentLeaves s.ms asid r).getD []).map (·.entry) else []
      let own := leaves.filter fun e => !ptePin (s.ms.readPa e 8) || (s.pinned none).contains e
      let s1 := { s with ms := s.ms.pinLeaves true leaves }
      (s1.modCtx asid fun c =>
        { c with layouts := tset none c.layouts h (some { rcd := r, key := lrKey r, pins := own }) }, .inl h)

/-- The end of a handle's use (R37, R38): its pins go, unless another registered record pins the page. -/
def State.unregister (s : State) (asid h : Nat) : State :=
  match (s.ctx asid).layout h with
  | none => s
  | some l =>
    let others := s.pinned (some (asid, h))
    let s1 := { s with ms := s.ms.pinLeaves false (l.pins.filter fun p => !others.contains p) }
    s1.modCtx asid fun c => { c with layouts := tset none c.layouts h (some { l with freed := true, pins := [] }) }

end Sys2Proof.Machine
end

