-- ==== Sys2Proof/Machine/Cmds.lean ====
section
/-! DEFINITION. Stream commands as they are issued, captured and counted (07 R191, R192, 11 R299-R303), and
what GSTOP does to a launch (07 R194). -/

namespace Sys2Proof.Machine

/-! ### Commands of a launch -/

/-- The commands that a port holds. -/
def PortSt.cmds (p : PortSt) : List Cmd :=
  p.q ++ (p.cur.toList.map fun c => c.cmd) ++ (p.trail.map fun c => c.cmd)
  ++ (p.spad.toList.map fun b => b.cmd) ++ (p.peer.toList.map fun b => b.cmd)

/-- The commands that a fabric holds. -/
def Fabric.cmds (f : Fabric) : List Cmd :=
  f.pending ++ (f.ports.flatMap fun e => e.2.cmds) ++ (f.links.filterMap fun e => e.2.ovf.map fun o => o.cmd)

/-- The jobs that the queues hold. -/
def State.jobIds (s : State) : List JobId :=
  s.dp.queues.flatMap fun (q, x) => x.jobs.map fun j => { queue := q, seq := j.seq }

/-- The fabrics that jobs hold saved. -/
def State.savedFabs (s : State) : List Fabric :=
  s.dp.queues.flatMap fun e => e.2.jobs.filterMap fun j => j.saved.map fun v => v.fab

/-- Whether a command or a running launch of a context holds a layout handle (01 R37, 07 R195). -/
def State.handleBusy (s : State) (asid h : Nat) : Bool :=
  (s.fab :: s.savedFabs).any fun f =>
    (f.cmds.any fun c => c.asid == asid && c.uses.contains h)
    || f.launches.any fun e => match e.2 with
        | some l => !l.ended && (s.queue l.job.queue).asid == asid && l.layouts.contains h
        | none => false

/-- A command has completed: it is no longer outstanding; with the last, notify bit 12; a progress mark
(07 R186, R191, 14 R393). -/
def State.finish (s : State) (c : Cmd) : State :=
  let old := tget [] s.fab.outstanding c.thread
  let rest := old.filter fun t => t != c.ticket
  let s1 := s.modFab fun f => { f with outstanding := tset [] f.outstanding c.thread rest }
  let s2 := if rest.isEmpty && !old.isEmpty then s1.notify c.thread 12 else s1
  match (s.thread c.thread).job with
  | some j => s2.modJob j fun x => { x with progressFs := s.clk.fs, quietFc := s.clk.fc }
  | none => s2

/-- Several commands have completed. -/
def State.finishAll (s : State) (cs : List Cmd) : State := cs.foldl (fun a c => a.finish c) s

/-- The launch that a thread's launch slot shows, while it has not ended. -/
def State.live (s : State) (id : LaunchId) : Option (Nat × Nat × Launch) :=
  match s.shown id with
  | none => none
  | some (lk, n) =>
    match s.launch lk with
    | some l => if l.ended then none else some (lk, n, l)
    | none => none

/-- A launch slot of a thread. -/
def slotOf (k ls : Nat) : LaunchId := { ring := Fin.ofNat 16 (k / 4), slot := Fin.ofNat 4 k, ls := Fin.ofNat 4 ls }

/-- The last marker that a port has passed: its own, or that of its element. -/
def State.markAt (s : State) (lk : Nat) (l : Launch) (key : Nat) : Nat :=
  let x := key % 2 ^ 20
  let e := if x < 0x40000 then
      match s.holder lk l (x / 2) (if x % 2 = 0 then 0 else 15) with
      | some k => ((s.elem k).getD {}).mark
      | none => 0
    else 0
  max (s.port key).mark e

/-- A command joins the queue of its port, or waits for a launch (07 R192, 11 R303). A launch with snapshots
keeps it for a replay (14 R390). -/
def State.enqueue (s : State) (c : Cmd) : State :=
  match s.live (slotOf c.thread c.ls) with
  | none => s.modFab fun f => { f with pending := f.pending ++ [c] }
  | some (lk, n, l) =>
    let key := s.portKey lk l n c.port
    let s1 := if l.snapOn then s.setLaunch lk (some { l with hist := l.hist ++ [(key, s.markAt lk l key, c)] }) else s
    s1.modPort key fun p => { p with q := p.q ++ [c] }

/-- The records that a command captures at issue (01 R37, R40). -/
def State.capture (s : State) (asid h : Nat) : Option (BitVec 512 × Nat) :=
  ((s.ctx asid).layout h).map fun l => (l.rcd, l.key)

/-- A command issued by the thread that issues (07 R191, R192): its ticket, and the machine with it. -/
def State.issueCmd (s : State) (ls : Nat) (bits : BitVec 128) : State × W64 :=
  let th := s.me
  let ticket := th.tickets + 1
  let asid := s.asid
  let c0 : Cmd := { ticket := ticket.toNat, bits := bits, thread := s.cur, n := th.n, ls := ls, asid := asid }
  let lh := s.capture asid c0.handle
  let dlh := if c0.scop = 5 && c0.dir2 = 0 then s.capture asid c0.w3 else none
  let uses := (if lh.isSome then [c0.handle] else []) ++ (if dlh.isSome then [c0.w3] else [])
  let s1 := (s.setMe { th with tickets := ticket }).modFab fun f =>
    { f with outstanding := tmod [] f.outstanding s.cur (· ++ [ticket.toNat]) }
  (s1.enqueue { c0 with lh := lh, dlh := dlh, uses := uses }, ticket.setWidth 64)

/-- The commands that wait for a launch slot of a thread join it (07 R192). -/
def State.bindPending (s : State) : State :=
  let ps := s.fab.pending
  ps.foldl (fun (a : State) c => a.enqueue c) (s.modFab fun f => { f with pending := [] })

/-! ### GSTOP (07 R194) -/

/-- The tokens of a tile of which some have gone out. -/
def tileRest (ts : List (Nat × Tok)) : List (Nat × Tok) :=
  match ts with
  | [] => []
  | (_, .hdr _) :: _ => []
  | (_, .data _) :: _ => ts.take (ts.findIdx (fun x => x.2.tag == some .eot) + 1)
  | (_, .ctl t _) :: _ => if t == .eot || t == .seg then ts.take (ts.findIdx (fun x => x.2.tag == some .eot) + 1) else []

/-- A port after GSTOP: its commands dropped; a source keeps the tile in progress and the tokens that no
command sent; a peer source goes on to the end of its tile; a store port's tile goes. A scratchpad region goes on passing tokens. -/
def PortSt.halted (p : PortSt) : PortSt :=
  let rest := tileRest p.reply
  let keep := p.peer.filter fun b => !b.dir && b.mid
  { p with q := [], cur := none, trail := [], peer := keep, tile := none, full := none, index := none,
           late := none, div := []
           reply := if keep.isSome then p.reply
             else rest ++ ((p.reply.drop rest.length).filter fun x => x.1 == noTicket) }

/-- GSTOP of a launch: its commands complete with their remaining transfers dropped, and its sources stop. -/
def State.gstop (s : State) (lk : Nat) : State :=
  let mine := s.fab.ports.filter fun e => e.1 / 2 ^ 20 == lk
  let ovfs := s.fab.links.filter fun e => e.1 / 64 / 65536 == lk && e.2.ovf.isSome
  let cs := (mine.flatMap fun e => e.2.cmds) ++ (ovfs.filterMap fun e => e.2.ovf.map fun o => o.cmd)
  let s1 := mine.foldl (fun (a : State) e => a.modPort e.1 PortSt.halted) s
  ((s1.finishAll cs).modLaunch lk fun l => { l with stopped := true }).settle lk

end Sys2Proof.Machine
end

