-- ==== Sys2Proof/Machine/Rings.lean ====
section
/-! DEFINITION. The management rings (12 R341): producing and consuming entries, with the messages that a ring
which becomes non-empty sends. -/

namespace Sys2Proof.Machine

/-- EN of a ring. -/
def MRing.en (r : MRing) : Bool := r.base.getLsbD 4
/-- The entries of a ring. -/
def MRing.count (r : MRing) : Nat := 2 ^ (fieldN 64 r.base 0 4 + 6)
/-- The physical address of a ring. -/
def MRing.addr (r : MRing) : Nat := fieldN 64 r.base 12 40 * 4096
/-- The entries held: TAIL − HEAD modulo 2^32. -/
def MRing.held (r : MRing) : Nat := (r.tail.toNat + 2 ^ 32 - r.head.toNat) % 2 ^ 32
/-- Whether a producer may add an entry. -/
def MRing.hasRoom (r : MRing) : Bool := r.en && r.held < r.count
/-- The physical address of entry `i` of `n` bytes. -/
def MRing.slot (r : MRing) (i n : Nat) : Nat := r.addr + i % r.count * n

/-- An index counted on, modulo 2^32. -/
def bump (i : W64) : W64 := BitVec.ofNat 64 ((i.toNat + 1) % 2 ^ 32)

/-- Entries that wait for room written while there is some; answers those left. -/
def ringDrain (ms : MemSys) (r : MRing) (items : List (List Byte)) : MemSys × MRing × List (List Byte) :=
  match items with
  | [] => (ms, r, [])
  | x :: rest =>
    if r.hasRoom then ringDrain (ms.writePa (r.slot r.tail.toNat x.length) x) { r with tail := bump r.tail } rest
    else (ms, r, items)

/-- Entries produced on a ring, with its message if it was empty and is not (R341). -/
def MemSys.drainTo (ms : MemSys) (r : MRing) (items : List (List Byte)) (m : Msix) : MemSys × MRing × List (List Byte) :=
  let (ms1, r1, rest) := ringDrain ms r items
  let msix := if r.held = 0 && r1.held != 0 then ms.msix ++ [m] else ms.msix
  ({ ms1 with msix := msix }, r1, rest)

/-- Watch records that wait written while the watch log has room (R341, R362). -/
def MemSys.flushWlog (ms : MemSys) : MemSys :=
  let (m, r, rest) := ms.drainTo ms.wlog (ms.wlogPend.map fun x => bytesLE 32 x.toNat) .wlog
  { m with wlog := r, wlogPend := ms.wlogPend.drop (ms.wlogPend.length - rest.length) }

/-- A watch record posted. -/
def MemSys.postWatch (ms : MemSys) (x : BitVec 256) : MemSys := { ms with wlogPend := ms.wlogPend ++ [x] }.flushWlog

/-- Traverse events of a die that wait written while TRVEV has room. -/
def MemSys.flushEvents (ms : MemSys) (d : Nat) : MemSys :=
  let x := ms.die d
  let (m, r, rest) := ms.drainTo x.trvev (x.evPend.map fun e => bytesLE 32 e.toNat) (.trvev d)
  m.modDie d fun y => { y with trvev := r, evPend := x.evPend.drop (x.evPend.length - rest.length) }

/-- Released frames of a die that wait written while REL has room. -/
def MemSys.flushReleases (ms : MemSys) (d : Nat) : MemSys :=
  let x := ms.die d
  let (m, r, rest) := ms.drainTo x.rel (x.relPend.map fun f => bytesLE 8 f) (.rel d)
  m.modDie d fun y => { y with rel := r, relPend := x.relPend.drop (x.relPend.length - rest.length) }

/-- The KIND of a fault entry, from every access that waits on it (R342). -/
def OpenFault.kind (o : OpenFault) : Nat :=
  if o.kinds.contains .atomic then 3 else if o.kinds.contains .write then 1
  else if o.kinds.contains .fetch then 2 else 0

/-- REASON of R343. -/
def XReason.code : XReason → Nat
  | .notValid => 0
  | .badEntry => 1
  | .badFrame => 2

/-- A fault entry as written to the ring (R343). -/
def OpenFault.bits (o : OpenFault) : BitVec 256 :=
  BitVec.ofNat 256 (o.fid % 2 ^ 16 + o.asid % 2 ^ 16 * 2 ^ 16 + o.kind * 2 ^ 32 + o.reason.code * 2 ^ 36
    + o.agentCode * 2 ^ 40 + o.va.toNat * 2 ^ 64 + o.ring % 16 * 2 ^ 128 + o.slot % 4 * 2 ^ 132
    + o.col % 16 * 2 ^ 134 + o.forme % 2 ^ 16 * 2 ^ 138 + o.link % 16 * 2 ^ 154)

end Sys2Proof.Machine
end

