-- ==== Sys2Proof/Machine/Access.lean ====
section
/-! DEFINITION. The accesses of AG and ring ports (11 R306, R325-R328, 12 R345, R362): the place of a port,
reading and writing through a captured record with its key, the write-hold of 14 R387, tiles between memory
and link form (01 R25, R28, R31), and what a port does with a fault. -/

namespace Sys2Proof.Machine

/-! ### The place of a port (11 R296, 05 R127) -/

/-- A port about to act: its launch, the thread index it is named by, its number and key; for an AG port its
forme and column; its ring, slot and logical stripe. -/
structure PRef where
  lk : Nat
  l : Launch
  n : Nat
  q : Nat
  key : Nat
  k : Nat
  c : Nat
  g : Nat
  b : Nat
  i : Nat

/-- Whether a port is an AG port. -/
def PRef.ag (r : PRef) : Bool := r.q < 48

/-- The ring and slot of thread index `n` of a launch's job. -/
def State.segPlace (s : State) (l : Launch) (n : Nat) : Nat × Nat :=
  match (s.job l.job).bind fun j => j.segs[n]? with
  | some g => (g.ring, g.slot)
  | none => (0, 0)

/-- The place of port `q` of thread index `n` of a launch. -/
def State.placePort (s : State) (lk : Nat) (l : Launch) (n q : Nat) : PRef :=
  let k := s.portBase l n + q / 2
  let c := if q % 2 = 0 then 0 else 15
  if q < 48 then
    let j := match s.holder lk l k c with
      | some key => key / 16 % 512
      | none => (l.stripeFor k).getD 0
    let (g, i) := l.place j
    { lk := lk, l := l, n := n, q := q, key := s.portKey lk l n q, k := k, c := c, g := g, b := s.bankOf lk l j, i := i }
  else
    let (g, b) := s.segPlace l n
    { lk := lk, l := l, n := n, q := q, key := s.portKey lk l n q, k := 0, c := 0, g := g, b := b, i := 0 }

/-- The port that a launch slot's port number names, while a launch is there. -/
def State.pref (s : State) (p : PortId) : Option PRef :=
  match s.live p.launch with
  | some (lk, n, l) => some (s.placePort lk l n p.port)
  | none => none

/-- The AG port of an element's site. -/
def State.siteRef (s : State) (x : Site) : PRef :=
  let (g, i) := x.l.place x.j
  { lk := x.lk, l := x.l, n := 0, q := (if x.c = 0 then 0 else 1), key := x.port, k := x.k, c := x.c,
    g := g, b := s.bankOf x.lk x.l x.j, i := i }

/-- The port that a key names, at the place where it is now. -/
def State.keyRef (s : State) (key : Nat) : Option PRef :=
  let lk := key / 2 ^ 20
  let x := key % 2 ^ 20
  match s.launch lk with
  | none => none
  | some l =>
    if x < 0x40000 then
      let k := x / 2
      let c := if x % 2 = 0 then 0 else 15
      let j := match s.holder lk l k c with
        | some e => e / 16 % 512
        | none => (l.stripeFor k).getD 0
      let (g, i) := l.place j
      some { lk := lk, l := l, n := 0, q := x % 2, key := key, k := k, c := c, g := g, b := s.bankOf lk l j, i := i }
    else
      let none' := 0xC0000 ≤ x
      let n := if none' then x % 0x20000 else (x % 0x40000) / 16
      let (g, b) := s.segPlace l n
      some { lk := lk, l := l, n := n, q := if none' then 255 else 48 + x % 16, key := key, k := 0, c := 0, g := g, b := b, i := 0 }

/-- The translation cache of a port. -/
def PRef.tlb (r : PRef) : TlbPlace := .port (r.g * 2 ^ 40 + r.key)
/-- The configuration of an AG port's element. -/
def PRef.cfg (r : PRef) : Option Cfg := if r.ag then r.l.cfg r.k r.c else none

/-! ### The write-hold (14 R387) -/

/-- Bytes with those that a held write covers replaced. -/
def Held.over (h : Held) (pa : Nat) (bs : List Byte) : List Byte :=
  ((List.range bs.length).zip bs).map fun (i, b) =>
    if h.pa ≤ pa + i && pa + i < h.pa + h.bytes.length then h.bytes.getD (pa + i - h.pa) b else b

/-- Bytes of memory as a launch's ports see them. -/
def State.seen (s : State) (lk : Nat) (pa n : Nat) : List Byte :=
  let bs := readMem s.ms.mem pa n
  match s.launch lk with
  | some l => l.held.foldl (fun a h => ({ h with pa := s.ms.nowPa h.pa } : Held).over pa a) bs
  | none => bs

/-- The last marker that a port has passed, by which its writes belong to intervals: that of its element, or its
own; of a port without a stream the last requested. -/
def State.portIv (s : State) (r : PRef) (l : Launch) : Nat :=
  if r.ag then
    match s.holder r.lk l r.k r.c with
    | some key => ((s.elem key).getD {}).mark
    | none => l.cut
  else if r.q < 64 then (s.port r.key).mark
  else l.mark

/-- Bytes that a port of a launch writes in memory, charged to its job's budget class (04 R115). -/
def State.performPort (s : State) (r : PRef) (pa : Nat) (bs : List Byte) : State :=
  ({ s with ms := s.ms.writeData pa bs } : State).charge (s.ms.memCharges (r.g / 4) pa bs.length (s.classOf r.l.job))

/-- Bytes written by a port of a launch, at an address of a context that has been translated: held, or performed. -/
def State.put (s : State) (r : PRef) (asid va pa : Nat) (bs : List Byte) : State :=
  match s.launch r.lk with
  | some l =>
    if l.holding then
      let (th, tk) := match (s.port r.key).cur with
        | some c => (c.cmd.thread, c.cmd.ticket)
        | none => (0, 0)
      let h : Held :=
        { ring := r.g, pa := pa, asid := asid, va := va, size := s.ms.pageSize asid va, fs := s.clk.fs, bytes := bs,
          iv := s.portIv r l, thread := th, ticket := tk }
      s.setLaunch r.lk (some { l with held := l.held ++ [h] })
    else s.performPort r pa bs
  | none => s.performPort r pa bs

/-- Whether the write-hold of some ring has reached its limit of 8,192 granules for the job (14 R389). -/
def State.holdFull (s : State) (l : Launch) : Bool :=
  let ls : List Launch := s.fab.launches.filterMap fun e => e.2.filter fun x => x.job == l.job
  (List.range 16).any fun g =>
    let n := ls.foldl (fun a x => a
      + ((x.held.filter fun h => h.ring == g).map fun h => (h.bytes.length + 31) / 32).foldl (· + ·) 0
      + ((x.undo.filter fun u => u.key / 524288 / 24 == g && u.key % 32 == 0).length)) 0
    8192 ≤ n

/-- Scratchpad bytes written by a port of a launch, with what they replace recorded (R387). -/
def State.spPut (s : State) (r : PRef) (off : Nat) (bs : List Byte) : State :=
  let s1 := match s.launch r.lk with
    | some l =>
      if l.holding then
        let keys := ((List.range bs.length).map fun i => s.spKey r.g r.b r.i (off + i)).filter fun k =>
          !(l.undo.any fun u => u.key == k && u.iv == s.portIv r l)
        s.setLaunch r.lk (some { l with undo := l.undo ++ keys.map fun k =>
          ({ key := k, old := tget none s.scratch k, iv := s.portIv r l } : Undo) })
      else s
    | none => s
  s1.spWrite r.g r.b r.i off bs

/-! ### Accesses through a record (R325, 12 R345, R362) -/

/-- The watch record of a port's access (12 R363). -/
def State.watchRec (s : State) (r : PRef) (asid wp va : Nat) (write : Bool) : BitVec 256 :=
  BitVec.ofNat 256 (wp + (if write then 8 else 0) + (if r.ag then 1 else 2) * 2 ^ 4 + asid % 65536 * 2 ^ 8
    + r.g * 2 ^ 24 + r.b * 2 ^ 28 + r.c * 2 ^ 30 + r.k % 65536 * 2 ^ 34 + va * 2 ^ 64 + s.time % 2 ^ 64 * 2 ^ 128)

/-- The record that a port's access posts when it matches a watchpoint of the job: the lowest, at the first
matching byte. -/
def State.watchPort (s : State) (r : PRef) (asid va n : Nat) (rd wr : Bool) : State :=
  match s.job r.l.job with
  | none => s
  | some j =>
    match watchHit j.watch va n rd wr with
    | none => s
    | some w =>
      let first := match j.watch.getD w none with
        | some x => max va x.addr
        | none => va
      { s with ms := s.ms.postWatch (s.watchRec r asid w first wr) }

/-- A record as a command captured it, in the context of the command: ASID, record, key handle. -/
structure RecRef where
  asid : Nat
  rcd : BitVec 512
  key : Nat
  deriving DecidableEq, Repr

/-- What an access at a port met. -/
inductive PErr where
  /-- Translation, permission, an uncorrectable error or the key, at an address, for a kind of access. -/
  | acc (e : AErr) (va : Nat) (k : AccessKind)
  /-- A header check, at a load (0) or a store (1), with the header. -/
  | check (n : Nat) (site : Nat) (h : Header)
  /-- A command's index beyond its grid or a slot beyond its region: the cause of R304. -/
  | cause (n : Nat)

/-- Bytes that a port reads through a record. The range is read in whole granules. -/
def State.portRead (s : State) (r : PRef) (x : RecRef) (va n : Nat) (rdwr : Bool) : State × Except PErr (List Byte) :=
  if n = 0 then (s, .ok [])
  else
    match s.cryptOf x.asid x.key with
    | none => (s, .error (.acc .key va .read))
    | some ks =>
      let len := roundUp n 32
      let cls := s.classOf r.l.job
      let walks := s.ms.rangeWalks r.tlb (r.g / 4) x.asid va len .read cls (len / 65536 + 2)
      match s.ms.vparts r.tlb (r.g / 4) x.asid va len .read (len / 65536 + 2) with
      | (ms, .error (e, a)) => (({ s with ms := ms } : State).charge walks, .error (.acc e a .read))
      | (ms, .ok ps) =>
        let s1 := ({ s with ms := ms } : State).charge (walks ++ ms.partCharges (r.g / 4) cls ps)
        if ps.any fun (pa, m) => ms.rangeBad pa m then (s1, .error (.acc .ue va .read))
        else
          let bs := ps.flatMap fun (pa, m) => s1.seen r.lk pa m
          (if rdwr then s1 else s1.watchPort r x.asid va n true false,
           .ok ((crypt false ks (lrBase x.rcd) va bs).take n))

/-- Whole granules that a port writes through a record. -/
def State.portWrite (s : State) (r : PRef) (x : RecRef) (va : Nat) (bs : List Byte) (rdwr : Bool) : State × Option PErr :=
  if bs.isEmpty then (s, none)
  else
    match s.cryptOf x.asid x.key with
    | none => (s, some (.acc .key va .write))
    | some ks =>
      let walks := s.ms.rangeWalks r.tlb (r.g / 4) x.asid va bs.length .write (s.classOf r.l.job) (bs.length / 65536 + 2)
      match s.ms.vparts r.tlb (r.g / 4) x.asid va bs.length .write (bs.length / 65536 + 2) with
      | (ms, .error (e, a)) => (({ s with ms := ms } : State).charge walks, some (.acc e a .write))
      | (ms, .ok ps) =>
        let enc := crypt true ks (lrBase x.rcd) va bs
        let (s1, _, _) := ps.foldl (fun (a : State × Nat × List Byte) (pa, m) =>
          (a.1.put r x.asid a.2.1 pa (a.2.2.take m), a.2.1 + m, a.2.2.drop m)) (({ s with ms := ms } : State).charge walks, va, enc)
        (s1.watchPort r x.asid va bs.length rdwr true, none)

/-! ### Tiles between memory and link form (01 R25, R28, R31) -/

/-- A tile with its regions as read: header, data at its line stride, scales, indices. -/
structure MTile where
  x : Hdr
  f : Fmt
  data : Nat
  scales : Nat
  index : Nat
  deriving DecidableEq, Repr

/-- The lines of a data region, packed. -/
def packLines (g : Geom) (rstride data : Nat) : Nat :=
  packBits (8 * g.lineBytes) ((List.range g.planes).flatMap fun j => (List.range g.lines).map fun m =>
    imgBits data (8 * ((j * g.lines + m) * rstride)) (8 * g.lineBytes))

/-- The tile of a link-form header and image. -/
def linkTile (h : Header) (img : Nat) : MTile :=
  let x := Hdr.ofBits h
  let f := (x.format).getD .fp32
  let g := x.linkGeom f
  { x := x, f := f, data := imgBits img 0 (8 * g.dataBytes x.rstride),
    scales := if g.scaleBytes = 0 then 0 else imgBits img (8 * x.soff) (8 * g.scaleBytes),
    index := if g.indexBytes = 0 then 0 else imgBits img (8 * x.xoff) (8 * g.indexBytes) }

/-- A tile in link form: header and image (R28); a governing cut keeps its planes (11 R307). -/
def MTile.toLink (t : MTile) (seq : Nat) : Header × Nat :=
  let x := { t.x with seq := seq }
  let g := x.linkGeom t.f
  let y := x.linkForm g
  (y.toBits, packLines g t.x.rstride t.data + (if g.scaleBytes = 0 then 0 else t.scales * 2 ^ (8 * y.soff))
    + (if g.indexBytes = 0 then 0 else t.index * 2 ^ (8 * y.xoff)))

/-- A tile in canonical memory form (R25): its bytes. -/
def MTile.toMem (t : MTile) : List Byte :=
  let g := t.x.geom t.f
  let y := t.x.memForm g
  let img := packLines g t.x.rstride t.data * 2 ^ 256 + (if g.scaleBytes = 0 then 0 else t.scales * 2 ^ (8 * y.soff))
    + (if g.indexBytes = 0 then 0 else t.index * 2 ^ (8 * y.xoff))
  bytesLE (t.x.memSize g) (y.toBits.toNat + img)

/-- Whether a header disagrees with a concrete template (check 14). -/
def tmplBad (tmpl : Nat) (h : Header) : Bool := !templateAny tmpl && hf h 12 40 != tmpl

/-- A tile read by a reader of ranges, from an offset: header checks 1-11 with the extent, the template, a
cut that a command gives in place of the header's, and the regions, with the planes that the cut leaves or
`whole` (R31, R35, 11 R307). -/
def readTile (rd : State → Nat → Nat → State × Except PErr (List Byte)) (s : State) (extent tmpl cut : Nat)
    (whole : Bool) : State × Except PErr MTile :=
  match rd s 0 32 with
  | (s1, .error e) => (s1, .error e)
  | (s1, .ok hb) =>
    let h : Header := BitVec.ofNat 256 (ofBytesLE hb)
    let c := checks1to11 h true (some extent)
    let x0 := Hdr.ofBits h
    if c != 0 then (s1, .error (.check c 0 h))
    else if tmplBad tmpl h then (s1, .error (.check 14 0 h))
    else
      let f := (x0.format).getD .fp32
      if isPsd f && x0.planesM1 + 1 < cut then (s1, .error (.check 6 0 h))
      else
        let x := if isPsd f && cut != 0 then { x0 with cut := cut } else x0
        let g := if whole then x.geom f else x.linkGeom f
        match rd s1 x.doff (g.dataBytes x.rstride) with
        | (s2, .error e) => (s2, .error e)
        | (s2, .ok d) =>
          match rd s2 x.soff g.scaleBytes with
          | (s3, .error e) => (s3, .error e)
          | (s3, .ok sc) =>
            match rd s3 x.xoff g.indexBytes with
            | (s4, .error e) => (s4, .error e)
            | (s4, .ok ix) =>
              (s4, .ok { x := x, f := f, data := ofBytesLE d, scales := ofBytesLE sc, index := ofBytesLE ix })

/-- The tile of a record at an address, read by a port. -/
def State.tileAt (s : State) (r : PRef) (x : RecRef) (va cut : Nat) (whole : Bool) :
    State × Except PErr MTile :=
  readTile (fun s off n => s.portRead r x (va + off) n false) s (lrTbytes x.rcd) (lrTemplate x.rcd) cut whole

/-- A tile of the scratchpad of a port's stripe, at a byte offset of the slot's region. -/
def State.tileInSpad (s : State) (r : PRef) (off extent tmpl : Nat) (whole : Bool) :
    State × Except PErr MTile :=
  readTile (fun s o n => (s, .ok (s.spRead r.g r.b r.i (off + o) n))) s extent tmpl 0 whole

/-! ### What a port does with a fault (R304, R326-R328) -/

/-- The detail word of a cause of R304. -/
def causeWord (n : Nat) (c : Cmd) : W64 :=
  BitVec.ofNat 64 (n + c.scop * 2 ^ 8 + c.ticket % 2 ^ 48 * 2 ^ 16)

/-- ERR sent on each output of a port, ahead of what it still holds (R326, 14 R391). -/
def State.portErrOut (s : State) (r : PRef) (cls : FaultClass) : State :=
  if r.ag then
    let s1 := (s.sendOut r.lk r.l r.k r.c 0 [errTok cls]).sendOut r.lk r.l r.k r.c 1 [errTok cls]
    s1
  else
    match r.l.links.find? fun (k, _, w) => w.xend == 1 && 48 + w.xnum == r.q && r.l.segOfForme k == r.n with
    | some (k, i, w) => s.send r.lk k i w [errTok cls]
    | none => s

/-- An unrecoverable fault of a port: it is recorded, its command goes no further, and the port's ERR goes out
(R326). -/
def State.portFail (s : State) (r : PRef) (cls : FaultClass) (detail addr : W64) : State :=
  ((s.recordFault r.l.job
    { cls := cls, site := if r.ag then 1 else 2, ring := r.g, slot := r.b, col := r.c, forme := r.k,
      detail := detail, addr := addr }).modPort r.key fun p =>
        { p with
          cur := p.cur.map fun c => { c with freeze := some (.fault cls addr) }
          spad := p.spad.map fun b => { b with freeze := some (.fault cls addr) } }).portErrOut r cls

/-- An XLATE of a port posted to the service of its die (R326, 12 R342). -/
def State.portPost (s : State) (r : PRef) (asid va : Nat) (k : AccessKind) (x : XReason) : State :=
  let o : OpenFault :=
    { fid := 0, asid := asid, granule := va / 65536, reason := x, va := BitVec.ofNat 64 va,
      agentCode := if r.ag then 1 else 2, ring := r.g, slot := r.b, col := r.c, forme := r.k, link := 0,
      kinds := [k], waiters := [.port r.key] }
  { s with ms := (s.ms.post (r.g / 4) o).1 }

/-- An error of a port that cannot be waited for. -/
def State.portBad (s : State) (r : PRef) (c : Cmd) (key : Nat) (e : PErr) : State :=
  match e with
  | .acc .perm va _ => s.portFail r .perm 0 (BitVec.ofNat 64 va)
  | .acc .ue va _ => s.portFail r .dataUe 0 (BitVec.ofNat 64 va)
  | .acc .key va _ => s.portFail r .key (BitVec.ofNat 64 key) (BitVec.ofNat 64 va)
  | .acc (.xlate _) va _ => s.portFail r .xlate 0 (BitVec.ofNat 64 va)
  | .check n site h => s.portFail r (checkClass n) (detailWord n site h) 0
  | .cause n => s.portFail r .illegal (causeWord n c) 0

/-- An error at the element at work of a port's command: an XLATE is posted and freezes the port (R328);
anything else is unrecoverable. -/
def State.portStop (s : State) (r : PRef) (c : Cur) (key : Nat) (e : PErr) : State :=
  match e with
  | .acc (.xlate x) va k =>
    (s.portPost r c.cmd.asid va k x).modPort r.key fun p =>
      { p with cur := some { c with freeze := some (.xlate (BitVec.ofNat 64 va)) } }
  | _ => s.portBad r c.cmd key e

end Sys2Proof.Machine
end

