-- ==== Sys2Proof/Machine/Sync.lean ====
section
/-! DEFINITION. Events, barriers, exchange queues and WFE (07 R182-R186), the layout-record instructions
(R190), stream issue (R191-R193), the control of a launch (R194, R196) and LIGBIND (R206). An instruction
that waits has no effect, and is executed again (R176). -/

namespace Sys2Proof.Machine

/-! ### Events (R182, 04 R102) -/

/-- Whether an event is granted to a context: V, and ALLCTX or its ASID (17 R415). -/
def State.granted (s : State) (e asid : Nat) : Bool :=
  let g := tget 0 s.dp.evgrant e
  g.getLsbD 16 && (g.getLsbD 17 || fieldN 64 g 0 16 == asid)
/-- The counter of an event. -/
def State.event (s : State) (e : Nat) : W64 := tget 0 s.dp.events e
/-- The counter of an event set. -/
def State.setEvent (s : State) (e : Nat) (v : W64) : State :=
  { s with dp := { s.dp with events := tset 0 s.dp.events e v } }
/-- A signal: the counter counts one more (R102). -/
def State.signal (s : State) (e : Nat) : State := s.setEvent e (s.event e + 1)

/-- An event instruction: x[a] names a granted event. -/
def onEvent (i : Instr) (a : BitVec 5) (s : State) (f : Nat → Thread → Out) : Out :=
  checked i s fun th =>
    let e := (th.get a).toNat
    if 65536 ≤ e then illegal s i
    else if s.granted e s.asid then f e th
    else trapOut s { cause := .perm, info := th.get a }

/-- EVSIG (R182). -/
def execEvsig (a : BitVec 5) (s : State) : Out :=
  onEvent (.evsig a) a s fun e th => update (s.signal e) th

/-- EVWAIT (R182): waits until the counter is at least x[d]. -/
def execEvwait (d a : BitVec 5) (s : State) : Out :=
  onEvent (.evwait d a) a s fun e th =>
    if (th.get d).toNat ≤ (s.event e).toNat then update s (th.put d (s.event e)) else .next s

/-- EVPOLL (R182). -/
def execEvpoll (d a : BitVec 5) (s : State) : Out :=
  onEvent (.evpoll d a) a s fun e th => update s (th.put d (s.event e))

/-- EVSET (R182). -/
def execEvset (d a : BitVec 5) (s : State) : Out :=
  onEvent (.evset d a) a s fun e th => update (s.setEvent e (th.get d)) th

/-! ### Barriers (R183) -/

/-- NRINGS of a job record (04 R100). -/
def Job.nrings (j : Job) : Nat := fieldN 1024 j.rcd 170 5

/-- The mask of a BAR: every thread of the job, or x[a][15:0]. -/
def barMask (a : BitVec 5) (v nr : Nat) : Nat := if a = 0 then 2 ^ nr - 1 else v % 65536

/-- BAR (R183): the thread arrives at the current generation, and goes on when every participant has
arrived. An arrival at another barrier, made before a handler was entered, stays. A thread without a job is the only
thread there is. -/
def execBar (a : BitVec 5) (i : BitVec 4) (s : State) : Out :=
  checked (.bar a i) s fun th =>
    let id := i.toNat
    let v := (th.get a).toNat
    match th.job, s.myJob with
    | some jid, some j =>
      let mask := barMask a v j.nrings
      let b := tget {} j.bars id
      let put (s : State) (b : Bar) : State := s.modJob jid fun x => { x with bars := tset {} x.bars id b }
      match th.arrived.lookup id with
      | some gen =>
        if gen = b.gen then .next s else update s { th with arrived := th.arrived.filter fun x => x.1 != id }
      | none =>
        if mask / 2 ^ th.n % 2 = 0 || 2 ^ j.nrings ≤ mask || (b.arrived != 0 && b.mask != mask) then
          illegal s (.bar a i)
        else
          let arr := b.arrived ||| 2 ^ th.n
          if arr = mask then update (put s { gen := b.gen + 1 }) th
          else .next ((put s { b with mask := mask, arrived := arr }).setMe { th with arrived := (id, b.gen) :: th.arrived })
    | _, _ => if barMask a v 1 = 1 then update s th else illegal s (.bar a i)

/-! ### Exchange queues and WFE (R184-R186) -/

/-- The moves at the ends of every launch that a thread's launch slots show. -/
def State.settleThread (s : State) (k : Nat) : State :=
  (List.range 4).foldl (fun (a : State) ls =>
    match a.live (slotOf k ls) with
    | some (lk, _, _) => a.settle lk
    | none => a) s

/-- QPUSH (R185): waits until the queue has a free entry. -/
def execQpush (a : BitVec 5) (q : BitVec 3) (s : State) : Out :=
  checked (.qpush a q) s fun th =>
    let qk := xqKey s.cur q.toNat
    let es := s.queueOf qk
    if es.length < 256 then .next (((s.setMe th.adv)).setQueue qk (es ++ [th.get a])) else .next s

/-- QPOP (R185): waits until the queue holds an entry. -/
def execQpop (d : BitVec 5) (q : BitVec 3) (s : State) : Out :=
  checked (.qpop d q) s fun th =>
    let qk := xqKey s.cur q.toNat
    match s.queueOf qk with
    | [] => .next s
    | v :: rest => .next (((s.setMe (th.put d v).adv).setQueue qk rest).settleThread s.cur)

/-- QSPACE (R185): the free entries of queues 0-3, the held entries of queues 4-7. -/
def execQspace (d : BitVec 5) (q : BitVec 3) (s : State) : Out :=
  checked (.qspace d q) s fun th =>
    let n := (s.queueOf (xqKey s.cur q.toNat)).length
    update s (th.put d (BitVec.ofNat 64 (if q.toNat < 4 then 256 - n else n)))

/-- QNOTE (R185, R186): arms the queue's notify bit with min(x[a], 256). -/
def execQnote (a : BitVec 5) (q : BitVec 3) (s : State) : Out :=
  checked (.qnote a q) s fun th =>
    let t := min (th.get a).toNat 256
    .next ((s.setMe { th.adv with qarm := th.qarm.set q.toNat t }).noteQueue s.cur q.toNat)

/-- WFE (R186): waits until NOTE is not zero, takes it and clears it. -/
def execWfe (d : BitVec 5) (s : State) : Out :=
  checked (.wfe d) s fun th =>
    if th.note = 0 then .next s else update s { th.put d (th.note.setWidth 64) with note := 0 }

/-! ### Layout records (R190) -/

/-- LRREG (R190, 01 R36): reads the record with plain loads and registers it; x[d] is the handle, or the
cause · 65,536. -/
def execLrreg (d a : BitVec 5) (s : State) : Out :=
  checked (.lrreg d a) s fun th =>
    let va := th.get a
    if va.toNat % 8 != 0 then trapOut s (trapAt .align va)
    else
      (s.loadWords va 8).andThen fun s1 ws =>
        let r : BitVec 512 := BitVec.ofNat 512 (packBits 64 (ws.map BitVec.toNat))
        match s1.register s.asid r (s1.handleBusy s.asid) with
        | (s2, .inl h) => update s2 (s2.me.put d (BitVec.ofNat 64 h))
        | (s2, .inr c) => update s2 (s2.me.put d (BitVec.ofNat 64 (c * 65536)))

/-- LRFREE (R190, 01 R37). -/
def execLrfree (a : BitVec 5) (s : State) : Out :=
  checked (.lrfree a) s fun th =>
    let h := (th.get a).toNat
    match (s.ctx s.asid).layout h with
    | none => illegal s (.lrfree a)
    | some _ => update (s.unregister s.asid h) th

/-- LRKEY (R190, 01 R40): privileged; the KEY of a registered record. -/
def execLrkey (d a : BitVec 5) (s : State) : Out :=
  privileged (.lrkey d a) s fun th =>
    let h := (th.get a).toNat
    let k := (th.get d).toNat
    match (s.ctx s.asid).layout h with
    | none => illegal s (.lrkey d a)
    | some l =>
      if 65536 ≤ k then illegal s (.lrkey d a)
      else if k != 0 && ((s.ctx s.asid).keySlot k).isNone then trapOut s { cause := .key, info := th.get d }
      else update (s.modCtx s.asid fun c => { c with layouts := tset none c.layouts h (some { l with key := k }) }) th

/-! ### Stream issue (R191-R193) -/

/-- The commands of a thread that are outstanding, by ticket. -/
def State.openTickets (s : State) (k : Nat) : List Nat := tget [] s.fab.outstanding k

/-- A command issued, if its SCOP is assigned; while 64 are outstanding the thread waits. -/
def issueStream (i : Instr) (d : BitVec 5) (ls : Nat) (bits : BitVec 128) (n : Nat) (s : State) : Out :=
  if !scopKnown (fieldN 128 bits 0 8) then illegal s i
  else if 64 ≤ (s.openTickets s.cur).length then .next s
  else
    let (s1, t) := s.issueCmd ls bits
    .next (s1.setMe ((s1.me.put d t).skip n))

/-- SCX (R192): the command in x[2a] and x[2a + 1]. -/
def execScx (d : BitVec 5) (a : BitVec 4) (ls : BitVec 2) (s : State) : Out :=
  checked (.scx d a ls) s fun th =>
    let lo := th.get (a.setWidth 5 * 2)
    let hi := th.get (a.setWidth 5 * 2 + 1)
    issueStream (.scx d a ls) d ls.toNat (hi ++ lo) 4 s

/-- SCL (R192): the command in four inline words. -/
def execScl (d : BitVec 5) (ls : BitVec 2) (cmd : BitVec 128) (s : State) : Out :=
  checked (.scl d ls cmd) s fun _ => issueStream (.scl d ls cmd) d ls.toNat cmd 20 s

/-- SCWAIT (R193): waits until no command up to ticket x[a] is outstanding; 0 stands for every command. -/
def execScwait (a : BitVec 5) (s : State) : Out :=
  checked (.scwait a) s fun th =>
    let t := (th.get a).toNat
    if (s.openTickets s.cur).any fun x => t = 0 || x ≤ t then .next s else update s th

/-! ### Launch control (R194, R196) -/

/-- GWAIT (R194): waits until the launch has ended, and frees the slot of the thread that launched it. -/
def execGwait (d : BitVec 5) (ls : BitVec 2) (s : State) : Out :=
  checked (.gwait d ls) s fun th =>
    let id := slotOf s.cur ls.toNat
    match s.shown id with
    | none => update s (th.put d 2)
    | some (lk, _) =>
      match s.launch lk with
      | none => update s (th.put d 2)
      | some l =>
        if l.ended then
          let s1 := if lk = launchKey id then s.setLaunch lk none else s
          update s1 (th.put d (if l.stopped then 1 else 0))
        else .next s

/-- The status word of a launch (R196). -/
def State.launchStatus (s : State) (l : Launch) : W64 :=
  let st : Nat := if l.ended then 2 else match s.job l.job with
    | some j => if j.phase == .saving then 3 else 1
    | none => 1
  BitVec.ofNat 64 (st + (if l.stopped then 4 else 0) + l.sweeps % 65536 * 2 ^ 16 + l.gid % 65536 * 2 ^ 32)

/-- GSTAT (R194, R196). -/
def execGstat (d : BitVec 5) (ls : BitVec 2) (s : State) : Out :=
  checked (.gstat d ls) s fun th =>
    let v := match (s.shown (slotOf s.cur ls.toNat)).bind fun x => s.launch x.1 with
      | some l => s.launchStatus l
      | none => 0
    update s (th.put d v)

/-- Whether some source of a launch has still to place the marker last requested (14 R384): a source port
of an imposed pipeline, or a VCONST. -/
def State.marking (s : State) (lk : Nat) (l : Launch) : Bool :=
  l.pipes.any fun p => (List.range p.n).any fun i =>
    let k := p.forme + i
    let img := (s.galleyOf lk l).img k
    let n := l.segOfForme k
    ((fLinkWs img).any fun (_, w) => w.xend == 1 && (16 ≤ w.xnum || !l.pushed k n w.xnum)
      && (s.port (if w.xnum < 16 then ringPort lk n (48 + w.xnum) else xqPort lk n (w.xnum - 16))).mark < l.mark)
    || (List.range 16).any fun c =>
      let cfg := fCfg img c
      fConf img c &&
        ((cfg.replies && (s.port (agPort lk k c)).mark < l.mark)
        || (cfg.op == 0x43 && (match s.holder lk l k c with
          | some key => ((s.elem key).getD {}).mark
          | none => max (constMark (tget 0 s.fab.consts (recKey lk k c))) p.mark0) < l.mark))

/-- A marker is requested; a request made while a marker is being placed is served by it (14 R384). -/
def State.request (s : State) (lk : Nat) : State :=
  match s.launch lk with
  | some l =>
    if l.snapOn && !l.ended && !s.marking lk l then s.setLaunch lk (some { l with mark := l.mark + 1 }) else s
  | none => s

/-- GMARK (R194): a marker at every source of the launch. -/
def execGmark (ls : BitVec 2) (s : State) : Out :=
  checked (.gmark ls) s fun th =>
    match s.live (slotOf s.cur ls.toNat) with
    | some (lk, _, _) => .next ((s.setMe th.adv).request lk)
    | none => update s th

/-- GSTOP (R194): every source of the launch stops. -/
def execGstop (ls : BitVec 2) (s : State) : Out :=
  checked (.gstop ls) s fun th =>
    match s.live (slotOf s.cur ls.toNat) with
    | some (lk, _, _) => .next ((s.setMe th.adv).gstop lk)
    | none => update s th

/-! ### LIGBIND (R206, 10 R286-R291) -/

/-- Whether a running launch of a context configures an element with an opcode. -/
def State.ligBusy (s : State) (asid op : Nat) : Bool :=
  s.fab.launches.any fun (lk, l) => match l with
    | some l => !l.ended && s.lkAsid lk == asid
        && (List.range l.nformes).any fun k =>
          let img := match l.img k with
            | some x => x
            | none => s.sysWord asid (l.formeVa k) 1024
          (List.range 16).any fun c => fConf img c && (fCfg img c).op == op
    | none => false

/-- An image bound as entry `n` of a context's set, or, without one, the entry cleared; with the result of
R206. A refusal changes nothing. -/
def State.bindLig (s : State) (asid n : Nat) (img : Option (List Byte)) : State × Nat :=
  let c := match img with
    | some b => ligCheck b n
    | none => 0
  if c != 0 then (s, c)
  else if s.ligBusy asid (0xE0 + n) then (s, 5)
  else
    let e : Option LigEntry := img.map fun b =>
      let bytes := b.take (16 + 8 * ligWords b)
      { image := bytes, digest := sm3 (bytes.map BitVec.toNat) }
    (s.modCtx asid fun c => { c with ligs := tset none c.ligs n e }, 0)

/-- LIGBIND (R206): privileged; reads the image with plain loads. -/
def execLigbind (d a n : BitVec 5) (s : State) : Out :=
  privileged (.ligbind d a n) s fun th =>
    let va := th.get a
    if va.toNat % 8 != 0 then trapOut s (trapAt .align va)
    else if va = 0 then
      let (s1, r) := s.bindLig s.asid n.toNat none
      update s1 (s1.me.put d (BitVec.ofNat 64 r))
    else
      (s.loadWords va 2).andThen fun s1 ws =>
        let hd := ws.flatMap fun w => bytesLE 8 w.toNat
        (s1.loadWords (va + 16) (ligWords hd)).andThen fun s2 rest =>
          let (s3, r) := s2.bindLig s.asid n.toNat (some (hd ++ rest.flatMap fun w => bytesLE 8 w.toNat))
          update s3 (s3.me.put d (BitVec.ofNat 64 r))

end Sys2Proof.Machine
end

