-- ==== Sys2Proof/Machine/Streams.lean ====
section
/-! DEFINITION. Stream commands as they start (11 R303, R304), their accesses (R305-R311, R327, R328), and
what they do at once (R312-R314). -/

namespace Sys2Proof.Machine

/-! ### The checks of R304 -/

/-- The FLAGS bits that a command uses (R301). -/
def flagsUsed (c : Cmd) : Nat :=
  match c.scop with
  | 1 => 0x7F
  | 3 => 0x71
  | 5 => 0x180
  | 8 => if c.fld 80 1 = 0 then 1 else 0
  | 9 => 0x180
  | 10 => 0x80
  | 11 => 0x180
  | 12 => 0x380
  | 14 => 0x80
  | 15 => 0x80
  | 16 => 0x80
  | _ => 0

/-- A nest with a refused value (R302). -/
def Cmd.nestBad (c : Cmd) : Bool :=
  (!c.ownField && 4 < c.fld 48 3)
  || (List.range 4).any fun l =>
    let (d, step, n) := c.level l
    d == 5 || d == 6 || (d == 7 && (step != 0 || n != 1))

/-- Cause 1: a reserved bit, a FLAGS bit not used, a refused value. `mode` is that of the AGSPAD element. -/
def Cmd.reservedBad (c : Cmd) (mode : Option Nat) : Bool :=
  let fl := c.flag 0 16
  fl &&& flagsUsed c != fl
  || (c.scop == 1 && 4 < c.flag 1 3)
  || ((c.scop == 5 || c.scop == 9) && c.dir2 == 3)
  || (c.scop == 11 && c.dir2 == 0)
  || (c.scop == 12 && c.flag 7 3 == 7)
  || (c.nest && c.nestBad)
  || (match c.scop with
      | 3 => c.fld 48 16 != 0 || c.fld 96 32 != 0
      | 4 => c.fld 48 16 != 0 || c.fld 96 32 != 0
      | 6 => c.fld 96 32 != 0 || c.fld 64 16 == 0
          || (match mode with
              | some 0 => c.fld 80 16 != 0
              | some _ => c.fld 80 16 == 0 || 4096 < c.fld 80 16
              | none => false)
      | 7 => c.fld 70 58 != 0
      | 8 => c.fld 52 12 != 0 || c.fld 81 47 != 0
      | 12 => c.fld 48 80 != 0
      | 13 => c.fld 48 80 != 0
      | 14 => if c.all then c.fld 70 58 != 0 else c.fld 48 80 != 0
      | 15 => c.fld 112 16 != 0
      | 16 => c.fld 64 64 != 0
      | _ => false)

/-- Whether a command acts on no port (R300). -/
def Cmd.portless (c : Cmd) : Bool := c.scop == 7 || c.scop == 11 || (14 ≤ c.scop && c.all)

/-- The AG operation that a command requires; none for any (R300). -/
def Cmd.agOp (c : Cmd) : Option Nat :=
  match c.scop with
  | 1 => some 0x70
  | 2 => some 0x71
  | 3 => some 0x72
  | 4 => some 0x73
  | 6 => some 0x75
  | 9 => some 0x74
  | _ => none

/-- The links of a launch's galley. -/
def State.allLinks (s : State) (lk : Nat) (l : Launch) : List (Nat × Nat × LinkW) :=
  let g := s.galleyOf lk l
  (List.range l.nformes).flatMap fun k => (fLinkWs (g.img k)).map fun (i, w) => (k, i, w)

/-- The configuration of the AG element that an AG port names, whether or not its forme is cached. -/
def State.agCfg (s : State) (r : PRef) : Option Cfg :=
  if r.l.nformes ≤ r.k then none
  else
    let img := (s.galleyOf r.lk r.l).img r.k
    if fConf img r.c && opAg (fCfg img r.c).op then some (fCfg img r.c) else none

/-- Cause 2: the port (R300, R304). -/
def State.portWrong (s : State) (r : PRef) (c : Cmd) : Bool :=
  if c.portless then c.port != 255
  else if 64 ≤ c.port then true
  else if r.ag then
    c.scop == 8
    || (match s.agCfg r with
        | none => true
        | some cfg => match c.agOp with
          | some op => cfg.op != op
          | none => false)
    || ((c.scop == 6 || (c.scop == 5 && c.dir2 != 0)) && r.l.scrollsAt r.k)
  else if c.scop == 1 || c.scop == 2 || c.scop == 8 then
    let named := (s.allLinks r.lk r.l).filter fun (k, _, w) => w.xend != 0 && 48 + w.xnum == r.q && r.l.segOfForme k == r.n
    let source := c.scop == 1 || (c.scop == 8 && c.fld 80 1 == 0)
    match named with
    | [(_, _, w)] => w.xend != (if source then 1 else 2)
    | _ => true
  else c.scop < 12

/-- Whether a command needs a layout record. -/
def Cmd.needsLh (c : Cmd) : Bool := [1, 2, 3, 4, 5, 7, 9, 10, 11].contains c.scop

/-- Cause 3: the handles. -/
def Cmd.handleBad (c : Cmd) : Bool :=
  (if c.needsLh then c.lh.isNone else c.handle != 0)
  || (c.scop == 5 && c.dir2 == 0 && c.dlh.isNone)
  || (c.scop == 10 && (match c.lh with
      | some (r, _) => let t := lrTemplate r
        templateAny t || (templateHdr t).spar != 0 || 2 ≤ (templateHdr t).slay
      | none => false))

/-- The highest index that a nest reaches on each dimension. -/
def Cmd.reach (c : Cmd) : List Nat :=
  (List.range 4).foldl (fun t l =>
    let (d, step, n) := c.level l
    if d = 7 then t else lmod t d (· + (n - 1) * step)) (c.index 0)

/-- Whether a nest leaves the grid of a record. -/
def Cmd.beyond (c : Cmd) (r : BitVec 512) : Bool :=
  ((List.range 5).zip c.reach).any fun (k, m) => (if k < lrNdim r then lrCountM1 r k else 0) < m

/-- Cause 4: the range of a nest. -/
def Cmd.rangeBad (c : Cmd) : Bool :=
  c.nest && ((match c.lh with
    | some (r, _) => c.beyond r
    | none => false)
    || (match c.dlh with
      | some (r, _) => c.beyond r
      | none => false))

/-- Cause 5: a scratchpad region beyond the slot's quota. -/
def State.spadBad (s : State) (r : PRef) (c : Cmd) : Bool :=
  let size := regionSize (s.ringSt r.g).spquota r.b
  if c.scop = 6 then size < 32 * (c.w3 + c.fld 64 16)
  else if c.scop = 5 && c.dir2 != 0 then
    match c.lh with
    | some (rec, _) => size < 32 * c.w3 + c.elems * lrTbytes rec
    | none => false
  else false

/-- FORME and LINK of an overflow command: its link word. -/
def State.ovfLink (s : State) (r : PRef) (c : Cmd) : Option LinkW :=
  let k := c.w3
  if k < r.l.nformes then ((fLinkWs ((s.galleyOf r.lk r.l).img k)).find? fun (i, _) => i == c.fld 64 6).map fun x => x.2
  else none

/-- The bytes of an overflow queue: the extent, rounded down to 4 KiB (R324). -/
def ovfSize (rec : BitVec 512) : Nat := (lrEnd rec - lrLow rec).toNat / 4096 * 4096

/-- Cause 6: the target of SC.OVERFLOW (R324). -/
def State.linkWrong (s : State) (r : PRef) (c : Cmd) : Bool :=
  c.scop == 7 && (match s.ovfLink r c, c.lh with
    | some w, some (rec, _) =>
      !w.spill || r.l.scrollsAt c.w3 || (s.link (linkKey r.lk c.w3 (c.fld 64 6))).ovf.isSome
      || ovfSize rec < 4096 || 2 ^ 30 < ovfSize rec
    | _, _ => true)

/-- The first cause of R304 for which a command is refused; 0 for none. -/
def State.causeOf (s : State) (r : PRef) (c : Cmd) : Nat :=
  let mode := if c.scop = 6 && r.ag then (s.agCfg r).bind fun x => if x.op = 0x75 then some x.mode else none else none
  if c.reservedBad mode then 1
  else if s.portWrong r c then 2
  else if c.handleBad then 3
  else if c.rangeBad then 4
  else if s.spadBad r c then 5
  else if s.linkWrong r c then 6
  else if (c.scop == 15 || c.scop == 16) && !s.granted c.w3 c.asid then 7
  else 0

/-- The fault of a refused command (R304). -/
def State.refuse (s : State) (r : PRef) (c : Cmd) (n : Nat) : State :=
  let cls := if n = 7 then FaultClass.perm else .illegal
  let f : FaultRec :=
    if r.ag && r.k < r.l.nformes then
      { cls := cls, site := 1, ring := r.g, slot := c.thread % 4, col := r.c, forme := r.k, detail := causeWord n c }
    else { cls := cls, site := 2, ring := c.thread / 4, slot := c.thread % 4, detail := causeWord n c }
  s.recordFault r.l.job f

/-! ### Starting (R303) -/

/-- Whether the command at the head of a port's queue may start; while the job is saved, only one that takes
tokens (14 R394). -/
def State.mayStart (s : State) (r : PRef) (c : Cmd) : Bool :=
  let p := s.port r.key
  s.lkActive r.lk && (c.stores || ((s.jobOf r.lk).any fun j => j.phase == .started)) && p.cur.isNone && !p.sealed && !p.stopping
  && ((p.spad.isNone && p.peer.isNone) || 12 ≤ c.scop)
  && !((s.port (noPort r.lk c.n)).q.any fun w => w.scop == 15 && w.thread == c.thread && w.ticket < c.ticket)

/-- The start of a port's next command, if it has code `scop`: it is dropped after a GSTOP, refused, or acts
as `f` says, which answers none while it cannot act yet. -/
def startCmd (scop : Nat) (p : PortId) (s : State) (f : State → PRef → Cmd → Option State) : Out :=
  match s.pref p with
  | none => .next s
  | some r =>
    match (s.port r.key).q with
    | [] => .next s
    | c :: rest =>
      if c.scop != scop || !s.mayStart r c then .next s
      else
        let s1 := s.modPort r.key fun p => { p with q := rest }
        if r.l.stopped then .next (s1.finish c)
        else
          let n := s.causeOf r c
          if n != 0 then .next ((s1.refuse r c n).finish c)
          else
            match f s1 r c with
            | some s2 => .next ((s2.stirred r.lk).settle r.lk)
            | none => .next s

/-- The start of a command that makes accesses: it becomes its port's current command. -/
def startAccess (scop : Nat) (p : PortId) (s : State) : Out :=
  startCmd scop p s fun s r c => some (s.modPort r.key fun p => { p with cur := some { cmd := c } })

/-- SC_LOAD (R303, R307). -/
def execScLoad (p : PortId) (s : State) : Out := startAccess 1 p s
/-- SC_STORE (R303, R308). -/
def execScStore (p : PortId) (s : State) : Out := startAccess 2 p s
/-- SC_GATHER (R303, R307). -/
def execScGather (p : PortId) (s : State) : Out := startAccess 3 p s
/-- SC_SCATTER (R303, R308). -/
def execScScatter (p : PortId) (s : State) : Out := startAccess 4 p s
/-- SC_COPY (R303, R310). -/
def execScCopy (p : PortId) (s : State) : Out := startAccess 5 p s
/-- SC_REDUCE (R303, R309). -/
def execScReduce (p : PortId) (s : State) : Out := startAccess 9 p s
/-- SC_FILL (R303, R310). -/
def execScFill (p : PortId) (s : State) : Out := startAccess 10 p s
/-- SC_STAGE (R303, R311). -/
def execScStage (p : PortId) (s : State) : Out := startAccess 11 p s

/-- SC_SPAD (R323): the region is bound to the port. -/
def execScSpad (p : PortId) (s : State) : Out :=
  startCmd 6 p s fun s r c =>
    some (s.modPort r.key fun p =>
      { p with spad := some { cmd := c, spoff := c.w3, splen := c.fld 64 16, tsize := c.fld 80 16 } })

/-- Bytes of ring SRAM in the launch pool of a ring (17 R429). -/
def launchPool : Nat := 19392 * 1024
/-- Bytes of a ring's launch pool in use. -/
def State.poolUsed (s : State) (g : Nat) : Nat :=
  s.fab.launches.foldl (fun a e => a + (match e.2 with
    | some l => tget 0 l.sram g
    | none => 0)) 0

/-- The die whose engine moves a page: that of its frame (12 R347). -/
def MemSys.homeOf (ms : MemSys) (leaf : Nat) : Nat :=
  match ms.tierOf (pteAddr leaf) with
  | some (_, d) => d
  | none => 0

/-- Whether a move of the page at an address is under way, or has been asked for by staging. -/
def MemSys.pageAsked (ms : MemSys) (asid base size : Nat) : Bool :=
  (ms.moves.any fun m => m.asid == asid && m.va == base / 2 ^ m.size * 2 ^ m.size)
  || ms.dies.any fun d => d.2.reqs.any fun r => r.origin == .staging && r.asid == asid && r.va / 2 ^ size * 2 ^ size == base

/-- A move asked of the home engine of each page of a range, but for pages that are unmapped, pinned, of
256 MiB or in the tier already (04 R112, 11 R311); one that is in the tier and asked out of it is asked back by staging,
which leaves it in the tier asked for last (R113). The copies are charged to budget class `cls`. -/
def MemSys.askMoves (ms : MemSys) (asid va stop tier : Nat) (origin : Origin) (tag cls : Nat) (fuel : Nat) : MemSys :=
  match fuel with
  | 0 => ms
  | fuel + 1 =>
    if stop ≤ va then ms
    else
      match ms.walk asid va with
      | .error _ => ms.askMoves asid ((va / 65536 + 1) * 65536) stop tier origin tag cls fuel
      | .ok w =>
        let base := va / 2 ^ w.size * 2 ^ w.size
        let stays := pteTier w.leaf == tier && !(origin == .staging && ms.pageAsked asid base w.size)
        let ms1 := if ptePin w.leaf || w.size == 28 || stays then ms
          else ms.modDie (ms.homeOf w.leaf) fun d =>
            { d with reqs := d.reqs ++ [{ asid := asid, va := base, dtier := tier, origin := origin, tag := tag, cls := cls }] }
        ms1.askMoves asid (base + 2 ^ w.size) stop tier origin tag cls fuel

/-- The number by which the moves of a command are known. -/
def Cmd.tag (c : Cmd) : Nat := c.thread * 2 ^ 48 + c.ticket

/-- SC_OVERFLOW (R324): the queue is bound to the link; its 64 places come from the launch pool, or there are
none. Pages of a record whose TIER is 1 are asked to move to tier H, where the policy leaves them (log 50). -/
def execScOverflow (p : PortId) (s : State) : Out :=
  startCmd 7 p s fun s r c =>
    match s.ovfLink r c, c.lh with
    | some w, some (rec, _) =>
      let key := linkKey r.lk c.w3 (c.fld 64 6)
      let need := roundUp (64 * (if w.plane = 1 then 8 else 256)) 4096
      let fits := s.poolUsed r.g + need ≤ launchPool
      let o : Overflow := { cmd := c, base := (lrLow rec).toNat, size := ovfSize rec, places := if fits then 64 else 0 }
      let s0 := s.setLink key { s.link key with ovf := some o }
      let s1 := if lrTier rec = 1 then
          { s0 with ms := s0.ms.askMoves c.asid o.base (o.base + o.size) 1 .stage c.tag (s.classOf r.l.job) (o.size / 65536 + 2) }
        else s0
      some (if fits then s1.modLaunch r.lk fun l => { l with sram := tmod 0 l.sram r.g (· + need) } else s1)
    | _, _ => none

/-- Whether a port feeds the fabric: a load or gather element, or a ring port that a link names as source. -/
def State.isSource (s : State) (r : PRef) : Bool :=
  if r.ag then (match s.agCfg r with
    | some cfg => cfg.replies
    | none => false)
  else (s.allLinks r.lk r.l).any fun (k, _, w) => w.xend == 1 && 48 + w.xnum == r.q && r.l.segOfForme k == r.n

/-- Tokens put behind a port's replies. -/
def State.reply (s : State) (r : PRef) (ticket : Nat) (ts : List Tok) : State :=
  s.modPort r.key fun p => { p with reply := p.reply ++ ts.map fun t => (ticket, t) }

/-- SC_FENCE (R312): when the accesses of earlier commands have been performed, a source port emits FENCE, and
the command completes. -/
def execScFence (p : PortId) (s : State) : Out :=
  startCmd 12 p s fun s r c =>
    let q := s.port r.key
    if q.settled then
      let s1 := if s.isSource r then s.reply r noTicket [.ctl .fence (BitVec.ofNat 64 (c.flag 7 3))] else s
      some (s1.finish c)
    else none

/-- SC_MARK (R313): on a source port with snapshots enabled a marker is requested, and the command holds the port until
the port has emitted it, behind the tokens of earlier commands, or, in a scrolling pipeline, before the FSW of the block
(14 R384). -/
def execScMark (p : PortId) (s : State) : Out :=
  startCmd 13 p s fun s r c =>
    if r.l.snapOn && s.isSource r then
      let s1 := s.request r.lk
      (s1.launch r.lk).map fun l => s1.modPort r.key fun p => { p with cur := some { cmd := c, elem := l.mark } }
    else some (s.finish c)

/-- SC_WAITEV (R314): the command completes, and with it what it holds goes on, when the counter is at least
COUNT. -/
def execScWaitev (p : PortId) (s : State) : Out :=
  startCmd 15 p s fun s _ c => if c.fld 64 48 ≤ (s.event c.w3).toNat then some (s.finish c) else none

/-- SC_SIGEV (R314): when every earlier command of the port, or of the launch slot, has completed, the event is
signalled. -/
def execScSigev (p : PortId) (s : State) : Out :=
  startCmd 16 p s fun s r c =>
    let q := s.port r.key
    let done := if c.all then
        !(s.fab.cmds.any fun d => d.thread == c.thread && d.ls == c.ls && d.ticket < c.ticket)
      else q.trail.isEmpty && q.spad.isNone && q.peer.isNone
    if done then some ((s.signal c.w3).finish c) else none

/-! ### Loads and gathers (R307, R327, R328) -/

/-- The captured record of a command. -/
def Cmd.rec1 (c : Cmd) : RecRef := { asid := c.asid, rcd := (c.lh.getD (0, 0)).1, key := (c.lh.getD (0, 0)).2 }
/-- The captured destination record of a copy. -/
def Cmd.rec2 (c : Cmd) : RecRef := { asid := c.asid, rcd := (c.dlh.getD (0, 0)).1, key := (c.dlh.getD (0, 0)).2 }

/-- The address of a tile. -/
def tileVa (r : BitVec 512) (idx : List Nat) : Nat := (lrTile r idx).toNat

/-- The tile index of a flat index; none beyond the grid (R302). -/
def flatIndex (r : BitVec 512) (f : Nat) : Option (List Nat) :=
  let counts := (List.range 5).map fun k => if k < lrNdim r then lrCountM1 r k + 1 else 1
  if counts.foldl (· * ·) 1 ≤ f then none
  else some ((counts.foldl (fun (a : List Nat × Nat) n => (a.1 ++ [a.2 % n], a.2 / n)) ([], f)).1)

/-- Whether a port diverts faulting tiles: its element is AGLD or AGGAT, and every link from o0 has COMM = 1
(R327). A record registered with PIN = 1 meets no XLATE (R329). -/
def PRef.diverts (r : PRef) : Bool :=
  r.ag && (let ws := r.l.linksFrom r.k r.c 0
    !ws.isEmpty && ws.all fun (_, w) => w.comm)

/-- A LATE token (08 R218). -/
def lateTok (e : Nat) (hole : Bool) : Tok := .ctl .late (BitVec.ofNat 64 (e % 2 ^ 48 + if hole then 2 ^ 63 else 0))

/-- The iterations of the levels below EORL − 1: after so many elements an EOR is due; 0 for none. -/
def Cmd.eorEvery (c : Cmd) : Nat :=
  match c.flag 1 3 with
  | 2 => c.count 0
  | 3 => c.count 0 * c.count 1
  | 4 => c.count 0 * c.count 1 * c.count 2
  | 1 => 1
  | _ => 0

/-- The EORs due after the elements issued so far. -/
def Cur.eorsDue (c : Cur) : Nat :=
  if c.cmd.scop != 1 || c.cmd.eorEvery = 0 then 0 else c.elem / c.cmd.eorEvery

/-- Whether a load or gather has issued its last element. -/
def Cur.loaded (c : Cur) : Bool :=
  if c.cmd.scop = 1 then c.elem == c.cmd.elems
  else if c.cmd.nidx = 0 then c.ended else c.elem == c.cmd.nidx

/-- What follows an element of a load: the EOR due, and after the last element EOS; each waits for the diverted
elements before it (R307, R327). The command then leaves the port. -/
def State.loadTail (s : State) (r : PRef) (c : Cur) : State :=
  let p := s.port r.key
  if !p.div.isEmpty then s.modPort r.key fun p => { p with cur := some c }
  else
    let (s1, c1) := if c.eors < c.eorsDue then
        (s.reply r c.cmd.ticket [.ctl .eor (BitVec.ofNat 64 (c.eors % 2 ^ 32))], { c with eors := c.eors + 1 })
      else (s, c)
    if c1.loaded && c1.eors == c1.eorsDue && p.index.isNone then
      let s2 := if c1.cmd.eos then s1.reply r c1.cmd.ticket [.ctl .eos 0] else s1
      s2.modPort r.key fun p => { p with cur := none, trail := p.trail ++ [c1] }
    else s1.modPort r.key fun p => { p with cur := some c1 }

/-- The tile index of element `e` of a load or gather. -/
def Cmd.tileIdx (c : Cmd) (e flat : Nat) : Option (List Nat) :=
  if c.scop = 1 then some (c.index e) else flatIndex c.rec1.rcd flat

/-- Element `e` read and put behind the replies. -/
def State.loadElem (s : State) (r : PRef) (c : Cur) (e flat : Nat) (late : Bool) : State × Option PErr :=
  match c.cmd.tileIdx e flat with
  | none => (s, some (.cause 4))
  | some idx =>
    match s.tileAt r c.cmd.rec1 (tileVa c.cmd.rec1.rcd idx) (c.cmd.flag 4 3) false with
    | (s1, .error x) => (s1, some x)
    | (s1, .ok t) =>
      let (h, img) := t.toLink (e % 65536)
      (s1.reply r c.cmd.ticket ((if late then [lateTok e false] else []) ++ tileToks h img), none)

/-- A step of a load or gather: a resolved element is read again; else the next element is issued, and on an
XLATE diverted or held (R327, R328). -/
def State.accLoad (s : State) (r : PRef) (c : Cur) : State :=
  let p := s.port r.key
  match p.div.find? fun d => d.2.2.isNone with
  | some (e, flat, _) =>
    if !p.reply.isEmpty then s
    else
      match s.loadElem r c e flat true with
      | (s1, none) =>
        (s1.modPort r.key fun p => { p with div := p.div.filter fun d => d.1 != e }).loadTail r c
      | (s1, some (.acc (.xlate x) va k)) =>
        (s1.portPost r c.cmd.asid va k x).modPort r.key fun p =>
          { p with div := p.div.map fun d => if d.1 == e then (e, flat, some va) else d }
      | (s1, some x) => s1.portBad r c.cmd c.cmd.rec1.key x
  | none =>
    let ready := c.cmd.scop = 1 || p.index.isSome
    if c.loaded || !ready || c.eors < c.eorsDue then (if p.div.isEmpty then s.loadTail r c else s)
    else if !p.reply.isEmpty || 64 ≤ p.div.length then s
    else
      let flat := p.index.getD 0
      let c1 := { c with elem := c.elem + 1 }
      match s.loadElem r c c.elem flat false with
      | (s1, none) => (s1.modPort r.key fun p => { p with index := none }).loadTail r c1
      | (s1, some (.acc (.xlate x) va k)) =>
        if r.diverts then
          let s2 := (s1.portPost r c.cmd.asid va k x).modPort r.key fun p =>
            { p with div := p.div ++ [(c.elem, flat, some va)], index := none }
          (s2.reply r c.cmd.ticket [lateTok c.elem true]).loadTail r c1
        else s1.portStop r c c.cmd.rec1.key (.acc (.xlate x) va k)
      | (s1, some x) => s1.portBad r c.cmd c.cmd.rec1.key x

/-! ### Stores, scatters and reductions (R308, R309) -/

/-- Whether a store-type command has written its last element, or has seen EOS with no hole left open. -/
def Cur.stored (c : Cur) : Bool :=
  c.holes.isEmpty &&
    (c.ended || (match c.cmd.scop with
      | 2 => c.posn == c.cmd.elems
      | 4 => c.cmd.nidx != 0 && c.elem == c.cmd.nidx
      | _ => c.elem == c.cmd.elems))

/-- A store-type command that has written its last element leaves the port (R303, R305). -/
def State.storeTail (s : State) (r : PRef) (c : Cur) : State :=
  s.modPort r.key fun p =>
    if c.stored && p.full.isNone && p.tile.isNone then { p with cur := none, trail := p.trail ++ [c] }
    else { p with cur := some c }

/-- The token that tells of a tile fully written, on an enabled o0 (R317). -/
def State.written (s : State) (r : PRef) (c : Cur) (e : Nat) : State :=
  match r.cfg with
  | some cfg => if cfg.outOn 0 then s.reply r c.cmd.ticket [.ctl .data (BitVec.ofNat 64 (e % 2 ^ 48))] else s
  | none => s

/-- The flags of a port's element (09 R261); once the element has left its forme they are the launch's. -/
def State.portFlags (s : State) (r : PRef) (f : Flags) : State :=
  match (if r.ag then s.holder r.lk r.l r.k r.c else none) with
  | some key =>
    match s.elem key with
    | some e => s.setElem key { e with flags := orFlags e.flags f }
    | none => s
  | none => if r.ag then s.modLaunch r.lk fun l => { l with flags := orFlags l.flags f } else s

/-- One element of memory combined with an arriving one (R309). -/
def reduceElem (rop : Nat) (f : Fmt) (m x : Nat) : Nat × Flags :=
  match f with
  | .fp32 =>
    if rop = 0 then sumF32 m x else roundFp32 .rne (pickV (rop == 1) (valF32 m) (valF32 x))
  | _ =>
    let a := decodeInt f m
    let b := decodeInt f x
    if rop = 0 then
      if f == .i48 then let (v, fl) := satI48 (a + b); (wrapN 48 v, fl)
      else convertTo f .rne false (valOfInt (a + b))
    else (wrapN (fmtWidth f) (if rop == 1 then max a b else min a b), noFlags)

/-- Data of memory, at line stride `rs`, combined with packed lines that arrive. -/
def reduceData (rop : Nat) (g : Geom) (rs mem arr : Nat) : Nat × Flags :=
  (List.range g.lines).foldl (fun (a : Nat × Flags) m =>
    (List.range g.stored).foldl (fun (a : Nat × Flags) q =>
      let o := g.bitOff 0 rs 0 m q
      let old := imgBits a.1 o g.width
      let (v, fl) := reduceElem rop g.fmt old (imgBits arr (g.bitOff 0 g.lineBytes 0 m q) g.width)
      (a.1 - old * 2 ^ o + v * 2 ^ o, orFlags a.2 fl)) a) (mem, noFlags)

/-- The tile that waits at a store port written at its place. -/
def State.storeFull (s : State) (r : PRef) (c : Cur) (h : Header) (img pos : Nat) : State × Option PErr :=
  let x := c.cmd.rec1
  let idx := if c.cmd.scop = 4 then flatIndex x.rcd pos else some (c.cmd.index pos)
  match idx with
  | none => (s, some (.cause 4))
  | some idx =>
    let va := tileVa x.rcd idx
    let t := linkTile h img
    if c.cmd.scop != 9 then s.portWrite r x va t.toMem false
    else
      match s.portRead r x va 32 false with
      | (s1, .error e) => (s1, some e)
      | (s1, .ok hb) =>
        let mh : Header := BitVec.ofNat 256 (ofBytesLE hb)
        let y := Hdr.ofBits mh
        let n := checks1to11 mh true (some (lrTbytes x.rcd))
        if n != 0 then (s1, some (.check n 0 mh))
        else if tmplBad (lrTemplate x.rcd) mh then (s1, some (.check 14 0 mh))
        else if hf mh 12 40 != hf h 12 40 then (s1, some (.check 14 1 h))
        else
          let g := t.x.geom t.f
          let len := roundUp (g.dataBytes y.rstride) 32
          match s1.portRead r x (va + y.doff) len true with
          | (s2, .error e) => (s2, some e)
          | (s2, .ok d) =>
            let (v, fl) := reduceData c.cmd.dir2 g y.rstride (ofBytesLE d) (packLines g t.x.rstride t.data)
            match s2.portWrite r x (va + y.doff) (bytesLE len v) true with
            | (s3, none) => (s3.portFlags r fl, none)
            | (s3, some e) => (s3, some e)

/-- A step of a store-type command: the tile that waits is written (R308, R309). -/
def State.accStore (s : State) (r : PRef) (c : Cur) : State :=
  match (s.port r.key).full with
  | none => s.storeTail r c
  | some (h, img, pos) =>
    if s.holdFull r.l && r.l.holding then s
    else
      match s.storeFull r c h img pos with
      | (s1, some e) => s1.portStop r c c.cmd.rec1.key e
      | (s1, none) =>
        let e := if c.cmd.scop = 2 then pos else c.elem
        let s2 := (s1.modPort r.key fun p => { p with full := none }).written r c e
        s2.storeTail r { c with elem := c.elem + 1, holes := c.holes.filter fun x => x != pos }

/-- The checks of a header that arrives for a store (R308, R309, 01 R35). -/
def storeCheck (c : Cmd) (h : Header) : Nat :=
  let n := checks1to11 h false none
  let x := Hdr.ofBits h
  if n != 0 then n
  else
    match x.format with
    | none => 4
    | some f =>
      if lrTbytes c.rec1.rcd < x.memSize (x.geom f) then 11
      else if tmplBad (lrTemplate c.rec1.rcd) h then 14
      else if isPsd f && x.cut != 0 then 15
      else if c.scop = 9 && (!([Fmt.fp32, .int32, .i48].contains f) || x.slay != 0 || x.spar != 0) then 15
      else 0

/-- Whether a store port can take the head of its input now: a tile needs a command that is not frozen. -/
def State.storeTakes (s : State) (r : PRef) (h : Head) : Bool :=
  let p := s.port r.key
  r.l.stopped || p.sealed ||
    (match h.tok with
     | .ctl .eor _ => true
     | .ctl .eos _ => p.tile.isSome || p.full.isNone
     | _ => match p.cur with
       | some c => c.cmd.stores && c.freeze.isNone && p.full.isNone && !c.stored
       | none => false)

/-- The checks of a header that waits at a port with no store bound: those that need no command (R308, 01 R21). -/
def waitCheck (h : Header) : Nat :=
  let n := checks1to11 h false none
  if n != 0 then n else if (Hdr.ofBits h).format.isNone then 4 else 0

/-- Whether a store element with no store bound can take the head of its input: a tile waits at the port, its EOT
on the link behind it (R308). -/
def State.storeWaits (s : State) (r : PRef) (h : Head) : Bool :=
  let p := s.port r.key
  p.cur.isNone && p.full.isNone && !p.stopping &&
    (match h.tok with
     | .hdr _ => true
     | .data _ => match p.tile with
       | some t => t.got < t.n
       | none => true
     | .ctl .eot _ => p.tile.isNone
     | .ctl _ _ => false)

/-- Check 12 of a token that stands between tiles only: it fails inside one (01 R30). -/
def State.betweenTiles (s : State) (r : PRef) : State :=
  match (s.port r.key).tile with
  | some t => s.portFail r .shape (detailWord 12 1 t.hdr) 0
  | none => s

/-- A token taken at a store port (R308). After GSTOP or once sealed it is absorbed. `idx` is the index token
of a scatter. -/
def State.storeTok (s : State) (r : PRef) (h : Head) (idx : Option Nat) : State :=
  let p := s.port r.key
  if r.l.stopped || p.sealed then s
  else
    match h.tok, p.cur with
    | .ctl .eor _, _ => s.betweenTiles r
    | .ctl .eos _, some c =>
      if p.tile.isSome then s.betweenTiles r
      else if c.cmd.stores then s.storeTail r { c with ended := true } else s
    | .ctl .eos _, none => s.betweenTiles r
    | .hdr hd, none =>
      let n := waitCheck hd
      if p.tile.isSome then s.betweenTiles r
      else if n != 0 then s.portFail r (checkClass n) (detailWord n 1 hd) 0
      else s.modPort r.key fun p => { p with tile := some { hdr := hd } }
    | .data d, none =>
      if p.tile.isNone then s.portFail r .shape (detailWord 12 1 0) 0
      else s.modPort r.key fun p => { p with tile := p.tile.map fun t => t.add d }
    | .ctl .eot _, none => if p.tile.isNone then s.portFail r .shape (detailWord 12 1 0) 0 else s
    | .ctl _ _, none => s
    | .hdr hd, some c =>
      match p.tile with
      | some t => s.portFail r .shape (detailWord 12 1 t.hdr) 0
      | none =>
        let n := storeCheck c.cmd hd
        if n != 0 then s.portFail r (checkClass n) (detailWord n 1 hd) 0
        else s.modPort r.key fun p => { p with tile := some { hdr := hd } }
    | .data d, some _ =>
      match p.tile with
      | some t =>
        if t.got < t.n then s.modPort r.key fun p => { p with tile := some (t.add d) }
        else s.portFail r .shape (detailWord 12 1 t.hdr) 0
      | none => s.portFail r .shape (detailWord 12 1 0) 0
    | .ctl .eot v, some c =>
      match p.tile with
      | some t =>
        let n := storeCheck c.cmd t.hdr
        if n != 0 then s.portFail r (checkClass n) (detailWord n 1 t.hdr) 0
        else if t.got == t.n && eotFits t v then
          let (pos, c1) := match p.late with
            | some e => (e, c)
            | none => if c.cmd.scop = 2 then (c.posn, { c with posn := c.posn + 1 })
              else (if c.cmd.scop = 4 then idx.getD 0 else c.elem, c)
          s.modPort r.key fun p => { p with tile := none, late := none, full := some (t.hdr, t.img, pos), cur := some c1 }
        else s.portFail r .shape (detailWord 12 1 t.hdr) 0
      | none => s.portFail r .shape (detailWord 12 1 0) 0
    | .ctl .late v, some c =>
      let e := fieldN 64 v 0 48
      match p.tile with
      | some t => s.portFail r .shape (detailWord 12 1 t.hdr) 0
      | none =>
        if v.getLsbD 63 then
          s.modPort r.key fun p => { p with cur := some { c with posn := c.posn + 1, holes := c.holes ++ [c.posn] } }
        else if c.cmd.elems ≤ e then s.portFail r .illegal (causeWord 4 c.cmd) 0
        else s.modPort r.key fun p => { p with late := some e }
    | .ctl _ _, some _ =>
      match p.tile with
      | some t => s.portFail r .shape (detailWord 12 1 t.hdr) 0
      | none => s

/-- The head of a ring port's FIFO taken by a store, or, without one, EOR and EOS absorbed (R308). -/
def State.ringStore (s : State) (r : PRef) : State :=
  let fk := fifoKey r.lk r.n (r.q)
  match headOf [] (s.fifo fk) with
  | none => s
  | some h =>
    let dst := r.l.links.any fun (k, _, w) => w.xend == 2 && 48 + w.xnum == r.q && r.l.segOfForme k == r.n
    let src := r.l.links.any fun (k, _, w) => w.xend == 1 && 48 + w.xnum == r.q && r.l.segOfForme k == r.n
    let tag := match h.tok with
      | .ctl .mark _ => true
      | .ctl .fence _ => true
      | .ctl .fsw _ => true
      | .ctl .err _ => true
      | _ => false
    let waits := (h.tok.tag == some .fence || h.tok.tag == some .mark) && (s.port r.key).full.isSome
    if !dst || src || waits || !(tag || s.storeTakes r h) then s
    else
      let s1 := s.setFifo fk (dropHead (s.fifo fk))
      let s2 := if (s.port r.key).tile.isSome && tag && !h.tok.isErr then s1.betweenTiles r
        else match h.tok with
        | .ctl .mark v =>
          let s2 := s1.modPort r.key fun p => { p with mark := v.toNat }
          s2.modLaunch r.lk fun l => l.snap v.toNat fun x => { x with ports := x.ports ++ [(r.key, s2.port r.key)] }
        | _ => if tag then s1 else s1.storeTok r h none
      s2.settle r.lk

/-! ### Copies, fills and staging (R310, R311) -/

/-- A command that has issued its last access leaves the port. -/
def State.accDone (s : State) (r : PRef) (c : Cur) : State :=
  let c1 := { c with elem := c.elem + 1 }
  s.modPort r.key fun p =>
    if c1.elem == c1.cmd.elems then { p with cur := none, trail := p.trail ++ [c1] } else { p with cur := some c1 }

/-- The failure of a tile at the destination record of a copy: its size, its template. -/
def destCheck (rec : BitVec 512) (t : MTile) : Nat :=
  if lrTbytes rec < t.x.memSize (t.x.geom t.f) then 11
  else if tmplBad (lrTemplate rec) t.x.toBits then 14 else 0

/-- One element of SC.COPY (R310). -/
def State.accCopy (s : State) (r : PRef) (c : Cur) : State :=
  let x := c.cmd.rec1
  let idx := c.cmd.index c.elem
  let va := tileVa x.rcd idx
  let off := 32 * c.cmd.w3 + c.elem * lrTbytes x.rcd
  if s.holdFull r.l && r.l.holding then s
  else
    match (if c.cmd.dir2 = 2 then s.tileInSpad r off (lrTbytes x.rcd) (lrTemplate x.rcd) true else s.tileAt r x va 0 true) with
    | (s1, .error e) => s1.portStop r c x.key e
    | (s1, .ok t) =>
      if c.cmd.dir2 = 1 then
        if lrTbytes x.rcd < t.x.memSize (t.x.geom t.f) then s1.portStop r c x.key (.check 11 1 t.x.toBits)
        else (s1.spPut r off t.toMem).accDone r c
      else
        let y := if c.cmd.dir2 = 0 then c.cmd.rec2 else x
        let n := destCheck y.rcd t
        if n != 0 then s1.portStop r c y.key (.check n 1 t.x.toBits)
        else
          match s1.portWrite r y (tileVa y.rcd idx) t.toMem false with
          | (s2, some e) => s2.portStop r c y.key e
          | (s2, none) => s2.accDone r c

/-- The code of every element of SC.FILL (R310). -/
def fillCode (f : Fmt) (val : Nat) (hi : Bool) : Nat :=
  if isPsd f then val % 4
  else if fmtWidth f = 32 && hi then val * 65536
  else val % 2 ^ (fmtWidth f)

/-- The tile that SC.FILL writes as element `e` (R310). -/
def fillTile (rec : BitVec 512) (e val : Nat) (hi : Bool) : MTile :=
  let x0 := templateHdr (lrTemplate rec)
  let f := (x0.format).getD .fp32
  let g := x0.geom f
  let x1 := { x0 with tag := 0, seq := e % 65536, ext := if x0.slay = 1 then 0x3F800000 else 0 }
  let x := { x1 with rstride := g.lineBytes }
  let line := packBits g.width (List.replicate g.stored (fillCode f val hi))
  { x := x, f := f, data := packBits (8 * g.lineBytes) (List.replicate (g.planes * g.lines) line), scales := 0, index := 0 }

/-- One element of SC.FILL. -/
def State.accFill (s : State) (r : PRef) (c : Cur) : State :=
  let x := c.cmd.rec1
  if s.holdFull r.l && r.l.holding then s
  else
    match s.portWrite r x (tileVa x.rcd (c.cmd.index c.elem)) (fillTile x.rcd c.elem c.cmd.w3 c.cmd.all).toMem false with
    | (s1, some e) => s1.portStop r c x.key e
    | (s1, none) => s1.accDone r c

/-- One element of SC.STAGE. -/
def State.accStage (s : State) (r : PRef) (c : Cur) : State :=
  let x := c.cmd.rec1
  let va := tileVa x.rcd (c.cmd.index c.elem)
  let n := lrTbytes x.rcd
  ({ s with ms :=
      s.ms.askMoves c.cmd.asid va (va + n) c.cmd.dir2 .stage c.cmd.tag (s.classOf r.l.job) (n / 65536 + 2) }).accDone r c

/-! ### SC_TOKEN_VISIT, COMMAND_COMPLETE -/

/-- The step of a port: the accesses of the stream element at work. -/
def State.access (s : State) (r : PRef) : State :=
  let p := s.port r.key
  match p.cur with
  | none => if r.ag || 64 ≤ r.q then s else s.ringStore r
  | some c =>
    if p.sealed || c.freeze.isSome || p.atStop c then s
    else
      match c.cmd.scop with
      | 1 => s.accLoad r c
      | 3 => s.accLoad r c
      | 2 => if r.ag || p.full.isSome then s.accStore r c else s.ringStore r
      | 4 => s.accStore r c
      | 9 => s.accStore r c
      | 5 => s.accCopy r c
      | 10 => s.accFill r c
      | 11 => s.accStage r c
      | _ => s

/-- What the next access of every port with a command at work would be charged. -/
def State.portWants (s : State) : List Charge :=
  s.fab.ports.flatMap fun (key, p) =>
    match p.cur, s.keyRef key with
    | some _, some r => s.chargedBy (s.access r)
    | _, _ => []

/-- What ports and moves ask of the arbiters. -/
def State.wanted (s : State) : List Charge :=
  s.portWants ++ (s.ms.moves.filter fun m => m.phase == .copying).flatMap s.ms.copyCharges

/-- Whether a port is an SC node (13 R377). -/
def PRef.scNode (r : PRef) : Bool :=
  match r.cfg with
  | some cfg => cfg.sc
  | none => false

/-- Whether a launch's window covers one ring (13 R377). -/
def Launch.oneRing (l : Launch) : Bool := l.win.all fun w => w.1 == (l.place 0).1

/-- The SC nodes of a domain, in the order in which the token visits them: by ring, logical stripe, column and
slot; a ring's own domain, or the package's. -/
def State.scNodes (s : State) (dom : Option Nat) : List (Nat × PRef) :=
  let all := s.fab.launches.flatMap fun (lk, l) =>
    match l with
    | none => []
    | some l =>
      if l.ended || !s.lkActive lk || (match dom with
          | some _ => !l.oneRing
          | none => l.oneRing) then []
      else
        l.pipes.flatMap fun p => (List.range p.n).flatMap fun i => [0, 15].filterMap fun c =>
          let k := p.forme + i
          match l.cfg k c, s.holder lk l k c with
          | some cfg, some key =>
            let r : PRef := { s.placePort lk l 0 (if c = 0 then 0 else 1) with k := k, c := c, key := agPort lk k c }
            let (g, st) := l.place (key / 16 % 512)
            let b := s.bankOf lk l (key / 16 % 512)
            let r1 := { r with g := g, i := st, b := b }
            if cfg.sc && (match dom with
                | some d => g == d
                | none => !(s.ms.die (g / 4)).lost) then
              some (((g * 24 + st) * 16 + c) * 4 + b, r1)
            else none
          | _, _ => none
  sortBy (fun a b => decide (a.1 ≤ b.1)) all

/-- Whether a move that a command asked for is not yet done. -/
def MemSys.moving (ms : MemSys) (tag : Nat) : Bool :=
  (ms.moves.any fun m => m.origin == .stage && m.tag == tag)
  || ms.dies.any fun d => d.2.reqs.any fun q => q.origin == .stage && q.tag == tag

/-- Whether a command that has issued every access is complete (R305, R313, 14 R388): the tokens of a load, a gather
or a peer have been admitted; the writes of a store, a copy or a fill performed. One at which its port has faulted is
not (R326). -/
def State.complete (s : State) (l : Launch) (p : PortSt) (c : Cur) : Bool :=
  c.freeze.isNone &&
  match c.cmd.scop with
  | 1 => !(p.reply.any fun x => x.1 == c.cmd.ticket)
  | 3 => !(p.reply.any fun x => x.1 == c.cmd.ticket)
  | 8 => !(p.reply.any fun x => x.1 == c.cmd.ticket)
  | 11 => !s.ms.moving c.cmd.tag
  | 13 => c.elem ≤ p.mark
  | _ => !(l.held.any fun h => h.thread == c.cmd.thread && h.ticket == c.cmd.ticket)

/-- The commands of a port that have nothing left to issue: those behind its current one, and an SC.MARK at work
(R303). -/
def PortSt.ending (p : PortSt) : List Cur := p.trail ++ (p.cur.toList.filter fun c => c.cmd.scop == 13)

/-- COMMAND_COMPLETE (R305). -/
def execCommandComplete (ring : Fin 16) (slot : Fin 4) (ticket : Nat) (s : State) : Out :=
  let k := 4 * ring.val + slot.val
  let found := s.fab.ports.findSome? fun (key, p) =>
    (p.ending.find? fun c => c.cmd.thread == k && c.cmd.ticket == ticket).map fun c => (key, c)
  match found with
  | none => .next s
  | some (key, c) =>
    match s.launch (key / 2 ^ 20) with
    | none => .next s
    | some l =>
      let p := s.port key
      if s.complete l p c then
        let mine (x : Cur) : Bool := x.cmd.ticket == ticket && x.cmd.thread == k
        .next ((s.setPort key { p with
          cur := p.cur.filter fun x => !mine x
          trail := p.trail.filter fun x => !mine x }).finish c.cmd)
      else .next s

end Sys2Proof.Machine
end

