-- ==== Sys2Proof/Machine/Peers.lean ====
section
/-! DEFINITION. Peer links (11 R315, 12 R358-R360, 17 R417, R418): channels, both their ends, what arrives in
flits, the loss of a link; PORT_ACCESS; and SC.PEER and SC.CLOSE (11 R313). The spec gives the messages of a
link no bits, so the state keeps those sent as data, and those that arrive are read by open functions. -/

namespace Sys2Proof.Machine

/-! ### Links and channels -/

/-- A peer link. -/
def State.peer (s : State) (i : Nat) : PeerLink := tget {} s.bd.peers i
/-- The machine with a peer link changed. -/
def State.modPeer (s : State) (i : Nat) (f : PeerLink → PeerLink) : State :=
  { s with bd := { s.bd with peers := tmod {} s.bd.peers i f } }
/-- A channel of a link. -/
def State.chan (s : State) (i n : Nat) : Option Chan := tget none (s.peer i).chans n
/-- The machine with a channel replaced, or closed. -/
def State.setChan (s : State) (i n : Nat) (c : Option Chan) : State :=
  s.modPeer i fun p => { p with chans := tset none p.chans n c }
/-- The flits that a message takes (R417). -/
def PMsg.flits : PMsg → Nat
  | .tok t => if t.wide then 2 else 1
  | _ => 1
/-- Flits of a channel charged (04 R115), out of this module or into it. -/
def State.chargeFlits (s : State) (i n : Nat) (inward : Bool) (units : Nat) : State :=
  let cls := match s.chan i n with
    | some c => c.cls
    | none => 31
  s.charge [{ res := 7, inst := 2 * i + if inward then 1 else 0, cls := cls, units := units }]
/-- A message handed to a link. -/
def State.tell (s : State) (i n : Nat) (m : PMsg) : State :=
  (s.chargeFlits i n false m.flits).modPeer i fun p =>
    { p with sent := p.sent ++ [(n, m)], txSeq := (p.txSeq + m.flits) % 4096 }

/-! ### The far end (R359) -/

/-- The die of a peer link (R417). -/
def peerDie (i : Nat) : Nat := i / 4
/-- The key by which a channel's accesses are known. -/
def chanKey (i n : Nat) : Nat := i * 2 ^ 24 + n
/-- The translation cache of a far end. -/
def chanTlb (i n : Nat) : TlbPlace := .port (4 * peerDie i * 2 ^ 40 + 2 ^ 37 + chanKey i n)

/-- A far end's access checked against the watchpoints of job block 0 of the grant's context, and its record, with
SOURCE 3 (R361-R363). -/
def State.watchPeer (s : State) (i asid va n : Nat) (write : Bool) : State :=
  let here := (s.ctx asid).cxdesc.getLsbD 63
  let ws := if here then s.watchesAt asid (s.blockVa asid 0) else []
  let s := if here then s.touches asid [(s.blockVa asid 0 + 0x500, 128)] else s
  match watchHit ws va n (!write) write with
  | none => s
  | some w =>
    let first := match ws.getD w none with
      | some x => max va x.addr
      | none => va
    { s with ms := s.ms.postWatch (BitVec.ofNat 256 (w + (if write then 8 else 0) + 3 * 2 ^ 4 + asid % 65536 * 2 ^ 8
      + i * 2 ^ 50 + first * 2 ^ 64 + s.time % 2 ^ 64 * 2 ^ 128)) }

/-- Bytes that a far end reads through its record, in whole granules. -/
def State.farRead (s : State) (i n : Nat) (x : RecRef) (va len : Nat) : State × Except PErr (List Byte) :=
  if len = 0 then (s, .ok [])
  else
    match s.cryptOf x.asid x.key with
    | none => (s, .error (.acc .key va .read))
    | some ks =>
      let whole := roundUp len 32
      let walks := s.ms.rangeWalks (chanTlb i n) (peerDie i) x.asid va whole .read 31 (whole / 65536 + 2)
      match s.ms.vparts (chanTlb i n) (peerDie i) x.asid va whole .read (whole / 65536 + 2) with
      | (ms, .error (e, a)) => (({ s with ms := ms } : State).charge walks, .error (.acc e a .read))
      | (ms, .ok ps) =>
        let s1 := ({ s with ms := ms } : State).charge (walks ++ ms.partCharges (peerDie i) 31 ps)
        if ps.any fun (pa, m) => ms.rangeBad pa m then (s1, .error (.acc .ue va .read))
        else
          (s1.watchPeer i x.asid va len false,
           .ok ((crypt false ks (lrBase x.rcd) va (ps.flatMap fun (pa, m) => readMem ms.mem (ms.nowPa pa) m)).take len))

/-- Whole granules that a far end writes through its record. -/
def State.farWrite (s : State) (i n : Nat) (x : RecRef) (va : Nat) (bs : List Byte) : State × Option PErr :=
  match s.cryptOf x.asid x.key with
  | none => (s, some (.acc .key va .write))
  | some ks =>
    let walks := s.ms.rangeWalks (chanTlb i n) (peerDie i) x.asid va bs.length .write 31 (bs.length / 65536 + 2)
    match s.ms.vparts (chanTlb i n) (peerDie i) x.asid va bs.length .write (bs.length / 65536 + 2) with
    | (ms, .error (e, a)) => (({ s with ms := ms } : State).charge walks, some (.acc e a .write))
    | (ms, .ok ps) =>
      let s1 := { s with ms := ms.writeParts ps (crypt true ks (lrBase x.rcd) va bs) }
      ((s1.charge (walks ++ ms.partCharges (peerDie i) 31 ps)).watchPeer i x.asid va bs.length true, none)

/-- The class of an error. -/
def PErr.cls (e : PErr) : FaultClass :=
  match e with
  | .acc (.xlate _) _ _ => .xlate
  | .acc .perm _ _ => .perm
  | .acc .ue _ _ => .dataUe
  | .acc .key _ _ => .key
  | .check n _ _ => checkClass n
  | .cause _ => .illegal

/-- A far end that fails: ERR goes across and the channel closes (R359). -/
def State.farFail (s : State) (i n : Nat) (cls : FaultClass) : State :=
  (s.tell i n (.tok (errTok cls))).setChan i n none

/-- An error at a far end: an XLATE is posted with AGENT 3 and freezes it; anything else closes it. -/
def State.farStop (s : State) (i n asid : Nat) (e : PErr) : State :=
  match e with
  | .acc (.xlate x) va k =>
    let o : OpenFault :=
      { fid := 0, asid := asid, granule := va / 65536, reason := x, va := BitVec.ofNat 64 va, agentCode := 3,
        ring := 4 * peerDie i, slot := 0, col := 0, forme := 0, link := i, kinds := [k],
        waiters := [.peer (chanKey i n)] }
    let s1 := { s with ms := (s.ms.post (peerDie i) o).1 }
    match s1.chan i n with
    | some c => s1.setChan i n (some { c with frozen := true })
    | none => s1
  | e => s.farFail i n e.cls

/-- One step of a far end that loads: a token sent, or the next element read, or EOS. None: it waits. -/
def State.farLoad (s : State) (i n : Nat) (c : Chan) (cmd : Cmd) : Option State :=
  match c.tx with
  | t :: rest =>
    if c.credit = 0 then none
    else some ((s.tell i n (.tok t)).setChan i n (some { c with tx := rest, credit := c.credit - 1 }))
  | [] =>
    if c.elem < cmd.elems then
      let x := cmd.rec1
      let va := tileVa x.rcd (cmd.index c.elem)
      match readTile (fun s off len => s.farRead i n x (va + off) len) s (lrTbytes x.rcd) (lrTemplate x.rcd) 0 false with
      | (s1, .error e) => some (s1.farStop i n cmd.asid e)
      | (s1, .ok t) =>
        let (h, img) := t.toLink (c.elem % 65536)
        some (s1.setChan i n (some { c with elem := c.elem + 1, tx := tileToks h img }))
    else if c.eos then some (s.setChan i n none)
    else if cmd.eos then some (s.setChan i n (some { c with tx := [.ctl .eos 0], eos := true }))
    else none

/-- One step of a far end that stores: the tile that waits is written, or the next token is taken (11 R308). A
credit returns for each token. -/
def State.farStore (s : State) (i n : Nat) (c : Chan) (cmd : Cmd) : Option State :=
  match c.full with
  | some (h, img) =>
    let x := cmd.rec1
    match s.farWrite i n x (tileVa x.rcd (cmd.index c.elem)) (linkTile h img).toMem with
    | (s1, some e) => some (s1.farStop i n cmd.asid e)
    | (s1, none) => some (s1.setChan i n (some { c with elem := c.elem + 1, full := none }))
  | none =>
    match c.rx with
    | [] => none
    | t :: rest =>
      let c1 := { c with rx := rest }
      let s1 := s.tell i n (.credit 1)
      match t, c.tile with
      | .hdr hd, none =>
        let e := storeCheck cmd hd
        if cmd.elems ≤ c.elem then none
        else if e != 0 then some (s1.farFail i n (checkClass e))
        else some (s1.setChan i n (some { c1 with tile := some { hdr := hd } }))
      | .data d, some x =>
        if x.got < x.n then some (s1.setChan i n (some { c1 with tile := some (x.add d) })) else some (s1.farFail i n .shape)
      | .ctl .eot v, some x =>
        if x.got == x.n && eotFits x v then some (s1.setChan i n (some { c1 with tile := none, full := some (x.hdr, x.img) }))
        else some (s1.farFail i n .shape)
      | .ctl .eos _, none => some ((s1.tell i n .done).setChan i n none)
      | .ctl tag _, none => if tag == .eot then some (s1.farFail i n .shape) else some (s1.setChan i n (some c1))
      | .ctl .seg _, some x => some (s1.setChan i n (some { c1 with tile := some x }))
      | .ctl _ _, some _ => some (s1.farFail i n .shape)
      | .hdr _, some _ => some (s1.farFail i n .shape)
      | .data _, none => some (s1.farFail i n .shape)

/-- A far end at work until it waits: for tokens, for credits, or for the arbiters, which let it go on in a later period
(04 R116). -/
def State.pump (s : State) (i n fuel : Nat) : State :=
  match fuel with
  | 0 => s
  | fuel + 1 =>
    match s.chan i n with
    | none => s
    | some c =>
      if c.frozen then s
      else
        match c.cmd with
        | none => s
        | some cmd =>
          match (if c.dir then s.farStore i n c cmd else s.farLoad i n c cmd) with
          | some s1 =>
            if s.admits (.chan i n) s.wanted (s.chargedBy s1) then (s1.served (.chan i n)).pump i n fuel
            else s.waitsFor (.chan i n) (s.chargedBy s1)
          | none => s

/-- The steps that a channel can make before it waits. -/
def Chan.fuel (c : Chan) : Nat := 2 * c.credit + 2 * c.rx.length + c.tx.length + 8

/-- A far end at work. -/
def State.pumpAll (s : State) (i n : Nat) : State :=
  match s.chan i n with
  | some c => s.pump i n c.fuel
  | none => s

/-- The entry of a grant. -/
def State.grant (s : State) (g : Nat) : BitVec 256 := tget 0 s.bd.grants g

/-- The command of a far end under a grant: its PATTERN as a nest, LH, and EOS. -/
def farCmd (e : BitVec 256) (dir : Bool) (lh : BitVec 512 × Nat) : Cmd :=
  let bits := (if dir then 2 else 1) + (if !dir && e.getLsbD 3 then 2 ^ 32 else 0) + fieldN 256 e 64 80 * 2 ^ 48
  { ticket := 0, bits := BitVec.ofNat 128 bits, asid := fieldN 256 e 16 16, lh := some lh }

/-- The captured record under which a grant may be opened over a link; none where R359 refuses. -/
def State.grantOk (s : State) (i g : Nat) (dir : Bool) : Option (BitVec 512 × Nat) :=
  let e := s.grant g
  let asid := fieldN 256 e 16 16
  if g < 4096 && e.getLsbD 0 && e.getLsbD (48 + i) && (if dir then e.getLsbD 2 else e.getLsbD 1)
      && (tget 0 s.ms.roots asid).getLsbD 0 then
    s.capture asid (fieldN 256 e 32 16)
  else none

/-- PEER_OPEN (R359): an open request that arrives is refused, or starts a far end; one whose nest is refused
closes with ERR. -/
def execPeerOpen (link : Fin 16) (n : Nat) (g : BitVec 16) (dir : Bool) (s : State) : Out :=
  let i := link.val
  if !(s.peer i).up || (s.chan i n).isSome then .next s
  else
    match s.grantOk i g.toNat dir with
    | none => .next (s.tell i n .refuse)
    | some lh =>
      let c := farCmd (s.grant g.toNat) dir lh
      let s1 := (s.tell i n .accept).setChan i n
        (some { dir := dir, cmd := some c, credit := Config.peerCredits })
      if c.nestBad || c.beyond lh.1 then .next (s1.farFail i n .illegal) else .next (s1.pumpAll i n)

/-! ### The requester's end (R315, R360) -/

/-- The requester's end of a binding's channel gone; of a lost link it has gone already. -/
def State.dropChan (s : State) (b : PeerBind) : State := if b.lost then s else s.setChan b.link b.chan none

/-- The requester's end of a binding's channel. -/
def State.chanOf (s : State) (b : PeerBind) : Option Chan := if b.lost then none else s.chan b.link b.chan

/-- A fault of a channel at its ring port: PEER with its cause. The command stays in the port block with its fault
(11 R328). -/
def State.peerFault (s : State) (r : PRef) (b : PeerBind) (cause cls : Nat) : State :=
  ((s.portFail r .peer (BitVec.ofNat 64 (cause + cls * 2 ^ 8 + b.grant * 2 ^ 16)) 0).dropChan b).modPort
    r.key fun p => { p with peer := none, trail := p.trail ++ [{ cmd := b.cmd, freeze := some (.fault .peer 0) }] }

/-- A binding that has ended: its command leaves the port. -/
def State.peerEnd (s : State) (r : PRef) (b : PeerBind) : State :=
  (s.dropChan b).modPort r.key fun p => { p with peer := none, trail := p.trail ++ [{ cmd := b.cmd }] }

/-- A token from a peer goes behind the port's replies; its EOS ends the binding. -/
def State.peerIn (s : State) (r : PRef) (b : PeerBind) (c : Chan) : State :=
  let p := s.port r.key
  match c.rx with
  | [] => s
  | t :: rest =>
    let s1 := (s.tell b.link b.chan (.credit 1)).setChan b.link b.chan (some { c with rx := rest })
    if t.isErr then s.peerFault r b 2 (t.pay.toNat % 256)
    else if t.tag == some .eos then
      let s2 := if b.cmd.eos && !r.l.stopped then s1.reply r b.cmd.ticket [t] else s1
      s2.peerEnd r b
    else if !b.mid && (r.l.stopped || p.stopping) then s
    else
      let ends := t.tag == some .eot
      let b1 := { b with mid := match t with
        | .hdr _ => true
        | _ => b.mid && !ends }
      let s2 := (s1.reply r b.cmd.ticket [t]).modPort r.key fun p => { p with peer := some b1 }
      if r.l.stopped && ends then s2.modPort r.key fun p => { p with peer := none } else s2

/-- A token of the port's FIFO goes to the peer. -/
def State.peerOut (s : State) (r : PRef) (b : PeerBind) (c : Chan) : State :=
  let fk := fifoKey r.lk r.n r.q
  match s.fifo fk with
  | [] => s
  | t :: rest =>
    if c.credit = 0 || c.eos then s
    else
      ((s.setFifo fk rest).tell b.link b.chan (.tok t)).setChan b.link b.chan
        (some { c with credit := c.credit - 1, eos := t.tag == some .eos })

/-- A step of a ring port that a channel is bound to. -/
def State.peerStep (s : State) (r : PRef) (b : PeerBind) : State :=
  match s.chanOf b with
  | none => s.peerFault r b 3 0
  | some c =>
    if c.refused then s.peerFault r b 1 0
    else if c.done then s.peerEnd r b
    else if b.dir then
      (match c.rx.find? Tok.isErr with
       | some t => s.peerFault r b 2 (t.pay.toNat % 256)
       | none => s.peerOut r b c)
    else if (s.port r.key).reply.isEmpty then s.peerIn r b c else s

/-- PORT_ACCESS (R306): the accesses of one stream element in walk order; an SC node's wait for the sequencing
token. At a port bound to a peer, one token crosses. -/
def execPortAccess (p : PortId) (s : State) : Out :=
  match s.pref p with
  | none => .next s
  | some r =>
    if s.lkActive r.lk && !r.scNode then
      let s1 := match (s.port r.key).peer with
        | some b => if (s.port r.key).sealed then s else s.peerStep r b
        | none => s.access r
      if s.admits (.port r.key) s.wanted (s.chargedBy s1) then s.acted r.lk (s1.served (.port r.key))
      else .next (s.waitsFor (.port r.key) (s.chargedBy s1))
    else .next s

/-- A channel number free on a link. -/
def PeerLink.free (p : PeerLink) : Nat :=
  ((List.range (p.chans.length + 1)).find? fun n => (tget none p.chans n).isNone).getD 0

/-- SC_PEER (R315, R359): the open request goes out, and the port is bound to the channel. Over a link that is
lost the command raises PEER. -/
def execScPeer (p : PortId) (s : State) : Out :=
  startCmd 8 p s fun s r c =>
    let i := c.fld 48 4
    let g := c.fld 64 16
    let dir := c.fld 80 1 == 1
    let n := (s.peer i).free
    let b : PeerBind := { cmd := c, link := i, grant := g, dir := dir, chan := n }
    let s1 := s.modLaunch r.lk fun l => { l with peered := l.peered || l.snapOn }
    if (s.peer i).up then
      let t := ((s1.setChan i n (some { cls := s.classOf r.l.job, dir := dir, credit := Config.peerCredits })).tell i n (.ask g dir)).modPort r.key
        fun p => { p with peer := some b }
      if s.admits (.port r.key) s.wanted (s.chargedBy t) then some (t.served (.port r.key)) else none
    else some (s1.peerFault r b 3 0)

/-! ### SC.CLOSE (11 R313, R324) -/

/-- The tokens that a channel holds on this side. -/
def State.chanEmpty (s : State) (b : PeerBind) : Bool :=
  match s.chanOf b with
  | some c => c.rx.isEmpty && !b.mid
  | none => true

/-- The end of an overflow binding: its places in ring SRAM are freed, on the ring where SC.OVERFLOW took them, that of its
thread (R324, 17 R429). -/
def State.ovfEnd (s : State) (r : PRef) (key : Nat) (o : Overflow) (w : LinkW) : State :=
  let need := roundUp (64 * (if w.plane = 1 then 8 else 256)) 4096
  let s1 := s.setLink key { s.link key with ovf := none }
  if o.places = 0 then s1 else s1.modLaunch r.lk fun l => { l with sram := tmod 0 l.sram (o.cmd.thread / 4) (· - need) }

/-- SC_CLOSE (R313): ends the port's binding once no token is held in it, or with OVF the overflow binding of a
link once its queue is empty; a load port with no load command left emits EOS. -/
def execScClose (p : PortId) (s : State) : Out :=
  startCmd 14 p s fun s r c =>
    if c.all then
      let key := linkKey r.lk c.w3 (c.fld 64 6)
      match (s.link key).ovf, s.ovfLink r c with
      | some o, some w => if o.toks.isEmpty then some (((s.ovfEnd r key o w).finish o.cmd).finish c) else none
      | _, _ => some (s.finish c)
    else
      let q := s.port r.key
      match q.spad, q.peer with
      | some b, _ =>
        if b.q.isEmpty && q.tile.isNone then
          some (((s.modPort r.key fun p => { p with spad := none }).finish b.cmd).finish c)
        else none
      | none, some b =>
        if s.chanEmpty b && q.reply.isEmpty then
          let s1 := (s.dropChan b).modPort r.key fun p => { p with peer := none }
          some ((s1.finish b.cmd).finish c)
        else none
      | none, none =>
        let loads := r.ag && (match r.cfg with
          | some cfg => cfg.replies
          | none => false) || (!r.ag && s.isSource r)
        let s1 := if loads && !(q.q.any Cmd.loads) then s.reply r noTicket [.ctl .eos 0] else s
        some (s1.finish c)

/-! ### Flits (R417, R418) -/

/-- The control token of a tag code (08 R218). -/
def tokOf (code : Nat) (v : W64) : Option Tok :=
  (([Tag.data, .eot, .eos, .eor, .mark, .err, .fsw, .fence, .seg, .late]).find? fun t => t.code == code).map fun t => .ctl t v

/-- Tokens that arrive on a channel; at a far end they are worked on. -/
def State.chanRx (s : State) (i n : Nat) (ts : List Tok) : State :=
  match s.chan i n with
  | some c => (s.setChan i n (some { c with rx := c.rx ++ ts })).pumpAll i n
  | none => s

/-- What a flit that has passed its CRC does. -/
def State.flit (s : State) (i : Nat) (bs : List Byte) : State :=
  let head : W64 := BitVec.ofNat 64 (ofBytesLE (bs.take 8))
  let body := (bs.drop 8).take 240
  let n := Config.flitChan head
  let s1 := (s.chargeFlits i n true 1).modPeer i fun p => { p with rxSeq := (p.rxSeq + 1) % 4096 }
  let s2 := match s1.chan i n with
    | some c => s1.setChan i n (some { c with credit := c.credit + Config.flitCredit head })
    | none => s1
  let half := tget [] (s2.peer i).half n
  let s3 := s2.modPeer i fun p => { p with half := tset [] p.half n [] }
  let closeBy (f : Chan → Chan) : State := match s2.chan i n with
    | some c => s2.setChan i n (some (f c))
    | none => s2
  match Config.flitType head with
  | 1 => s2.chanRx i n ((Config.flitSlots body).filterMap fun e => tokOf e.1 e.2)
  | 2 => s2.modPeer i fun p => { p with half := tset [] p.half n body }
  | 3 => s3.chanRx i n [.data (Config.flitData half body)]
  | 4 => s3.chanRx i n [.hdr ((Config.flitData half body).setWidth 256)]
  | 6 => closeBy fun c => { c with refused := true }
  | 7 => closeBy fun c => { c with done := true }
  | 8 =>
    let q := Config.flitAsked body
    s2.modPeer i fun p => { p with nakSeq := q, naks := if p.nakSeq == q then p.naks + 1 else 1 }
  | _ => s2.pumpAll i n

/-- FLIT_RECEIVE (R417): a flit of 256 bytes that fails its CRC is replayed, and one out of sequence (behind a flit to
be replayed, or one that had arrived) is passed over, so that flits act in order and once; another does what it says. -/
def execFlitReceive (link : Fin 16) (bs : List (BitVec 8)) (s : State) : Out :=
  let i := link.val
  if !(s.peer i).up || bs.length != 256 then .next s
  else
    let s1 := s.modPeer i fun p => { p with lastFs := s.clk.fs }
    if ofBytesLE (bs.drop 248) = (Config.flitCrc (bs.take 248)).toNat then
      if (Config.flitSeq (BitVec.ofNat 64 (ofBytesLE (bs.take 8)))).toNat = (s.peer i).rxSeq then
        .next ((s1.modPeer i fun p => { p with fails := 0 }).flit i bs)
      else .next s1
    else .next (s1.modPeer i fun p => { p with fails := p.fails + 1 })

/-- The ring ports of running launches that a channel of a link is bound to. -/
def State.peerPorts (s : State) (i : Nat) : List (PRef × PeerBind) :=
  s.fab.ports.filterMap fun (key, p) =>
    match p.peer, s.launch (key / 2 ^ 20) with
    | some b, some l =>
      let x := key % 2 ^ 20 - 0x80000
      if b.link = i then some ({ s.placePort (key / 2 ^ 20) l (x / 16) (48 + x % 16) with key := key }, b) else none
    | _, _ => none

/-- The bindings to a link that saved jobs hold, lost with it: on resume they raise PEER (R418). -/
def State.loseSaved (s : State) (i : Nat) : State :=
  let port (p : PortSt) : PortSt :=
    { p with peer := p.peer.map fun b => if b.link == i then { b with lost := true } else b }
  let saved (v : Saved) : Saved := { v with fab := { v.fab with ports := v.fab.ports.map fun e => (e.1, port e.2) } }
  s.jobIds.foldl (fun (a : State) id => a.modJob id fun j => { j with saved := j.saved.map saved }) s

/-- A link that is lost: every channel over it raises PEER with cause 3 at its requester, and its far ends close. -/
def State.loseLink (s : State) (i : Nat) : State :=
  (((s.peerPorts i).foldl (fun (a : State) e => a.peerFault e.1 e.2 3 0) s).loseSaved i).modPeer i fun p =>
    { p with up := false, chans := [], half := [] }

/-- Whether eight replays of one flit have failed: of one that arrives, whose first failure is no replay, or of one
of this module's, for each of which the peer asks again (R418). -/
def PeerLink.replaysFailed (p : PeerLink) : Bool := 9 ≤ p.fails || 9 ≤ p.naks

/-- LINK_LOST (R418): after eight failed replays of one flit, or 10 µs without a flit, the link is lost. -/
def execLinkLost (link : Fin 16) (s : State) : Out :=
  let p := s.peer link.val
  if p.up && (p.replaysFailed || p.lastFs + 10000000000 ≤ s.clk.fs) then .next (s.loseLink link.val) else .next s

/-- LINK_RETRAIN (R418): a lost link comes up, without channels; one of a lost die stays down. -/
def execLinkRetrain (link : Fin 16) (s : State) : Out :=
  if (s.peer link.val).up || (s.ms.die (peerDie link.val)).lost then .next s
  else
    .next (s.modPeer link.val fun p =>
      { p with up := true, fails := 0, naks := 0, lastFs := s.clk.fs, rxSeq := 0, txSeq := 0 })

end Sys2Proof.Machine
end

