-- ==== Sys2Proof/Machine/AgOps.lean ====
section
/-! DEFINITION. The AG element operations (11 R307-R309, R316-R318, R323): emitting what a port has read,
taking what a port writes, and the scratchpad element. -/

namespace Sys2Proof.Machine

/-- The registers of an element after a firing. -/
def ElemSt.didFire (e : ElemSt) (fc : Nat) : ElemSt := { e with fired := e.fired + 1, lastFc := some fc }

/-- A firing of an AG element that has consumed inputs and changed the machine as `f` says (08 R220). -/
def State.agFired (s : State) (x : Site) (take : Nat) (f : State → State) : State :=
  let s1 := (f (s.popAll x take)).setElem x.key (x.e.didFire s.clk.fc)
  ((s1.progress x.lk).busy x.l x.j).settle x.lk

/-- A marker placed or passed by an AG element: no firing (08 R219), and no progress mark (14 R393). -/
def State.agPassed (s : State) (x : Site) (f : State → State) : State :=
  let s1 := (f s).setElem x.key { x.e with lastFc := some s.clk.fc }
  ((s1.stirred x.lk).busy x.l x.j).settle x.lk

/-- The element at a site, if it holds operation `op` and may fire. -/
def agSite (op : Nat) (id : ElemId) (s : State) (f : State → Site → State) : Out :=
  let s1 := s.settle (launchKey id.launch)
  match s1.site id with
  | none => .next s
  | some x => if x.cfg.op == op && s1.may x && !errAt (s1.headsOf x) then .next (f s1 x) else .next s

/-- Whether a port may let its next token go (05 R132, 04 R117, 14 R391): an FSW leaves by FORME_SWITCH. -/
def State.mayEmit (s : State) (x : Site) (p : PortSt) (h : Option Head) : Bool :=
  !p.sealed && h.isSome && headTag h != some .fsw && s.roomOf x 0 && s.rateOk x.l p
  && (headTag h == some .mark || s.mayDeliver x.lk x.l x.k x.c p)

/-- The token at the head of the reply stream emitted on o0. -/
def State.emitReply (s : State) (x : Site) : State :=
  let p := s.port x.port
  match p.replyHead with
  | none => s
  | some h =>
    let p1 := { s.delivered x.l x.k p h.toks with reply := p.reply.drop (h.segs.length + 1) }
    let out (a : State) : State := ((a.setPort x.port p1).countIn x.lk h.toks).sendOut x.lk x.l x.k x.c 0 h.toks
    if h.tok.tag == some .mark then s.agPassed x out else s.agFired x 0 out

/-- What a source element does when it fires: a marker that it owes goes first, in a resident pipeline, once the
elements diverted before it are out; then the head of its reply stream; after GSTOP, EOS (R307, R318, R327, 14 R384,
07 R194). -/
def State.agEmit (s : State) (x : Site) : State :=
  let p := s.port x.port
  let owes := x.l.owesMark p && p.div.isEmpty && (!p.marks || p.reply.isEmpty)
  if s.mayEmit x p p.replyHead || (owes && p.reply.isEmpty && s.roomOf x 0 && !p.sealed && s.rateOk x.l p) then
    if owes && (x.l.blockLen x.k).isNone && headTag p.replyHead != some .mark then
      let tok := markTok x.l.mark
      let s1 := (s.markPort x.lk x.port []).modPort x.port fun p => s.rated x.l p 1
      (s1.snapElem x x.l.mark { x.e with mark := x.l.mark }).agPassed { x with e := { x.e with mark := x.l.mark } } fun a =>
        a.sendOut x.lk x.l x.k x.c 0 [tok]
    else if headTag p.replyHead == some .mark then
      let k := (match p.replyHead with
        | some h => h.tok.pay
        | none => 0).toNat
      (s.snapElem x k { x.e with mark := k }).emitReply { x with e := { x.e with mark := k } }
    else s.emitReply x
  else if x.l.stopped && p.reply.isEmpty && !p.eos && !p.mid && !p.sealed && s.roomOf x 0 && s.rateOk x.l p
      && s.mayDeliver x.lk x.l x.k x.c p then
    let p1 := s.delivered x.l x.k p [eosTok]
    s.agFired x 0 fun a => (a.setPort x.port p1).sendOut x.lk x.l x.k x.c 0 [eosTok]
  else s

/-- AGLD (R307, R318): emits what its port has read. -/
def execAgld (e : ElemId) (s : State) : Out := agSite 0x70 e s fun s x => s.agEmit x

/-- AGGAT (R307): emits what its port has read; takes an index token for a gather that needs one; an EOS ends a
gather without a count, and passes when no gather is there, unless the port has emitted an EOS already (07 R194). -/
def execAggat (e : ElemId) (s : State) : Out :=
  agSite 0x72 e s fun s x =>
    let p := s.port x.port
    let h := s.inHead x 0
    -- its reply stream is an input too: it fires on none while an FSW heads it (05 R133)
    if headTag p.replyHead == some .fsw then s
    else
    match headVal h, p.cur with
    | some v, some c =>
      if c.cmd.scop == 3 && p.index.isNone && !c.loaded && c.freeze.isNone && !p.sealed && !p.atStop c then
        s.agFired x 1 fun a => a.modPort x.port fun p => { p with index := some v.toNat }
      else s.agEmit x
    | some _, none => if x.l.stopped || p.sealed then s.agFired x 1 fun a => a else s.agEmit x
    | none, some c =>
      if headTag h == some .eos && c.cmd.scop == 3 && c.cmd.nidx == 0 && p.index.isNone && !c.ended then
        let r := s.siteRef x
        s.agFired { x with e := { x.e with eos := x.e.eos ||| 1 } } 1 fun a => a.loadTail r { c with ended := true }
      else s.agEmit x
    | none, none =>
      if headTag h == some .eos && p.reply.isEmpty && p.q.isEmpty then
        s.agFired { x with e := { x.e with eos := x.e.eos ||| 1 } } 1 fun a =>
          if p.eos then a else a.reply (s.siteRef x) noTicket [eosTok]
      else s.agEmit x

/-- The token that tells of a tile written emitted on o0 (R317), under the port's rate (04 R117). -/
def State.emitWritten (s : State) (x : Site) : State :=
  let p := s.port x.port
  if s.roomOf x 0 && s.rateOk x.l p then
    s.agFired x 0 fun a =>
      (a.setPort x.port { s.rated x.l p 1 with reply := p.reply.drop 1 }).sendOut x.lk x.l x.k x.c 0
        ((p.reply.take 1).map fun r => r.2)
  else s

/-- Whether a store element takes its head: not while a tag that it does not handle itself heads its input. -/
def storeHead (c : Cfg) (h : Option Head) : Bool :=
  match headTag h with
  | some t => !(t.aligned || t == .fsw || t == .err) || agOwnTag c t
  | none => h.isSome

/-- The EOS bit of an element that consumes an EOS at input 0. -/
def eosMark (e : ElemSt) (h : Option Head) (bits : Nat) : ElemSt :=
  if headTag h == some .eos then { e with eos := e.eos ||| bits } else e

/-- Whether a MARK, FENCE or FSW heads the data input of a store element inside a tile (01 R30). -/
def State.strayTag (s : State) (x : Site) : Bool :=
  (s.port x.port).inTile x && (match headTag (s.inHead x 0) with
    | some t => t == .mark || t == .fence || t == .fsw
    | none => false)

/-- A store element on one data input (R308, R309). -/
def State.agStore (s : State) (x : Site) : State :=
  let p := s.port x.port
  let r := s.siteRef x
  if !p.reply.isEmpty then s.emitWritten x
  else if s.strayTag x then s.betweenTiles r
  else
    let h := s.inHead x 0
    match h with
    | none => s
    | some hd =>
      if storeHead x.cfg h && (s.storeTakes r hd || (x.cfg.op == 0x71 && s.storeWaits r hd)) then
        s.agFired { x with e := eosMark x.e h 1 } 1 fun a => a.storeTok r hd none
      else s

/-- AGST (R308). -/
def execAgst (e : ElemId) (s : State) : Out := agSite 0x71 e s fun s x => s.agStore x
/-- AGRED (R309). -/
def execAgred (e : ElemId) (s : State) : Out := agSite 0x74 e s fun s x => s.agStore x

/-- Whether a head is a tag that holds an element (08 R219). -/
def tagHead (h : Option Head) : Bool :=
  match headTag h with
  | some t => t.aligned || t == .fsw
  | none => false

/-- AGSCT (R308): a tile on A with its index token on B, which is consumed with the tile's EOT. -/
def execAgsct (e : ElemId) (s : State) : Out :=
  agSite 0x73 e s fun s x =>
    let p := s.port x.port
    let r := s.siteRef x
    let a := s.inHead x 0
    let b := s.inHead x 1
    if !p.reply.isEmpty then s.emitWritten x
    else if s.strayTag x then s.betweenTiles r
    else if tagHead a || tagHead b then
      match a, headTag a with
      | some hd, some t =>
        if headTag b == some t && agOwnTag x.cfg t && s.storeTakes r hd then
          s.agFired { x with e := eosMark x.e a 3 } 3 fun m => m.storeTok r hd none
        else s
      | _, _ => s
    else if x.l.stopped || p.sealed then
      if a.isSome then s.agFired x 1 fun m => m else if b.isSome then s.agFired x 2 fun m => m else s
    else
      match a with
      | none => s
      | some hd =>
        if !s.storeTakes r hd then s
        else if headEot a then
          match headVal b with
          | some v => s.agFired x 3 fun m => m.storeTok r hd (some v.toNat)
          | none => s
        else s.agFired x 1 fun m => m.storeTok r hd none

/-! ### AGSPAD (R323) -/

/-- The granules that tokens take in a FIFO region. -/
def fifoGran (ts : List Tok) : Nat := (ts.map fun t => if t.wide then 8 else 1).foldl (· + ·) 0

/-- Tokens' payloads written into a FIFO region, each at its granules, from granule `pos` of the circular buffer on. -/
def State.spFifoPut (s : State) (r : PRef) (b : SpBind) (pos : Nat) (ts : List Tok) : State :=
  match ts with
  | [] => s
  | t :: rest =>
    let n := fifoGran [t]
    let bs := bytesLE (32 * n) t.payload
    let s1 := (List.range n).foldl (fun (a : State) i =>
      a.spPut r (32 * (b.spoff + (pos + i) % b.splen)) ((bs.drop (32 * i)).take 32)) s
    s1.spFifoPut r b (pos + n) rest

/-- The tokens of a FIFO region with the payloads that its granules hold, from granule `pos` on. -/
def State.spFifoGet (s : State) (r : PRef) (b : SpBind) (pos : Nat) (ts : List Tok) : List Tok :=
  match ts with
  | [] => []
  | t :: rest =>
    let n := fifoGran [t]
    let bs := (List.range n).flatMap fun i => s.spRead r.g r.b r.i (32 * (b.spoff + (pos + i) % b.splen)) 32
    t.withPayload (ofBytesLE bs) :: s.spFifoGet r b (pos + n) rest

/-- A fault of an AGSPAD element's port. -/
def State.spadFail (s : State) (x : Site) (cls : FaultClass) (d : W64) : State := s.portFail (s.siteRef x) cls d 0

/-- A port with its scratchpad binding replaced. -/
def State.setSpad (s : State) (key : Nat) (b : SpBind) : State := s.modPort key fun p => { p with spad := some b }

/-- What the header checks and the token counts of a tile say of a token that reaches an AGSPAD: the class and detail of
the fault, and the tile that is open behind it (01 R21, R30). -/
def spadTile (open' : Option TileIn) (t : Tok) : Except (FaultClass × W64) (Option TileIn) :=
  match t, open' with
  | .hdr hd, none =>
    let n := checks1to11 hd false none
    if n != 0 then .error (checkClass n, detailWord n 1 hd) else .ok (some { hdr := hd })
  | .hdr _, some o => .error (.shape, detailWord 12 1 o.hdr)
  | .data _, none => .error (.shape, detailWord 12 1 0)
  | .data d, some o => if o.got < o.n then .ok (some (o.add d)) else .error (.shape, detailWord 12 1 o.hdr)
  | .ctl .eot v, some o => if o.got == o.n && eotFits o v then .ok none else .error (.shape, detailWord 12 1 o.hdr)
  | .ctl .eot _, none => .error (.shape, detailWord 12 1 0)
  | .ctl .err _, _ => .ok open'
  | .ctl _ _, none => .ok none
  | .ctl _ _, some o => .error (.shape, detailWord 12 1 o.hdr)

/-- The token on A taken into a FIFO region. On the data plane it is checked as it comes. -/
def State.spadTake (s : State) (x : Site) (b : SpBind) (r : PRef) : State :=
  match s.inHead x 0 with
  | none => s
  | some h =>
    let n := fifoGran h.toks
    if h.tok.tag == some .fsw || h.tok.tag == some .err || b.splen < fifoGran b.q + n then s
    else
      let data := (x.l.linkTo x.k x.c 0).any fun (_, _, w) => w.plane == 0
      match (if data then spadTile (s.port x.port).tile h.tok else .ok none) with
      | .error (cls, d) => s.spadFail x cls d
      | .ok tile =>
        let e1 := eosMark x.e (some h) 1
        let take (a : State) : State :=
          (((a.spFifoPut r b b.next h.toks).setSpad x.port { b with q := b.q ++ h.toks, next := (b.next + n) % b.splen })).modPort
            x.port fun p => { p with tile := tile }
        match h.tok with
        | .ctl .mark v =>
          let e := { e1 with mark := v.toNat }
          (s.snapElem x v.toNat e).agPassed { x with e := e } fun a => take (a.popAll x 1)
        | _ => s.agFired { x with e := e1 } 1 take

/-- An AGSPAD's port after it has let a token out, under the rate of its launch (04 R117). -/
def State.spadRated (s : State) (x : Site) : State := s.modPort x.port fun p => s.rated x.l p 1

/-- AGSPAD.FIFO: the head of the region's buffer goes out, as its granules hold it; every token on A is written behind
it. A MARK that goes out is no firing (08 R219). -/
def State.spadFifo (s : State) (x : Site) (b : SpBind) : State :=
  let r := s.siteRef x
  match headOf [] b.q with
  | some o =>
    if s.roomOf x 0 && s.rateOk x.l (s.port x.port) then
      let pos := (b.next + b.splen - fifoGran b.q % b.splen) % b.splen
      let ts := s.spFifoGet r b pos o.toks
      let out (a : State) : State :=
        ((a.setSpad x.port { b with q := dropHead b.q }).spadRated x).sendOut x.lk x.l x.k x.c 0 ts
      if o.tok.tag == some .mark then s.agPassed x out else s.agFired x 0 out
    else s.spadTake x b r
  | none => s.spadTake x b r

/-- AGSPAD.WRITE: each tile on A is written in canonical form to the next slot; with a TSIZE above SPLEN there is
none, as for a READ (log 112). -/
def State.spadWrite (s : State) (x : Site) (b : SpBind) : State :=
  let r := s.siteRef x
  let p := s.port x.port
  match s.inHead x 0 with
  | none => s
  | some h =>
    if h.tok.tag == some .err || (p.tile.isNone && tagHead (some h)) then s
    else
      match spadTile p.tile h.tok with
      | .error (cls, d) => s.spadFail x cls d
      | .ok tile =>
        match h.tok, p.tile with
        | .hdr hd, _ =>
          let t := Hdr.ofBits hd
          if b.tsize * 32 < t.memSize (t.geom (Hdr.f t)) then s.spadFail x .shape (detailWord 11 1 hd)
          else if isPsd (Hdr.f t) && t.cut != 0 then s.spadFail x .combo (detailWord 15 1 hd)
          else if b.splen < b.tsize then s.spadFail x .illegal (causeWord 5 b.cmd)
          else s.agFired x 1 fun a => a.modPort x.port fun p => { p with tile := tile }
        | .ctl .eot _, some t =>
          s.agFired x 1 fun a =>
            (a.spPut r (32 * (b.spoff + b.next * b.tsize)) (linkTile t.hdr t.img).toMem).modPort x.port fun p =>
              { p with tile := none, spad := some { b with next := (b.next + 1) % (b.splen / b.tsize) } }
        | _, _ => s.agFired x 1 fun a => a.modPort x.port fun p => { p with tile := tile }

/-- AGSPAD.READ: a control value on A names a slot, whose tile is emitted with the TAG and SEQ with which it is stored
(DEDUCED, log 118). -/
def State.spadRead (s : State) (x : Site) (b : SpBind) : State :=
  let r := s.siteRef x
  if !x.e.owea.isEmpty then
    match s.emitOwed x with
    | .go e _ a _ =>
      if s.rateOk x.l (s.port x.port) then
        s.agFired { x with e := e } 0 fun m => (m.spadRated x).sendOut x.lk x.l x.k x.c 0 a
      else s
    | _ => s
  else
    match headVal (s.inHead x 0) with
    | none => s
    | some v =>
      if b.splen / b.tsize ≤ v.toNat then s.spadFail x .illegal (causeWord 5 b.cmd)
      else
        match s.tileInSpad r (32 * (b.spoff + v.toNat * b.tsize)) (b.tsize * 32) 0x3F false with
        | (s1, .error (.check n site h)) => s1.spadFail x (checkClass n) (detailWord n site h)
        | (s1, .error _) => s1
        | (s1, .ok t) =>
          let (h, img) := t.toLink t.x.seq
          s1.agFired { x with e := { x.e with owea := tileToks h img } } 1 fun a => a

/-- What an AGSPAD does next through the region bound to its port; without one it waits. -/
def State.spadStep (s : State) (x : Site) : State :=
  match (s.port x.port).spad with
  | none => s
  | some b =>
    match x.cfg.mode with
    | 0 => s.spadFifo x b
    | 1 => s.spadWrite x b
    | _ => s.spadRead x b

/-- Whether the next step of an AGSPAD accesses the scratchpad: a FIFO always, a WRITE as it takes an EOT, a READ unless
it owes tokens. -/
def State.spadAccess (s : State) (x : Site) : Bool :=
  match x.cfg.mode with
  | 0 => true
  | 1 => headTag (s.inHead x 0) == some .eot
  | _ => x.e.owea.isEmpty

/-- AGSPAD (R323). With SC = 1 it accesses the scratchpad only in a visit of the sequencing token (R306, 13 R377). -/
def execAgspad (e : ElemId) (s : State) : Out :=
  agSite 0x75 e s fun s x => if x.cfg.sc && s.spadAccess x then s else s.spadStep x

/-! ### The sequencing token (13 R377) -/

/-- The access of an AGSPAD in a visit of the token. -/
def State.spadVisit (s : State) (r : PRef) : State :=
  match (s.holder r.lk r.l r.k r.c).bind fun key =>
      s.site { launch := launchOf r.lk, stripe := key / 16 % 512, col := Fin.ofNat 16 r.c } with
  | some x => if s.may x && !errAt (s.headsOf x) && s.spadAccess x then s.spadStep x else s
  | none => s

/-- Whether the element of a port is an AGSPAD. -/
def PRef.spad (r : PRef) : Bool :=
  match r.cfg with
  | some cfg => cfg.op == 0x75
  | none => false

/-- The accesses of one stream element of an SC node; at an AGSPAD those of the command at work on its port, an SC.COPY
or SC.FILL, come first. -/
def State.scAccess (s : State) (r : PRef) : State :=
  let t := s.access r
  if r.spad && t == s then s.spadVisit r else t

/-- Whether an SC node has an access waiting: an element of a load, a gather's index, a tile to write, a copy or fill
under way; an AGSPAD that can act. -/
def State.scWaits (s : State) (r : PRef) : Bool :=
  let p := s.port r.key
  match p.cur with
  | none => r.spad && s.spadVisit r != s
  | some c =>
    (r.spad && s.spadVisit r != s) || (!p.sealed && c.freeze.isNone && !p.atStop c &&
      (match c.cmd.scop with
       | 1 => p.reply.isEmpty || !c.loaded
       | 3 => p.index.isSome || p.div.any fun d => d.2.2.isNone
       | 2 => p.full.isSome
       | 4 => p.full.isSome
       | 9 => p.full.isSome
       | _ => true))

/-- The translations that an access has walked for, from `s` to `t`: entries that a slice did not hold. -/
def missed (s t : MemSys) : List TlbEntry :=
  t.tlb.filter fun e => (match e.place with
    | .slice _ _ => true
    | _ => false) && !(s.tlb.any fun x => x.place == e.place && x.asid == e.asid && x.page == e.page && x.size == e.size)

/-- The walks of an access alone: for a write where the leaf came back with D. -/
def MemSys.walked (ms : MemSys) (es : List TlbEntry) : MemSys :=
  es.foldl (fun (m : MemSys) e =>
    match e.place with
    | .slice d _ =>
      let va := e.page * 2 ^ e.size
      let m1 := (m.walkSlice d e.asid va .read false).1
      if pteD e.leaf.toNat then (m1.walkSlice d e.asid va .write true).1 else m1
    | _ => m) ms

/-- SC_TOKEN_VISIT (13 R377): the token goes to the next node of its domain that has an access waiting, which
performs the accesses of one stream element. A translation miss gives up the visit: its walk is made, and the access
waits for the next. -/
def execScTokenVisit (dom : Option (Fin 16)) (s : State) : Out :=
  let d := dom.map Fin.val
  let i := d.getD 16
  let at' := tget 0 s.fab.seqTok i
  let ns := (s.scNodes d).filter fun x => s.scWaits x.2
  match (ns.find? fun x => at' < x.1 + 1).or ns.head? with
  | none => .next s
  | some (key, r) =>
    let s1 := s.modFab fun f => { f with seqTok := tset 0 f.seqTok i (key + 1) }
    let t := s.scAccess r
    let misses := missed s.ms t.ms
    if !s.admits (.port r.key) s.wanted (s.chargedBy t) then .next (s.waitsFor (.port r.key) (s.chargedBy t))
    else if t = s then .next s1
    else if !misses.isEmpty then .next { s1 with ms := s.ms.walked misses }
    else .next ((((s1.scAccess r).stirred r.lk).settle r.lk).served (.port r.key))

/-! ### A new budget period (04 R116) -/

/-- Whether a request that waits at the arbiters is still to be made. -/
def State.stillAsks (s : State) (who : Asker) : Bool :=
  match who with
  | .thread k => (s.thread k).run == .running && (s.thread k).wait.isNone
  | .port key => match s.keyRef key with
    | some r => match (s.port key).peer with
      | some b => !(s.chargedBy (s.peerStep r b)).isEmpty
      | none => !(s.chargedBy (if r.scNode then s.scAccess r else s.access r)).isEmpty
    | none => false
  | .chan i n => (s.chan i n).isSome
  | .move asid va => s.ms.moves.any fun m => m.asid == asid && m.va == va && m.phase == .copying
  | .commit lk => (s.launch lk).isSome
  | .forme lk k => match s.launch lk with
    | some l => !s.cached lk l k
    | none => false
  | .ckpt => s.bd.ckpt.phase == .copying
  | .mgmt => true

/-- The line of a new period: requests that are no more have left it, and every far end that waits goes on as far as
the period lets it. -/
def State.newPeriod (s : State) : State :=
  s.bd.line.foldl (fun (a : State) w => match w.who with
    | .chan i n => a.pumpAll i n
    | _ => a) { s with bd := { s.bd with line := s.bd.line.filter fun w => s.stillAsks w.who } }

end Sys2Proof.Machine
end

