-- ==== Sys2Proof/Machine/Banks.lean ====
section
/-! DEFINITION. Fireable elements, and the banks of a shared ring (05 R141-R143, 08 R220). -/

namespace Sys2Proof.Machine

/-- The firing of an operation, by its code. -/
def execOp (op : Nat) (e : ElemId) (s : State) : Out :=
  if opLig op then execLigature e s
  else
    match op with
    | 0x01 => execVadd e s
    | 0x02 => execVsub e s
    | 0x03 => execVmul e s
    | 0x04 => execVfma e s
    | 0x05 => execVmin e s
    | 0x06 => execVmax e s
    | 0x07 => execVabs e s
    | 0x08 => execVneg e s
    | 0x09 => execVdiv e s
    | 0x0A => execVsqrt e s
    | 0x0B => execVrcpe e s
    | 0x0C => execVrsqe e s
    | 0x0D => execVexp2 e s
    | 0x0E => execVlog2 e s
    | 0x0F => execVtanh e s
    | 0x10 => execVsigm e s
    | 0x11 => execViadd e s
    | 0x12 => execVisub e s
    | 0x13 => execVimul e s
    | 0x14 => execVimulh e s
    | 0x15 => execVshl e s
    | 0x16 => execVshr e s
    | 0x17 => execVsar e s
    | 0x18 => execVand e s
    | 0x19 => execVor e s
    | 0x1A => execVxor e s
    | 0x1B => execVnot e s
    | 0x1C => execVabsd e s
    | 0x20 => execVcmp e s
    | 0x21 => execVsel e s
    | 0x22 => execVclamp e s
    | 0x28 => execVcvt e s
    | 0x29 => execVresc e s
    | 0x2A => execVqnt e s
    | 0x2B => execVhdr e s
    | 0x30 => execVperm e s
    | 0x31 => execVrot e s
    | 0x32 => execVbcast e s
    | 0x33 => execVpack e s
    | 0x34 => execVunpk e s
    | 0x38 => execVred e s
    | 0x39 => execVscan e s
    | 0x3A => execVacc e s
    | 0x3B => execVlrec e s
    | 0x3C => execVchunk e s
    | 0x3D => execVseg e s
    | 0x40 => execVpass e s
    | 0x41 => execVbuf e s
    | 0x42 => execVcnt e s
    | 0x43 => execVconst e s
    | 0x44 => execVrep e s
    | 0x45 => execVxtr e s
    | 0x46 => execVmerge e s
    | 0x47 => execVsplit e s
    | 0x48 => execVtake e s
    | 0x49 => execVstate e s
    | 0x60 => execMma e s
    | 0x61 => execMmag e s
    | 0x62 => execMlatb e s
    | 0x63 => execMout e s
    | 0x64 => execMzero e s
    | 0x65 => execMouter e s
    | 0x66 => execMtrn e s
    | 0x67 => execMdot e s
    | 0x70 => execAgld e s
    | 0x71 => execAgst e s
    | 0x72 => execAggat e s
    | 0x73 => execAgsct e s
    | 0x74 => execAgred e s
    | 0x75 => execAgspad e s
    | _ => .next s

/-- Whether a step of the fabric does something: it changes the fabric, or records a fault. -/
def State.acts (s : State) (f : State → Out) : Bool :=
  match f s with
  | .next s1 => s1.fab != s.fab || s1.dp != s.dp
  | _ => false

/-- Whether an element meets the firing rule, or awaits a restore or a switch (R142). -/
def State.actable (s : State) (id : ElemId) : Bool :=
  match s.site id with
  | none => false
  | some x =>
    x.e.await || s.acts (execStateRestore id) || s.acts (execErrToken id) || s.acts (execAlignedTag id)
    || s.acts (execFormeSwitch id) || s.acts (execOp x.cfg.op id)

/-- The launches whose window holds a stripe of a ring in a slot's bank, with their window stripes. -/
def State.onStripe (s : State) (g i b : Nat) : List (Nat × Nat) :=
  s.fab.launches.flatMap fun (lk, l) =>
    match l with
    | some l =>
      ((List.range l.win.length).filter fun j => l.place j == (g, i) && s.bankOf lk l j == b).map fun j => (lk, j)
    | none => []

/-- fireable(b, i) of R142: with bank `b` active on the stripe, some element of it has something to do. -/
def State.fireable (s : State) (g b i : Nat) : Bool :=
  let s1 := s.modRing g fun r => { r with active := tset 0 r.active i (b + 1) }
  (s.onStripe g i b).any fun (lk, j) =>
    s.lkActive lk && (List.range 16).any fun c =>
      s1.actable { launch := launchOf lk, stripe := j, col := Fin.ofNat 16 c }

/-- reselect(i) of R142: the bank + 1, or 0. -/
def State.pickBank (s : State) (g i cc : Nat) : Nat :=
  match ((List.range 4).map fun k => (cc + k) % 4).find? fun b => s.fireable g b i with
  | some b => b + 1
  | none => 0

/-- A stripe's bank chosen anew. -/
def State.reselect (s : State) (g i : Nat) : State :=
  let b := s.pickBank g i (s.ringSt g).cc
  s.modRing g fun r => { r with active := tset 0 r.active i b, idleFc := tset 0 r.idleFc i s.clk.fc }

/-- CONTEXT_COUNTER_ADVANCE (R142): SLICE fc after the last advance, the ring's counter advances and every
stripe reselects. -/
def execContextCounterAdvance (g : Fin 16) (s : State) : Out :=
  let r := s.ringSt g.val
  if s.clk.fc < r.advFc + r.slice then .next s
  else
    let s1 := s.modRing g.val fun r => { r with cc := (r.cc + 1) % 4, advFc := s.clk.fc }
    .next ((List.range 24).foldl (fun (a : State) i => a.reselect g.val i) s1)

/-- BANK_RESELECT (R142): a stripe without a bank, or whose bank has had nothing fireable for 4 fc while
another slot has, chooses anew (log 27). While its bank has something fireable the 4 fc begin again. -/
def execBankReselect (g : Fin 16) (i : Fin 24) (s : State) : Out :=
  let r := s.ringSt g.val
  let a := tget 0 r.active i.val
  if a = 0 then .next (s.reselect g.val i.val)
  else if s.fireable g.val (a - 1) i.val then
    .next (s.modRing g.val fun r => { r with idleFc := tset 0 r.idleFc i.val s.clk.fc })
  else if tget 0 r.idleFc i.val + 4 ≤ s.clk.fc && (List.range 4).any fun b => b + 1 != a && s.fireable g.val b i.val then
    .next (s.reselect g.val i.val)
  else .next s

end Sys2Proof.Machine
end

