-- ==== Sys2Proof/Machine/Launching.lean ====
section
/-! DEFINITION. Launching a galley and ending a launch: GLAUNCH with its refusals and reservations (05 R121,
R125, R126, R129-R131, R135, R139, R140, 07 R195, 14 R386), and LAUNCH_END (05 R138, 09 R261, 15 R406). -/

namespace Sys2Proof.Machine

/-! ### Where a tree lies (R129, R131) -/

/-- The nodes at and below `i` with their first window stripe and their stripes, on `p` stripes from `j`; every
child of a SEQ node has the whole. None where a split node has fewer stripes than children (R140, TREE). A
flattened STRM is not descended into. -/
def placeNodes (ns : List Nat) (fuel i j p : Nat) : Option (List (Nat × Nat × Nat)) :=
  match fuel with
  | 0 => none
  | fuel + 1 =>
    let w := ns.getD i 0
    if nKind w = 0 || nodeFlat ns treeFuel i then some [(i, j, p)]
    else
      let kids := nodeKids ns i
      let below := if nKind w = 1 then
          kids.foldl (fun (a : Option (List (Nat × Nat × Nat))) c =>
            a.bind fun ps => (placeNodes ns fuel c j p).map fun q => ps ++ q) (some [])
        else
          match splitWidths (kids.map fun c => nodeSize ns treeFuel c) p with
          | none => none
          | some ws =>
            ((kids.zip ws).foldl (fun (a : Option (List (Nat × Nat × Nat) × Nat)) (c, w) =>
              a.bind fun (ps, j') => (placeNodes ns fuel c j' w).map fun q => (ps ++ q, j' + w)) (some ([], j))).map
              fun r => r.1
      below.map fun q => (i, j, p) :: q

/-- The pipelines of a placed tree, of every child of every SEQ node. -/
def placedPipes (ns : List Nat) (nodes : List (Nat × Nat × Nat)) : List Pipe :=
  nodes.filterMap fun (i, j, p) =>
    if nKind (ns.getD i 0) = 0 || nodeFlat ns treeFuel i then
      let (f, n) := nodeFormes ns i
      some { forme := f, n := n, stripe := j, p := p, node := i }
    else none

/-- Whether a forme has an element that switches: one with an enabled input, or an AGLD (R140, TREE). -/
def formeSwitches (img : Nat) : Bool :=
  (List.range 16).any fun c => fConf img c && ((fCfg img c).inen != 0 || (fCfg img c).op == 0x70)

/-! ### Reservations (R121, R126, R130, R135, R139) -/

/-- What a launch is about to be: galley, window by ring, logical stripe and segment, pipelines. -/
structure LaunchPlan where
  g : Galley
  b : Nat
  win : List (Nat × Nat)
  segOf : List Nat
  nodes : List (Nat × Nat × Nat)
  pipes : List Pipe

/-- Ring and logical stripe of a window stripe. -/
def LaunchPlan.place (x : LaunchPlan) (j : Nat) : Nat × Nat := x.win.getD j (0, 0)

/-- The tokens of a ring-SRAM FIFO that carries a link (R135). -/
def fifoToks (p : Pipe) (b : Nat) (w : LinkW) : Nat := (if p.scrolls then w.delta * b else 0) + w.slots + 1
/-- Its bytes, rounded up to 4 KiB. -/
def fifoBytes' (p : Pipe) (b : Nat) (w : LinkW) : Nat := roundUp (fifoToks p b w * (if w.plane = 1 then 8 else 256)) 4096

/-- The window stripe of forme `k` of a pipeline in sweep `s` (R131). -/
def Pipe.sweepStripe (p : Pipe) (s k : Nat) : Nat :=
  let i := k - p.forme
  p.stripe + (if p.scrolls then (if p.p = 0 then 0 else (s * p.n + i) % p.p) else i)

/-- The sweeps after which routes repeat: one for a resident pipeline. -/
def Pipe.sweepsOf (p : Pipe) : List Nat := if p.scrolls then List.range p.p else [0]

/-- Whether a link of forme `k` runs past the window's end in sweep `s` (R135). -/
def Pipe.wraps (p : Pipe) (s k : Nat) (w : LinkW) : Bool :=
  p.scrolls && p.p ≤ p.sweepStripe s k - p.stripe + w.delta

/-- The boundaries that a link crosses in a sweep in which it does not wrap: window stripe in front of each, and
whether it is the last. -/
def Pipe.route (p : Pipe) (s k : Nat) (w : LinkW) : List (Nat × Bool) :=
  if p.wraps s k w then [] else (List.range w.delta).map fun x => (p.sweepStripe s k + x, x + 1 == w.delta)

/-- The pass slots that a link holds in a sweep, by pool: 2 · (24 · ring + boundary) + plane (R121). A boundary
between two segments is crossed through gateways. -/
def LaunchPlan.holdings (x : LaunchPlan) (p : Pipe) (s k : Nat) (w : LinkW) : List (Nat × Nat) :=
  (p.route s k w).filterMap fun (j, last) =>
    if x.segOf.getD j 0 = x.segOf.getD (j + 1) 0 then
      let (g, i) := x.place j
      some (2 * (24 * g + i) + w.plane, 1 + (if last then w.slots else 0))
    else none

/-- The links of a pipeline, in increasing forme and index. -/
def LaunchPlan.linksOf (x : LaunchPlan) (p : Pipe) : List (Nat × Nat × LinkW) :=
  (List.range p.n).flatMap fun i => (fLinkWs (x.g.img (p.forme + i))).map fun (j, w) => (p.forme + i, j, w)

/-- What a launch has reserved so far: pass slots, deferred links, ring SRAM by ring. -/
structure Reserved where
  pass : Tab Nat := []
  deferred : List (Nat × Nat) := []
  sram : Tab Nat := []
  deriving DecidableEq, Repr

/-- The pools of a sweep with a link's holdings added; none where one does not fit beside those of other
launches and pipelines. -/
def addHoldings (others use : Tab Nat) (hs : List (Nat × Nat)) : Option (Tab Nat) :=
  hs.foldl (fun (a : Option (Tab Nat)) (k, n) => a.bind fun u =>
    if tget 0 others k + tget 0 u k + n ≤ 64 then some (tset 0 u k (tget 0 u k + n)) else none) (some use)

/-- The reservations of a pipeline: `others` are the pass slots held already. A link takes its slots in every
sweep, or is deferred in every sweep; a link that wraps in some sweep has a wrap buffer. That, and the FIFO of a deferred
link, lie on the ring of the consumer's stripe in sweep 0 (DESIGN CHOICE, log 54; R135). -/
def LaunchPlan.reservePipe (x : LaunchPlan) (others : Tab Nat) (p : Pipe) (r0 : Reserved) : Reserved :=
  let ring (k : Nat) (w : LinkW) : Nat := (x.place (p.sweepStripe 0 (k + w.delta))).1
  let start : List (Tab Nat) × Reserved := (p.sweepsOf.map fun _ => [], r0)
  let held := others.foldl (fun (t : Tab Nat) (e : Nat × Nat) => tset 0 t e.1 (tget 0 t e.1 + e.2)) r0.pass
  let (uses, r1) := (x.linksOf p).foldl (fun (a : List (Tab Nat) × Reserved) (k, i, w) =>
    if (w.delta = 0 || w.xend != 0) && (!w.defer || p.scrolls) then a
    else
      let fifo (r : Reserved) : Reserved := { r with sram := tmod 0 r.sram (ring k w) (· + fifoBytes' p x.b w) }
      let defer : List (Tab Nat) × Reserved := (a.1, fifo { a.2 with deferred := a.2.deferred ++ [(k, i)] })
      if w.defer || (p.scrolls && p.p ≤ w.delta) then defer
      else
        let us := ((p.sweepsOf.zip a.1).map fun (s, u) => addHoldings held u (x.holdings p s k w))
        if us.all Option.isSome then
          (us.map fun u => u.getD [], if p.sweepsOf.any fun s => p.wraps s k w then fifo a.2 else a.2)
        else defer) start
  let keys := (uses.flatMap tkeys).eraseDups
  { r1 with pass := keys.foldl (fun (t : Tab Nat) k =>
      tset 0 t k (tget 0 t k + (uses.map fun u => tget 0 u k).foldl max 0)) r1.pass }

/-- The gateway buffers of a pipeline: 64 tokens for each link at each segment boundary that it crosses in some
sweep, on the receiving ring (R126). -/
def LaunchPlan.gateways (x : LaunchPlan) (p : Pipe) (r : Reserved) : Reserved :=
  (x.linksOf p).foldl (fun (a : Reserved) (k, _, w) =>
    if w.xend != 0 then a
    else
      let js := (p.sweepsOf.flatMap fun s => (p.route s k w).filterMap fun (j, _) =>
        if x.segOf.getD j 0 = x.segOf.getD (j + 1) 0 then none else some j).eraseDups
      js.foldl (fun (a : Reserved) j =>
        { a with sram := tmod 0 a.sram (x.place (j + 1)).1 (· + 64 * (if w.plane = 1 then 8 else 256)) }) a) r

/-- The PIPE buffers: 2·HBYTES rounded up to 4 KiB, on the ring of the consuming child's first stripe (R130). -/
def LaunchPlan.pipeBufs (x : LaunchPlan) (r : Reserved) : Reserved :=
  x.nodes.foldl (fun (a : Reserved) (i, j, _) =>
    let h := nHbytes (x.g.nodes.getD i 0)
    if isPipeNext x.g.nodes i then { a with sram := tmod 0 a.sram (x.place j).1 (· + roundUp (2 * h) 4096) } else a) r

/-- Everything a launch reserves of pass slots and ring SRAM, beside what others hold. -/
def LaunchPlan.reserve (x : LaunchPlan) (others : Tab Nat) : Reserved :=
  x.pipeBufs (x.pipes.foldl (fun (r : Reserved) p => x.gateways p (x.reservePipe others p r)) {})

/-- The bytes of state records (R137): those of every stateful element. -/
def LaunchPlan.storeBytes (x : LaunchPlan) : Nat :=
  (List.range x.g.n).foldl (fun a k =>
    let img := x.g.img k
    (List.range 16).foldl (fun a c =>
      if fConf img c && (fCfg img c).stateful then a + ((fCfg img c).state + 1) * 256 else a) a) 0

/-- The footprint of a launch (14 R386). -/
def LaunchPlan.footprint (x : LaunchPlan) : Nat :=
  4096 + x.storeBytes + x.pipes.foldl (fun a p =>
    if p.scrolls then a
    else (List.range p.n).foldl (fun a i =>
      let img := x.g.img (p.forme + i)
      (List.range 16).foldl (fun a c =>
        if fConf img c then a + (if opMat (fCfg img c).op then 262144 else 1024) else a) a) a) 0

/-- The plan of a launch as it stands. -/
def State.launchPlan (s : State) (lk : Nat) (l : Launch) : LaunchPlan :=
  let ns := l.nodes.map BitVec.toNat
  let nodes := (placeNodes ns treeFuel 0 0 l.win.length).getD []
  { g := s.galleyOf lk l, b := l.b, win := l.win, segOf := l.segOf, nodes := nodes, pipes := placedPipes ns nodes }

/-! ### GLAUNCH (R195) -/

/-- Bytes of a ring's state store (R429). -/
def stateStore : Nat := 4 * 1024 * 1024

/-- Bytes of a ring's state store reserved. -/
def State.storeUsed (s : State) (g : Nat) : Nat :=
  s.fab.launches.foldl (fun a e => a + (match e.2 with
    | some l => tget 0 l.store g
    | none => 0)) 0

/-- The pass slots that launches hold, by pool. -/
def State.passUsed (s : State) : Tab Nat :=
  s.fab.launches.foldl (fun (t : Tab Nat) e => match e.2 with
    | some l => l.pass.foldl (fun (t : Tab Nat) h => tset 0 t h.1 (tget 0 t h.1 + h.2)) t
    | none => t) []

/-- The window of a launch (R125): stripes and their segments; none where it leaves the segment or is empty. -/
def Job.window (j : Job) (n : Nat) (chain : Bool) (off p : Nat) : Option (List (Nat × Nat) × List Nat) :=
  let stripes (g : Seg) (a k : Nat) : List (Nat × Nat) := (List.range k).map fun i => (g.ring, (g.base + a + i) % 24)
  if chain then
    let w := j.segs.flatMap fun g => stripes g 0 g.width
    if w.isEmpty then none
    else some (w, (List.range j.segs.length).flatMap fun i => List.replicate ((j.segs[i]?.map fun g => g.width).getD 0) i)
  else
    match j.segs[n]? with
    | some g => if p = 0 || g.width < off + p then none else some (stripes g off p, List.replicate p n)
    | none => none

/-- Whether a window shares a stripe with a running launch of the job. -/
def State.windowTaken (s : State) (j : JobId) (win : List (Nat × Nat)) : Bool :=
  s.fab.launches.any fun e => match e.2 with
    | some l => !l.ended && l.job == j && win.any fun w => l.win.contains w
    | none => false

/-- Whether every page of a range is mapped and pinned. -/
def MemSys.pinned (ms : MemSys) (asid fuel va stop : Nat) : Bool :=
  match fuel with
  | 0 => true
  | fuel + 1 =>
    if stop ≤ va then true
    else
      match ms.walk asid va with
      | .ok w => ptePin w.leaf && ms.pinned asid fuel ((va / 2 ^ w.size + 1) * 2 ^ w.size) stop
      | .error _ => false

/-- Cause 6, SNAP: the part of a launch slot is not mapped and pinned, or too small (14 R386). -/
def State.snapBad (s : State) (j : Job) (asid n ls foot : Nat) : Bool :=
  let va := j.snapBase + (4 * n + ls) * j.snapPart
  j.snapBase = 0 || j.snapPart < 2 * foot || !s.ms.pinned asid (j.snapPart / 65536 + 1) va (va + j.snapPart)

/-- SNAPSHOT of a job record (04 R100). -/
def Job.snapshot (j : Job) : Bool := j.rcd.getLsbD 35

/-- What GLAUNCH finds: the cause of refusal, or the launch. -/
def State.planLaunch (s : State) (galley ls off p : Nat) (chain : Bool) : Nat ⊕ Launch :=
  let th := s.me
  let asid := s.asid
  let head := s.sysWord asid galley 1024
  let ns := ghTree head
  match th.job, s.myJob with
  | some jid, some j =>
    let win := j.window th.n chain off p
    let width := if chain then (j.segs.map fun g => g.width).foldl (· + ·) 0 else p
    if headBad head none then .inl 1
    else
      let g : Galley := { nodes := ns, n := ghFormes head, img := fun k => s.sysWord asid (galley + 1024 * (k + 1)) 1024 }
      match placeNodes ns treeFuel 0 0 width with
      | none => .inl 1
      | some nodes =>
        let pipes := placedPipes ns nodes
        if pipes.any fun q => 0 < q.p && q.scrolls && (List.range q.n).any fun i => !formeSwitches (g.img (q.forme + i)) then .inl 1
        else
          match win with
          | none => .inl 2
          | some (w, seg) =>
            if s.windowTaken jid w then .inl 2
            else
              let x : LaunchPlan := { g := g, b := ghB head, win := w, segOf := seg, nodes := nodes, pipes := pipes }
              let r := x.reserve s.passUsed
              let home := (x.place 0).1
              let store := tset 0 [] home x.storeBytes
              if stateStore < s.storeUsed home + x.storeBytes then .inl 3
              else if r.sram.any fun e => launchPool < s.poolUsed e.1 + e.2 then .inl 4
              else if j.snapshot && s.snapBad j asid th.n ls x.footprint then .inl 6
              else
                .inr
                  { job := jid, galley := galley, gid := ghGid head, nformes := ghFormes head, b := ghB head,
                    markint := ghMark head, nodes := ns.map (BitVec.ofNat 128), chain := chain, off := off, p := width,
                    win := w, segOf := seg, pipes := (imposeNode ns [] treeFuel 0 0 width).getD [],
                    deferred := r.deferred.map fun (k, i) => linkKey (4 * s.cur + ls) k i, pass := r.pass,
                    sram := r.sram, store := store, rate := (s.queue jid.queue).rate, startFc := s.clk.fc,
                    snapOn := j.snapshot }
  | _, _ => if headBad head none then .inl 1 else .inl 2

/-- The layout handles of a layout table (03 R80). -/
def State.tableHandles (s : State) (asid table : Nat) : List Nat :=
  let n := s.sysWord asid table 8 / 2 ^ 32 % 4096
  (List.range n).map fun i => s.sysWord asid (table + 8 + 2 * i) 2

/-- The address field of a link-table entry (03 R79). -/
def entryAddr (e : Nat) : Nat := e / 4 % 2 ^ 54 * 4

/-- GLAUNCH (R195). -/
def execGlaunch (d a : BitVec 5) (ls : BitVec 2) (s : State) : Out :=
  checked (.glaunch d a ls) s fun th =>
    let desc := th.get d
    let v := desc.toNat
    let chain := desc.getLsbD 32
    let off := fieldN 64 desc 16 5
    let p := fieldN 64 desc 24 5
    let base := th.get a
    let ea := base + 8 * (desc &&& 0xFFFF)
    if v / 2 ^ 21 % 8 != 0 || v / 2 ^ 29 % 8 != 0 || v / 2 ^ 33 != 0 || (chain && (off != 0 || p != 0)) then
      trapOut s { cause := .illegal, info := desc }
    else if base.toNat % 8 != 0 then trapOut s (trapAt .align base)
    else
      (s.load ea 8).andThen fun s1 e =>
        if e % 4 != 2 then trapOut s1 { cause := .illegal, info := ea }
        else
          (s1.load base 8).andThen fun s2 lt0 =>
            let id := slotOf s.cur ls.toNat
            let answer (s : State) (c : Nat) : Out := update s (s.me.put d (BitVec.ofNat 64 c))
            if (s2.shown id).isSome then answer s2 5
            else
              match s2.planLaunch (entryAddr e) ls.toNat off p chain with
              | .inl c => answer s2 c
              | .inr l =>
                let lk := launchKey id
                let l1 := { l with layouts := s2.tableHandles s2.asid (entryAddr lt0) }
                let s3 := ((s2.setLaunch lk (some l1)).bindPending).stirred lk
                answer (s3.settle lk) 0

/-! ### The end of a launch -/

/-- Whether a SEQ node above an imposed pipeline has children left. -/
def Launch.seqLeft (l : Launch) : Bool :=
  let ns := l.nodes.map BitVec.toNat
  (List.range ns.length).any fun i =>
    nKind (ns.getD i 0) == 1 && tget 0 l.seq i + 1 < (nodeKids ns i).length
    && l.pipes.any fun p => i < p.node && p.node < (nodeEnd ns treeFuel i).getD 0

/-- Whether a launch has drained for good: its pipelines, its tree, its ports, and with snapshots its final cut
(R138, R406, 14 R388). -/
def State.launchDone (s : State) (lk : Nat) (l : Launch) : Bool :=
  !l.ended && (l.pipes.all fun p => s.drained lk l p) && !l.seqLeft && s.portsDone lk
  && (!l.snapOn || (l.finalReq && l.cut == l.mark))

/-- The commands bound to a launch (R305). -/
def State.boundCmds (s : State) (lk : Nat) : List Cmd :=
  ((s.fab.ports.filter fun e => e.1 / 2 ^ 20 == lk).flatMap fun e => e.2.cmds)
  ++ ((s.fab.links.filter fun e => e.1 / 64 / 65536 == lk).filterMap fun e => e.2.ovf.map fun o => o.cmd)

/-- Everything in a fabric that belongs to a launch, but for the launch itself, removed. -/
def Fabric.clear (f : Fabric) (lk : Nat) : Fabric :=
  { f with
    elems := dropKeys f.elems fun k => k / 8192 == lk
    shadows := dropKeys f.shadows fun k => k / 512 == lk
    links := dropKeys f.links fun k => k / 64 / 65536 == lk
    routers := dropKeys f.routers fun k => k / 8 / 65536 == lk
    recs := dropKeys f.recs fun k => k / 16 / 65536 == lk
    consts := dropKeys f.consts fun k => k / 16 / 65536 == lk
    ports := dropKeys f.ports fun k => k / 2 ^ 20 == lk
    fifos := dropKeys f.fifos fun k => k / 256 == lk
    bufs := dropKeys f.bufs fun k => k / 64 == lk
    evicted := f.evicted.filter fun e => e.1 != lk }

/-- The flags of a launch: its own and those of its elements and records (R261). -/
def State.launchFlags (s : State) (lk : Nat) (l : Launch) : Flags :=
  let f1 := s.fab.elems.foldl (fun (f : Flags) (k, e) => if k / 8192 == lk then orFlags f (e.getD {}).flags else f) l.flags
  s.fab.recs.foldl (fun (f : Flags) (k, r) => if k / 16 / 65536 == lk then orFlags f (r.getD ({}, {})).2 else f) f1

/-- Flags as the launch flag word holds them (R54, R261). -/
def flagWord (f : Flags) : Nat :=
  (if f.inv then 1 else 0) + (if f.dz then 2 else 0) + (if f.fltOvf then 4 else 0) + (if f.sat then 8 else 0)
  + (if f.intSat then 16 else 0)

/-- The machine with the open translation faults that no longer answer some accesses (12 R342). -/
def State.dropWaiters (s : State) (f : Waiter → Bool) : State :=
  { s with ms := { s.ms with dies := s.ms.dies.map fun (d, x) =>
    (d, { x with opens := x.opens.map fun o => { o with waiters := o.waiters.filter fun w => !f w } }) } }

/-- Whether an access that waits is of a port or an overflow queue of a launch. -/
def Waiter.ofLaunch (lk : Nat) (w : Waiter) : Bool :=
  match w with
  | .port key => key / 2 ^ 20 == lk
  | .overflow key => key / 64 / 65536 == lk
  | .thread _ => false
  | .peer _ => false

/-- A launch given up: its commands complete, its fabric state goes, its reservations are freed (R139, R305). -/
def State.endLaunch (s : State) (lk : Nat) : State :=
  (((s.finishAll (s.boundCmds lk)).dropWaiters (Waiter.ofLaunch lk)).modFab fun f => f.clear lk).modLaunch lk fun l =>
    { l with ended := true, pass := [], sram := [], store := [], deferred := [], formes := [], pipes := [], snaps := [],
             held := [], undo := [], xqSent := [], xqTaken := [], hist := [], struck := false }

/-- LAUNCH_END (R406, R138): the flag word is written, the launch ends in its slot, and the thread is notified
(07 R186). -/
def execLaunchEnd (id : LaunchId) (s : State) : Out :=
  let lk := launchKey id
  let s1 := s.settle lk
  match s1.launch lk with
  | none => .next s
  | some l =>
    if s1.lkActive lk && s1.launchDone lk l then
      let th := s1.thread (lkThread lk)
      let cx := match s1.job l.job with
        | some j => j.cx
        | none => 0
      let va := cx + 0x280 + 8 * (4 * th.n + lk % 4)
      let s2 := s1.sysWrite (s1.lkAsid lk) va (bytesLE 8 (flagWord (s1.launchFlags lk l)))
      .next (((s2.endLaunch lk).notify (lkThread lk) (8 + lk % 4)).progress lk)
    else .next s

end Sys2Proof.Machine
end

