-- ==== Sys2Proof/Machine/Service.lean ====
section
/-! DEFINITION. Walks, the translation-fault service and the Traverse engines (12 R339-R357). -/

namespace Sys2Proof.Machine

/-- WALK (R339, R340): a slice that holds no usable translation walks, sets A and D, and installs the leaf. -/
def execWalk (die : Fin 4) (asid : BitVec 16) (va : W64) (k : AccessKind) (s : State) : Out :=
  if highVa va || inDevice va then .next s
  else
    let p := TlbPlace.slice die.val (sliceOf asid.toNat va.toNat)
    if s.ms.tlb.any fun e => e.holds p asid.toNat va.toNat && (!needsD k || pteD e.leaf.toNat) then .next s
    else .next { s with ms := (s.ms.walkSlice die.val asid.toNat va.toNat k (needsD k)).1 }

/-! ### The translation-fault service (R341-R344) -/

/-- XFQ_POST (R342): the oldest open fault that has not been posted is written to the die's queue, if it has
room. -/
def execXfqPost (die : Fin 4) (s : State) : Out :=
  let d := s.ms.die die.val
  match d.opens.find? fun o => !o.posted with
  | none => .next s
  | some o =>
    let (ms, r, rest) := s.ms.drainTo d.xfq [bytesLE 32 o.bits.toNat] (.xfq die.val)
    if rest.isEmpty then
      .next { s with ms := ms.modDie die.val fun d => { d with
        xfq := r, opens := d.opens.map fun x => if x.fid == o.fid then { x with posted := true } else x } }
    else .next s

/-- The link that a key names changed. -/
def State.modLink (s : State) (key : Nat) (f : LinkSt → LinkSt) : State := s.setLink key (f (s.link key))

/-- The job of a waiting access is no longer quiescent (14 R392). -/
def State.stirWaiter (s : State) (w : Waiter) : State :=
  match w with
  | .thread k =>
    match (s.thread k).job with
    | some j => s.modJob j fun x => { x with quietFc := s.clk.fc }
    | none => s
  | .port key => s.stirred (key / 2 ^ 20)
  | .overflow key => s.stirred (key / 64 / 65536)
  | .peer _ => s

/-- A waiting access walks again (R344). -/
def State.retry (s : State) (o : OpenFault) (w : Waiter) : State :=
  match w with
  | .thread k =>
    s.modThread k fun th => match th.wait with
      | some x => if x.fid == o.fid then { th with wait := none } else th
      | none => th
  | .port key =>
    s.modPort key fun p => { p with
      cur := p.cur.map fun c => match c.freeze with
        | some (.xlate va) => if va.toNat / 65536 == o.granule then { c with freeze := none } else c
        | some (.fault _ _) => c
        | none => c
      div := p.div.map fun d => if d.2.2.map (· / 65536) == some o.granule then (d.1, d.2.1, none) else d }
  | .peer key =>
    let i := key / 2 ^ 24
    let n := key % 2 ^ 24
    match s.chan i n with
    | some c => (s.setChan i n (some { c with frozen := false })).pumpAll i n
    | none => s
  | .overflow key => (s.modLink key fun l => { l with ovf := l.ovf.map fun q => { q with frozen := false } }).settle (key / 64 / 65536)

/-- The address at which an access of a port waits on an entry: that of the command at work, or of a diverted element. -/
def PortSt.faultVa (p : PortSt) (o : OpenFault) : W64 :=
  let own := match p.cur with
    | some c => match c.freeze with
      | some (.xlate va) => if va.toNat / 65536 = o.granule then some va else none
      | some (.fault _ _) => none
      | none => none
    | none => none
  own.getD (((p.div.findSome? fun d => d.2.2.filter fun a => a / 65536 == o.granule).map (BitVec.ofNat 64)).getD o.va)

/-- A waiting access that is declined: a trap, an unrecoverable XLATE, the end of a channel (R344), each at the access's
own address. -/
def State.decline (s : State) (o : OpenFault) (w : Waiter) : State :=
  match w with
  | .thread k =>
    let th := s.thread k
    match th.wait with
    | some x =>
      if x.fid == o.fid then (s.setThread k { th with wait := none }).trapThread k (trapAt .xlate x.va) else s
    | none => s
  | .port key =>
    match s.keyRef key with
    | some r => s.portFail r .xlate 0 ((s.port key).faultVa o)
    | none => s
  | .peer key =>
    if (s.chan (key / 2 ^ 24) (key % 2 ^ 24)).isSome then s.farFail (key / 2 ^ 24) (key % 2 ^ 24) .xlate else s
  | .overflow key =>
    match (s.link key).ovf with
    | some q =>
      s.portFault (key / 64 / 65536)
        { cls := .xlate, site := 2, ring := q.cmd.thread / 4, slot := q.cmd.thread % 4, addr := BitVec.ofNat 64 q.faultVa }
    | none => s

/-- An answer to a fault of a die: the entry closes, and `f` answers each access that waits on it. An answer to
a FID that is not open has no effect. -/
def State.answer (s : State) (die fid : Nat) (f : State → OpenFault → Waiter → State) : State :=
  match (s.ms.die die).opens.find? fun o => o.fid == fid with
  | none => s
  | some o =>
    let s1 := { s with ms := s.ms.modDie die fun d => { d with opens := d.opens.filter fun x => x.fid != fid } }
    o.waiters.foldl (fun (a : State) w => (f a o w).stirWaiter w) s1

/-- XFRESP_RETRY (R344). -/
def execXfrespRetry (die : Fin 4) (fid : BitVec 16) (s : State) : Out := .next (s.answer die.val fid.toNat State.retry)
/-- XFRESP_DECLINE (R344). -/
def execXfrespDecline (die : Fin 4) (fid : BitVec 16) (s : State) : Out := .next (s.answer die.val fid.toNat State.decline)

/-! ### Moves (R347-R354) -/

/-- The code of an origin (R353). -/
def Origin.code : Origin → Nat
  | .staging => 0
  | .stage => 1
  | .policy => 2
  | .trvreq => 3

/-- A Traverse event record (R353). -/
def trvRecord (type cause asid src dst : Nat) (big : Bool) (o : Origin) (f va time : Nat) : BitVec 256 :=
  BitVec.ofNat 256 (type + cause * 2 ^ 8 + asid % 65536 * 2 ^ 16 + src % 4 * 2 ^ 32 + dst % 4 * 2 ^ 34
    + (if big then 2 ^ 36 else 0) + o.code * 2 ^ 37 + f % 1024 * 2 ^ 48 + va % 2 ^ 64 * 2 ^ 64 + time % 2 ^ 64 * 2 ^ 128)

/-- A record posted on a die's TRVEV. -/
def MemSys.postEvent (ms : MemSys) (d : Nat) (e : BitVec 256) : MemSys :=
  (ms.modDie d fun x => { x with evPend := x.evPend ++ [e] }).flushEvents d
/-- A frame released on a die's REL. -/
def MemSys.release (ms : MemSys) (d frame : Nat) : MemSys :=
  (ms.modDie d fun x => { x with relPend := x.relPend ++ [frame] }).flushReleases d

/-- A move asked of the engine of a page's home die (R347); of a page without one, of the die that was asked. -/
def MemSys.ask (ms : MemSys) (die : Nat) (r : MoveReq) : MemSys :=
  let d := match ms.walk r.asid r.va with
    | .ok w => ms.homeOf w.leaf
    | .error _ => die
  ms.modDie d fun x => { x with reqs := x.reqs ++ [r] }

/-- TRAVERSE_REQUEST (R347): a write of TRVREQ. -/
def execTraverseRequest (die : Fin 4) (v : W64) (s : State) : Out :=
  let dt := fieldN 64 v 56 2
  if dt = 0 then .next s
  else
    let r : MoveReq := { asid := fieldN 64 v 40 16, va := fieldN 64 v 0 40 * 65536, dtier := dt, origin := .trvreq }
    .next { s with ms := s.ms.ask die.val r }

/-- The index of a frame pool (R341). -/
def poolIndex (tier size : Nat) : Nat := 2 * (tier - 1) + (if size = 21 then 1 else 0)

/-- A frame taken from a pool: entries that are no populated frame of the tier, aligned, are discarded, and those that
`safe` names, since no frame of the safe tier is one of a pool (R348, 17 R419). -/
def takeFrame (ms : MemSys) (safe : Nat → Bool) (tier size fuel : Nat) (r : MRing) : MRing × Option Nat :=
  match fuel with
  | 0 => (r, none)
  | fuel + 1 =>
    if !r.en || r.held = 0 then (r, none)
    else
      let f := ms.readPa (r.slot r.head.toNat 8) 8
      let r1 := { r with head := bump r.head }
      if f % 2 ^ size = 0 && !safe f && (ms.tierOf f).any fun x => x.1 == tier then (r1, some f)
      else takeFrame ms safe tier size fuel r1

/-- Whether a move is of a page. -/
def Move.isAt (m : Move) (pg : PageId) : Bool := m.asid == pg.asid.toNat && m.va == pg.va.toNat / 2 ^ m.size * 2 ^ m.size

/-- Why a request is refused (R348, R353); 0 when a move may start. A page of which a move has begun counts as
saddled, and one of the safe tier as pinned (17 R419; log 108). -/
def State.moveRefusal (s : State) (w : Walked) (asid va dtier : Nat) : Nat :=
  if ptePin w.leaf || s.inSafe (pteAddr w.leaf) then 8
  else if pteSaddle w.leaf || s.ms.moves.any (fun m => m.asid == asid && m.va == va / 2 ^ m.size * 2 ^ m.size) then 11
  else if w.size = 28 then 7
  else if pteTier w.leaf = dtier then 10 else 0

/-- A request dropped; one of TRVREQ is recorded, with the page's address (R348, R353). -/
def State.rejectMove (s : State) (d : Nat) (r : MoveReq) (cause : Nat) (w : Except XReason Walked) : State :=
  if r.origin == .trvreq then
    let (src, big, va) := match w with
      | .ok w => (pteTier w.leaf, w.size == 21, r.va / 2 ^ w.size * 2 ^ w.size)
      | .error _ => (0, false, r.va)
    { s with ms := s.ms.postEvent d (trvRecord 3 cause r.asid src r.dtier big r.origin 0 va s.time) }
  else s

/-- Whether a request waits for the move of its page that is under way: one of staging does, since the page is left in the
tier asked for last (04 R113). -/
def MemSys.waitsMove (ms : MemSys) (r : MoveReq) : Bool :=
  r.origin == .staging && ms.moves.any fun m => m.asid == r.asid && m.va == r.va / 2 ^ m.size * 2 ^ m.size

/-- The request that a die's engine takes next: the oldest that does not wait. -/
def MemSys.nextReq (ms : MemSys) (d : Nat) : Option MoveReq := (ms.die d).reqs.find? fun r => !ms.waitsMove r

/-- A request of a die's queue passed to the page's home die, refused, or begun: a frame is taken, and
the swap of the leaf comes next (R348). -/
def State.startMove (s : State) (d : Nat) (r : MoveReq) : State :=
  let s1 := { s with ms := s.ms.modDie d fun x => { x with reqs := x.reqs.erase r } }
  let w := s1.ms.walk r.asid r.va
  match w with
  | .error _ => s1.rejectMove d r 9 w
  | .ok x =>
    let cause := s1.moveRefusal x r.asid r.va r.dtier
    if s1.ms.homeOf x.leaf != d then
      { s1 with ms := s1.ms.modDie (s1.ms.homeOf x.leaf) fun y => { y with reqs := y.reqs ++ [r] } }
    else if cause != 0 then s1.rejectMove d r cause w
    else
      let i := poolIndex r.dtier x.size
      let pool := (s1.ms.die d).pools.getD i {}
      let (pool1, frame) := takeFrame s1.ms s1.inSafe r.dtier x.size (pool.held + 1) pool
      let s2 := { s1 with ms := s1.ms.modDie d fun y => { y with pools := y.pools.set i pool1 } }
      match frame with
      | none => s2.rejectMove d r 2 w
      | some f =>
        let m : Move :=
          { asid := r.asid, va := r.va / 2 ^ x.size * 2 ^ x.size, size := x.size, src := pteAddr x.leaf, dst := f,
            dtier := r.dtier, p0 := BitVec.ofNat 64 x.leaf, leafPa := x.entry, origin := r.origin, tag := r.tag,
            cls := r.cls, startFs := s.clk.fs, advFs := s.clk.fs }
        { s2 with ms := { s2.ms with moves := s2.ms.moves ++ [m] } }

/-- The 4 KiB sub-blocks of the page. -/
def Move.blocks (m : Move) : Nat := 2 ^ m.size / 4096

/-- The move of a page changed. -/
def State.modMove (s : State) (pg : PageId) (f : Move → Move) : State :=
  { s with ms := { s.ms with moves := s.ms.moves.map fun m => if m.isAt pg then f m else m } }
/-- The move of a page, in a phase. -/
def State.moveIn' (s : State) (pg : PageId) (ph : List MovePhase) : Option Move :=
  s.ms.moves.find? fun m => m.isAt pg && ph.contains m.phase
/-- The record of a move dropped. -/
def State.dropMove (s : State) (m : Move) : State :=
  { s with ms := { s.ms with moves := s.ms.moves.filter fun x => x != m } }

/-- A leaf without A and D. -/
def leafCore (e : Nat) : Nat := e - e / 16 % 4 * 16

/-- The home slice swaps the leaf into saddle state, whatever A and D are; a leaf that has changed otherwise refuses
the request with SWCHANGE, and the frame goes to REL (R348). -/
def State.swapMove (s : State) (pg : PageId) (m : Move) : State :=
  let e := s.ms.readPa m.leafPa 8
  if leafCore e = leafCore m.p0.toNat then
    let leaf := e + 2 ^ 54 + m.dtier * 2 ^ 55
    let s1 := { s with ms := (s.ms.writePa m.leafPa (bytesLE 8 leaf)).invalidate 0 m.asid m.va }
    s1.modMove pg fun m => { m with phase := .opening, p0 := BitVec.ofNat 64 leaf, advFs := s.clk.fs }
  else
    let d := s.ms.moveDie m
    let r : MoveReq := { asid := m.asid, va := m.va, dtier := m.dtier, origin := m.origin, tag := m.tag }
    let s1 := s.dropMove m
    ({ s1 with ms := s1.ms.release d m.dst } : State).rejectMove d r 5
      (.ok { entry := m.leafPa, leaf := m.p0.toNat, size := m.size })

/-- MOVE_START (R348): the swap of a page for which a frame has been taken; else the oldest request of an engine with
fewer than 64 moves in progress, if it is for the page. -/
def execMoveStart (pg : PageId) (s : State) : Out :=
  let ready := (List.range 4).findSome? fun d =>
    match s.ms.nextReq d with
    | some r =>
      if r.asid == pg.asid.toNat && r.va / 65536 == pg.va.toNat / 65536 && !(s.ms.die d).lost
          && (s.ms.moves.filter fun m => s.ms.moveDie m == d).length < 64 then some (d, r) else none
    | none => none
  match s.moveIn' pg [.starting] with
  | some m => .next (s.swapMove pg m)
  | none =>
    match ready with
    | some (d, r) => .next (s.startMove d r)
    | none => .next s

/-- A move that aborts. -/
def Move.fail (m : Move) (cause : Nat) : Move := { m with phase := .aborting, cause := cause }

/-- MOVE_OPENED (R351): the invalidations are acknowledged: every write that used a dropped translation has been
performed. -/
def execMoveOpened (pg : PageId) (s : State) : Out :=
  match s.moveIn' pg [.opening] with
  | some m =>
    if s.undrained 0 m.asid m.va m.advFs then .next s
    else .next (s.modMove pg fun m => { m with phase := .copying, frontier := 0 })
  | none => .next s

/-- Whether a frame lies on a lost die or behind a removed port. -/
def MemSys.gone (ms : MemSys) (pa : Nat) : Bool := ({ ms with ue := [] } : MemSys).lineBad pa

/-- The moves from and to memory that is gone aborted, with MIG_SRC or DSTERR (14 R405, 17 R411). -/
def MemSys.abortGone (ms : MemSys) : MemSys :=
  { ms with moves := ms.moves.map fun m =>
    if m.phase == .aborting || m.phase == .undone || m.phase == .releasing then m
    else if ms.gone m.src then m.fail 6 else if ms.gone m.dst then m.fail 1 else m }

/-- COPY_STEP (R350): sub-block F is copied; an error at either end aborts the move (R352). The engine's arbiter admits
the copy (04 R116). -/
def execCopyStep (pg : PageId) (s : State) : Out :=
  match s.moveIn' pg [.copying] with
  | none => .next s
  | some m =>
    let a := m.src + 4096 * m.frontier
    let b := m.dst + 4096 * m.frontier
    if m.blocks ≤ m.frontier then .next (s.modMove pg fun m => { m with phase := .committing })
    else if s.ms.rangeBad a 4096 then .next (s.modMove pg fun m => m.fail 6)
    else if s.ms.rangeBad b 4096 then .next (s.modMove pg fun m => m.fail 1)
    else
      let s1 := ({ s with ms := s.ms.writePa b (readMem s.ms.mem a 4096) } : State).charge (s.ms.copyCharges m)
      .next (s.arbitrate (s1.modMove pg fun m =>
        { m with frontier := m.frontier + 1, advFs := s.clk.fs
                 phase := if m.frontier + 1 < m.blocks then .copying else .committing }) (.move m.asid m.va) s.wanted)

/-- The leaf after the commit swap: DST in its tier, no longer moving. -/
def commitLeaf (e : Nat) (m : Move) : Nat :=
  e % 256 + m.dst + m.dtier * 2 ^ 52 + e / 2 ^ 57 * 2 ^ 57

/-- MOVE_COMMIT (R351): with every sub-block copied the leaf is swapped to DST, whatever A and D are; another
change of the leaf aborts the move, and so does an uncorrectable error that has struck DST meanwhile, so that no accessor
meets it (R354; DEDUCED, log 108). -/
def execMoveCommit (pg : PageId) (s : State) : Out :=
  match s.moveIn' pg [.committing] with
  | none => .next s
  | some m =>
    let e := s.ms.readPa m.leafPa 8
    if s.ms.rangeBad m.dst (2 ^ m.size) then .next (s.modMove pg fun m => m.fail 1)
    else if leafCore e = leafCore m.p0.toNat then
      let ms := (s.ms.writePa m.leafPa (bytesLE 8 (commitLeaf e m))).invalidate 0 m.asid m.va
      .next (({ s with ms := ms } : State).modMove pg fun m => { m with phase := .releasing, advFs := s.clk.fs })
    else .next (s.modMove pg fun m => m.fail 5)

/-- The record of a move posted. -/
def State.postMove (s : State) (m : Move) (type cause : Nat) : State :=
  let d := s.ms.moveDie m
  let src := match s.ms.tierOf m.src with
    | some (t, _) => t
    | none => 0
  { s with ms := s.ms.postEvent d (trvRecord type cause m.asid src m.dtier (m.size == 21) m.origin m.frontier m.va s.time) }

/-- MOVE_RELEASE (R351): once no write is held that used a translation dropped at the commit, SRC goes to REL, and COMMIT is posted if TPOL.LOGC. -/
def execMoveRelease (pg : PageId) (s : State) : Out :=
  match s.moveIn' pg [.releasing] with
  | none => .next s
  | some m =>
    if s.undrained 0 m.asid m.va m.advFs then .next s else
    let s1 := { s.dropMove m with ms := (s.dropMove m).ms.release (s.ms.moveDie m) m.src }
    .next (if s.ms.tpol.getLsbD 1 then s1.postMove m 1 0 else s1)

/-- MOVE_ABORT (R351, R352): the leaf goes back to SRC if it still names the move; once no write is held that used a
translation dropped with it, DST goes to REL, and ABORT is posted. -/
def execMoveAbort (pg : PageId) (s : State) : Out :=
  match s.moveIn' pg [.aborting, .undone] with
  | none => .next s
  | some m =>
    if m.phase == .aborting then
      let e := s.ms.readPa m.leafPa 8
      let ms := if pteSaddle e && pteAddr e = m.src then
          s.ms.writePa m.leafPa (bytesLE 8 (e - 2 ^ 54 - pteDtier e * 2 ^ 55)) else s.ms
      .next (({ s with ms := ms.invalidate 0 m.asid m.va } : State).modMove pg fun m =>
        { m with phase := .undone, advFs := s.clk.fs })
    else if s.undrained 0 m.asid m.va m.advFs then .next s
    else
      let s1 := s.dropMove m
      .next (({ s1 with ms := s1.ms.release (s.ms.moveDie m) m.dst } : State).postMove m 2 m.cause)

/-- MOVEMAX_EXPIRY (R352): cause BUDGET. -/
def execMovemaxExpiry (pg : PageId) (s : State) : Out :=
  match s.moveIn' pg [.opening, .copying] with
  | none => .next s
  | some m =>
    let us := fieldN 64 (s.ms.die (s.ms.moveDie m)).trvlim 0 16
    if m.startFs + us * 1000000000 ≤ s.clk.fs then .next (s.modMove pg fun m => m.fail 3) else .next s

/-- STARVE_EXPIRY (R352): cause STARVED. -/
def execStarveExpiry (pg : PageId) (s : State) : Out :=
  match s.moveIn' pg [.opening, .copying] with
  | none => .next s
  | some m =>
    let us := fieldN 64 (s.ms.die (s.ms.moveDie m)).trvlim 16 16
    if m.advFs + us * 1000000000 ≤ s.clk.fs then .next (s.modMove pg fun m => m.fail 4) else .next s

/-! ### The tier policy (R355-R357) -/

/-- The capacity of a tier on a die: during reduced service the 48 GiB of 17 R424 alone. -/
def MemSys.capacity (ms : MemSys) (d tier : Nat) : Nat :=
  if ms.reduced then (if d = 0 && tier = 1 then 0xC00000000 else 0) else
  match tier with
  | 1 => 0x3000000000
  | 2 => 0x8000000000
  | _ => (if d = 0 then 0 else tget 0 ms.tierX (2 * d)) + tget 0 ms.tierX (2 * d + 1)

/-- The bytes of free frames of a tier on a die (R356). -/
def MemSys.freeBytes (ms : MemSys) (d tier : Nat) : Nat :=
  let x := ms.die d
  (x.pools.getD (poolIndex tier 16) {}).held * 65536 + (x.pools.getD (poolIndex tier 21) {}).held * 2 ^ 21

/-- The bytes of a tier in use. -/
def MemSys.usedBytes (ms : MemSys) (d tier : Nat) : Nat := ms.capacity d tier - ms.freeBytes d tier

/-- Whether an overflow queue that is to stay in tier H lies in a page (11 R324; log 50). -/
def State.keptInH (s : State) (e : TlbEntry) : Bool :=
  s.fab.links.any fun l => l.2.ovf.any fun o =>
    (o.cmd.lh.any fun r => lrTier r.1 == 1) && o.cmd.asid == e.asid
      && o.base < (e.page + 1) * 2 ^ e.size && e.page * 2 ^ e.size < o.base + o.size

/-- Slice entries of a die that the policy may move (R357), slice by slice: none of the safe tier (17 R419), nor in
tier H of an overflow queue that is kept there. -/
def State.movable (s : State) (d : Nat) : List TlbEntry :=
  (List.range 64).flatMap fun i => s.ms.tlb.filter fun e =>
    e.place == .slice d i && e.size != 28 && !ptePin e.leaf.toNat && !pteSaddle e.leaf.toNat
      && s.ms.homeOf e.leaf.toNat == d && !s.inSafe (pteAddr e.leaf.toNat)
      && !(pteTier e.leaf.toNat == 1 && s.keptInH e)

/-- The request for the page of a slice entry. -/
def policyReq (tier : Nat) (e : TlbEntry) : MoveReq :=
  { asid := e.asid, va := e.page * 2 ^ e.size, dtier := tier, origin := .policy }

/-- Bytes that slice entries cover. -/
def pageBytes (es : List TlbEntry) : Nat := (es.map fun e => 2 ^ e.size).foldl (· + ·) 0

/-- The coldest pages of a tier, until its planned use, `used` at first, falls to the low watermark, or `room` requests
have been made. -/
def State.demote (s : State) (d src lo room used : Nat) : List TlbEntry :=
  let cold := sortBy (fun a b => decide (a.cnt ≤ b.cnt))
    ((s.movable d).filter fun e => pteTier e.leaf.toNat == src && e.cnt ≤ fieldN 64 s.ms.tpol 16 8)
  (cold.foldl (fun (a : List TlbEntry × Nat) e =>
    if room ≤ a.1.length || a.2 * 100 ≤ lo * s.ms.capacity d src then a
    else (a.1 ++ [e], a.2 - 2 ^ e.size)) ([], used)).1

/-- The requests of a period on a die (R357). The planned use of a tier counts the requests made so far, out of it and
into it. -/
def State.policy (s : State) (d : Nat) : List MoveReq :=
  let tp := s.ms.tpol
  let room := fieldN 64 tp 52 8
  let used (tier : Nat) : Nat := s.ms.usedBytes d tier
  let above (tier hi : Nat) : Bool := hi * s.ms.capacity d tier < used tier * 100
  let below (tier hi : Nat) : Bool := used tier * 100 < hi * s.ms.capacity d tier
  let hhi := fieldN 64 tp 24 7
  let hot := sortBy (fun a b => decide (b.cnt ≤ a.cnt))
    ((s.movable d).filter fun e => pteTier e.leaf.toNat != 1 && fieldN 64 tp 8 8 ≤ e.cnt)
  let up := if below 1 hhi then hot.take room else []
  let down := if above 1 hhi then s.demote d 1 (fieldN 64 tp 31 7) (room - up.length) (used 1 + pageBytes up) else []
  let usedL := used 2 + pageBytes down - pageBytes (up.filter fun e => pteTier e.leaf.toNat == 2)
  let out := if above 2 (fieldN 64 tp 38 7) && 0 < s.ms.capacity d 3 then
      s.demote d 2 (fieldN 64 tp 45 7) (room - up.length - down.length) usedL else []
  up.map (policyReq 1) ++ down.map (policyReq 2) ++ out.map (policyReq 3)

/-- AGING_PERIOD (R355, R357): at the end of each 100 µs of TIME the policy runs with EN = 1, and the die's access
counters are halved. -/
def execAgingPeriod (die : Fin 4) (s : State) : Out :=
  let d := die.val
  let x := s.ms.die d
  if s.time / 100000 ≤ x.aged then .next s
  else
    let reqs := if s.ms.tpol.getLsbD 0 then s.policy d else []
    let ms := s.ms.modDie d fun y => { y with reqs := y.reqs ++ reqs, aged := y.aged + 1 }
    .next { s with ms := { ms with tlb := ms.tlb.map fun e =>
      match e.place with
      | .slice d' _ => if d' == d then { e with cnt := e.cnt / 2 } else e
      | _ => e } }

end Sys2Proof.Machine
end

