-- ==== Sys2Proof/Machine/Loader.lean ====
section
/-! DEFINITION. Kernel objects and the dispatcher's loader: the KOB file (03 R72-R77), the steps of a load
(R84-R86), the opcode scan (R93) and the refusal record (R94, R95). -/

namespace Sys2Proof.Machine

/-! ### The file (R72-R76) -/

/-- An entry of the section table (R73), with its number. -/
structure Sect where
  num : Nat
  raw : Nat
  deriving DecidableEq, Repr

/-- TYPE. -/
def Sect.type (x : Sect) : Nat := bitsOf x.raw 0 8
/-- ALIGN. -/
def Sect.align (x : Sect) : Nat := bitsOf x.raw 8 8
/-- OFFSET. -/
def Sect.off (x : Sect) : Nat := bitsOf x.raw 32 32
/-- FSIZE. -/
def Sect.fsize (x : Sect) : Nat := bitsOf x.raw 64 32
/-- MSIZE. -/
def Sect.msize (x : Sect) : Nat := bitsOf x.raw 96 32
/-- LINK. -/
def Sect.link (x : Sect) : Nat := bitsOf x.raw 128 16

/-- A KOB file: its bytes as one number, little-endian, and its length. -/
structure Kob where
  f : Nat
  len : Nat
  deriving DecidableEq, Repr

/-- Bytes of the file, as a number. -/
def Kob.at (k : Kob) (off n : Nat) : Nat := bitsOf k.f (8 * off) (8 * n)
/-- PROFILE. -/
def Kob.profile (k : Kob) : Nat := k.at 5 1
/-- VMIN. -/
def Kob.vmin (k : Kob) : Nat := k.at 6 1
/-- SHOFF. -/
def Kob.shoff (k : Kob) : Nat := k.at 8 4
/-- SHNUM. -/
def Kob.shnum (k : Kob) : Nat := k.at 12 1
/-- LTSIZE. -/
def Kob.ltsize (k : Kob) : Nat := bitsOf k.f 128 17
/-- LYSIZE. -/
def Kob.lysize (k : Kob) : Nat := bitsOf k.f 160 12
/-- FCRC. -/
def Kob.fcrc (k : Kob) : Nat := k.at 60 4

/-- The sections, in table order. -/
def Kob.sects (k : Kob) : List Sect :=
  (List.range k.shnum).map fun i => { num := i + 1, raw := k.at (k.shoff + 32 * i) 32 }

/-- The section of a type that occurs at most once. -/
def Kob.sect (k : Kob) (type : Nat) : Option Sect := k.sects.find? fun x => x.type == type
/-- The section of a number. -/
def Kob.sectNo (k : Kob) (n : Nat) : Option Sect := k.sects.find? fun x => x.num == n
/-- The contents of a section in memory as a number: the bytes beyond FSIZE are zero. -/
def Kob.body (k : Kob) (x : Sect) : Nat := k.at x.off x.fsize
/-- Bytes of a section. -/
def Kob.inSect (k : Kob) (x : Sect) (off n : Nat) : Nat := bitsOf (k.body x) (8 * off) (8 * n)

/-- The file at an address of a context: it ends with the last byte that its header, section table or
contents take. None where a byte cannot be read. -/
def State.kob (s : State) (asid va : Nat) : Option Kob :=
  match s.sysRead asid va 64 with
  | none => none
  | some h =>
    let k0 : Kob := { f := ofBytesLE h, len := 64 }
    if k0.at 0 4 != 0x1A424F4B || k0.at 4 1 != 1 then some k0
    else
      let n1 := max 64 (k0.shoff + 32 * k0.shnum)
      match s.sysRead asid va n1 with
      | none => none
      | some t =>
        let k1 : Kob := { f := ofBytesLE t, len := n1 }
        let n := k1.sects.foldl (fun a x => if x.fsize = 0 then a else max a (x.off + x.fsize)) n1
        (s.sysRead asid va n).map fun bs => { f := ofBytesLE bs, len := n }

/-- FCRC over the file with its own bytes zero (R72). -/
def Kob.crc (k : Kob) : Nat := crc32c (8 * k.len) (k.f - k.fcrc * 2 ^ 480)

/-! Symbols (R75) -/

/-- A symbol entry: its index, where its section begins in the file, its bits. -/
structure Sym where
  idx : Nat
  raw : Nat
  name : List Byte
  deriving DecidableEq, Repr

/-- SECT. -/
def Sym.sect (y : Sym) : Nat := bitsOf y.raw 32 16
/-- BIND. -/
def Sym.bind (y : Sym) : Nat := bitsOf y.raw 48 8
/-- ENTRY. -/
def Sym.entry (y : Sym) : Bool := bitsOf y.raw 56 1 == 1
/-- OWNLT. -/
def Sym.ownlt (y : Sym) : Nat := bitsOf y.raw 57 1
/-- VALUE. -/
def Sym.value (y : Sym) : Nat := bitsOf y.raw 64 64

/-- The bytes of a name up to its zero byte; `none` where the section ends first. -/
def nameBytes (body fuel off : Nat) : Option (List Byte) :=
  match fuel with
  | 0 => none
  | fuel + 1 =>
    let b := bitsOf body (8 * off) 8
    if b = 0 then some [] else (nameBytes body fuel (off + 1)).map fun r => BitVec.ofNat 8 b :: r

/-- How many symbols .sym counts. -/
def Kob.symCount (k : Kob) : Nat :=
  match k.sect 10 with
  | some x => if x.fsize < 8 then 0 else k.inSect x 0 8
  | none => 0

/-- The symbols, from index 1. -/
def Kob.syms (k : Kob) : List Sym :=
  match k.sect 10 with
  | some x =>
    (List.range (min k.symCount (x.fsize / 32))).map fun i =>
      let raw := k.inSect x (8 + 32 * i) 32
      { idx := i + 1, raw := raw, name := (nameBytes (k.body x) (x.fsize - bitsOf raw 0 32) (bitsOf raw 0 32)).getD [] }
  | none => []

/-- The symbol of an index. -/
def Kob.sym (k : Kob) (i : Nat) : Option Sym := if i = 0 then none else k.syms[i - 1]?

/-- A relocation (R76): the section of its entry, its place in that section, the section it patches. -/
structure Reloc where
  sect : Nat
  off : Nat
  target : Nat
  raw : Nat
  deriving DecidableEq, Repr

/-- PLACE. -/
def Reloc.place (r : Reloc) : Nat := bitsOf r.raw 0 32
/-- TYPE. -/
def Reloc.type (r : Reloc) : Nat := bitsOf r.raw 32 8
/-- SYM. -/
def Reloc.sym (r : Reloc) : Nat := bitsOf r.raw 40 24
/-- ADDEND, signed. -/
def Reloc.addend (r : Reloc) : Int := signedN 64 (bitsOf r.raw 64 64)

/-- Every relocation of the file. -/
def Kob.relocs (k : Kob) : List Reloc :=
  (k.sects.filter fun x => x.type == 9).flatMap fun x =>
    (List.range (x.fsize / 16)).map fun i =>
      { sect := x.num, off := 16 * i, target := x.link, raw := k.inSect x (16 * i) 16 }

/-! ### Form and profile (R72-R75, R84 steps 2 and 3) -/

/-- The smallest ALIGN of a section type (R74). -/
def minAlign (type : Nat) : Nat := [0, 2, 10, 4, 3, 0, 0, 0, 3, 3, 3, 0].getD type 0

/-- The 8-byte words of a section entry that fail R73 or R74, by their offsets in the entry. -/
def Kob.sectBad (k : Kob) (x : Sect) : List Nat :=
  (if x.type = 0 || 11 < x.type || 21 < x.align || x.align < minAlign x.type || bitsOf x.raw 16 16 != 0
      || (x.fsize = 0 && x.off != 0)
      || (k.sects.any fun y => y.num < x.num && y.type == x.type && (x.type != 9 || y.link == x.link))
    then [0] else [])
  ++ (if x.msize < x.fsize || (x.type = 9 && x.fsize % 16 != 0) || (x.type = 7 && x.fsize != 0)
      || (x.type = 8 && x.fsize != 64 * k.lysize) then [8] else [])
  ++ (if bitsOf x.raw 144 48 != 0 || (if x.type = 9 then k.shnum < x.link else x.link != 0) then [16] else [])
  ++ (if bitsOf x.raw 192 64 != 0 then [24] else [])

/-- The 8-byte words of a symbol entry that fail R75, by their offsets in the entry. -/
def Kob.symBad (k : Kob) (x : Sect) (y : Sym) : List Nat :=
  (if 2 < y.bind || bitsOf y.raw 58 6 != 0 || k.shnum < y.sect || (y.bind = 2 && y.sect != 0)
      || (y.entry && (k.sectNo y.sect).map Sect.type != some 1) || x.fsize ≤ bitsOf y.raw 0 32
      || (nameBytes (k.body x) (x.fsize - bitsOf y.raw 0 32) (bitsOf y.raw 0 32)).isNone then [0] else [])
  ++ (if bitsOf y.raw 192 64 != 0 then [24] else [])

/-- The 8-byte words of the header of a file of this format that fail R72, by their offsets. -/
def Kob.headerBad (k : Kob) : List Nat :=
  (if 1 < k.profile || (k.profile = 0 && k.vmin != 0) || k.at 7 1 != 0 then [0] else [])
  ++ (if k.at 13 3 != 0 || k.shoff % 8 != 0 || k.shnum = 0 || 64 < k.shnum then [8] else [])
  ++ (if bitsOf k.f 145 15 != 0 || k.ltsize = 0 || 65536 < k.ltsize || bitsOf k.f 172 20 != 0
      || (k.lysize != 0 && (k.sect 8).isNone) then [16] else [])
  ++ ((List.range 4).filterMap fun i => if bitsOf k.f (192 + 64 * i) 64 != 0 then some (24 + 8 * i) else none)
  ++ (if bitsOf k.f 448 32 != 0 || k.crc != k.fcrc then [56] else [])

/-- The 8-byte words of .sym that fail R75, by their offsets in the section. -/
def Kob.symsBad (k : Kob) (x : Sect) : List Nat :=
  (if x.fsize < 8 || x.fsize < 8 + 32 * k.symCount then [0] else [])
  ++ k.syms.flatMap fun y => (k.symBad x y).map fun o => 8 + 32 * (y.idx - 1) + o

/-- The walk of a capability list (R90): whether it succeeds. -/
def capWalk (bs : List Byte) (fuel off : Nat) : Bool :=
  match fuel with
  | 0 => false
  | fuel + 1 =>
    let h := ofBytesLE ((bs.drop off).take 8)
    let next := h / 2 ^ 32
    if h / 2 ^ 24 % 256 < 2 then false
    else if next = 0 then true
    else if next ≤ off || next % 4 != 0 then false
    else capWalk bs fuel next

/-- BANKVER (R91). -/
def State.bankver (s : State) : Nat := if s.bd.bank then Config.bankVersion.toNat else 0

/-! ### Refusal records (R94, R95) -/

/-- An offence of a file: SECT, OFFSET, LAYER, OPCODE, DETAIL. -/
structure KOff where
  sect : Nat
  off : Nat
  layer : Nat := 4
  opcode : Nat := 0
  detail : Nat := 0
  deriving DecidableEq, Repr

/-- An offence as an entry of a refusal record. -/
def KOff.bytes (o : KOff) : List Byte :=
  bytesLE 16 (o.sect % 2 ^ 16 + o.layer * 2 ^ 16 + o.opcode * 2 ^ 24 + o.off % 2 ^ 32 * 2 ^ 32 + o.detail * 2 ^ 64)

/-- A refusal record. -/
def refusalRecord (cause suggest bankver vmin : Nat) (os : List KOff) : List Byte :=
  let n := min os.length 255
  bytesLE 16 (cause + suggest * 2 ^ 8 + bankver * 2 ^ 16 + vmin * 2 ^ 24 + n * 2 ^ 32
    + (if 255 < os.length then 2 ^ 48 else 0))
  ++ (os.take 255).flatMap KOff.bytes

/-- Whether an offence is a vendor opcode. -/
def KOff.vendor (o : KOff) : Bool := o.layer == 2 && 0xC0 ≤ o.opcode && o.opcode ≤ 0xDF

/-- SUGGEST for the offences of step 4 (R95). -/
def suggest (profile cover : Nat) (os : List KOff) : Nat :=
  if !os.all KOff.vendor then 0xFF
  else if profile = 0 && os.all fun o => cover.testBit (o.opcode - 0xC0) then 1
  else 0

/-- The offences of step 2 of R84, in the order of sections and offsets; the file header stands under SECT 0, and an
entry of the section table under its section (R7, log 64). -/
def Kob.formOffs (k : Kob) : List KOff :=
  if k.at 0 4 != 0x1A424F4B || k.at 4 1 != 1 then [{ sect := 0, off := 0 }]
  else
    (k.headerBad.map fun o => { sect := 0, off := o })
    ++ (k.sects.flatMap fun x =>
      ((k.sectBad x).map fun o => { sect := x.num, off := o })
      ++ if x.type = 10 then (k.symsBad x).map fun o => { sect := x.num, off := o } else [])

/-- Why a load is refused. -/
structure Refused where
  cause : Nat
  sugg : Nat := 0xFF
  offs : List KOff := []

/-! ### The opcode scan (R93, 08 R228) -/

/-- Whether a major opcode is in the map (06 R151). -/
def majorKnown (m : Nat) : Bool :=
  (1 ≤ m && m ≤ 0x0C) || (0x10 ≤ m && m ≤ 0x14) || (0x18 ≤ m && m ≤ 0x1E) || (0x20 ≤ m && m ≤ 0x25)
  || [0x28, 0x29, 0x2A, 0x2C, 0x30].contains m

/-- The offences of a stream command at an offset. -/
def cmdOff (sect body off : Nat) : List KOff :=
  let op := bitsOf body (8 * off) 8
  if scopKnown op then [] else [{ sect := sect, off := off, layer := 1, opcode := op }]

/-- The offences of .text from an offset on, up to the last word that begins in the `file` bytes of the file; the zero
bytes behind them complete it. The inline words of an SCL are stepped over. A word or command that the end of the
section cuts off is not checked (log 64). -/
def textOffs (sect body file size fuel off : Nat) : List KOff :=
  match fuel with
  | 0 => []
  | fuel + 1 =>
    if file ≤ off || size < off + 4 then []
    else
      let w := bitsOf body (8 * off) 32
      let m := w / 2 ^ 26
      let here : List KOff := if w = 0 || majorKnown m then [] else [{ sect := sect, off := off, layer := 0, opcode := m }]
      if m = 0x29 then
        let n := w % 16
        (if n = 4 && off + 20 ≤ size then cmdOff sect body (off + 4) else [])
          ++ textOffs sect body file size fuel (off + 4 + 4 * n)
      else here ++ textOffs sect body file size fuel (off + 4)

/-- The galleys of .galley, back to back, each as long as its NFORMES says: offset of each, up to bytes that are all
zero. -/
def galleysOf (body size fuel off : Nat) : List Nat :=
  match fuel with
  | 0 => []
  | fuel + 1 =>
    if size ≤ off || body / 2 ^ (8 * off) = 0 then []
    else off :: galleysOf body size fuel (off + 1024 * (ghFormes (bitsOf body (8 * off) 8192) + 1))

/-- The offences of a galley at an offset: those of its head, and those of its formes, as many as the section holds. -/
def galleyOffs (sect body size off : Nat) (lig : Nat → Option (Option (Nat × Nat))) : List KOff :=
  let h := bitsOf body (8 * off) 8192
  let base (k : Nat) : Nat := off + 1024 * (k + 1)
  let g : Galley := { nodes := ghTree h, n := ghFormes h, img := fun k => bitsOf body (8 * base k) 8192 }
  ((headOffs h (some (size - off))).map fun o => { sect := sect, off := off + o })
  ++ (List.range (min g.n ((size - off) / 1024 - 1))).flatMap fun k => (formeOffs g lig k).map fun o =>
      { sect := sect, layer := o.layer, opcode := o.opcode
        off := match o.low with
          | some (b, f) => base (k - b) + f
          | none => base k + o.off }

/-- The ligature images of .lig, back to back, with their offsets (10 R287). -/
def ligImages (body size fuel off : Nat) : List (Nat × List Byte) :=
  match fuel with
  | 0 => []
  | fuel + 1 =>
    if size < off + 16 || body / 2 ^ (8 * off) = 0 then []
    else
      let n := 16 + 8 * ligWords (bytesLE 16 (bitsOf body (8 * off) 128))
      (off, bytesLE n (bitsOf body (8 * off) (8 * n))) :: ligImages body size fuel (off + n)

/-- The ligature images of a file. -/
def Kob.ligs (k : Kob) : List (Nat × List Byte) :=
  match k.sect 4 with
  | some x => ligImages (k.body x) x.fsize (x.fsize / 16 + 1) 0
  | none => []

/-- Whether a file may use a ligature opcode in a context, with LIN and LOUT of its binding (R93, 10 R292). -/
def State.kobLig (s : State) (asid : Nat) (k : Kob) (op : Nat) : Option (Option (Nat × Nat)) :=
  if 0xE0 ≤ op then
    match k.ligs.find? fun i => ligN i.2 == op - 0xE0 with
    | some i => some (some (ligIn i.2, ligOut i.2))
    | none => s.ligUse asid op
  else if k.profile = 1 then s.ligUse asid op
  else none

/-- Offences in the order of sections and offsets. -/
def sortOffs (os : List KOff) : List KOff :=
  sortBy (fun a b => a.sect < b.sect || (a.sect == b.sect && a.off ≤ b.off)) os

/-- The galleys of a file: their offsets in .galley. -/
def Kob.galleys (k : Kob) : List Nat :=
  match k.sect 2 with
  | some x => galleysOf (k.body x) x.msize (x.msize / 1024 + 1) 0
  | none => []

/-- Every offence of step 4. A command of .cmd is one that begins in the bytes of the file; zero bytes complete it
(log 64). -/
def State.scan (s : State) (asid : Nat) (k : Kob) : List KOff :=
  sortOffs
    ((match k.sect 1 with
      | some x => textOffs x.num (k.body x) x.fsize x.msize (x.fsize / 4 + 1) 0
      | none => [])
    ++ (match k.sect 2 with
      | some x => k.galleys.flatMap fun o => galleyOffs x.num (k.body x) x.msize o (s.kobLig asid k)
      | none => [])
    ++ (match k.sect 3 with
      | some x => (List.range (min (x.msize / 16) ((x.fsize + 15) / 16))).flatMap fun i => cmdOff x.num (k.body x) (16 * i)
      | none => []))

/-! ### Space, layouts, ligatures, imports, relocations (R84 step 5, R85, R86) -/

/-- An image as laid out: the tables, the parts by section number, and its end. -/
structure Image where
  lt : Nat
  ly : Nat
  parts : List (Nat × Nat)
  stop : Nat

/-- The layout of R86 from a base on. -/
def Kob.image (k : Kob) (base : Nat) : Image :=
  let lt := roundUp base 64
  let ly := roundUp (lt + 8 * k.ltsize) 64
  let mapped := [1, 6, 3, 2, 4, 5, 7].filterMap k.sect
  let (ps, stop) := mapped.foldl (fun (a : List (Nat × Nat) × Nat) x =>
    let at' := roundUp a.2 (max (2 ^ x.align) 64)
    (a.1 ++ [(x.num, at')], at' + x.msize)) ([], ly + 8 + 2 * k.lysize)
  { lt := lt, ly := ly, parts := ps, stop := stop }

/-- Where a section lies; section 0 is the link table. -/
def Image.sectAt (i : Image) (n : Nat) : Option Nat :=
  if n = 0 then some i.lt else (i.parts.find? fun p => p.1 == n).map fun p => p.2

/-- R, W and X (R335) of the pages of a section in memory (R74, R86). -/
def sectRights (type : Nat) : Nat := if type = 1 then 10 else if type = 5 || type = 7 then 6 else 2

/-- The parts of an image that are mapped, with their ends and rights (R86). -/
def Kob.spans (k : Kob) (im : Image) : List (Nat × Nat × Nat) :=
  (im.lt, im.ly + 8 + 2 * k.lysize, 6)
    :: im.parts.filterMap fun (n, a) => (k.sectNo n).map fun x => (a, a + x.msize, sectRights x.type)

/-- Whether every page of a range is mapped. -/
def MemSys.mapped (ms : MemSys) (asid fuel va stop : Nat) : Bool :=
  match fuel with
  | 0 => true
  | fuel + 1 =>
    if stop ≤ va then true
    else
      match ms.walk asid va with
      | .ok w => ms.mapped asid fuel ((va / 2 ^ w.size + 1) * 2 ^ w.size) stop
      | .error _ => false

/-- The pages of an image from `va` on with the rights of the parts on each, together with those it had where 64 KiB
that are not the image's lie on it too; their cached translations are dropped (log 65). -/
def MemSys.setRights (ms : MemSys) (asid base stop : Nat) (spans : List (Nat × Nat × Nat)) (fuel va : Nat) : MemSys :=
  match fuel with
  | 0 => ms
  | fuel + 1 =>
    if stop ≤ va then ms
    else
      match ms.walk asid va with
      | .error _ => ms
      | .ok w =>
        let lo := va / 2 ^ w.size * 2 ^ w.size
        let hi := lo + 2 ^ w.size
        let r := (spans.filter fun (a, b, _) => a < b && a < hi && lo < b).foldl (fun x (_, _, r) => x ||| r) 0
        let had := w.leaf / 2 % 8 * 2
        let new := if lo < base || roundUp stop 65536 < hi then had ||| r else r
        let ms1 := if r = 0 || new = had then ms
          else (ms.writePa w.entry (bytesLE 8 (w.leaf - had + new))).invalidate 0 asid va
        ms1.setRights asid base stop spans fuel hi

/-- Bytes that the loader writes, whatever the rights of the page. -/
def MemSys.loadBytes (ms : MemSys) (asid fuel va : Nat) (bs : List Byte) : MemSys :=
  match fuel with
  | 0 => ms
  | fuel + 1 =>
    if bs.isEmpty then ms
    else
      let n := min bs.length (65536 - va % 65536)
      match ms.walk asid va with
      | .ok w => (ms.writeData (pteAddr w.leaf + va % 2 ^ w.size) (bs.take n)).loadBytes asid fuel (va + n) (bs.drop n)
      | .error _ => ms.loadBytes asid fuel (va + n) (bs.drop n)

/-- Bytes of an image written to memory. -/
def State.loadWrite (s : State) (asid va : Nat) (bs : List Byte) : State :=
  { s with ms := s.ms.loadBytes asid (bs.length / 65536 + 2) va bs }

/-- What a symbol of a file stands for: its address, the type of its section (0 the link table), whether it is
an import, OWNLT. None for an index that names no symbol; an unresolved import has no address. -/
structure Target where
  addr : Option Nat
  type : Nat
  imp : Bool
  ownlt : Bool

/-- The target of a symbol (R75, R77). -/
def State.target (s : State) (asid : Nat) (k : Kob) (im : Image) (y : Sym) : Target :=
  if y.bind = 2 then
    match (s.ctx asid).symbols.find? fun g => g.1 == y.name with
    | some (_, a, t) => { addr := some a, type := t % 16, imp := true, ownlt := 16 ≤ t }
    | none => { addr := none, type := 0, imp := true, ownlt := false }
  else
    { addr := (im.sectAt y.sect).map fun a => a + y.value, type := ((k.sectNo y.sect).map Sect.type).getD 0,
      imp := false, ownlt := y.ownlt == 1 }

/-- An offence at the place of a relocation. -/
def Reloc.offence (r : Reloc) : KOff := { sect := r.target, off := r.place }

/-- What a relocation writes: address and bytes; none where R77 refuses it. -/
def State.patch (s : State) (asid : Nat) (k : Kob) (im : Image) (handles : List Nat) (r : Reloc) :
    Option (Nat × List Byte) :=
  let tgt := if r.target = 0 then some 0 else (k.sectNo r.target).map Sect.type
  let size := if r.target = 0 then 1 else if r.type = 1 then 8 else if r.type = 2 then 4 else 2
  let limit := if r.target = 0 then k.ltsize else ((k.sectNo r.target).map Sect.msize).getD 0
  match im.sectAt r.target, tgt with
  | some base, some t =>
    if limit < r.place + size || (r.target = 0 && r.place = 0) then none
    else
      let p := if r.target = 0 then base + 8 * r.place else base + r.place
      let word (v : Int) (n : Nat) : List Byte := bytesLE n ((v % (2 : Int) ^ 64).toNat)
      if r.type = 6 then
        if (t = 3 || t = 5 || t = 6) && r.sym = 0 && 0 ≤ r.addend && r.addend < k.lysize && r.place % 2 = 0 then
          some (p, bytesLE 2 (handles.getD r.addend.toNat 0))
        else none
      else
        match (k.sym r.sym).map fun y => s.target asid k im y with
        | some { addr := some a, type := ty, .. } =>
          let v := (a : Int) + r.addend
          match r.type with
          | 1 => if (t = 5 || t = 6) && r.place % 8 = 0 then some (p, word v 8) else none
          | 2 =>
            let w := match k.sectNo r.target with
              | some x => k.inSect x r.place 4
              | none => 0
            let d := v - (p : Int)
            if t = 1 && r.place % 4 = 0 && w / 2 ^ 26 = 0x0B && d % 4 = 0 && -(4194304 : Int) ≤ d && d ≤ 4194300 then
              some (p, bytesLE 4 (w / 2 ^ 21 * 2 ^ 21 + (d / 4 % 2097152).toNat))
            else none
          | 3 => if t = 0 && ty = 1 && v % 4 = 0 then some (p, word (v + 1) 8) else none
          | 4 => if t = 0 && ty = 2 && v % 1024 = 0 then some (p, word (v + 2) 8) else none
          | 5 => if t = 0 && v % 4 = 0 then some (p, word (v + 3) 8) else none
          | _ => none
        | _ => none
  | _, _ => none

/-- Whether a relocation is a SYMBOL offence: its symbol is an import left unresolved, or an LTCODE
against an import without OWNLT (R83). -/
def State.symbolBad (s : State) (asid : Nat) (k : Kob) (im : Image) (r : Reloc) : Bool :=
  match k.sym r.sym with
  | none => false
  | some y =>
    let t := s.target asid k im y
    r.type != 6 && t.imp && (t.addr.isNone || (r.type = 3 && !t.ownlt))

/-- The offences of the imports: relocations, imports that no relocation uses, and duplicates of published
GLOBALs. A load by the dispatcher is never taken for a relink (R75; DESIGN CHOICE, log 64). -/
def State.importOffs (s : State) (asid : Nat) (k : Kob) (im : Image) : List KOff :=
  let symSect := ((k.sect 10).map fun x => x.num).getD 0
  let place (y : Sym) : KOff := { sect := symSect, off := 8 + 32 * (y.idx - 1) }
  let known (y : Sym) : Bool := (s.ctx asid).symbols.any fun g => g.1 == y.name
  (k.relocs.filter fun r => s.symbolBad asid k im r).map Reloc.offence
  ++ (k.syms.filter fun y => y.bind == 2 && !known y && !(k.relocs.any fun r => r.sym == y.idx && r.type != 6)).map place
  ++ (k.syms.filter fun y => y.bind == 1 && known y).map place

/-- The ADDPC relocations that an image is too long to reach (R86). -/
def State.reachOffs (s : State) (asid : Nat) (k : Kob) (im : Image) : List KOff :=
  (k.relocs.filter fun r =>
    r.type == 2 && (match im.sectAt r.target, k.sym r.sym with
      | some base, some y => y.bind != 2 && (match (s.target asid k im y).addr with
          | some a =>
            let d := (a : Int) + r.addend - (base + r.place : Nat)
            d < -4194304 || 4194300 < d
          | none => false)
      | _, _ => false)).map Reloc.offence

/-- The layout records registered in slot order (R84): the handles, and the slots refused with the causes of R36. -/
def State.loadLayouts (s : State) (asid : Nat) (k : Kob) : State × List Nat × List (Nat × Nat) :=
  match k.sect 8 with
  | none => (s, [], [])
  | some x =>
    (List.range k.lysize).foldl (fun (a : State × List Nat × List (Nat × Nat)) i =>
      let (t, hs, bad) := a
      match t.register asid (BitVec.ofNat 512 (k.inSect x (64 * i) 64)) (t.handleBusy asid) with
      | (t1, .inl h) => (t1, hs ++ [h], bad)
      | (_, .inr c) => (t, hs, bad ++ [(i, c)])) (s, [], [])

/-- The ligature images bound or found bound (R84): and the offsets of those refused, each with the reason. -/
def State.loadLigs (s : State) (asid : Nat) (k : Kob) : State × List (Nat × Nat) :=
  k.ligs.foldl (fun (a : State × List (Nat × Nat)) (o, img) =>
    let (t, bad) := a
    match tget none (t.ctx asid).ligs (ligN img) with
    | some e => if e.digest == sm3 (img.map BitVec.toNat) then a else (t, bad ++ [(o, 6)])
    | none =>
      match t.bindLig asid (ligN img) (some img) with
      | (t1, 0) => (t1, bad)
      | (_, r) => (t, bad ++ [(o, r)])) (s, [])

/-- The GIDs given to the galleys: the lowest unused from 1. -/
def freshGids (used : List Nat) (n : Nat) : Option (List Nat) :=
  match n with
  | 0 => some []
  | n + 1 =>
    match ((List.range (used.length + 1)).map (· + 1)).find? fun g => !used.contains g with
    | some g => if 65535 < g then none else (freshGids (g :: used) n).map fun r => g :: r
    | none => none

/-- The parts of an image as bytes, before relocation. -/
def Kob.loadParts (k : Kob) (im : Image) (asid : Nat) (s : State) : State :=
  k.sects.foldl (fun (a : State) x =>
    match im.sectAt x.num with
    | some va => a.loadWrite asid va (bytesLE x.msize (k.body x))
    | none => a) s

/-- Steps 5 to 7 of R84: the image published, or why not. Where the memory or the GIDs run out the cause is SPACE with
one entry, SECT 0 and OFFSET 0; layouts that fail with several causes are refused with that of the first slot (DESIGN
CHOICE, log 64; R85). -/
def State.publish (s : State) (asid file : Nat) (k : Kob) : Refused ⊕ (State × Nat) :=
  let c := s.ctx asid
  let base := roundUp (if c.imageNext = 0 then Config.imageBase asid else c.imageNext) 65536
  let im := k.image base
  let sec (t : Nat) : Nat := ((k.sect t).map fun x => x.num).getD 0
  if deviceBase < im.stop || !s.ms.mapped asid ((im.stop - base) / 65536 + 2) base im.stop then
    .inl { cause := 8, offs := [{ sect := 0, off := 0 }] }
  else if !(s.reachOffs asid k im).isEmpty then .inl { cause := 5, offs := sortOffs (s.reachOffs asid k im) }
  else
    match (s.modCtx asid fun x => { x with priv := true }).loadLayouts asid k with
    | (_, _, (i, cause) :: bad) =>
      .inl { cause := if cause = 10 then 8 else 6
             offs := ((i, cause) :: bad).map fun (i, c) => { sect := sec 8, off := 64 * i, detail := c } }
    | (s1, hs, []) =>
      match (s1.modCtx asid fun x => { x with priv := c.priv }).loadLigs asid k with
      | (_, x :: bad) =>
        .inl { cause := 7, offs := (x :: bad).map fun (o, r) => { sect := sec 4, off := o, detail := r } }
      | (s2, []) =>
        let imps := s2.importOffs asid k im
        let bad := (k.relocs.filter fun r => (s2.patch asid k im hs r).isNone).map Reloc.offence
        if !imps.isEmpty then .inl { cause := 4, offs := sortOffs imps }
        else if !bad.isEmpty then .inl { cause := 5, offs := sortOffs bad }
        else
          match freshGids c.gids k.galleys.length with
          | none => .inl { cause := 8, offs := [{ sect := 0, off := 0 }] }
          | some gids =>
            let s3 := k.loadParts im asid s2
            let s4 := k.relocs.foldl (fun (a : State) r =>
              match s2.patch asid k im hs r with
              | some (p, bs) => if r.target = 0 then a else a.loadWrite asid p bs
              | none => a) s3
            let s5 := (k.galleys.zip gids).foldl (fun (a : State) (o, g) =>
              match im.sectAt (sec 2) with
              | some va => a.loadWrite asid (va + o + 6) (bytesLE 2 g)
              | none => a) s4
            let s6 := s5.loadWrite asid im.ly
              (bytesLE 8 (k.ltsize + k.lysize * 2 ^ 32) ++ hs.flatMap fun h => bytesLE 2 h)
            let s7 := s6.loadWrite asid im.lt (bytesLE (8 * k.ltsize) (im.ly + 3))
            let s8 := k.relocs.foldl (fun (a : State) r =>
              match s2.patch asid k im hs r with
              | some (p, bs) => if r.target = 0 then a.loadWrite asid p bs else a
              | none => a) s7
            let globals := (k.syms.filter fun y => y.bind == 1).filterMap fun y =>
              let t := s2.target asid k im y
              t.addr.map fun a => (y.name, a, t.type + (if t.ownlt then 16 else 0))
            let ms := s8.ms.setRights asid base im.stop (k.spans im) ((im.stop - base) / 65536 + 2) base
            .inr (State.modCtx { s8 with ms := ms } asid fun x => { x with
              published := x.published ++ [{ file := file, fcrc := k.fcrc, table := im.lt }]
              symbols := x.symbols ++ globals, gids := x.gids ++ gids, imageNext := im.stop }, im.lt)

/-- R84: the file loaded and published, with its link table; or the refusal record. -/
def State.loadKob (s : State) (asid file : Nat) (k : Kob) : List Byte ⊕ (State × Nat) :=
  let refuse (r : Refused) : List Byte ⊕ (State × Nat) :=
    .inl (refusalRecord r.cause r.sugg s.bankver k.vmin r.offs)
  if !capWalk s.capList 64 0 then refuse { cause := 9 }
  else if !k.formOffs.isEmpty then refuse { cause := 1, offs := k.formOffs }
  else if k.profile = 1 && s.bankver < k.vmin then refuse { cause := 2, sugg := 0 }
  else
    let os := s.scan asid k
    if !os.isEmpty then
      refuse { cause := if os.any (fun o => o.layer == 4) then 1 else 3, sugg := suggest k.profile s.cover os, offs := os }
    else
      match s.publish asid file k with
      | .inl r => refuse r
      | .inr x => .inr x

end Sys2Proof.Machine
end

