-- ==== Sys2Proof/Machine/Records.lean ====
section
/-! DEFINITION. The end of a job: the fault record with its sections (14 R399-R401, 11 R328), completion and
its signal (04 R103), retirement and the retire record (14 R397, R398), containment (14 R391), the deadlock
detector and the watchdog (14 R392, R393). -/

namespace Sys2Proof.Machine

/-! ### Fields of a queue and of a record (04 R97, R100) -/

/-- A field of QCTL. -/
def Queue.fld (q : Queue) (lo n : Nat) : Nat := fieldN 64 q.ctl lo n
/-- EN. -/
def Queue.en (q : Queue) : Bool := q.fld 0 1 == 1
/-- RHOST. -/
def Queue.rhost (q : Queue) : Bool := q.fld 1 1 == 1
/-- PRIO. -/
def Queue.prio (q : Queue) : Nat := q.fld 8 5
/-- OCC. -/
def Queue.occ (q : Queue) : Nat := (q.next - q.retired).toNat
/-- A field of a job record. -/
def Job.fld (j : Job) (lo n : Nat) : Nat := fieldN 1024 j.rcd lo n
/-- SIGALWAYS. -/
def Job.sigAlways (j : Job) : Bool := j.fld 36 1 == 1
/-- SIGEN. -/
def Job.sigEn (j : Job) : Bool := j.fld 37 1 == 1
/-- KFILE. -/
def Job.kfile (j : Job) : Bool := j.fld 38 1 == 1
/-- KERNEL. -/
def Job.kernel (j : Job) : Nat := j.fld 64 56
/-- The launches of a job: their keys, in rising order, and themselves. -/
def State.jobLaunches (s : State) (j : JobId) : List (Nat × Launch) :=
  s.fab.launches.filterMap fun e => match e.2 with
    | some l => if l.job == j then some (e.1, l) else none
    | none => none
/-- The numbers of a job's threads, by index. -/
def Job.threads (j : Job) : List Nat := j.segs.map fun g => 4 * g.ring + g.slot

/-! ### The sections of a fault record -/

/-- The code of a status (R397). -/
def Status.code : Status → Nat
  | .ok => 0
  | .error => 1
  | .cancelled => 2
  | .refused => 3
  | .timeout => 4
  | .deadlock => 5
  | .dieLost => 6

/-- A fault entry (R400). -/
def FaultRec.bytes (f : FaultRec) : List Byte :=
  bytesLE 8 (f.cls.code + f.site % 16 * 2 ^ 8 + f.ring % 16 * 2 ^ 16 + f.slot % 4 * 2 ^ 20 + f.col % 16 * 2 ^ 22
    + f.forme % 2 ^ 16 * 2 ^ 32)
  ++ bytesLE 8 f.detail.toNat ++ bytesLE 8 f.addr.toNat ++ bytesLE 8 f.time

/-- Class and address of the fault at which a port stands. -/
def Freeze.site : Freeze → FaultClass × W64
  | .xlate va => (.xlate, va)
  | .fault cls va => (cls, va)

/-- A port block: a command, its stream element, and the fault (11 R328). -/
def blockOf (c : Cmd) (e : Nat) (f : Option Freeze) : BitVec 512 :=
  let js := if c.nest then c.loops e else [0, 0, 0, 0]
  let fault := match f with
    | some f => f.site.1.code * 2 ^ 112 + f.site.2.toNat * 2 ^ 128
    | none => 0
  BitVec.ofNat 512 (c.ticket % 2 ^ 48 + c.scop * 2 ^ 48 + c.port * 2 ^ 56 + e % 2 ^ 48 * 2 ^ 64 + fault
    + ((List.range 4).map fun i => js.getD i 0 % 2 ^ 16 * 2 ^ (192 + 16 * i)).foldl (· + ·) 0)

/-- The stream element at which a port's command stands: a store's by the position of its tile (11 R308, R328). An
SC.MARK, whose register is its marker, has none. -/
def PortSt.elemOf (p : PortSt) (c : Cur) : Nat :=
  if c.cmd.scop = 13 then 0
  else if c.cmd.scop = 2 then (match p.full with
    | some (_, _, pos) => pos
    | none => c.posn)
  else c.elem

/-- The port block of a port with a command (11 R328): the one at work, or bound, or not complete, or next. -/
def PortSt.portBlock (p : PortSt) : Option (BitVec 512) :=
  match p.cur with
  | some c => some (blockOf c.cmd (p.elemOf c) c.freeze)
  | none =>
    let bound := (p.spad.map fun b => blockOf b.cmd 0 b.freeze).or (p.peer.map fun b => blockOf b.cmd 0 none)
    let late := ((p.trail.find? fun c => c.freeze.isSome).or p.trail.head?).map fun c => blockOf c.cmd c.elem c.freeze
    (bound.or late).or (p.q.head?.map fun c => blockOf c 0 none)

/-- The port blocks of a job, in the order of their keys: where it stands, or of its saved state. -/
def State.jobBlocks (s : State) (j : JobId) : List (BitVec 512) :=
  match (s.job j).bind fun x => x.saved with
  | some v => v.fab.ports.filterMap fun e => e.2.portBlock
  | none => s.fab.ports.filterMap fun e =>
    if (s.launch (e.1 / 2 ^ 20)).any fun l => l.job == j then e.2.portBlock else none

/-- The code of the tag at a head: HDR is 1 (08 R218). -/
def headCode (h : Option Head) : Option Nat :=
  h.map fun x => match x.tok with
    | .data _ => 0
    | .hdr _ => 1
    | .ctl t _ => t.code

/-- The head of an input of an element as the deadlock section sees it: of a load or gather element the first input
that no link feeds is its port's reply stream (11 R318). -/
def State.dlHead (s : State) (lk : Nat) (l : Launch) (k c i : Nat) (cfg : Cfg) : Option Head :=
  if cfg.inOn i then s.headAt lk l k c i
  else if cfg.replies && i == (if cfg.op == 0x72 then 1 else 0) then
    headOf [] ((s.port (agPort lk k c)).reply.map fun x => x.2)
  else none

/-- The entry of an element in the deadlock section (R401). -/
def State.dlElem (s : State) (lk : Nat) (l : Launch) (k c : Nat) (cfg : Cfg) : BitVec 128 :=
  let heads := (List.range 3).map fun i => s.dlHead lk l k c i cfg
  let bits (ps : List Bool) : Nat := ps.foldr (fun b a => 2 * a + if b then 1 else 0) 0
  let tags := heads.filterMap fun h => (headTag h).bind fun t => if t.aligned || t == .fsw then some t.code else none
  let e := match s.holder lk l k c with
    | some key => (s.elem key).getD {}
    | none => {}
  BitVec.ofNat 128 (c * 2 ^ 2 + k % 2 ^ 16 * 2 ^ 6 + cfg.op * 2 ^ 22 + bits (heads.map Option.isSome) * 2 ^ 30
    + bits ((List.range 2).map fun o => cfg.outOn o && !s.outRoom lk l k c o) * 2 ^ 33
    + tags.headD 0 * 2 ^ 35 + cfg.crate * 2 ^ 39 + cfg.prate * 2 ^ 43 + e.fired % 2 ^ 64 * 2 ^ 64)

/-- The entry of a link. -/
def State.dlLink (s : State) (lk : Nat) (l : Launch) (k i : Nat) (w : LinkW) : BitVec 128 :=
  let st := s.link (linkKey lk k i)
  let cap := if st.ovf.isSome then 0xFFFFFFFF else w.cap (l.scrollsAt k) l.b
  let held := st.held w (l.scrollsAt k) + (match st.ovf with
    | some o => places o.toks
    | none => 0)
  BitVec.ofNat 128 (1 + i * 2 ^ 2 + k % 2 ^ 16 * 2 ^ 8 + (headCode (st.head w s.clk.fc)).getD 15 * 2 ^ 24
    + held % 2 ^ 32 * 2 ^ 32 + cap * 2 ^ 64)

/-- The entry of a router. -/
def State.dlRtr (s : State) (lk k r code : Nat) : BitVec 128 :=
  let occ := if code = 3 then (s.rtr (rtrKey lk k r)).occ else 0
  BitVec.ofNat 128 (2 + r * 2 ^ 2 + k % 2 ^ 16 * 2 ^ 5 + code * 2 ^ 21 + occ * 2 ^ 29)

/-- The formes of a launch that are imposed: those of resident pipelines, and those that some stripe of a
scrolling one holds. -/
def State.imposed (s : State) (lk : Nat) (l : Launch) : List Nat :=
  (List.range l.nformes).filter fun k =>
    match l.pipeFor k with
    | none => false
    | some p => !p.scrolls || (List.range 16).any fun c => match s.holder lk l k c with
        | some key => !((s.elem key).getD {}).await
        | none => false

/-- The deadlock section of a job (R401). -/
def State.deadlockSection (s : State) (j : JobId) : List (BitVec 128) :=
  (s.jobLaunches j).flatMap fun (lk, l) =>
    (if l.ended then [] else
      (s.imposed lk l).flatMap fun k =>
        match l.img k with
        | none => []
        | some img =>
          ((List.range 16).filterMap fun c => (l.cfg k c).map fun cfg => s.dlElem lk l k c cfg)
          ++ ((fLinkWs img).map fun (i, w) => s.dlLink lk l k i w)
          ++ ((List.range 8).filterMap fun r =>
            let code := rCode (fRtr img r)
            if code = 0 then none else some (s.dlRtr lk k r code)))
    ++ (if l.ended then [] else
      (List.range 16).map fun x =>
        BitVec.ofNat 128 (3 + (48 + x) * 2 ^ 2 + lk % 4 * 2 ^ 8
          + places (s.fifo (fifoKey lk (s.thread (lkThread lk)).n (48 + x))) % 2 ^ 32 * 2 ^ 64))

/-- The threads of a job as they stood when stopped: in their slots, or saved. -/
def State.stoodThreads (s : State) (j : Job) : List Thread :=
  match j.saved with
  | some v => v.threads
  | none => j.threads.map s.thread

/-- A fault record (R399): the deadlock section is cut short first, the port section next. -/
def State.faultRecord (s : State) (id : JobId) (j : Job) : List Byte :=
  let early := j.order == 0
  let thr := if early then [] else s.stoodThreads j
  let fs := (j.faults ++ j.noted).take 16
  let nf := fs.length
  let throff := 64 + 32 * nf
  let portoff := throff + 768 * thr.length
  let room := 65536 - portoff
  let ports := j.portBlocks.take (room / 64)
  let dl := j.dlSec.take ((room - 64 * ports.length) / 16)
  let dloff := if j.dlSec.isEmpty then 0 else portoff + 64 * ports.length
  let trunc := ports.length < j.portBlocks.length || dl.length < j.dlSec.length
  bytesLE 8 (1 + nf * 2 ^ 8 + (if trunc then 2 ^ 16 else 0) + j.seq.toNat * 2 ^ 32)
  ++ bytesLE 8 (id.queue % 2 ^ 13 + (s.queue id.queue).asid * 2 ^ 16 + j.errClass * 2 ^ 32 + j.status.code * 2 ^ 40)
  ++ bytesLE 8 (throff + thr.length * 2 ^ 32 + ports.length * 2 ^ 48)
  ++ bytesLE 8 (portoff + dloff * 2 ^ 32) ++ bytesLE 32 dl.length
  ++ (fs.flatMap FaultRec.bytes)
  ++ (thr.flatMap fun t => (t.image t.pc64).flatMap fun w => bytesLE 8 w.toNat)
  ++ (ports.flatMap fun b => bytesLE 64 b.toNat) ++ (dl.flatMap fun b => bytesLE 16 b.toNat)

/-- The block through which a job's record is written, with FRBASE and FRCOUNT (R399): its own, or block 0 of its
context. None without job blocks. -/
def State.recordBlock (s : State) (asid : Nat) (j : Job) : Option (Nat × Nat × Nat) :=
  let d := (s.ctx asid).cxdesc
  if !d.getLsbD 63 then none
  else
    match j.block with
    | some b => some (b, j.frBase, j.frCount)
    | none =>
      let cx := fieldN 64 d 12 44 * 4096
      some (0, s.sysWord asid (cx + 0x610) 8, s.sysWord asid (cx + 0x618) 8)

/-- The fault or refusal record of a job written, and its address kept (R399). -/
def State.writeRecord (s : State) (id : JobId) : State :=
  match s.job id with
  | none => s
  | some j =>
    let asid := (s.queue id.queue).asid
    match s.recordBlock asid j with
    | none => s
    | some (b, base, count) =>
      if base = 0 || count = 0 || 65536 < count then s
      else
        let n := tget 0 s.dp.frecs (asid * 256 + b)
        let va := base + 65536 * (n % count)
        let bs := if j.refusal.isEmpty then s.faultRecord id j else j.refusal
        match s.ms.vwrite (dispPlace asid va) 0 asid va bs with
        | (ms, none) =>
          let s1 : State := { s with ms := ms, dp := { s.dp with frecs := tset 0 s.dp.frecs (asid * 256 + b) (n + 1) } }
          s1.modJob id fun j => { j with frec := va }
        | (_, some _) => s

/-! ### Completion and retirement (04 R103) -/

/-- Whether a job that completes writes a record (R399). -/
def Job.recorded (j : Job) : Bool :=
  match j.status with
  | .ok => !j.noted.isEmpty
  | .cancelled => false
  | _ => true

/-- A job completes: its cycles are counted, its record is written, its event is signalled (R103, R397). -/
def State.finishJob (s : State) (id : JobId) : State :=
  let s1 := s.modJob id fun j => { j with
    phase := .completed, runSince := none
    cycles := j.cycles + (match j.runSince with
      | some t => s.clk.fc - t
      | none => 0) }
  match s1.job id with
  | none => s1
  | some j =>
    let s2 := if j.recorded then s1.writeRecord id else s1
    if j.sigEn && !j.signalled && (j.status == .ok || j.sigAlways) then
      (s2.signal (j.fld 144 16)).modJob id fun j => { j with signalled := true }
    else s2

/-- A job that has not started ends with a status and a class (04 R105, R106). -/
def State.endUnstarted (s : State) (id : JobId) (st : Status) (cls : Nat) (fs : List FaultRec) : State :=
  (s.modJob id fun j => { j with status := st, errClass := cls, faults := j.faults ++ fs, check := .failed }).finishJob id

/-- A job refused by a check: its class, the check's number, the address at fault (R399). -/
def State.refuseJob (s : State) (id : JobId) (check : Nat) (cls : FaultClass) (addr : Nat) : State :=
  s.endUnstarted id .refused cls.code
    [{ cls := cls, site := 5, detail := BitVec.ofNat 64 check, addr := BitVec.ofNat 64 addr, time := s.time, fc := s.clk.fc }]

/-- The slots and segments of a job given back: its threads hold no job, its exchange queues are empty, and what
is left of its launches and of commands that waited for one goes (05 R122, 07 R184). -/
def State.releaseJob (s : State) (id : JobId) : State :=
  match s.job id with
  | none => s
  | some j =>
    let ks := j.threads
    let s1 := (s.jobLaunches id).foldl (fun (a : State) (lk, _) => ((a.dropWaiters (Waiter.ofLaunch lk)).modFab fun f => f.clear lk).setLaunch lk none)
      (s.dropWaiters fun w => match w with
        | .thread k => ks.contains k
        | _ => false)
    let s2 := ks.foldl (fun (a : State) k =>
      { (a.setThread k {}) with xq := dropKeys a.xq fun e => e / 8 == k }) s1
    let s3 := s2.modFab fun f => { f with
      pending := f.pending.filter fun c => !ks.contains c.thread
      outstanding := dropKeys f.outstanding ks.contains }
    s3.modJob id fun j => { j with segs := [] }

/-- A retire record (R397). -/
def retireRecord (j : Job) : List Byte :=
  bytesLE 8 (j.seq.toNat + j.status.code * 2 ^ 32 + j.errClass % 256 * 2 ^ 40 + min j.preempts 255 * 2 ^ 48
    + min j.rollbacks 255 * 2 ^ 56)
  ++ bytesLE 8 (j.frec % 2 ^ 56 + j.redisp % 4 * 2 ^ 56) ++ bytesLE 8 j.cycles ++ bytesLE 8 j.tokens

/-- The function that owns a queue (17 R413). -/
def State.ownerOf (s : State) (q : Nat) : Nat := fieldN 64 (tget 0 s.bd.qassign q) 0 7
/-- The MSI-X message of a queue: the owning function, and VEC in its table (17 R413). -/
def State.queueMsg (s : State) (q : Nat) : Msix := .queue q (s.ownerOf q) (fieldN 64 (tget 0 s.bd.qassign q) 8 11)

/-- RETIRE (R103, R104): the oldest record of a queue, once its job has completed, has its retire record written;
DONE advances, the job's block and slots are freed, and the queue's message follows. The job retires only once its
record has been written: one that translation refuses waits, as one for a host does while CXL port 0 is down (17 R411),
with die 0 among other causes (14 R405). -/
def execRetire (q : Nat) (s : State) : Out :=
  let x := s.queue q
  match x.jobs with
  | [] => .next s
  | j :: _ =>
    if j.phase != .completed || (x.rhost && !s.portUp 0) then .next s
    else
      let id : JobId := { queue := q, seq := j.seq }
      let va := (x.rbase.toNat + 32 * (j.seq.toNat % 2 ^ (x.fld 24 4 + 6))) % 2 ^ 56
      let s1 := match j.block with
        | some _ => s.sysWrite x.asid (j.cx + 0x200) (List.replicate 128 0xFF)
        | none => s
      let s2 := s1.releaseJob id
      let done (s3 : State) : Out :=
        let s4 := s3.modQueue q fun y => { y with jobs := y.jobs.drop 1, retired := y.retired + 1 }
        .next (if x.fld 2 1 = 1 then { s4 with ms := { s4.ms with msix := s4.ms.msix ++ [s4.queueMsg q] } } else s4)
      if x.rhost then done { s2 with bd := { s2.bd with hostOut := s2.bd.hostOut ++ [(va, retireRecord j)] } }
      else
        match s2.ms.vwrite (dispPlace x.asid va) 0 x.asid va (retireRecord j) with
        | (ms, none) => done { s2 with ms := ms }
        | (_, some _) => .next s

/-- JOB_COMPLETE (R103): every thread has halted and every launch has ended; or containment is complete. Every
store of a job has then been performed. -/
def execJobComplete (id : JobId) (s : State) : Out :=
  match s.job id with
  | none => .next s
  | some j =>
    match j.phase with
    | .started =>
      if (j.threads.all fun k => (s.thread k).run == .halted) && (s.jobLaunches id).all fun e => e.2.ended then
        .next (s.finishJob id)
      else .next s
    | .containing => if j.contained then .next (s.finishJob id) else .next s
    | _ => .next s

/-! ### Containment (R391) -/

/-- ERR sent across the peer channels of a launch (R391 step 5). -/
def State.errPeers (s : State) (lk cls : Nat) : State :=
  s.fab.ports.foldl (fun (a : State) (e : Nat × PortSt) =>
    match e.2.peer with
    | some b =>
      if e.1 / 2 ^ 20 == lk then
        if b.lost then a else (a.tell b.link b.chan (.tok (.ctl .err (BitVec.ofNat 64 cls)))).setChan b.link b.chan none
      else a
    | none => a) s

/-- CONTAINMENT (R391): the threads stop; ports, elements and routers come to rest with every write that has not
committed discarded; ERR crosses the open peer channels; exchange queues, FIFOs and overflow queues are
emptied. What the fault record shows is taken first. A rollback under way comes before it (R390). -/
def execContainment (id : JobId) (s : State) : Out :=
  match s.job id with
  | none => .next s
  | some j =>
    if j.phase != .containing || j.contained || (s.jobLaunches id).any fun e => e.2.struck then .next s
    else
      let dl := if j.status == .deadlock then s.deadlockSection id else []
      let s1 := s.modJob id fun x => { x with contained := true, portBlocks := s.jobBlocks id, dlSec := dl }
      let s2 := (s1.jobLaunches id).foldl (fun (a : State) (lk, l) =>
        if l.ended then a else (a.errPeers lk j.errClass).endLaunch lk) s1
      .next (j.threads.foldl (fun (a : State) k =>
        { (a.modThread k fun th => { th with run := .stopped, wait := none, arrived := [] }) with
          xq := dropKeys a.xq fun e => e / 8 == k }) s2)

/-! ### The deadlock detector and the watchdog (R392, R393) -/

/-- The instruction at a thread's pc, as the detector sees it. -/
def State.instrAt (s : State) (k : Nat) : Option Instr :=
  let th := s.thread k
  match s.sysRead (s.asidOf th) th.pc.toNat 4 with
  | some bs => match decodeWord (BitVec.ofNat 32 (ofBytesLE bs)) with
    | .ok i => some i
    | .error _ => none
  | none => none

/-- The job of a thread that executes is not quiescent (R392). -/
def State.stirThread (s : State) (k : Nat) : State :=
  match (s.thread k).job with
  | some j => s.modJob j fun x => { x with quietFc := s.clk.fc }
  | none => s

/-- Whether a waiting instruction is one of those of R392, and still waits. -/
def State.stuckAt (s : State) (k : Nat) : Bool :=
  let th := s.thread k
  match s.instrAt k with
  | some (.gwait _ ls) => match (s.shown (slotOf k ls.toNat)).bind fun x => s.launch x.1 with
      | some l => !l.ended
      | none => false
  | some (.scwait a) =>
    let t := (th.get a).toNat
    (s.openTickets k).any fun x => t = 0 || x ≤ t
  | some (.qpop _ q) => (s.queueOf (xqKey k q.toNat)).isEmpty
  | some (.qpush _ q) => 256 ≤ (s.queueOf (xqKey k q.toNat)).length
  | some (.wfe _) => th.note = 0
  | some (.bar _ i) => match th.arrived.lookup i.toNat, th.job.bind s.job with
      | some gen, some j => gen == (tget {} j.bars i.toNat).gen
      | _, _ => false
  | _ => false

/-- Whether a port is at work (R392): an access is parked, frozen or can be made, a move that its SC.STAGE asked for is
still to be made, a command can start or complete, or an SC.WAITEV waits at its head. -/
def State.portActs (s : State) (e : Nat × PortSt) : Bool :=
  let p := e.2
  let frozen := match p.cur with
    | some c => c.freeze.isSome
    | none => false
  frozen || !p.div.isEmpty || (p.trail.any fun c => c.cmd.scop == 11 && s.ms.moving c.cmd.tag)
  || (match s.keyRef e.1 with
      | none => false
      | some r =>
        !decide (s.access r = s)
        || (p.ending.any fun c => s.complete r.l p c)
        || (match p.q with
            | [] => false
            | c :: _ => s.mayStart r c && ((c.scop != 12 && c.scop != 16) || p.trail.isEmpty)))

/-- Whether the fabric of a launch can act: an element is fireable, a shadow or its forme is still to be fetched, or a port
is at work (R392). -/
def State.launchActs (s : State) (lk : Nat) (l : Launch) : Bool :=
  !l.ended
  && ((List.range l.win.length).any fun j => (List.range 16).any fun c =>
        s.actable { launch := launchOf lk, stripe := j, col := Fin.ofNat 16 c }
        || (tget 0 s.fab.shadows (stripeKey lk j) = 0 && (l.pipeAt j).any fun p => j - p.stripe < p.n)
        || (l.pipeAt j).any fun p => (s.due lk p j).isSome)
     || (s.fab.ports.any fun e => e.1 / 2 ^ 20 == lk && s.portActs e)

/-- Whether an XFQ entry of a job's context names one of its threads or ports. -/
def State.faultOpen (s : State) (id : JobId) (j : Job) : Bool :=
  s.ms.dies.any fun d => d.2.opens.any fun o => o.waiters.any fun w => match w with
    | .thread k => j.threads.contains k
    | .port key => (s.launch (key / 2 ^ 20)).any fun l => l.job == id
    | .peer _ => false
    | .overflow key => (s.launch (key / 64 / 65536)).any fun l => l.job == id

/-- DEADLOCK (R392): QCYC fc in which the job was quiescent. -/
def execDeadlock (id : JobId) (s : State) : Out :=
  match s.job id with
  | none => .next s
  | some j =>
    let quiet := j.phase == .started && !s.dp.dlcfg.getLsbD 20
      && (j.threads.any fun k => (s.thread k).run != .halted || !(s.jobLaunches id).isEmpty)
      && (j.threads.all fun k => (s.thread k).run == .halted || ((s.thread k).run == .running && s.stuckAt k))
      && !s.faultOpen id j && ((s.jobLaunches id).all fun (lk, l) => !s.launchActs lk l)
    if quiet && j.quietFc + fieldN 64 s.dp.dlcfg 0 20 ≤ s.clk.fc then
      .next (s.recordFault id { cls := .deadlock, site := 8 })
    else .next s

/-- The watchdog of a job, in ms (R393). -/
def State.watchdogMs (s : State) (id : JobId) (j : Job) : Nat :=
  if j.fld 48 16 = 0 then (s.queue id.queue).fld 48 16 else j.fld 48 16

/-- WATCHDOG (R393): no progress mark for the job's time; while the save sequencer runs the expiry is held. -/
def execWatchdog (id : JobId) (s : State) : Out :=
  match s.job id with
  | none => .next s
  | some j =>
    if j.progressFs + s.watchdogMs id j * 10 ^ 12 ≤ s.clk.fs then
      match j.phase with
      | .started => .next (s.recordFault id { cls := .watchdog, site := 8 })
      | .saving => .next (s.modJob id fun x => { x with expiry := true })
      | _ => .next s
    else .next s

end Sys2Proof.Machine
end

