-- ==== Sys2Proof/Machine/Saves.lean ====
section
/-! DEFINITION. Markers, cuts and commits (14 R384-R389), soft errors and rollback (R382, R383, R390), pre-emption
and saves (R394-R396), warm reset and the loss of a die (R403-R405). What a snapshot and a save hold beside
the thread images is kept in the state: the specification gives it no byte layout. -/

namespace Sys2Proof.Machine

/-! ### Markers (R384) -/

/-- The source ports of the imposed pipelines of a launch, by key. A forme that has still to be fetched, whose sources are
not known yet, counts by its first port, which has delivered and placed nothing. -/
def Launch.sourceKeys (l : Launch) (lk : Nat) : List Nat :=
  l.pipes.flatMap fun p => (List.range p.n).flatMap fun i =>
    let k := p.forme + i
    match l.img k with
    | none => [agPort lk k 0]
    | some img =>
      let n := l.segOfForme k
      ((fLinkWs img).filterMap fun (_, w) =>
        if w.xend == 1 && (16 ≤ w.xnum || !l.pushed k n w.xnum) then
          some (if w.xnum < 16 then ringPort lk n (48 + w.xnum) else xqPort lk n (w.xnum - 16))
        else none)
      ++ (List.range 16).filterMap fun c => match l.cfg k c with
        | some cfg => if cfg.replies then some (agPort lk k c) else none
        | none => none

/-- The VCONST elements of the imposed pipelines: their configuration, the element that holds each, its registers. -/
def State.constElems (s : State) (lk : Nat) (l : Launch) : List (Cfg × ElemSt) :=
  l.pipes.flatMap fun p => (List.range p.n).flatMap fun i =>
    let k := p.forme + i
    (List.range 16).filterMap fun c => match l.cfg k c with
      | some cfg =>
        if cfg.op == 0x43 then
          some (cfg, match s.holder lk l k c with
            | some key => (s.elem key).getD {}
            | none => { st := constUnpack (tget 0 s.fab.consts (recKey lk k c)) })
        else none
      | none => none

/-- The VCONST elements of the imposed pipelines, as they stand. -/
def State.constStates (s : State) (lk : Nat) (l : Launch) : List OpSt := (s.constElems lk l).map fun x => x.2.st

/-- The data-width tokens that a VCONST has delivered since the launch: those of its tiles but for the ones it owes. -/
def constToks (x : Cfg × ElemSt) : Nat :=
  let tile := filledTile (x.1.poolHdr x.1.imm16) 0 (x.1.poolWord (x.1.imm16 + 32))
  x.2.st.cnt * (tile.filter Tok.wide).length - (x.2.owea.filter Tok.wide).length

/-- MARKER (R384): a scheduled marker falls due when a source has delivered B·MARKINT more data-width tokens, and
is requested of every source. -/
def execMarker (id : LaunchId) (s : State) : Out :=
  let lk := launchKey id
  match s.launch lk with
  | none => .next s
  | some l =>
    let due := l.b * l.markint * (l.scheds + 1)
    if s.lkActive lk && l.snapOn && l.markint != 0
        && (((l.sourceKeys lk).any fun k => due ≤ (s.port k).toks) || (s.constElems lk l).any fun x => due ≤ constToks x) then
      .next (((s.modLaunch lk fun l => { l with scheds := l.scheds + 1 }).request lk).settle lk)
    else .next s

/-- FINAL_MARKER (R388): every source has emitted EOS and no child of the tree is left; the launch requests its
final marker. -/
def execFinalMarker (id : LaunchId) (s : State) : Out :=
  let lk := launchKey id
  match s.launch lk with
  | none => .next s
  | some l =>
    if s.lkActive lk && l.snapOn && !l.finalReq && !l.seqLeft && !s.marking lk l
        && ((l.sourceKeys lk).all fun k => (s.port k).eos) && (s.constStates lk l).all fun st => 1 ≤ st.cnt1 then
      .next (((s.request lk).modLaunch lk fun l => { l with finalReq := true }).settle lk)
    else .next s

/-! ### Cuts and commits (R385, R387, R388) -/

/-- Whether a token is a marker no later than `k`. -/
def Tok.marks (k : Nat) : Tok → Bool
  | .ctl .mark v => v.toNat ≤ k
  | _ => false

/-- Whether a marker no later than `k` is under way in a launch. -/
def State.inTransit (s : State) (lk k : Nat) : Bool :=
  (s.fab.links.any fun (key, x) => key / 64 / 65536 == lk &&
    ((x.q.any fun t => t.tok.marks k) || x.latch.any (Tok.marks k) || x.stage.out.any (Tok.marks k)
     || (x.ovf.any fun o => o.toks.any (Tok.marks k))))
  || (s.fab.fifos.any fun (key, q) => key / 256 == lk && q.any (Tok.marks k))
  || (s.fab.bufs.any fun (key, b) => key / 64 == lk && (b.cur.any (Tok.marks k) || b.items.any fun i => i.any (Tok.marks k)))
  || (s.fab.ports.any fun (key, p) => key / 2 ^ 20 == lk && p.reply.any fun r => r.2.marks k)

/-- The sweep whose block a marker ended in a scrolling pipeline, as its sources recorded it; none where the
pipeline has been imposed since. -/
def State.markSweep (s : State) (lk : Nat) (l : Launch) (p : Pipe) (k : Nat) : Option Nat :=
  match l.snaps.find? fun x => x.k == k with
  | none => none
  | some x =>
    let keys := l.sourcePorts lk (s.galleyOf lk l).img p
    let ports := (x.ports.filter fun e => keys.contains e.1).map fun e => e.2.sweep
    let consts := (x.elems.filter fun e => let j := e.1 / 16 % 512; p.stripe ≤ j && j < p.stripe + p.p).map fun e => e.2.st.cnt3
    (ports ++ consts).foldl (fun (a : Option Nat) v => some (max v (a.getD 0))) none

/-- Whether marker `k` has passed a pipeline: every element configured has taken its snapshot, or the marked block
has passed the last forme (R385). -/
def State.cutPassed (s : State) (lk : Nat) (l : Launch) (k : Nat) (p : Pipe) : Bool :=
  k ≤ p.mark0
  || (if p.scrolls then
      match s.markSweep lk l p k with
      | none => true
      | some w => (List.range p.p).all fun i => (List.range 16).all fun c =>
          match s.elem (elemKey lk (p.stripe + i) c) with
          | some e => p.n * (w + 1) ≤ e.v
          | none => true
    else
      (List.range p.n).all fun i => (List.range 16).all fun c =>
        match l.cfg (p.forme + i) c, s.elem (elemKey lk (p.stripe + i) c) with
        | some _, some e => k ≤ e.mark
        | some _, none => false
        | none, _ => true)

/-- The queue entries of intervals that commit: those sent are released, those consumed leave their queues
(R387, R388). -/
def State.releaseEntries (s : State) (sent taken : List (Nat × W64 × Nat)) : State :=
  let s1 := taken.foldl (fun (a : State) e => a.setQueue e.1 ((a.queueOf e.1).drop 1)) s
  sent.foldl (fun (a : State) e => a.setQueue e.1 (a.queueOf e.1 ++ [e.2.1])) s1

/-- Held writes performed, in the order in which the ports made them: their granules are charged to the job's budget
class, at the write-hold of each ring and at memory (R388, 04 R115). -/
def State.performHeld (s : State) (cls : Nat) (hs : List Held) : State :=
  hs.foldl (fun (a : State) h =>
    ({ a with ms := a.ms.writeData h.pa h.bytes } : State).charge
      ({ res := 4, inst := h.ring, cls := cls, units := (h.bytes.length + 31) / 32 }
        :: a.ms.memCharges (h.ring / 4) h.pa h.bytes.length cls)) s

/-- Cut `k` complete: its interval commits; the final cut commits all that is held (R388). Protection resumes
(R389). -/
def State.commitCut (s : State) (lk : Nat) (l : Launch) (k : Nat) : State :=
  let past (iv : Nat) : Bool := iv < k || (l.finalReq && k == l.mark)
  let s1 := s.performHeld (s.classOf l.job) (l.held.filter fun h => past h.iv)
  let s2 := s1.releaseEntries (l.xqSent.filter fun e => past e.2.2) (l.xqTaken.filter fun e => past e.2.2)
  s2.modLaunch lk fun l =>
    { l with
      cut := k
      held := l.held.filter fun h => !past h.iv
      undo := l.undo.filter fun u => !past u.iv
      xqSent := l.xqSent.filter fun e => !past e.2.2
      xqTaken := l.xqTaken.filter fun e => !past e.2.2
      snaps := (l.snaps.filter fun x => k ≤ x.k).map fun x => if x.k == k then { x with complete := true } else x
      hist := l.hist.filter fun h => k ≤ h.2.1
      unprot := false, peered := false, rollbacks := 0 }

/-- Bytes of an area whose layout the specification leaves open written: free values, where they can be. -/
def State.fillFree (s : State) (asid va n : Nat) : State :=
  if va % 2 ^ 56 = 0 then s
  else
    { s with
      free := s.free + 1
      ms := (s.ms.vwrite (dispPlace asid va) 0 asid va ((List.range n).map (Config.areaByte s.free))).1 }

/-- Whether a line of an area holds an uncorrectable error, or a page of it lies in memory that is gone (R383). -/
def MemSys.areaWalk (ms : MemSys) (asid stop fuel va : Nat) : Bool :=
  match fuel with
  | 0 => false
  | fuel + 1 =>
    if stop ≤ va then false
    else
      match ms.walk asid va with
      | .ok w =>
        let next := (va / 2 ^ w.size + 1) * 2 ^ w.size
        let pa := pteAddr w.leaf + va % 2 ^ w.size
        ms.gone pa || (ms.ue.any fun e => e.2 && pa ≤ 64 * e.1 + 63 && 64 * e.1 < pa + (min stop next - va))
          || ms.areaWalk asid stop fuel next
      | .error _ => false
/-- The same of `n` bytes. -/
def MemSys.areaBad (ms : MemSys) (asid va n : Nat) : Bool := ms.areaWalk asid (va + n) (n / 65536 + 2) va

/-- The half of a launch's snapshot part that a cut uses (R386). -/
def Launch.snapHalf (j : Job) (n ls k : Nat) : Nat := j.snapBase + (4 * n + ls) * j.snapPart + k % 2 * (j.snapPart / 2)

/-- The snapshots of a cut written to the launch's part of the snapshot area (R385, R386). -/
def State.writeSnaps (s : State) (lk : Nat) (l : Launch) (k : Nat) : State :=
  match s.job l.job with
  | some j =>
    if j.snapBase = 0 then s
    else s.fillFree (s.lkAsid lk) (Launch.snapHalf j (s.thread (lkThread lk)).n (lk % 4) k) (s.launchPlan lk l).footprint
  | none => s

/-- CUT_COMPLETE (R385, R388): the next marker cut has been passed everywhere, and its interval commits, as far as the
arbiters let it through (04 R116). -/
def execCutComplete (id : LaunchId) (s : State) : Out :=
  let lk := launchKey id
  let s1 := s.settle lk
  match s1.launch lk with
  | none => .next s
  | some l =>
    let k := l.cut + 1
    let placed := ((l.sourceKeys lk).all fun key => k ≤ (s1.port key).mark) && (l.mark != k || !s1.marking lk l)
    if s1.lkActive lk && l.snapOn && k ≤ l.mark && placed && !s1.inTransit lk k && l.pipes.all (s1.cutPassed lk l k) then
      .next (s1.arbitrate (((((s1.writeSnaps lk l k).commitCut lk l k)).stirred lk).settle lk) (.commit lk) s1.wanted)
    else .next s

/-- WRITE_HOLD_FULL (R389): the launch has reached the limit of a ring; everything held is committed, and the
interval is unprotected. -/
def execWriteHoldFull (id : LaunchId) (s : State) : Out :=
  let lk := launchKey id
  match s.launch lk with
  | none => .next s
  | some l =>
    if s.lkActive lk && l.holding && s.holdFull l then
      let s1 := (s.performHeld (s.classOf l.job) l.held).releaseEntries l.xqSent l.xqTaken
      .next (s.arbitrate ((s1.modLaunch lk fun l =>
        { l with held := [], undo := [], xqSent := [], xqTaken := [], unprot := true }).settle lk) (.commit lk) s.wanted)
    else .next s

/-! ### Soft errors (R382, R383) -/

/-- The number of an error counter: one for each kind of storage. -/
def storageCounter : Storage → Nat
  | .formeConfig _ _ => 0
  | .icache _ => 1
  | .dcacheClean _ => 2
  | .dcacheDirty _ _ => 3
  | .threadState _ _ => 4
  | .fabric _ => 5
  | .unusedFabric _ => 6
  | .memory _ => 7
  | .dispatcherState => 8

/-- CORRECTABLE_ERROR (R383): corrected in place and counted. -/
def execCorrectableError (st : Storage) (s : State) : Out :=
  .next { s with bd := { s.bd with errors := tmod 0 s.bd.errors (storageCounter st) (· + 1) } }

/-- A tier-3 DATA_UE of a job for a storage (R382); the storage's physical location is a free value (R400). -/
def State.storageFault (s : State) (j : JobId) (ring slot : Nat) : State :=
  ({ s with free := s.free + 1 }).recordFault j
    { cls := .dataUe, site := 6, ring := ring, slot := slot, addr := Config.freeWord s.free }

/-- Whether a launch that goes on holds a stripe of a ring for a slot: ring, slot, stripe. -/
def State.launchHolds (s : State) (g b : Nat) (stripe : Option Nat) : Bool :=
  s.fab.launches.any fun (lk, l) => match l with
    | some l => !l.ended && (List.range l.win.length).any fun j =>
        (l.place j).1 == g && s.bankOf lk l j == b && stripe.all fun i => (l.place j).2 == i
    | none => false

/-- The storage of a ring that no launch uses cleared: the scratchpad outside the regions of stripes that a launch holds,
and the exchange queues of slots without one (R383). -/
def State.clearUnused (s : State) (g : Nat) : State :=
  let q := (s.ringSt g).spquota
  let used (key : Nat) : Bool := (List.range 4).any fun b =>
    regionStart q b ≤ spByteAt (s.bankKey g b) (key % 524288)
      && spByteAt (s.bankKey g b) (key % 524288) < regionStart q b + regionSize q b
      && s.launchHolds g b (some (key / 524288 % 24))
  { s with
    scratch := s.scratch.filter fun e => e.1 / 524288 / 24 != g || used e.1
    xq := dropKeys s.xq fun e => e / 8 / 4 == g && !s.launchHolds g (e / 8 % 4) none }

/-- A tier-2 error of a launch: it is to roll back, or takes tier 3 (R382, R389). Of a launch that is over, the
storage that no launch uses is cleared (R383). -/
def State.tier2 (s : State) (lk : Nat) (l : Launch) : State :=
  if !s.lkActive lk || l.ended then s.clearUnused (lkThread lk / 4)
  else if l.snapOn && !l.unprot && !l.peered then s.setLaunch lk (some { l with struck := true })
  else s.storageFault l.job (lkThread lk / 4) (lkThread lk % 4)

/-- SOFT_ERROR (R383): an uncorrectable error, by where it lies. -/
def execSoftError (st : Storage) (s : State) : Out :=
  match st with
  | .formeConfig id k =>
    .next (s.modLaunch (launchKey id) fun l => { l with formes := tset none l.formes k none })
  | .icache _ => .next s
  | .dcacheClean _ => .next s
  | .dcacheDirty g b =>
    match (s.thread (4 * g.val + b.val)).job with
    | some j => .next (s.storageFault j g.val b.val)
    | none => .next s
  | .threadState g b =>
    match (s.thread (4 * g.val + b.val)).job with
    | some j => .next (s.storageFault j g.val b.val)
    | none => .next s
  | .fabric id =>
    match s.launch (launchKey id) with
    | some l => .next (s.tier2 (launchKey id) l)
    | none => .next (s.clearUnused (lkThread (launchKey id) / 4))
  | .unusedFabric g => .next (s.clearUnused g.val)
  | .memory line => .next { s with ms := { s.ms with ue := tset false s.ms.ue line true } }
  | .dispatcherState => .next s

/-! ### Rollback (R390) -/

/-- Steps 2 and 3 of R390: what the launch has written and moved since its last complete cut is discarded, the
scratchpad is as it was, and no token is left. -/
def State.revert (s : State) (lk : Nat) : State :=
  match s.launch lk with
  | none => s
  | some l =>
    let scratch := l.undo.reverse.foldl (fun (t : Tab (Option Byte)) u => tset none t u.key u.old) s.scratch
    let mine := s.fab.links.filter fun e => e.1 / 64 / 65536 == lk
    let s1 := mine.foldl (fun (a : State) e =>
      a.setLink e.1 { ovf := e.2.ovf.map Overflow.emptied }) { s with scratch := scratch }
    (s1.modFab fun f => { f with
      routers := dropKeys f.routers fun k => k / 8 / 65536 == lk
      fifos := dropKeys f.fifos fun k => k / 256 == lk
      bufs := dropKeys f.bufs fun k => k / 64 == lk }).modLaunch lk fun l =>
        { l with held := [], undo := [], xqSent := [], xqTaken := [] }

/-- Whether a command copies from memory to the scratchpad, which a rollback undoes. -/
def Cmd.intoSpad (c : Cmd) : Bool := c.scop == 5 && c.dir2 == 1

/-- Whether a command of the replayed stretch is done again: transfers and fences are, and copies into the scratchpad;
what completed and acted beside the stream stands. -/
def State.redo (s : State) (c : Cmd) : Bool :=
  [1, 2, 3, 4, 6, 9, 12].contains c.scop || c.intoSpad || (s.openTickets c.thread).contains c.ticket

/-- A port without a record of the cut: copies, fills and staging whose writes were discarded begin again. -/
def PortSt.again (p : PortSt) : PortSt :=
  let fresh (c : Cmd) : Bool := [5, 10, 11].contains c.scop
  let cur := match p.cur with
    | some c => if fresh c.cmd then [c.cmd] else []
    | none => []
  { p with
    q := ((p.trail.filter fun c => fresh c.cmd).map fun c => c.cmd) ++ cur ++ p.q
    cur := p.cur.filter fun c => !fresh c.cmd
    trail := p.trail.filter fun c => !fresh c.cmd }

/-- Whether a port key names a port whose stream markers divide: not port 255, nor a number that names nothing. -/
def streamPort (key : Nat) : Bool :=
  let x := key % 2 ^ 20
  x < 0x40000 || (0x80000 ≤ x && x < 0xC0000) || 0xE0000 ≤ x

/-- The scrolling pipeline of a launch that a port feeds, with its block length. -/
def Launch.portBlockLen (l : Launch) (lk : Nat) (img : Nat → Nat) (key : Nat) : Option Nat :=
  (l.pipes.find? fun p => p.scrolls && (l.sourcePorts lk img p).contains key).map fun p => p.p * l.b

/-- A port as it stood at cut `c`, with the commands that have reached it since; sweep counting begins again. -/
def State.portAtCut (s : State) (lk : Nat) (l : Launch) (c : Nat) (saved : Option PortSt) (key : Nat) : PortSt :=
  let old := s.port key
  let base := match saved with
    | some p => p
    | none => if c = 0 && streamPort key then {} else old.again
  let have' := base.cmds.map fun x => (x.thread, x.ticket)
  let later := (l.hist.filter fun h => h.1 == key && c ≤ h.2.1 && s.redo h.2.2 && !have'.contains (h.2.2.thread, h.2.2.ticket)).map
    fun h => h.2.2
  let len := l.portBlockLen lk (s.galleyOf lk l).img key
  let p : PortSt := { base with
    q := if saved.isNone && !(c = 0 && streamPort key) then later.filter Cmd.intoSpad ++ base.q else base.q ++ later
    mark := if streamPort key then c else old.mark
    sweep := 0
    block := if len.isSome then (if base.eos then len.getD 0 else 0) else base.block
    stopping := old.stopping, sealed := false, peer := old.peer }
  if l.stopped then p.halted else p

/-- Step 4 of R390: the snapshots of the last complete cut are restored, or the launch's initial state. -/
def State.restoreCut (s : State) (lk : Nat) : State :=
  match s.launch lk with
  | none => s
  | some l0 =>
    let c := l0.cut
    let found := l0.snaps.find? fun x => x.k == c && x.complete
    let snap : Snap := found.getD
      { k := 0, pipes := (imposeNode (l0.nodes.map BitVec.toNat) [] treeFuel 0 0 l0.win.length).getD [] }
    let l := { l0 with seq := snap.seq, pipes := snap.pipes.map fun p => { p with mark0 := c, swept := l0.sweeps } }
    let keys := ((s.fab.ports.filter fun e => e.1 / 2 ^ 20 == lk).map fun e => e.1)
      ++ (snap.ports.map fun e => e.1) ++ (l.hist.map fun h => h.1)
    let ports := keys.eraseDups.map fun key =>
      (key, s.portAtCut lk l c ((snap.ports.find? fun e => e.1 == key).map fun e => e.2) key)
    let s1 := s.modFab fun f => { f with
      elems := dropKeys f.elems fun k => k / 8192 == lk
      shadows := dropKeys f.shadows fun k => k / 512 == lk
      recs := dropKeys f.recs fun k => k / 16 / 65536 == lk
      consts := dropKeys f.consts fun k => k / 16 / 65536 == lk }
    let s2 := snap.elems.foldl (fun (a : State) (key, e) =>
      let j := key / 16 % 512
      match l.pipeAt j with
      | none => a
      | some p =>
        if p.scrolls then
          a.modFab fun f => { f with
            consts := tset 0 f.consts (recKey lk (p.formeAt e.v) (key % 16)) (constPack { e.st with cnt3 := 0 } c) }
        else (a.setElem key e).modFab fun f => { f with shadows := tmod 0 f.shadows (stripeKey lk j) (max (e.v + 1)) }) s1
    let s3 := snap.recs.foldl (fun (a : State) (key, r) =>
      a.modFab fun f => { f with recs := tset none f.recs key (some r) }) s2
    let s3 := snap.routers.foldl (fun (a : State) e => a.setRtr e.1 e.2) s3
    let s4 := ports.foldl (fun (a : State) (key, p) => a.setPort key p) s3
    let toks := ((ports.map fun e => e.2.toks) ++ (s4.constElems lk l).map constToks).foldl max 0
    s4.setLaunch lk (some { l with
      mark := c, finalReq := false, snaps := found.toList
      scheds := if l.b * l.markint = 0 then 0 else toks / (l.b * l.markint) })

/-! ### What a save holds (R395) -/

/-- A table with keys mapped; entries without a new key go. -/
def rekey {α : Type} [DecidableEq α] (d : α) (m : Nat → Option Nat) (t : Tab α) : Tab α :=
  t.foldl (fun (a : Tab α) e => match m e.1 with
    | some k => tset d a k e.2
    | none => a) []

/-- The number of a launch whose thread is known by another number. -/
def moveLk (th : Nat → Option Nat) (lk : Nat) : Option Nat := (th (lk / 4)).map fun t => 4 * t + lk % 4
/-- A key that begins with a launch's number, of which `n` keys belong to each. -/
def moveKey (th : Nat → Option Nat) (n key : Nat) : Option Nat := (moveLk th (key / n)).map fun lk => lk * n + key % n
/-- A command whose thread is known by another number. -/
def Cmd.moved (th : Nat → Option Nat) (c : Cmd) : Cmd := { c with thread := (th c.thread).getD c.thread }
/-- A port with its commands. -/
def PortSt.moved (th : Nat → Option Nat) (p : PortSt) : PortSt :=
  { p with
    q := p.q.map (Cmd.moved th), cur := p.cur.map fun c => { c with cmd := c.cmd.moved th }
    trail := p.trail.map fun c => { c with cmd := c.cmd.moved th }
    spad := p.spad.map fun b => { b with cmd := b.cmd.moved th }
    peer := p.peer.map fun b => { b with cmd := b.cmd.moved th } }
/-- A launch with all that names threads. -/
def Launch.moved (th : Nat → Option Nat) (l : Launch) : Launch :=
  let key (n k : Nat) : Nat := (moveKey th n k).getD k
  let xq (e : Nat × W64 × Nat) : Nat × W64 × Nat := (((th (e.1 / 8)).map fun t => 8 * t + e.1 % 8).getD e.1, e.2)
  { l with
    deferred := l.deferred.map (key (64 * 65536))
    xqSent := l.xqSent.map xq, xqTaken := l.xqTaken.map xq
    hist := l.hist.map fun h => (key (2 ^ 20) h.1, h.2.1, h.2.2.moved th)
    snaps := l.snaps.map fun x => { x with
      elems := x.elems.map fun e => (key 8192 e.1, e.2)
      recs := x.recs.map fun e => (key (16 * 65536) e.1, e.2)
      ports := x.ports.map fun e => (key (2 ^ 20) e.1, e.2.moved th)
      routers := x.routers.map fun e => (key (8 * 65536) e.1, e.2) } }

/-- What a fabric holds of some threads' launches, with the threads known by other numbers. -/
def Fabric.moved (th : Nat → Option Nat) (f : Fabric) : Fabric :=
  { launches := rekey none (moveLk th) (f.launches.map fun e => (e.1, e.2.map (Launch.moved th)))
    elems := rekey none (moveKey th 8192) f.elems
    shadows := rekey 0 (moveKey th 512) f.shadows
    links := rekey {} (moveKey th (64 * 65536)) (f.links.map fun e =>
      (e.1, { e.2 with ovf := e.2.ovf.map fun o => { o with cmd := o.cmd.moved th } }))
    routers := rekey {} (moveKey th (8 * 65536)) f.routers
    recs := rekey none (moveKey th (16 * 65536)) f.recs
    consts := rekey 0 (moveKey th (16 * 65536)) f.consts
    ports := rekey {} (moveKey th (2 ^ 20)) (f.ports.map fun e => (e.1, e.2.moved th))
    fifos := rekey [] (moveKey th 256) f.fifos
    bufs := rekey {} (moveKey th 64) f.bufs
    outstanding := rekey [] th f.outstanding
    pending := (f.pending.filter fun c => (th c.thread).isSome).map (Cmd.moved th)
    evicted := f.evicted.filterMap fun e => (moveLk th e.1).map fun lk => (lk, e.2) }

/-- A fabric with the entries of another laid over it. -/
def Fabric.with (f g : Fabric) : Fabric :=
  { f with
    launches := g.launches.foldl (fun t e => tset none t e.1 e.2) f.launches
    elems := g.elems.foldl (fun t e => tset none t e.1 e.2) f.elems
    shadows := g.shadows.foldl (fun t e => tset 0 t e.1 e.2) f.shadows
    links := g.links.foldl (fun t e => tset {} t e.1 e.2) f.links
    routers := g.routers.foldl (fun t e => tset {} t e.1 e.2) f.routers
    recs := g.recs.foldl (fun t e => tset none t e.1 e.2) f.recs
    consts := g.consts.foldl (fun t e => tset 0 t e.1 e.2) f.consts
    ports := g.ports.foldl (fun t e => tset {} t e.1 e.2) f.ports
    fifos := g.fifos.foldl (fun t e => tset [] t e.1 e.2) f.fifos
    bufs := g.bufs.foldl (fun t e => tset {} t e.1 e.2) f.bufs
    outstanding := g.outstanding.foldl (fun t e => tset [] t e.1 e.2) f.outstanding
    pending := f.pending ++ g.pending
    evicted := f.evicted ++ g.evicted }

/-- The scratchpad bytes of a job's segments, by segment, stripe of the segment and offset in the slot's region. -/
def State.spadOf (s : State) (j : Job) : Tab (Option Byte) :=
  s.scratch.foldl (fun (t : Tab (Option Byte)) e =>
    let o := spByteAt j.bankKey (e.1 % 524288)
    let i := e.1 / 524288 % 24
    let g := e.1 / 524288 / 24
    match (List.range j.segs.length).find? fun n => (j.segs.getD n { ring := 16, slot := 0, base := 0, width := 0 }).ring == g with
    | none => t
    | some n =>
      let x := j.segs.getD n { ring := 16, slot := 0, base := 0, width := 0 }
      let start := regionStart (s.ringSt g).spquota x.slot
      let d := (i + 24 - x.base) % 24
      if d < x.width && start ≤ o && o < start + regionSize (s.ringSt g).spquota x.slot then
        tset none t (spIndex n d (o - start)) e.2
      else t) []

/-- The bytes a save takes: the thread blocks, the launch state and the scratchpad regions (R395). -/
def State.saveBytes (s : State) (j : Job) : Nat :=
  4096 * j.segs.length + Config.launchStateBytes s.free
  + (j.segs.map fun g => g.width * regionSize (s.ringSt g.ring).spquota g.slot).foldl (· + ·) 0

/-- A scrolling pipeline that is to begin again at sweep 0 (R138): its stripes are empty, its records and the
counts of its VCONSTs stay, its ports begin a block. -/
def State.rewind (s : State) (lk : Nat) (l : Launch) (p : Pipe) : State :=
  let keys := l.sourcePorts lk (s.galleyOf lk l).img p
  let s1 := s.vacate lk ((List.range p.p).map fun i => p.stripe + i)
  let s2 := keys.foldl (fun (a : State) k => a.modPort k fun q =>
    { q with sweep := 0, block := if q.eos then p.p * l.b else 0 }) s1
  let mine (k : Nat) : Bool := k / 65536 == lk && p.forme ≤ k % 65536 && k % 65536 < p.forme + p.n
  (s2.modFab fun f => { f with
    consts := f.consts.map fun e =>
      if mine (e.1 / 16) then (e.1, constPack { constUnpack e.2 with cnt3 := 0 } (constMark e.2)) else e
    routers := dropKeys f.routers fun r => mine (r / 8) }).modLaunch lk fun x =>
    { x with pipes := x.pipes.map fun q => if q == p then { q with mark0 := x.mark, swept := x.sweeps } else q }

/-- A port as it is saved: an access that waited for the fault service is made again on resume. -/
def PortSt.atSave (p : PortSt) : PortSt :=
  { p with
    cur := p.cur.map fun c => { c with freeze := none }
    div := p.div.map fun d => (d.1, d.2.1, none)
    stopping := false, sealed := false }

/-- Steps 4 and 5 of R394: everything the job holds is saved, and its slots and segments are released. A watchdog
expiry that was held is acted on (R393). -/
def State.saveNow (s : State) (id : JobId) : State :=
  let s0 := (s.jobLaunches id).foldl (fun (a : State) (lk, l) =>
    if l.ended then a
    else l.pipes.foldl (fun (a : State) p => if p.scrolls && !s.drained lk l p then a.rewind lk l p else a) a) s
  match s0.job id with
  | none => s
  | some j =>
    let ks := j.threads
    let idx (k : Nat) : Option Nat := let i := ks.findIdx fun x => x == k; if i < ks.length then some i else none
    let fab := s0.fab.moved idx
    let v : Saved :=
      { threads := ks.map fun k => { s0.thread k with wait := none }
        queues := ks.map fun k => (List.range 8).map fun q => s0.queueOf (xqKey k q)
        fab := { fab with ports := fab.ports.map fun e => (e.1, e.2.atSave) }
        spad := s0.spadOf j
        segs := j.segs
        quotas := j.segs.map fun g => regionSize (s0.ringSt g.ring).spquota g.slot }
    let s1 := (s0.releaseJob id).modJob id fun x => { x with
      phase := .saved, saved := some v, preempts := x.preempts + 1, failFs := none, expiry := false, preemptDue := false
      saveFs := s.clk.fs
      cycles := x.cycles + (match x.runSince with
        | some t => s.clk.fc - t
        | none => 0)
      runSince := none }
    if j.expiry then s1.recordFault id { cls := .watchdog, site := 8 } else s1

/-- The snapshots of the last complete cuts of a job's launches, from which they resume. -/
def State.cutAreas (s : State) (id : JobId) (j : Job) : List (Nat × Nat) :=
  ((s.jobLaunches id).filter fun e => !e.2.ended && e.2.cut != 0).map fun (lk, l) =>
    (Launch.snapHalf j (s.thread (lkThread lk)).n (lk % 4) l.cut, (s.launchPlan lk l).footprint)

/-- A save abandoned (R396): with snapshots and every image written, each launch reverts to its last complete cut
and the job stays pre-empted, with SAVE_TIMEOUT noted; any other job is contained, and a watchdog expiry that was held is
acted on then (R393). -/
def State.abandonSave (s : State) (id : JobId) : State :=
  let f : FaultRec := { cls := .saveTimeout, site := 5, time := s.time, fc := s.clk.fc }
  match s.job id with
  | none => s
  | some j =>
    if j.snapshot && j.imaged then
      let s1 := (s.jobLaunches id).foldl (fun (a : State) (lk, l) =>
        if l.ended then a
        else ((a.revert lk).restoreCut lk).modLaunch lk fun l => { l with struck := false }) s
      ((s1.modJob id fun x => { x with noted := x.noted ++ [f] }).saveNow id).modJob id fun x =>
        { x with saved := x.saved.map fun v => { v with cuts := s1.cutAreas id j } }
    else
      let s1 := s.recordFault id f
      if j.expiry then (s1.recordFault id { cls := .watchdog, site := 8 }).modJob id fun x => { x with expiry := false } else s1

/-! ### Pre-emption (R394) -/

/-- The thread images written to the save area (R394 step 1); none where one cannot be. -/
def State.writeImages (s : State) (j : Job) (asid : Nat) : Option State :=
  ((List.range j.segs.length).zip j.threads).foldl (fun (a : Option State) (n, k) =>
    a.bind fun s =>
      let th := s.thread k
      let va := j.saveBase + 4096 * n
      match s.ms.vwrite (dispPlace asid va) 0 asid va ((th.image th.pc64).flatMap fun w => bytesLE 8 w.toNat) with
      | (ms, none) => some { s with ms := ms }
      | (_, some _) => none) (some s)

/-- The sources of a launch told to stop, and its copies, fills and staging; with snapshots a marker goes with
it (R394 step 2). -/
def State.stopSources (s : State) (lk : Nat) (l : Launch) : State :=
  let copies := (s.fab.ports.filter fun e => e.1 / 2 ^ 20 == lk && e.2.cur.any fun c => [5, 10, 11].contains c.cmd.scop).map
    fun e => e.1
  let s1 := (l.sourceKeys lk ++ copies).eraseDups.foldl (fun (a : State) k => a.modPort k fun p => { p with stopping := true }) s
  (s1.request lk).settle lk

/-- A started job pre-empted: its threads stop, their images are written, its sources stop. During a rollback it
waits (R390). -/
def State.preempt (s : State) (id : JobId) : State :=
  match s.job id with
  | none => s
  | some j =>
    if j.phase != .started then s
    else if (s.jobLaunches id).any fun e => e.2.struck then s.modJob id fun x => { x with preemptDue := true }
    else
      let s1 := s.modJob id fun x => { x with phase := .saving, saveFs := s.clk.fs, imaged := false, preemptDue := false }
      let s2 := j.threads.foldl (fun (a : State) k => a.modThread k fun th => { th with wait := none }) s1
      let images := if 4096 * j.segs.length ≤ j.saveSize then s2.writeImages j (s.queue id.queue).asid else none
      match images with
      | none => s2.abandonSave id
      | some s3 =>
        let s4 := s3.modJob id fun x => { x with imaged := true }
        (s4.jobLaunches id).foldl (fun (a : State) (lk, l) => if l.ended then a else a.stopSources lk l) s4

/-- ROLLBACK (R390): a launch that a tier-2 error has struck goes back to its last complete cut; the third time to
one cut is tier 3. -/
def execRollback (id : LaunchId) (s : State) : Out :=
  let lk := launchKey id
  match s.launch lk with
  | none => .next s
  | some l =>
    if !l.struck || l.ended then .next s
    else
      let bad := match s.job l.job with
        | some j => l.cut != 0 && s.ms.areaBad (s.lkAsid lk) (Launch.snapHalf j (s.thread (lkThread lk)).n (lk % 4) l.cut)
            (s.launchPlan lk l).footprint
        | none => false
      let s0 := (s.modLaunch lk fun l => { l with struck := false, rollbacks := l.rollbacks + 1 }).modJob l.job
        fun j => { j with rollbacks := j.rollbacks + 1, quietFc := s.clk.fc }
      if 3 ≤ l.rollbacks + 1 || bad then .next (s0.storageFault l.job (lkThread lk / 4) (lkThread lk % 4))
      else
        let s1 := (s0.revert lk).restoreCut lk
        let s2 := if (s.job l.job).any fun j => j.phase == .saving then s1.request lk else s1
        let s3 := s2.settle lk
        .next (if (s3.job l.job).any fun j => j.preemptDue then s3.preempt l.job else s3)

/-- PREEMPTION (R394). -/
def execPreemption (id : JobId) (s : State) : Out := .next (s.preempt id)

/-- Whether a launch has drained for a save (R394 steps 2 and 3): its sources have stopped, nothing can act, the
last block of a scrolling pipeline has passed, and the cut is complete. -/
def State.stilled (s : State) (lk : Nat) (l : Launch) : Bool :=
  l.ended
  || (((l.sourceKeys lk).all fun k => let p := s.port k; (p.mayStop || p.eos) && !p.mid)
    && ((List.range l.win.length).all fun j => (List.range 16).all fun c =>
        !s.actable { launch := launchOf lk, stripe := j, col := Fin.ofNat 16 c })
    && (s.fab.ports.all fun e => e.1 / 2 ^ 20 != lk || (match s.keyRef e.1 with
        | some r => decide (s.access r = s)
        | none => true))
    && (l.pipes.all fun p => !p.scrolls || s.drained lk l p
        || ((l.sourcePorts lk (s.galleyOf lk l).img p).all fun k => let q := s.port k; q.sealed || q.sweep == 0 || (q.eos && q.block == 0))
          && (let w := ((s.sources lk l p).map fun e => e.2).foldl max 0
              (List.range p.p).all fun i => (List.range 16).all fun c =>
                match s.elem (elemKey lk (p.stripe + i) c) with
                | some e => p.n * w ≤ e.v
                | none => true))
    && (!l.snapOn || l.cut == l.mark))

/-- What the save area holds behind the thread images: the rest of each thread's block, the launch state, the
scratchpad (R395); the specification lays none of it out. -/
def State.writeArea (s : State) (j : Job) (asid n : Nat) : State :=
  let blocks := 4096 * j.segs.length
  let s1 := (List.range j.segs.length).foldl (fun (a : State) i => a.fillFree asid (j.saveBase + 4096 * i + 768) 3328) s
  s1.fillFree asid (j.saveBase + blocks) (n - blocks)

/-- SAVE (R394 steps 4 and 5, R395): the job has drained, and nothing has fired for 64 fc; a save that would pass
SAVESIZE is abandoned. -/
def execSave (id : JobId) (s : State) : Out :=
  match s.job id with
  | none => .next s
  | some j =>
    if j.phase == .saving && j.imaged && j.quietFc + 64 ≤ s.clk.fc
        && (s.jobLaunches id).all fun (lk, l) => !l.struck && s.stilled lk l then
      let s1 : State := { s with free := s.free + 1 }
      .next (if j.saveSize < s.saveBytes j then s1.abandonSave id
        else (s1.writeArea j (s.queue id.queue).asid (s.saveBytes j)).saveNow id)
    else .next s

/-- SAVE_TIMEOUT (R396): 2 ms after step 1 the save is abandoned. -/
def execSaveTimeout (id : JobId) (s : State) : Out :=
  match s.job id with
  | none => .next s
  | some j =>
    if j.phase == .saving && j.saveFs + 2 * 10 ^ 12 ≤ s.clk.fs then .next (s.abandonSave id) else .next s

/-! ### Lost running state (R403-R405) -/

/-- REDISP, IDEMPOTENT and RESTARTABLE: whether a job whose running state is lost starts again (R404). -/
def Job.again (j : Job) : Bool := (j.fld 33 1 == 1 || j.fld 34 1 == 1) && j.redisp < 3

/-- A job as it was accepted, but for its marks and counts; it starts again from its entry point (R404). -/
def Job.anew (j : Job) : Job :=
  { seq := j.seq, rcd := j.rcd, check := j.check, waits := j.waits, table := j.table, status := .ok,
    signalled := j.signalled, preempts := j.preempts, rollbacks := j.rollbacks, redisp := j.redisp + 1,
    cycles := j.cycles, runSince := j.runSince, tokens := j.tokens, order := j.order, noted := j.noted, stage := .done }

/-- A started job whose running state is lost: held writes are discarded with its launches; it is dispatched again,
or ends DIE_LOST (R404). -/
def State.loseJob (s : State) (id : JobId) : State :=
  match s.job id with
  | none => s
  | some j =>
    if j.again then
      (s.releaseJob id).modJob id fun x => { x.anew with runSince := some (j.runSince.getD s.clk.fc) }
    else (((s.releaseJob id).modJob id fun x => { x with status := .dieLost, errClass := 0 })).finishJob id

/-- Whether a job has started and not completed. -/
def Job.underWay (j : Job) : Bool :=
  match j.phase with
  | .started => true
  | .saving => true
  | .containing => true
  | .saved => true
  | .queued => false
  | .completed => false

/-- The jobs of the machine. -/
def State.jobs (s : State) : List (JobId × Job) :=
  s.dp.queues.flatMap fun (q, x) => x.jobs.map fun j => ({ queue := q, seq := j.seq }, j)

/-- Whether every page of a range lies in tier L or the safe tier (R403). -/
def State.kept (s : State) (asid fuel va stop : Nat) : Bool :=
  match fuel with
  | 0 => true
  | fuel + 1 =>
    if stop ≤ va then true
    else
      match s.ms.walk asid va with
      | .ok w =>
        (match s.ms.tierOf (pteAddr w.leaf) with
         | some (2, _) => true
         | some (3, _) => s.inSafe (pteAddr w.leaf)
         | _ => false) && s.kept asid fuel ((va / 2 ^ w.size + 1) * 2 ^ w.size) stop
      | .error _ => false

/-- Whether a saved job can be resumed after a warm reset (R403): its save area and snapshot area survive it. -/
def State.saveKept (s : State) (id : JobId) (j : Job) : Bool :=
  let asid := (s.queue id.queue).asid
  let area (va n : Nat) : Bool := s.kept asid (n / 65536 + 2) va (va + n)
  area j.saveBase j.saveSize && (j.snapBase = 0 || area j.snapBase (64 * j.snapPart))

/-- What a reset that loses running state makes of a job, by its marks (R403). -/
def State.afterReset (s : State) (keep : JobId → Bool) (id : JobId) (j : Job) : State :=
  match j.phase with
  | .queued => s.modJob id fun x => { x with stage := if x.order = 0 then .none else .done, failFs := none }
  | .completed => s
  | .saved => if keep id then s else s.loseJob id
  | .started => s.loseJob id
  | .saving => s.loseJob id
  | .containing => s.loseJob id

/-- The dispatcher's state rebuilt from the journal: credits and pointers begin again (R109, R402). -/
def State.rebuild (s : State) (keep : JobId → Bool) : State :=
  let s1 := s.jobs.foldl (fun (a : State) (id, j) => a.afterReset keep id j) s
  { s1 with dp := { s1.dp with
    ptr := [], frecs := [], queues := s1.dp.queues.map fun (q, x) => (q, { x with credit := 0 }) } }

/-- Everything outside the dispatcher's journal and memory that a reset loses: threads, queues, fabric, scratchpads,
translations and what waits on them, moves, channels. -/
def State.dropVolatile (s : State) : State :=
  let dies : Tab Die := s.ms.dies.map fun (d, x) =>
    (d, { x with lost := false, opens := [], reqs := [], evPend := [], relPend := [] })
  { s with
    threads := [], xq := [], fab := {}, scratch := []
    spGen := (List.range 64).foldl (fun (t : Tab Nat) k => tmod 0 t k (· + 1)) s.spGen
    rings := s.rings.map fun (g, r) => (g, { r with cc := 0, advFc := s.clk.fc, active := [], idleFc := [] })
    ms := { s.ms with tlb := [], moves := [], wlogPend := [], mirror := none, dies := dies.filter fun e => e.2 != {} }
    bd := { s.bd with
      ckpt := {}, peers := s.bd.peers.map fun (i, p) => (i, { p with chans := [], half := [], sent := [] }) } }

/-- WARM_RESET (R403): every SRAM, cache and TLB and the contents of tier H are lost; jobs are treated by their
marks. -/
def execWarmReset (s : State) : Out :=
  let keep := (s.jobs.filter fun (id, j) => j.phase == .saved && s.saveKept id j).map fun e => e.1
  let s1 : State := { s with ms := { s.ms with
    mem := s.ms.mem.filter fun e => 4 * 0x3000000000 ≤ e.1
    ue := s.ms.ue.filter fun e => 4 * 0x3000000000 ≤ 64 * e.1, tlb := [] } }
  .next ((s1.rebuild keep.contains).dropVolatile)

/-- The dies that are lost with a die: the bridge chain runs from die 0 to die 3 (R405). -/
def lostWith (d : Nat) : List Nat := if d = 1 then [1, 2, 3] else if d = 2 then [2, 3] else [d]

/-- DIE_LOSS (R405): memory of the lost dies reads as DATA_UE and moves to or from it abort, their CXL ports are down
and their peer links lost, their jobs are handled under R404, and NOMIRROR is set when a copy of the dispatcher is
among them. -/
def execDieLoss (die : Fin 4) (s : State) : Out :=
  let ds := lostWith die.val
  let ms := ds.foldl (fun (m : MemSys) d => m.modDie d fun x => { x with lost := true }) s.ms
  let down : BitVec 8 := BitVec.ofNat 8 ((ds.map fun d => 3 * 4 ^ d).foldl (· + ·) 0)
  let s0 := ((List.range 16).filter fun i => ds.contains (peerDie i) && (s.peer i).up).foldl State.loseLink s
  let s1 : State := { s0 with
    ms := { s0.ms with dies := ms.dies }.abortGone, bd := { s0.bd with cxlUp := s0.bd.cxlUp &&& ~~~down }
    dp := if ds.contains 0 || ds.contains 3 then { s0.dp with dpol := s0.dp.dpol ||| 0x80000000 } else s0.dp }
  let hit := s1.jobs.filter fun (_, j) =>
    (j.phase == .started || j.phase == .saving || j.phase == .containing) && j.segs.any fun g => ds.contains (g.ring / 4)
  .next (hit.foldl (fun (a : State) (id, _) => a.loseJob id) s1)

end Sys2Proof.Machine
end

