-- ==== Sys2Proof/Machine/Dispatcher.lean ====
section
/-! DEFINITION. The dispatcher: enqueueing and cancelling (04 R99, R106), the checks of a record (R105), loading a
kernel file (R84, R105), staging (R112, R113), the dispatch decision with placement, start and resume
(R107-R111, 05 R122-R124, 14 R395), and the budget and rate periods (R115-R117). -/

namespace Sys2Proof.Machine

/-! ### Acceptance and cancellation (R99, R106) -/

/-- One of the counters of QREJ counts one more; it stops at 0xFFFF (R98). -/
def satInc (n : Nat) : Nat := min 65535 (n + 1)

/-- Whether reduced service, or no service, shuts a queue (R99, 17 R424). -/
def State.shut (s : State) (q : Nat) : Bool := s.bd.stage < 2 || (s.bd.stage == 2 && q != 0)

/-- The record of a push. -/
def jobRecord (bytes : List Byte) : BitVec 1024 := BitVec.ofNat 1024 (ofBytesLE bytes)

/-- JOB_ENQUEUE (R99): a write to the push window of a queue by a function; one that does not own the queue has
no effect (17 R413). `full` says that every byte is enabled. -/
def execJobEnqueue (func q off : Nat) (bytes : List Byte) (full : Bool) (s : State) : Out :=
  if 8192 ≤ q || 128 ≤ off || s.ownerOf q != func || !s.portUp 0 then .next s
  else
    let x := s.queue q
    let reject (f : QRej → QRej) : Out := .next (s.modQueue q fun x => { x with rej := f x.rej })
    let r := jobRecord bytes
    let seq : W32 := r.setWidth 32
    if !x.en || s.shut q then reject fun r => { r with off := satInc r.off }
    else if off != 0 || bytes.length != 128 || !full then reject fun r => { r with form := satInc r.form }
    else if seq != x.next then reject fun r => { r with seq := satInc r.seq }
    else if x.occ = 64 then reject fun r => { r with full := satInc r.full }
    else .next (s.modQueue q fun x => { x with next := x.next + 1, jobs := x.jobs ++ [{ seq := seq, rcd := r }] })

/-- Whether a job has been accepted and has never started. -/
def Job.unstarted (j : Job) : Bool := j.phase == .queued && j.order == 0

/-- CANCEL (R106): a write of CANCEL through function 0 ends every job of the queue that has not started. -/
def State.cancel (s : State) (q : Nat) : State :=
  ((s.queue q).jobs.filter Job.unstarted).foldl (fun (a : State) j =>
    a.endUnstarted { queue := q, seq := j.seq } .cancelled 0 []) s

/-- CANCEL: a host writes it over CXL port 0. -/
def execCancel (func q : Nat) (s : State) : Out := if func = 0 && q < 8192 && s.portUp 0 then .next (s.cancel q) else .next s

/-! ### The checks of a record (R105) -/

/-- A check that failed: its number, its class, the address at fault. -/
abbrev Failed := Nat × FaultClass × Nat

/-- The waits that a record uses: event and count. -/
def Job.uses (j : Job) : List (Nat × Nat × Nat) :=
  ((List.range 4).map fun n => (n, j.fld (768 + 64 * n) 16, j.fld (784 + 64 * n) 48)).filter fun w => w.2.2 != 0

/-- WMIN and the first width tried. -/
def Job.wmin (j : Job) : Nat := j.fld 160 5
/-- WPREF, or WMIN. -/
def Job.wpref (j : Job) : Nat := if j.fld 165 5 = 0 then j.wmin else j.fld 165 5
/-- WORKSET and WSCOUNT. -/
def Job.workset (j : Job) : Nat := j.fld 192 56
/-- WSCOUNT. -/
def Job.wscount (j : Job) : Nat := j.fld 248 8
/-- ENTRY. -/
def Job.entry (j : Job) : Nat := j.fld 128 16

/-- Checks 1-5. -/
def State.checkFields (s : State) (asid : Nat) (j : Job) : Option Failed :=
  let n := j.nrings
  let w := j.wmin
  let p := j.fld 165 5
  if j.fld 39 1 != 0 || j.fld 45 3 != 0 || j.fld 120 8 != 0 || j.fld 180 4 != 0 then some (1, .illegal, 0)
  else if j.fld 40 5 = 31 || 60000 < j.fld 48 16 || w = 0 || 24 < w || (p != 0 && (p < w || 24 < p)) || n = 0 || 16 < n
      || (j.fld 179 1 = 1 && 4 < n) then some (2, .illegal, 0)
  else if j.fld 33 1 = 1 && !j.snapshot then some (3, .illegal, 0)
  else if (j.uses.any fun e => !s.granted e.2.1 asid) || (j.sigEn && !s.granted (j.fld 144 16) asid) then some (4, .perm, 0)
  else if j.kernel % 8 != 0 then some (5, .align, j.kernel)
  else if j.workset % 8 != 0 then some (5, .align, j.workset)
  else none

/-- The address at which a read of the dispatcher fails in a context. -/
def State.readFault (s : State) (asid va n : Nat) : Option Nat :=
  match s.ms.vread (dispPlace asid va) 0 asid va n with
  | (_, .ok _) => none
  | (_, .error (_, a)) => some a

/-- The address at which a kernel file cannot be read. -/
def State.kobFault (s : State) (asid va : Nat) : Option Nat :=
  match s.readFault asid va 64 with
  | some a => some a
  | none => if (s.kob asid va).isNone then some ((s.readFault asid va 0x10000).getD va) else none

/-- Check 6 but for the link table: the context's blocks, the working-set list, the kernel file. -/
def State.checkReads (s : State) (asid : Nat) (j : Job) : Option Failed :=
  if !(s.ctx asid).cxdesc.getLsbD 63 then some (6, .xlate, 0)
  else
    let ws := if j.workset = 0 || j.wscount = 0 then none else s.readFault asid j.workset (8 * j.wscount)
    match ws with
    | some a => some (6, .xlate, a)
    | none =>
      if j.kfile then (s.kobFault asid j.kernel).map fun a => (6, .xlate, a) else none

/-- Checks 6 and 8 of a link table: entry ENTRY, entry 0, the layout table's head. -/
def State.checkTable (s : State) (asid table : Nat) (j : Job) : Option Failed :=
  let ea := table + 8 * j.entry
  match s.readFault asid ea 8 with
  | some a => some (6, .xlate, a)
  | none =>
    match s.readFault asid table 8 with
    | some a => some (6, .xlate, a)
    | none =>
      let e := s.sysWord asid ea 8
      let e0 := s.sysWord asid table 8
      let head := entryAddr e0
      if e0 % 4 != 3 then some (8, .illegal, 0)
      else
        match s.readFault asid head 8 with
        | some a => some (6, .xlate, a)
        | none =>
          if s.sysWord asid head 8 % 131072 ≤ j.entry || e % 4 != 1 then some (8, .illegal, 0) else none

/-- Checks 1-6, and 8 without a kernel file. -/
def State.checkRecord (s : State) (asid : Nat) (j : Job) : Option Failed :=
  ((s.checkFields asid j).or (s.checkReads asid j)).or (if j.kfile then none else s.checkTable asid j.kernel j)

/-- What checks 6 and 8 read of a link table: its entry, entry 0, the layout table's head. -/
def State.tableReads (s : State) (asid table : Nat) (j : Job) : List (Nat × Nat) :=
  [(table + 8 * j.entry, 8), (table, 8), (entryAddr (s.sysWord asid table 8), 8)]

/-- What the checks of a record read: its working-set list, its link table or kernel file. -/
def State.checkReadsOf (s : State) (asid : Nat) (j : Job) : List (Nat × Nat) :=
  (if j.workset = 0 then [] else [(j.workset, 8 * j.wscount)])
  ++ if j.kfile then [(j.kernel, 64)] else s.tableReads asid j.kernel j

/-- Whether a job has passed checks 1-6 (R112). -/
def State.passed6 (s : State) (asid : Nat) (j : Job) : Bool :=
  match s.checkRecord asid j with
  | none => true
  | some (n, _, _) => n == 8

/-- The oldest job of a queue that has not started, or has been saved. -/
def Queue.head (q : Queue) : Option Job := q.jobs.find? fun j => j.phase == .queued || j.phase == .saved

/-- JOB_CHECK (R105): the oldest unstarted job of a queue is checked; with a kernel file the loader comes next. -/
def execJobCheck (q : Nat) (s : State) : Out :=
  let x := s.queue q
  match x.head with
  | none => .next s
  | some j =>
    if j.phase != .queued || j.check != .unchecked then .next s
    else
      let id : JobId := { queue := q, seq := j.seq }
      let s1 := s.touches x.asid (s.checkReadsOf x.asid j)
      match s.checkRecord x.asid j with
      | some (n, c, a) => .next (s1.refuseJob id n c a)
      | none => .next (s1.modJob id fun y => { y with
          check := if j.kfile then .loading else .passed, table := if j.kfile then 0 else j.kernel })

/-- KERNEL_LOAD (R84, R105 check 7): the loader publishes the kernel file of the oldest unstarted job, or finds it
published from the same address with the same FCRC; then check 8. A refusal leaves its record (R94). -/
def execKernelLoad (q : Nat) (s : State) : Out :=
  let x := s.queue q
  match x.head with
  | none => .next s
  | some j =>
    if j.phase != .queued || j.check != .loading then .next s
    else
      let id : JobId := { queue := q, seq := j.seq }
      let ready (s : State) (table : Nat) : Out :=
        match s.checkTable x.asid table j with
        | some (n, c, a) => .next (s.refuseJob id n c a)
        | none => .next ((s.touches x.asid (s.tableReads x.asid table j)).modJob id fun y =>
            { y with check := .passed, table := table })
      match s.kob x.asid j.kernel with
      | none => .next (s.refuseJob id 6 .xlate ((s.kobFault x.asid j.kernel).getD j.kernel))
      | some k =>
        let s0 := s.touches x.asid [(j.kernel, k.len)]
        match (s.ctx x.asid).published.find? fun p => p.file == j.kernel && p.fcrc == k.fcrc with
        | some p => ready s0 p.table
        | none =>
          match s0.loadKob x.asid j.kernel k with
          | .inl bs => .next ((s0.modJob id fun y => { y with refusal := bs }).endUnstarted id .refused 0 [])
          | .inr (s1, table) => ready s1 table

/-! ### Staging (R112, R113) -/

/-- The number by which the moves of a job's staging are known. -/
def stagingTag (id : JobId) : Nat := id.queue * 2 ^ 32 + id.seq.toNat + 1

/-- Whether a move that staging asked for is not yet done. -/
def MemSys.stagingMoves (ms : MemSys) (tag : Nat) : Bool :=
  (ms.moves.any fun m => m.origin == .staging && m.tag == tag)
  || ms.dies.any fun d => d.2.reqs.any fun q => q.origin == .staging && q.tag == tag

/-- The staging set of a job: records with the tier each is to be in (R39, R101, R112). -/
def State.stagingSet (s : State) (asid : Nat) (j : Job) : List (BitVec 512 × Nat) :=
  let c := s.ctx asid
  let tierOf (r : BitVec 512) (t : Nat) : Nat := if t = 0 then lrTier r else t
  let words := if j.workset = 0 then [] else (List.range j.wscount).map fun i => s.sysWord asid (j.workset + 8 * i) 8
  let named := words.filterMap fun w =>
    (c.layout (w % 65536)).map fun l => (w % 65536, l.rcd, tierOf l.rcd (w / 65536 % 4))
  let wset := c.layouts.filterMap fun (h, l) =>
    match l with
    | some l => if !l.freed && lrWset l.rcd && !named.any (fun e => e.1 == h) then some (l.rcd, lrTier l.rcd) else none
    | none => none
  (named.map fun e => e.2) ++ wset

/-- STAGING_BEGIN (R112): a job among the first STAGEAHEAD unstarted jobs that have passed checks 1-6 asks for the
moves of its working set; a kernel file is loaded before. -/
def execStagingBegin (id : JobId) (s : State) : Out :=
  let x := s.queue id.queue
  match s.job id with
  | none => .next s
  | some j =>
    let first := ((x.jobs.filter fun y => y.unstarted && s.passed6 x.asid y).take (fieldN 64 s.dp.dpol 24 4)).any
      fun y => y.seq == j.seq
    if j.stage == .none && first && (!j.kfile || j.check == .passed) then
      let s1 := s.touches x.asid (if j.workset = 0 then [] else [(j.workset, 8 * j.wscount)])
      let ms := (s.stagingSet x.asid j).foldl (fun (m : MemSys) (r, t) =>
        if t = 0 then m
        else
          let lo := (lrLow r).toNat
          let hi := (lrEnd r).toNat
          m.askMoves x.asid lo hi t .staging (stagingTag id) j.bclass ((hi - lo) / 65536 + 2)) s1.ms
      .next (({ s with ms := ms } : State).modJob id fun y => { y with stage := .staging s.clk.fs })
    else .next s

/-- STAGETO of a record. -/
def Job.stageTo (j : Job) : Nat := j.fld 184 8

/-- STAGING_TIMEOUT (R113): STAGETO · 100 µs after staging began the job no longer waits for it. -/
def execStagingTimeout (id : JobId) (s : State) : Out :=
  match s.job id with
  | none => .next s
  | some j =>
    match j.stage with
    | .staging since =>
      if since + j.stageTo * 10 ^ 11 ≤ s.clk.fs then .next (s.modJob id fun y => { y with stage := .done }) else .next s
    | _ => .next s

/-- Whether a job no longer waits for staging. -/
def State.stageOver (s : State) (id : JobId) (j : Job) : Bool :=
  j.stageTo == 0 || (match j.stage with
    | .none => false
    | .staging _ => !s.ms.stagingMoves (stagingTag id)
    | .done => true)

/-! ### Readiness (R102, R104, R109) -/

/-- The waits of a job that are satisfied now, or have been (R102). -/
def State.waitsNow (s : State) (j : Job) : Nat :=
  j.uses.foldl (fun m (n, e, c) => if c ≤ (s.event e).toNat then m ||| 2 ^ n else m) j.waits

/-- Whether every used wait is satisfied. -/
def State.waitsDone (s : State) (j : Job) : Bool := j.uses.all fun (n, _, _) => s.waitsNow j / 2 ^ n % 2 == 1

/-- Whether a job's BARRIER is satisfied: every earlier job has retired (R104). -/
def Queue.barrierOk (q : Queue) (j : Job) : Bool :=
  j.fld 32 1 == 0 || (match q.jobs with
    | h :: _ => h.seq == j.seq
    | [] => true)

/-- Whether a job is ready but for its queue's turn (R109). -/
def State.readyJob (s : State) (q : Nat) (j : Job) : Bool :=
  let x := s.queue q
  x.en && !s.shut q && (j.phase == .saved
    || (j.check == .passed && s.waitsDone j && x.barrierOk j && s.stageOver { queue := q, seq := j.seq } j))

/-- HEADWAIT of QSTAT (R98). A head that is a saved job waits for placement or for its turn, 4 or 5, and a head whose
record is yet to be checked reports 6, with a kernel file or without (DEDUCED, log 121). -/
def State.headwait (s : State) (q : Nat) : Nat :=
  let x := s.queue q
  match x.head with
  | none => 0
  | some j =>
    if !x.en || s.shut q then 7
    else if j.phase == .saved then (if j.failFs.isSome then 4 else 5)
    else if !s.waitsDone j then 1
    else if !x.barrierOk j then 2
    else if j.check != .passed then 6
    else if !s.stageOver { queue := q, seq := j.seq } j then 3
    else if j.failFs.isSome then 4
    else 5

/-! ### Placement (05 R124) -/

/-- The segments of a ring: slot, base and width. -/
def State.segsOn (s : State) (g : Nat) : List Seg := (s.jobs.flatMap fun e => e.2.segs).filter fun x => x.ring == g

/-- fit(g, w) of R124: the base and its overlap. -/
def fitRing (segs : List Seg) (w : Nat) : Nat × Nat :=
  let taken (i : Nat) : Bool := segs.any fun x => (i + 24 - x.base) % 24 < x.width
  (List.range 24).foldl (fun (b : Nat × Nat) base =>
    let ov := ((List.range w).filter fun j => taken ((base + j) % 24)).length
    if ov < b.2 then (base, ov) else b) (0, 25)

/-- What placement asks for: widths to try, rings, dies, SAMEDIE, and by thread the least region its slot must have. -/
structure Ask where
  wmax : Nat
  wmin : Nat
  rings : Nat
  dies : List Nat
  same : Bool
  regions : List Nat := []
  deriving DecidableEq, Repr

/-- The least region that the slot of thread `n` must have. -/
def Ask.region (a : Ask) (n : Nat) : Nat := a.regions.getD n 0

/-- The slots of a ring that hold no segment and have a region large enough. -/
def State.freeSlots (s : State) (g region : Nat) : List Nat :=
  (List.range 4).filter fun b => !((s.segsOn g).any fun x => x.slot == b) && region ≤ regionSize (s.ringSt g).spquota b

/-- The candidates of a width: overlap, slots used, ring, base, in the order of R124. -/
def State.candidates (s : State) (a : Ask) (w : Nat) (share : Bool) : List (Nat × Nat × Nat × Nat) :=
  let cs := (List.range 16).filterMap fun g =>
    let segs := s.segsOn g
    let (base, ov) := fitRing segs w
    if a.dies.contains (g / 4) && segs.length < 4 && (g = 0 || 3 ≤ s.bd.stage) && (share || ov = 0)
        && ((List.range a.rings).any fun n => !(s.freeSlots g (a.region n)).isEmpty) then
      some (ov, segs.length, g, base)
    else none
  sortBy (fun x y => decide (x.1 < y.1 || (x.1 = y.1 && (x.2.1 < y.2.1 || (x.2.1 = y.2.1 && x.2.2.1 ≤ y.2.2.1))))) cs

/-- The choices of `n` entries of a list, in their order: first the first `n`. -/
def picks {α : Type} : List α → Nat → List (List α)
  | _, 0 => [[]]
  | [], _ + 1 => []
  | x :: xs, n + 1 => (picks xs n).map (x :: ·) ++ picks xs (n + 1)

/-- The segments on chosen rings, in increasing ring: the lowest free slot of each that is large enough for its
thread; none where a ring has none. -/
def State.segsFor (s : State) (a : Ask) (w : Nat) (cs : List (Nat × Nat × Nat × Nat)) : Option (List Seg) :=
  let xs := sortBy (fun x y => decide (x.2.2.1 ≤ y.2.2.1)) cs
  ((List.range xs.length).zip xs).foldr (fun (n, c) (t : Option (List Seg)) =>
    t.bind fun segs => (s.freeSlots c.2.2.1 (a.region n)).head?.map fun b =>
      { ring := c.2.2.1, slot := b, base := c.2.2.2, width := w } :: segs) (some [])

/-- The choice among candidates: the first that gives each thread a slot; with SAMEDIE on the lowest die that has
one. -/
def State.chooseRings (s : State) (a : Ask) (w : Nat) (cs : List (Nat × Nat × Nat × Nat)) : Option (List Seg) :=
  if a.same then
    ((List.range 4).filter a.dies.contains).findSome? fun d =>
      (picks (cs.filter fun c => c.2.2.1 / 4 == d) a.rings).findSome? (s.segsFor a w)
  else (picks cs a.rings).findSome? (s.segsFor a w)

/-- place(j) for one width. -/
def State.placeWidth (s : State) (a : Ask) (w : Nat) : Option (List Seg) :=
  [false, true].findSome? fun share => s.chooseRings a w (s.candidates a w share)

/-- place(j) of R124: widths from the preferred one down. -/
def State.placeAsk (s : State) (a : Ask) : Option (List Seg) :=
  ((List.range (a.wmax + 1 - a.wmin)).map fun i => a.wmax - i).findSome? fun w => s.placeWidth a w

/-- The dies that a job's hints allow, but for lost ones. -/
def State.diesOf (s : State) (j : Job) : List Nat :=
  let m := j.fld 175 4
  (List.range 4).filter fun d => (m = 0 || m / 2 ^ d % 2 = 1) && !(s.ms.die d).lost

/-- What a job asks of placement; a saved job asks for the widths and shares it had (14 R395). -/
def State.askOf (s : State) (j : Job) : Ask :=
  let a : Ask := { wmax := j.wpref, wmin := j.wmin, rings := j.nrings, dies := s.diesOf j, same := j.fld 179 1 = 1 }
  match j.saved with
  | none => a
  | some v =>
    let w := (v.segs.map fun g => g.width).headD 0
    { a with wmax := w, wmin := w, regions := v.quotas }

/-- The lowest-numbered block of a context that no job holds (R108). -/
def State.freeBlock (s : State) (asid : Nat) : Option Nat :=
  let d := (s.ctx asid).cxdesc
  if !d.getLsbD 63 then none
  else
    (List.range (fieldN 64 d 0 8 + 1)).find? fun b =>
      !(s.jobs.any fun (id, j) => (s.queue id.queue).asid == asid && j.block == some b)

/-! ### Starting (R105, R107, R108, 12 R361, 14 R386) -/

/-- A job with what the dispatcher reads of its block at start and at each resume. -/
def State.takeBlock (s : State) (asid : Nat) (j : Job) : Job :=
  let w (off : Nat) : Nat := s.sysWord asid (j.cx + off) 8
  { j with
    watch := s.watchesAt asid j.cx
    bankKey := w 0x480 % 512
    snapBase := w 0x600, snapPart := w 0x608, frBase := w 0x610, frCount := w 0x618
    saveBase := w 0x620, saveSize := w 0x628 }

/-- What the dispatcher reads of a job block at start and at each resume. -/
def blockReads (cx : Nat) : List (Nat × Nat) := [(cx + 0x480, 8), (cx + 0x500, 128), (cx + 0x600, 48)]

/-- GRANT of thread `n` of a job with some segments (05 R123). -/
def grantWord (segs : List Seg) (n : Nat) : W64 :=
  let total := (segs.map fun g => g.width).foldl (· + ·) 0
  let off := ((segs.take n).map fun g => g.width).foldl (· + ·) 0
  match segs[n]? with
  | some g => BitVec.ofNat 64 (g.ring + g.slot * 2 ^ 4 + g.base * 2 ^ 8 + g.width * 2 ^ 16 + n * 2 ^ 24 + total * 2 ^ 32 + off * 2 ^ 48)
  | none => 0

/-- A slot's region cleared: its contents are undefined (11 R319). -/
def State.clearRegion (s : State) (g : Seg) : State :=
  let q := (s.ringSt g.ring).spquota
  let lo := regionStart q g.slot
  let hi := lo + regionSize q g.slot
  { s with
    scratch := s.scratch.filter fun e =>
      !(e.1 / 524288 / 24 == g.ring && lo ≤ e.1 % 524288 && e.1 % 524288 < hi)
    spGen := tmod 0 s.spGen (4 * g.ring + g.slot) (· + 1) }

/-- The registers of thread `n` of a job that starts (R107). -/
def startThread (id : JobId) (j : Job) (segs : List Seg) (pc sp n : Nat) : Thread :=
  let args : List (Nat × W64) := (List.range 8).map fun i => (5 + i, BitVec.ofNat 64 (j.fld (256 + 64 * i) 64))
  let regs : List (Nat × W64) :=
    [(2, BitVec.ofNat 64 sp), (3, BitVec.ofNat 64 j.table), (4, BitVec.ofNat 64 j.cx)] ++ args
    ++ [(13, BitVec.ofNat 64 n), (14, BitVec.ofNat 64 j.nrings), (15, BitVec.ofNat 64 j.redisp)]
  { x := regs.foldl (fun (v : Vector W64 32) e => v.setIfInBounds e.1 e.2) (Vector.replicate 32 0)
    pc := BitVec.ofNat 56 pc, ltbase := BitVec.ofNat 64 j.table, grant := grantWord segs n
    run := .running, job := some id, n := n }

/-- Moves that staging asked for and that have not begun dropped (R113). -/
def MemSys.dropStaging (ms : MemSys) (tag : Nat) : MemSys :=
  { ms with dies := (ms.dies.map fun (d, x) =>
      (d, { x with reqs := x.reqs.filter fun r => !(r.origin == .staging && r.tag == tag) })).filter fun e => e.2 != {} }

/-- Check 9: the stack tops of a job's threads; the first that fails, or a read that does. -/
def State.stackTops (s : State) (asid cx n : Nat) : Except Failed (List Nat) :=
  (List.range n).foldl (fun (a : Except Failed (List Nat)) i =>
    match a with
    | .error e => .error e
    | .ok ts =>
      let va := cx + 0x100 + 8 * i
      match s.readFault asid va 8 with
      | some x => .error (6, .xlate, x)
      | none =>
        let t := s.sysWord asid va 8
        if t % 16 != 0 then .error (9, .align, t) else .ok (ts ++ [t])) (.ok [])

/-- start(j, g) of R109: the job takes its block, the entry load and check 9 are made, and its threads become
runnable; or it is refused, and its block and placement are released (R105). -/
def State.startJob (s : State) (id : JobId) (j : Job) (block : Nat) (segs : List Seg) : State :=
  let asid := (s.queue id.queue).asid
  let cx := s.blockVa asid block
  let j1 := s.takeBlock asid { j with block := some block, cx := cx }
  let reads := blockReads cx ++ s.tableReads asid j.table j ++ [(cx + 0x100, 8 * j.nrings)]
  let s1 := (s.touches asid reads).modJob id fun _ => j1
  let refuse (f : Failed) : State := (s1.refuseJob id f.1 f.2.1 f.2.2).modJob id fun y => { y with block := none }
  match s.checkTable asid j.table j1 with
  | some f => refuse f
  | none =>
    match s.stackTops asid cx j.nrings with
    | .error f => refuse f
    | .ok tops =>
      let pc := entryAddr (s.sysWord asid (j.table + 8 * j.entry) 8)
      let n := s.dp.starts + 1
      let j2 := { j1 with
        phase := .started, segs := segs, order := n, stage := .done, failFs := none, bars := []
        runSince := some (j1.runSince.getD s.clk.fc), progressFs := s.clk.fs, quietFc := s.clk.fc }
      let words := (List.range 16).flatMap fun i => bytesLE 8 (if i < j.nrings then 0 else 2 ^ 64 - 1)
      let s2 := ({ s1 with ms := s1.ms.dropStaging (stagingTag id), dp := { s1.dp with starts := n } }).modJob id fun _ => j2
      let s3 := (segs.foldl (fun (a : State) g => a.clearRegion g) s2).sysWrite asid (cx + 0x200) words
      ((List.range segs.length).zip segs).foldl (fun (a : State) (i, g) =>
        a.setThread (4 * g.ring + g.slot) (startThread id j1 segs pc (tops.getD i 0) i)) s3

/-! ### Resuming (14 R395) -/

/-- What the overflow queues of a launch hold of ring SRAM, by ring (11 R324). -/
def State.ovfSram (s : State) (lk : Nat) (l : Launch) : Tab Nat :=
  (s.allLinks lk l).foldl (fun (t : Tab Nat) (k, i, w) =>
    match (s.link (linkKey lk k i)).ovf with
    | some o => if o.places = 0 then t
        else tmod 0 t (o.cmd.thread / 4) (· + roundUp (64 * (if w.plane = 1 then 8 else 256)) 4096)
    | none => t) []

/-- A launch of a saved job in its new window, with its reservations made again. -/
def State.replant (s : State) (j : Job) (lk : Nat) (l : Launch) : State :=
  if l.ended then s
  else
    match j.window (s.thread (lkThread lk)).n l.chain l.off l.p with
    | none => s
    | some (w, seg) =>
      let l1 := { l with win := w, segOf := seg }
      let x := s.launchPlan lk l1
      let r := x.reserve s.passUsed
      s.setLaunch lk (some { l1 with
        pass := r.pass, store := tset 0 [] (x.place 0).1 x.storeBytes
        sram := (s.ovfSram lk l1).foldl (fun (t : Tab Nat) e => tset 0 t e.1 (tget 0 t e.1 + e.2)) r.sram
        deferred := r.deferred.map fun (k, i) => linkKey lk k i })

/-- A launch without what it had reserved. -/
def Launch.unreserved (l : Launch) : Launch := { l with pass := [], sram := [], store := [], deferred := [] }

/-- Whether what launches have reserved fits in the pools of every ring (05 R139, 17 R429). -/
def State.poolsFit (s : State) : Bool :=
  (List.range 16).all fun g => s.poolUsed g ≤ launchPool && s.storeUsed g ≤ stateStore

/-- A saved job placed on new segments: everything saved is restored, each scratchpad region at the start of the
new one. -/
def State.resumeJob (s : State) (id : JobId) (j : Job) (v : Saved) (segs : List Seg) : State :=
  let asid := (s.queue id.queue).asid
  let j1 := s.takeBlock asid j
  let j2 := { j1 with
    phase := .started, segs := segs, saved := none, failFs := none, imaged := false, runSince := some s.clk.fc
    progressFs := s.clk.fs - (j.saveFs - j.progressFs), quietFc := s.clk.fc }
  let s1 := segs.foldl (fun (a : State) g => a.clearRegion g) ((s.touches asid (blockReads j.cx)).modJob id fun _ => j2)
  let s2 := v.spad.foldl (fun (a : State) e =>
    let n := e.1 / 524288 / 24
    match segs[n]? with
    | none => a
    | some g =>
      let key := spIndex g.ring ((g.base + e.1 / 524288 % 24) % 24)
        (spByteAt j1.bankKey (regionStart (s.ringSt g.ring).spquota g.slot + e.1 % 524288))
      { a with scratch := tset none a.scratch key e.2 }) s1
  let s3 := ((List.range segs.length).zip segs).foldl (fun (a : State) (i, g) =>
    let k := 4 * g.ring + g.slot
    let b := a.setThread k { (v.threads.getD i {}) with grant := grantWord segs i }
    ((List.range 8).zip (v.queues.getD i [])).foldl (fun (c : State) (q, es) =>
      { c with xq := tset [] c.xq (xqKey k q) es }) b) s2
  let th (i : Nat) : Option Nat := (segs[i]?).map fun g => 4 * g.ring + g.slot
  let s4 := { s3 with fab := s3.fab.with (v.fab.moved th) }
  let s5 := (s4.jobLaunches id).foldl (fun (a : State) (lk, l) => a.setLaunch lk (some l.unreserved)) s4
  (s5.jobLaunches id).foldl (fun (a : State) (lk, l) => (a.replant j2 lk l).settle lk) s5

/-! ### The dispatch decision (R109-R111) -/

/-- The queues whose oldest job is ready, at a level, in queue-number order. -/
def State.readyAt (s : State) (lvl : Nat) : List Nat :=
  s.dp.queues.filterMap fun (q, x) =>
    match x.head with
    | some j => if x.prio == lvl && s.readyJob q j then some q else none
    | none => none

/-- Credits of a level filled again: every queue of that level takes its WEIGHT. -/
def State.refill (s : State) (lvl : Nat) : State :=
  (if lvl = 0 then List.range 8192 else tkeys s.dp.queues).foldl (fun (a : State) q =>
    if (a.queue q).prio == lvl then a.modQueue q fun x => { x with credit := x.fld 16 8 } else a) s

/-- Whether a job holds a segment on a ring that another's hints allow. -/
def Job.onAllowed (j : Job) (dies : List Nat) : Bool := j.segs.any fun g => dies.contains (g.ring / 4)

/-- maybe_preempt(j) (R111): the job that it pre-empts, if any. -/
def State.victim (s : State) (q : Nat) (j : Job) : Option JobId :=
  let delta := fieldN 64 s.dp.dpol 16 5
  let lvl := (s.queue q).prio
  if delta = 0 || lvl < delta then none
  else
    let m := j.fld 175 4
    let dies := (List.range 4).filter fun d => m = 0 || m / 2 ^ d % 2 = 1
    let cands := s.jobs.filter fun (id, x) => x.phase == .started && (s.queue id.queue).prio ≤ lvl - delta && x.onAllowed dies
    let best := cands.foldl (fun (b : Option (JobId × Job)) e =>
      match b with
      | none => some e
      | some c =>
        let pe := (s.queue e.1.queue).prio
        let pc := (s.queue c.1.queue).prio
        if pe < pc || (pe = pc && c.2.order < e.2.order) then some e else b) none
    best.map fun e => e.1

/-- An attempt to start the head job of a queue: the machine with it started, or none. A saved job resumes where its
launches' reservations fit; one whose save area cannot be read meets DATA_UE (14 R383). -/
def State.tryStart (s : State) (q : Nat) (j : Job) : Option State :=
  let id : JobId := { queue := q, seq := j.seq }
  match s.placeAsk (s.askOf j) with
  | none => none
  | some segs =>
    match j.saved with
    | some v =>
      if s.ms.areaBad (s.queue q).asid j.saveBase (min j.saveSize (s.saveBytes j))
          || v.cuts.any fun e => s.ms.areaBad (s.queue q).asid e.1 e.2 then some (s.storageFault id 0 0)
      else
        let t := s.resumeJob id j v segs
        if t.poolsFit then some t else none
    | none => (s.freeBlock (s.queue q).asid).map fun b => s.startJob id j b segs

/-- The first queue of a list at or after a number, wrapping. -/
def firstFrom (p : Nat) (qs : List Nat) : Option Nat := (qs.find? fun q => p ≤ q).or qs.head?

/-- The loop of a decision at one level over the queues not yet tried: the machine, whether a job was started, and
whether lower levels are held. `mayStrike` says that the decision has pre-empted no job (R111). -/
def State.tryLevel (s : State) (lvl fuel : Nat) (qs : List Nat) (held mayStrike : Bool) : State × Bool × Bool :=
  match fuel with
  | 0 => (s, false, held)
  | fuel + 1 =>
    match firstFrom (tget 0 s.dp.ptr lvl) (qs.filter fun q => 0 < (s.queue q).credit) with
    | none => (s, false, held)
    | some q =>
      match (s.queue q).head with
      | none => (s, false, held)
      | some j =>
        match s.tryStart q j with
        | some s1 =>
          let s2 := s1.modQueue q fun x => { x with credit := x.credit - 1 }
          ({ s2 with dp := { s2.dp with ptr := tset 0 s2.dp.ptr lvl ((q + 1) % 8192) } }, true, held)
        | none =>
          let since := j.failFs.getD s.clk.fs
          let s1 := s.modJob { queue := q, seq := j.seq } fun x => { x with failFs := some since }
          let late := since + fieldN 64 s.dp.dpol 0 16 * 10 ^ 9 < s.clk.fs
          match (if late && mayStrike then s1.victim q j else none) with
          | some v => (s1.preempt v).tryLevel lvl fuel (qs.filter fun x => x != q) true false
          | none => s1.tryLevel lvl fuel (qs.filter fun x => x != q) (held || late) mayStrike

/-- The levels of a decision, from the highest. -/
def State.tryLevels (s : State) (lvls : List Nat) (held : Bool) : State :=
  match lvls with
  | [] => s
  | lvl :: rest =>
    let r := s.readyAt lvl
    if r.isEmpty || held then s.tryLevels rest held
    else
      let s1 := if r.all fun q => (s.queue q).credit = 0 then s.refill lvl else s
      let (s2, started, held1) := s1.tryLevel lvl r.length r held true
      if started then s2 else s2.tryLevels rest held1

/-- Whether a checkpoint with QUIESCE keeps every job from running (17 R420). -/
def Boundary.quiet (b : Boundary) : Bool :=
  b.ckpt.quiesce && (b.ckpt.phase == .saving || b.ckpt.phase == .copying || b.ckpt.phase == .flushing)

/-- What a decision sees of the jobs: whether each has completed, no longer waits for staging, holds no grant. -/
def State.jobView (s : State) : List (JobId × Bool × Bool × Bool) :=
  s.jobs.map fun (id, j) => (id, j.phase == .completed, s.stageOver id j, j.segs.isEmpty)

/-- Whether a decision is due (R109): a record has been accepted, an event signalled, a job has completed or retired,
staging has ended, a grant has been freed, or 1 µs has passed since the last. -/
def State.decisionDue (s : State) : Bool :=
  s.dp.events != s.dp.seenEvents || s.jobView != s.dp.seenJobs || s.dp.decFs + 1000000000 ≤ s.clk.fs

/-- The waits of every job that has not started read: those satisfied stay so (R102). -/
def State.readWaits (s : State) : State :=
  { s with dp := { s.dp with queues := s.dp.queues.map fun (q, x) =>
      (q, { x with jobs := x.jobs.map fun y => if y.unstarted then { y with waits := s.waitsNow y } else y }) } }

/-- What a decision has seen of the jobs, from its view of them before it: what happens in it, a refusal among it, is seen
by the next; a job that it starts holds a grant. -/
def State.seenView (s : State) (before : List (JobId × Bool × Bool × Bool)) : List (JobId × Bool × Bool × Bool) :=
  before.map fun (id, c, o, e) => (id, c, o, e && (s.job id).any fun j => j.segs.isEmpty)

/-- A decision taken (R109): at most one job starts, and what it saw is kept. -/
def State.decide' (s : State) : State :=
  let s1 := s.readWaits.tryLevels ((List.range 32).map fun i => 31 - i) false
  { s1 with dp := { s1.dp with decFs := s1.clk.fs, seenEvents := s.dp.events, seenJobs := s1.seenView s.jobView } }

/-- DISPATCH_DECISION (R109): where a decision is due it is taken. The waits of every job that has not started are read
then, and what is found satisfied is kept (DEDUCED, log 122). While bring-up or a checkpoint drains the machine no
job starts (17 R420, R424). -/
def execDispatchDecision (s : State) : Out :=
  if s.bd.stage < 2 || s.bd.trained || s.bd.quiet || !s.decisionDue then .next s else .next s.decide'

/-- NEXT_JOB_PREFETCH (R114): code and formes of the next job are prefetched; it has no effect on results, faults
or events. -/
def execNextJobPrefetch (_ : Fin 16) (s : State) : Out := .next s

/-! ### Periods (R115-R117) -/

/-- BUDGET_PERIOD (R115): each 50 µs of TIME the charges begin again, and USED of every class and resource is what
the period charged. -/
def execBudgetPeriod (s : State) : Out :=
  if s.time / 50000 ≤ s.bd.periods then .next s
  else
    let used : Tab Nat := (List.range 256).foldl (fun (t : Tab Nat) i => tset 0 t i (s.usedNow i)) []
    .next ({ s with
      free := s.free + 256, charges := [], bd := { s.bd with used := used, periods := s.bd.periods + 1 } } : State).newPeriod

/-- RATE_WINDOW (R117): a rate window of a port has ended, and the next admits tokens anew. -/
def execRateWindow (p : PortId) (s : State) : Out :=
  match s.pref p with
  | none => .next s
  | some r =>
    let w := s.rateWin r.l
    if r.l.rate.getLsbD 32 && (s.port r.key).win != w then
      .next ((s.modPort r.key fun q => { q with win := w, admitted := 0 }).settle r.lk)
    else .next s

end Sys2Proof.Machine
end

