-- ==== Sys2Proof/Machine/Boundary.lean ====
section
/-! DEFINITION. The boundary of the module (17): registers in the queue pages and in management space (R6, 04
R96-R98, R413-R415), bring-up and resets (R422, R424, R425), the host's accesses and CXL ports (R379, R411,
R412), checkpoint (R419-R422), keys and attestation (R416, R426, R427), and debugging and profiling (07 R200,
R203, R206). -/

namespace Sys2Proof.Machine

/-! ### Register fields (00 R6, R7) -/

/-- A register with `n` bits from bit `lo` taken from a written value. -/
def putField (lo n : Nat) (old v : W64) : W64 :=
  let m : W64 := BitVec.ofNat 64 ((2 ^ n - 1) * 2 ^ lo)
  (old &&& ~~~m) ||| (v &&& m)

/-- A field written where the written value of it is accepted; the field keeps its value otherwise. -/
def putIf (ok : Nat → Bool) (lo n : Nat) (old v : W64) : W64 :=
  if ok (fieldN 64 v lo n) then putField lo n old v else old

/-! ### Queue pages (04 R96-R98, 17 R413) -/

/-- A queue after a write of QCTL (R97): ASID, RSIZE and RHOST only while it holds no record. -/
def Queue.writeCtl (q : Queue) (v : W64) : Queue :=
  let empty := q.next == q.retired
  let c1 := putField 8 5 (putField 2 1 (putField 0 1 q.ctl v) v) v
  let c2 := putIf (fun w => w != 0) 16 8 c1 v
  let c3 := putIf (fun w => w != 0 && w ≤ 60000) 48 16 c2 v
  let c4 := if empty then putField 32 16 (putIf (fun r => r < 10) 24 4 (putField 1 1 c3 v) v) v else c3
  let risen := q.fld 0 1 = 0 && v.getLsbD 0
  { q with ctl := c4, rej := if risen && empty then {} else q.rej }

/-- A write to a register of a queue page. QCTL, QNEXT, QRBASE and QRATE are written through function 0 only; the
others take no write. -/
def State.writeQueuePage (s : State) (func q off : Nat) (v : W64) : State :=
  if func != 0 || 8192 ≤ q then s
  else
    let x := s.queue q
    let empty := x.next == x.retired
    match off with
    | 0x80 =>
      let s1 := s.modQueue q fun x => x.writeCtl v
      if v.getLsbD 3 then s1.cancel q else s1
    | 0x88 =>
      if !x.en && empty then s.modQueue q fun x => { x with next := v.setWidth 32, retired := v.setWidth 32 } else s
    | 0xA0 =>
      if empty && v.toNat % 32 = 0 then s.modQueue q fun x => { x with rbase := putField 0 56 x.rbase v } else s
    | 0xB0 =>
      if v.getLsbD 32 && (fieldN 64 v 0 16 = 0 || fieldN 64 v 16 16 = 0) then s
      else s.modQueue q fun x => { x with rate := putField 0 33 x.rate v }
    | _ => s

/-- What a function reads at a register of a queue page: zero in the page of a queue that another owns. -/
def State.readQueuePage (s : State) (func q off : Nat) : W64 :=
  let x := s.queue q
  if 8192 ≤ q || s.ownerOf q != func then 0
  else
    match off with
    | 0x80 => x.ctl
    | 0x88 => x.next.setWidth 64
    | 0x90 => x.retired.setWidth 64
    | 0x98 => BitVec.ofNat 64 (x.rej.full + x.rej.seq * 2 ^ 16 + x.rej.form * 2 ^ 32 + x.rej.off * 2 ^ 48)
    | 0xA0 => x.rbase
    | 0xA8 => BitVec.ofNat 64 (x.occ + s.headwait q * 2 ^ 8)
    | 0xB0 => x.rate
    | _ => 0

/-! ### Management space (R415) -/

/-- A write of BUDGET (04 R115). -/
def State.writeBudget (s : State) (i : Nat) (v : W64) : State :=
  let others := ((List.range 32).filter fun c => c != i / 8).map fun c => fieldN 64 (s.budget (8 * c + i % 8)) 0 11
  let share := fieldN 64 v 0 11
  if 1024 < share || 1024 < others.foldl (· + ·) share then s
  else { s with bd := { s.bd with budgets := tset none s.bd.budgets i (some (putField 16 1 (putField 0 11 (s.budget i) v) v)) } }

/-- The rings of a die in the order of their registers: XFQ, TRVEV, the pools, REL (12 R341). -/
def Die.ring (d : Die) (i : Nat) : MRing :=
  match i with
  | 0 => d.xfq
  | 1 => d.trvev
  | 8 => d.rel
  | i + 2 => d.pools.getD i {}

/-- A die with a ring replaced. -/
def Die.setRing (d : Die) (i : Nat) (r : MRing) : Die :=
  match i with
  | 0 => { d with xfq := r }
  | 1 => { d with trvev := r }
  | 8 => { d with rel := r }
  | i + 2 => { d with pools := d.pools.set i r }

/-- A ring after a write to one of its registers (12 R341): SIZE and ADDR only while EN = 0; HEAD where software
consumes, TAIL where it produces. -/
def MRing.write (r : MRing) (pool : Bool) (reg : Nat) (v : W64) : MRing :=
  match reg with
  | 0 =>
    let b := putField 4 1 r.base v
    { r with base := if r.en then b else putField 12 40 (putField 0 4 b v) v }
  | 8 => if pool then r else { r with head := putField 0 32 r.head v }
  | 16 => if pool then { r with tail := putField 0 32 r.tail v } else r
  | _ => r

/-- A register of a ring. -/
def MRing.read (r : MRing) (reg : Nat) : W64 :=
  match reg with
  | 0 => r.base
  | 8 => r.head
  | 16 => r.tail
  | _ => 0

/-- What waits for a ring of a die written while there is room. -/
def MemSys.flushDie (ms : MemSys) (d : Nat) : MemSys := (ms.flushEvents d).flushReleases d

/-- A write in the block of a die (R415). -/
def State.writeDie (s : State) (d off : Nat) (v : W64) : State :=
  let modDie (f : Die → Die) : State := { s with ms := s.ms.modDie d f }
  match off with
  | 0 =>
    let dt := fieldN 64 v 56 2
    if dt = 0 then s
    else
      let r : MoveReq :=
        { asid := fieldN 64 v 40 16, va := fieldN 64 v 0 40 * 65536, dtier := dt, origin := .trvreq }
      { s with ms := s.ms.ask d r }
  | 8 => modDie fun x => { x with trvlim := putIf (fun w => w != 0) 16 16 (putIf (fun w => w != 0) 0 16 x.trvlim v) v }
  | 16 => s.answer d (fieldN 64 v 0 16) (if v.getLsbD 16 then State.decline else State.retry)
  | _ =>
    let i := (off - 0x100) / 0x20
    if off < 0x100 || 0x220 ≤ off then s
    else
      let s1 := modDie fun x => x.setRing i ((x.ring i).write (2 ≤ i && i < 8) (off % 0x20) v)
      { s1 with ms := s1.ms.flushDie d }

/-- TPOL after a write (12 R356): a watermark above 100 keeps its value. -/
def writeTpol (old v : W64) : W64 :=
  let w1 := putField 52 8 (putField 8 16 (putField 0 2 old v) v) v
  [24, 31, 38, 45].foldl (fun (a : W64) lo => putIf (fun x => x ≤ 100) lo 7 a v) w1

/-- DPOL after a write (04 R110). -/
def writeDpol (old v : W64) : W64 :=
  putIf (fun x => 1 ≤ x && x ≤ 8) 24 4 (putField 16 5 (putIf (fun x => x != 0) 0 16 old v) v) v

/-- Whether a checkpoint runs. -/
def Ckpt.runs (c : Ckpt) : Bool := c.phase == .saving || c.phase == .copying || c.phase == .flushing

/-- Whether some slot of a ring holds a job. -/
def State.ringHeld (s : State) (g : Nat) : Bool := !(s.segsOn g).isEmpty

/-- A write of SPQUOTA (11 R319). -/
def State.writeQuota (s : State) (g : Nat) (v : W64) : State :=
  let total := ((List.range 4).map fun b => fieldN 64 v (8 * b) 5).foldl (· + ·) 0
  if s.ringHeld g || 16 < total then s
  else s.modRing g fun r => { r with
    spquota := putField 24 5 (putField 16 5 (putField 8 5 (putField 0 5 r.spquota v) v) v) v }

/-- A write of a word of the grant table (12 R358). -/
def State.writeGrant (s : State) (i : Nat) (v : W64) : State :=
  let g := i / 4
  let w := i % 4
  let old := tget 0 s.bd.grants g
  let cur : W64 := old.extractLsb' (64 * w) 64
  let new := match w with
    | 0 => putField 16 48 (putField 0 4 cur v) v
    | 1 => v
    | 2 => putField 0 16 cur v
    | _ => cur
  let bits := old.toNat - cur.toNat * 2 ^ (64 * w) + new.toNat * 2 ^ (64 * w)
  { s with bd := { s.bd with grants := tset 0 s.bd.grants g (BitVec.ofNat 256 bits) } }

/-! ### Checkpoint (R419-R422) -/

/-- The image that a new checkpoint writes: the area that the header does not mark valid. -/
def State.newMirror (s : State) : Mirror :=
  let area := match s.bd.safeHdr with
    | some h => 1 - h.area
    | none => 0
  { ports := s.safePorts, offset := s.safeOffset, base := 65536 + area * imageArea }

/-- A checkpoint that ends, with its message. -/
def State.ckptEnd (s : State) (ph : CkptPhase) : State :=
  { s with
    ms := { s.ms with mirror := none, msix := s.ms.msix ++ [.ckpt] }
    bd := { s.bd with ckpt := { s.bd.ckpt with phase := ph, quiesce := false, journal := none } } }

/-- The copy begins (R420 step 2); without a safe tier the checkpoint aborts. -/
def State.ckptCopy (s : State) (quiesce : Bool) : State :=
  if s.safePorts.isEmpty then s.ckptEnd .aborted
  else { s with
    ms := { s.ms with mirror := some s.newMirror }
    bd := { s.bd with ckpt := { phase := .copying, quiesce := quiesce } } }

/-- A write of CKPTCTL with GO (R420): with QUIESCE the jobs are saved first. -/
def State.ckptGo (s : State) (quiesce : Bool) : State :=
  if s.bd.ckpt.runs then s
  else if quiesce then { s with bd := { s.bd with ckpt := { phase := .saving, quiesce := true } } }
  else s.ckptCopy false

/-- The bytes of one range of memory copied to another. -/
def copyBytes (m : Tab Byte) (src dst n : Nat) : Tab Byte :=
  let kept := m.filter fun e => !(dst ≤ e.1 && e.1 < dst + n)
  (m.filter fun e => src ≤ e.1 && e.1 < src + n).foldl (fun (t : Tab Byte) e => tset 0 t (dst + (e.1 - src)) e.2) kept

/-- The bytes of a range of the checkpoint's order, as keys of the order. -/
def imageBytes (m : Tab Byte) (r : Mirror) : List (Nat × Byte) :=
  m.filterMap fun e =>
    let p := 1 + (e.1 - 0x2000000000000) / 0x100000000000
    let o := (e.1 - 0x2000000000000) % 0x100000000000
    match r.ports.findIdx? fun q => q == p with
    | none => none
    | some i =>
      if e.1 < 0x2000000000000 || o < r.offset then none
      else
        let x := o - r.offset
        let l := (x / 4096 * r.ports.length + i) * 4096 + x % 4096
        if r.base ≤ l && l < r.base + ckptBytes then some (l - r.base, e.2) else none

/-- RESTORE (R422): accepted while every queue has EN = 0 and no checkpoint runs; the newest valid image is copied
back, and the dispatcher rebuilds its state from the journal it holds, as after a warm reset (14 R403). -/
def State.restoreImage (s : State) : State :=
  match s.bd.safeHdr with
  | none => s
  | some h =>
    if s.bd.ckpt.runs || s.dp.queues.any fun e => e.2.en then s
    else
      let r : Mirror := { ports := s.safePorts, offset := s.safeOffset, base := 65536 + h.area * imageArea }
      let rest := s.ms.mem.filter fun e => (ckptPos e.1).isNone
      let mem := (imageBytes s.ms.mem r).foldl (fun (t : Tab Byte) e => tset 0 t (ckptPa e.1) e.2) rest
      let queues := h.journal.queues.map fun (q, x) => (q, { x with rej := (s.queue q).rej })
      let s1 : State := { s with
        ms := { s.ms with mem := mem, tlb := [], ue := s.ms.ue.filter fun e => (ckptPos (64 * e.1)).isNone }
        dp := { s.dp with queues := queues, events := h.journal.events } }
      let keep := (s1.jobs.filter fun (id, j) => j.phase == .saved && s1.saveKept id j).map fun e => e.1
      (s1.rebuild keep.contains).dropVolatile

/-- CHECKPOINT (R420): a write of CKPTCTL. -/
def State.writeCkpt (s : State) (v : W64) : State :=
  let s1 := if v.getLsbD 2 then s.restoreImage else s
  if v.getLsbD 0 then s1.ckptGo (v.getLsbD 1) else s1

/-- CHECKPOINT (R420). -/
def execCheckpoint (v : W64) (s : State) : Out := .next (s.writeCkpt v)

/-- CHECKPOINT_QUIESCE (R420 step 1): every started job is pre-empted; when none is left the copy begins. -/
def execCheckpointQuiesce (s : State) : Out :=
  if s.bd.ckpt.phase != .saving then .next s
  else
    let s1 := (s.jobs.filter fun e => e.2.phase == .started).foldl (fun (a : State) e => a.preempt e.1) s
    if s.jobs.any fun e => e.2.phase == .started || e.2.phase == .saving || e.2.phase == .containing then .next s1
    else .next (s1.ckptCopy true)

/-- CHECKPOINT_BLOCK_COPY (R420 step 2, R421): the frontier advances by 64 KiB, charged to class 31; an error in
writing the safe tier, here or by a write below the frontier, memory that is not there among them, aborts. -/
def execCheckpointBlockCopy (s : State) : Out :=
  match s.bd.ckpt.phase, s.ms.mirror with
  | .copying, some r =>
    let gs := (List.range 16).map fun i => r.frontier + 4096 * i
    if r.failed || gs.any fun o => (s.ms.tierOf (r.pa o)).isNone || s.ms.rangeBad (r.pa o) 4096 then .next (s.ckptEnd .aborted)
    else
      let mem := gs.foldl (fun (m : Tab Byte) o => copyBytes m (ckptPa o) (r.pa o) 4096) s.ms.mem
      let f := r.frontier + 65536
      let s0 := s.charge (gs.flatMap fun o => s.ms.memCharges 0 (ckptPa o) 4096 31 ++ s.ms.memCharges 0 (r.pa o) 4096 31)
      let s1 : State := { s0 with
        ms := { s.ms with mem := mem, mirror := some { r with frontier := f } }
        bd := { s.bd with ckpt := { s.bd.ckpt with copied := f } } }
      .next (s.arbitrate (if f < ckptBytes then s1
        else { s1 with
          ms := { s1.ms with mirror := none }
          bd := { s1.bd with ckpt := { s1.bd.ckpt with phase := .flushing, journal := some s1.dp } } }) .ckpt s.wanted)
  | _, _ => .next s

/-- CHECKPOINT_FLUSH (R420 steps 3 and 4): the header marks the new image valid; an error leaves it as it was. -/
def execCheckpointFlush (ok : Bool) (s : State) : Out :=
  if s.bd.ckpt.phase != .flushing then .next s
  else if !ok then .next (s.ckptEnd .aborted)
  else
    let (area, gen) := match s.bd.safeHdr with
      | some h => (1 - h.area, h.gen + 1)
      | none => (0, 1)
    let h : SafeHdr :=
      { area := area, gen := gen, time := s.time, quiesce := s.bd.ckpt.quiesce, journal := s.bd.ckpt.journal.getD {}
        cfg := s.bd.safecfg }
    .next ({ s with bd := { s.bd with safeHdr := some h } }.ckptEnd .done)

/-- CHECKPOINT_RESTORE (R422). -/
def execCheckpointRestore (s : State) : Out := .next s.restoreImage

/-- CKPTSTAT (R420). -/
def State.ckptStat (s : State) : W64 :=
  let st : Nat := match s.bd.ckpt.phase with
    | .idle => 0
    | .saving => 1
    | .copying => 2
    | .flushing => 3
    | .done => 4
    | .aborted => 5
  BitVec.ofNat 64 (st + s.bd.ckpt.copied * 2 ^ 8)

/-! ### Writes and reads of management space -/

/-- A write in the dispatcher block. -/
def State.writeDisp (s : State) (off : Nat) (v : W64) : State :=
  if off = 0 then { s with dp := { s.dp with dpol := writeDpol s.dp.dpol v } }
  else if off = 8 then { s with dp := { s.dp with dlcfg := putField 20 1 (putIf (fun x => 256 ≤ x) 0 20 s.dp.dlcfg v) v } }
  else if 0x10000 ≤ off && off < 0x20000 then
    let q := (off - 0x10000) / 8
    let x := s.queue q
    let old := tget 0 s.bd.qassign q
    let w := putField 8 11 old v
    { s with bd := { s.bd with qassign := tset 0 s.bd.qassign q (if x.next == x.retired then putField 0 7 w v else w) } }
  else s

/-- A write in the block of the rings. -/
def State.writeRingBlock (s : State) (off : Nat) (v : W64) : State :=
  let g := off / 0x1000
  if 16 ≤ g then s
  else
    match off % 0x1000 with
    | 8 => s.modRing g fun r => { r with slice := if 16 ≤ fieldN 64 v 0 16 then fieldN 64 v 0 16 else r.slice }
    | 16 => s.writeQuota g v
    | _ => s

/-- A write in the block of checkpoint, power, thermal and error counters. -/
def State.writePower (s : State) (off : Nat) (v : W64) : State :=
  match off with
  | 0 => if s.bd.ckpt.runs then s else { s with bd := { s.bd with safecfg := putField 8 40 (putField 1 7 s.bd.safecfg v) v } }
  | 8 => s.writeCkpt v
  | 0x18 => { s with bd := { s.bd with pcap := putIf (fun x => 2000 ≤ x && x ≤ 3800) 0 13 s.bd.pcap v } }
  | _ => s

/-- A write in management space (R415): an offset that holds no register takes none. -/
def State.writeMgmt (s : State) (off : Nat) (v : W64) : State :=
  if off % 8 != 0 then s
  else if off < 0x100000 then s.writeDisp off v
  else if off < 0x200000 then (if off - 0x100000 < 2048 then s.writeBudget ((off - 0x100000) / 8) v else s)
  else if off < 0x400000 then s.writeRingBlock (off - 0x200000) v
  else if off < 0x480000 then
    let a := (off - 0x400000) / 8
    { s with ms := { s.ms with roots := tmod 0 s.ms.roots a fun o => putField 17 35 (putField 0 1 o v) v } }
  else if off < 0x500000 then s
  else if off < 0x580000 then
    s.modCtx ((off - 0x500000) / 8) fun c => { c with cxdesc := putField 63 1 (putField 12 44 (putField 0 8 c.cxdesc v) v) v }
  else if off < 0x800000 then s
  else if off < 0x840000 then s.writeDie ((off - 0x800000) / 0x10000) (off % 0x10000) v
  else if off = 0xC00000 then { s with ms := { s.ms with tpol := writeTpol s.ms.tpol v } }
  else if 0xC00020 ≤ off && off < 0xC00040 then
    { s with ms := { s.ms with wlog := s.ms.wlog.write false (off - 0xC00020) v }.flushWlog }
  else if off < 0x1000000 then s
  else if off < 0x1020000 then s.writeGrant ((off - 0x1000000) / 8) v
  else if off < 0x1100000 then s
  else if off < 0x1180000 then
    { s with dp := { s.dp with evgrant := tmod 0 s.dp.evgrant ((off - 0x1100000) / 8) fun o => putField 0 18 o v } }
  else if off < 0x1300000 then s
  else if off < 0x1400000 then s.writePower (off - 0x1300000) v
  else if off = 0x1400F00 then { s with bd := { s.bd with attctx := putField 0 16 s.bd.attctx v } }
  else s

/-- What system software reads in management space. -/
def State.readMgmt (s : State) (off : Nat) : W64 :=
  if off % 8 != 0 then 0
  else if off = 0 then s.dp.dpol
  else if off = 8 then s.dp.dlcfg
  else if 0x10000 ≤ off && off < 0x20000 then tget 0 s.bd.qassign ((off - 0x10000) / 8)
  else if 0x100000 ≤ off && off < 0x100800 then
    let i := (off - 0x100000) / 8
    s.budget i ||| BitVec.ofNat 64 (tget 0 s.bd.used i % 2 ^ 32 * 2 ^ 32)
  else if 0x200000 ≤ off && off < 0x210000 then
    let g := (off - 0x200000) / 0x1000
    let r := s.ringSt g
    match off % 0x1000 with
    | 0 =>
      let (a, d) := Config.disabledStripes g
      BitVec.ofNat 64 (2 ^ a.val + 2 ^ ((a.val + 1 + d.val) % 26))
    | 8 => BitVec.ofNat 64 (r.slice + r.cc * 2 ^ 16)
    | 16 => r.spquota
    | _ => 0
  else if 0x400000 ≤ off && off < 0x480000 then tget 0 s.ms.roots ((off - 0x400000) / 8)
  else if 0x500000 ≤ off && off < 0x580000 then (s.ctx ((off - 0x500000) / 8)).cxdesc
  else if 0x800000 ≤ off && off < 0x840000 then
    let d := s.ms.die ((off - 0x800000) / 0x10000)
    let o := off % 0x10000
    if o = 8 then d.trvlim
    else if 0x100 ≤ o && o < 0x220 then (d.ring ((o - 0x100) / 0x20)).read (o % 0x20)
    else 0
  else if off = 0xC00000 then s.ms.tpol
  else if 0xC00020 ≤ off && off < 0xC00040 then s.ms.wlog.read (off - 0xC00020)
  else if 0x1000000 ≤ off && off < 0x1020000 then
    let i := (off - 0x1000000) / 8
    (tget 0 s.bd.grants (i / 4)).extractLsb' (64 * (i % 4)) 64
  else if 0x1100000 ≤ off && off < 0x1180000 then tget 0 s.dp.evgrant ((off - 0x1100000) / 8)
  else if off = 0x1300000 then s.bd.safecfg
  else if off = 0x1300010 then s.ckptStat
  else if off = 0x1300018 then s.bd.pcap
  else if 0x1300100 ≤ off && off < 0x1300148 then BitVec.ofNat 64 (tget 0 s.bd.errors ((off - 0x1300100) / 8))
  else if off = 0x1400F00 then s.bd.attctx
  else 0

/-- A request of system software, charged to class 31 (04 R115); it waits outside while the arbiter does not let it
through (R116). -/
def State.managed (s : State) (f : State → State) : State :=
  s.arbitrate (f (s.charge [{ res := 6, inst := 0, cls := 31, units := 1 }])) .mgmt s.wanted

/-- A CSR of a thread written through the management path; of CTX_STATUS the PRIV of the thread's context (07 R197,
R198). Where SAFEPT changes the thread's safe-point word is written (03 R88). -/
def State.writePath (s : State) (k csr : Nat) (v : W64) : State :=
  if csr = 0 then s.modCtx (s.asidOf (s.thread k)) fun c => { c with priv := v.getLsbD 0 }
  else
    let s1 := s.modThread k fun th => th.pathCsr csr v
    if csr = 0x0B && v != (s.thread k).safept then
      { ({ s1 with cur := k } : State).writeSafe v with cur := s.cur }
    else s1

/-- REGISTER_WRITE (R6): the access codes and conditions of the register named. A queue page is reached over CXL port 0,
while it is up (04 R96, R411). -/
def execRegisterWrite (dst : RegDest) (v : W64) (s : State) : Out :=
  match dst with
  | .queuePage func q off => .next (if s.portUp 0 then s.writeQueuePage func q off v else s)
  | .mgmt off => .next (s.managed fun s => s.writeMgmt off v)
  | .threadCsr g b csr => .next (s.managed fun s => s.writePath (4 * g.val + b.val) csr.toNat v)
  | .watchpoint j n addr =>
    .next (s.managed fun s => s.modJob j fun x =>
      if x.phase == .started then { x with watch := x.watch.set n.val (watchOf addr.toNat v.toNat) } else x)

/-! ### What a function reads of BAR 0 (R414) -/

/-- The DVSEC of every function: its ID, and BAR 0 with the list at offset 0. -/
def dvsec : BitVec 16 × W64 := (8, 0)

/-- What function `func` reads at byte `off` of its BAR 0, in doublewords: the capability list at its start, and in
function 0's the management space from offset 0x0100_0000. -/
def State.bar0 (s : State) (func off : Nat) : W64 :=
  if func = 0 && 0x1000000 ≤ off then s.readMgmt (off - 0x1000000)
  else BitVec.ofNat 64 (ofBytesLE ((s.capList.drop off).take 8))

/-! ### Bring-up and resets (R422, R424, R425) -/

/-- Whether a physical address lies in the safe tier, as SAFECFG or the header of the newest image says where it is. -/
def State.inSafeTier (s : State) (pa : Nat) : Bool := s.inSafe pa || s.bd.safeHdr.any fun h => inSafeOf h.cfg pa

/-- The machine after everything but the safe tier is lost (R422): memory of the safe tier, what is attached to the
CXL ports, and what the module has sent stay. SAFECFG takes its reset value with the cold reset that follows (log 90). -/
def State.powerCycle (s : State) : State :=
  { State.reset with
    ms := {
      mem := s.ms.mem.filter fun e => s.inSafeTier e.1
      ue := s.ms.ue.filter fun e => s.inSafeTier (64 * e.1)
      tierX := s.ms.tierX, msix := s.ms.msix
      removed := s.ms.tierX.foldl (fun (t : Tab Bool) e => tset false t e.1 true) s.ms.removed }
    bd := { safeHdr := s.bd.safeHdr, hostOut := s.bd.hostOut, safecfg := s.bd.safecfg }
    spGen := (List.range 64).foldl (fun (t : Tab Nat) k => tmod 0 t k (· + 1)) s.spGen
    samples := s.samples, sched := s.sched, free := s.free }

/-- COLD_RESET (R424): through stages 0 and 1 to reduced service on ring 0 at 1.0 GHz, with the vendor bank loaded if its
own signature passes (R428); at stage 1 where the firmware's verification fails. The firmware may have been updated
before (log 38). -/
def execColdReset (verified : Bool) (s : State) : Out :=
  let s1 := s.powerCycle
  .next (if verified then
      { s1 with
        clk := s1.clk.retune 1000, free := s.free + 1
        bd := { s1.bd with stage := 2, bank := Config.bankSigned s.free, firmware := s.free, safecfg := 0 } }
    else { s1 with bd := { s1.bd with stage := 1, safecfg := 0 } })

/-- Whether a job has started and has not retired. -/
def Job.startedOnce (j : Job) : Bool := j.order != 0

/-- FULL_SERVICE (R424): training is complete; no further job starts until every started job has retired, and then
full service begins. -/
def execFullService (s : State) : Out :=
  if s.bd.stage != 2 then .next s
  else if s.jobs.any fun e => e.2.startedOnce then .next { s with bd := { s.bd with trained := true } }
  else .next { s with
    clk := s.clk.retune 1750, ms := { s.ms with reduced := false }, bd := { s.bd with stage := 3, trained := false } }

/-- LOSS_OF_POWER (R422). -/
def execLossOfPower (s : State) : Out := .next s.powerCycle

/-- THERMAL_STEP_DOWN (R425): the clock steps down by 50 MHz, 1 ms of TIME after the last step at the soonest. -/
def execThermalStepDown (s : State) : Out :=
  .next (if 50 < s.clk.mhz && (s.bd.heat = 0 || s.bd.heatFs + 10 ^ 12 ≤ s.clk.fs) then
    { s with clk := s.clk.retune (s.clk.mhz - 50), bd := { s.bd with heat := s.bd.heat + 1, heatFs := s.clk.fs } } else s)

/-- THERMAL_TRIP (R425): the module powers off, as in a cold reset. -/
def execThermalTrip (s : State) : Out := .next s.powerCycle

/-! ### The host and the CXL ports (R379, R411, R412) -/

/-- Whether a host reaches `n` bytes through port 0: while the port is up, in one of the two ranges, tiers H and L, as far
as the bring-up stage serves them (R412, R424). -/
def State.hostReach (s : State) (pa n : Nat) : Bool :=
  let last := pa + n - 1
  s.portUp 0 && 2 ≤ s.bd.stage && (ckptPos pa).isSome && ckptPos last == (ckptPos pa).map (· + (n - 1))
    && (s.ms.tierOf pa).isSome && (s.ms.tierOf last).isSome

/-- HOST_CXL_MEM_ACCESS (R379, R412): a host writes bytes of tiers H and L by physical address, as ciphertext, over
port 0; a read changes nothing. -/
def execHostCxlMemAccess (pa : Nat) (wdata : Option (List Byte)) (s : State) : Out :=
  match wdata with
  | none => .next s
  | some bs =>
    if !bs.isEmpty && s.hostReach pa bs.length then
      .next { s with ms := s.ms.writeData pa bs }
    else .next s

/-- What a host reads through port 0: the bytes in memory; none where an uncorrectable error is met, or the bytes are out of
its reach. -/
def State.hostRead (s : State) (pa n : Nat) : Option (List Byte) :=
  if !s.hostReach pa n || s.ms.rangeBad pa n then none else some (readMem s.ms.mem pa n)

/-- A port that is down: its memory reads as DATA_UE, and moves to or from it abort (R411). -/
def State.portDown (s : State) (p : Nat) : State :=
  let up := s.bd.cxlUp &&& ~~~((1 : BitVec 8) <<< p)
  if p = 0 then { s with bd := { s.bd with cxlUp := up } }
  else { s with
    ms := { s.ms with removed := tset false s.ms.removed p true }.abortGone, bd := { s.bd with cxlUp := up } }

/-- CXL_SURPRISE_REMOVAL (R411): the port's memory reads as DATA_UE, and moves to or from it abort. -/
def execCxlSurpriseRemoval (port : Fin 8) (s : State) : Out :=
  if port = 0 then .next s else .next (s.portDown port.val)

/-- The bytes of the device behind a port as its link trains: those it had, or where none was there a size that the
device gives, at most 16 TiB, and with those behind the other ports at most 64 TiB (12 R331, 00 R2). -/
def State.attached (s : State) (p : Nat) : Nat :=
  let others := s.ms.tierX.foldl (fun (a : Nat) e => if e.1 = p then a else a + e.2) 0
  if tget 0 s.ms.tierX p = 0 || tget false s.ms.removed p then min (Config.deviceSize s.free % (2 ^ 44 + 1)) (2 ^ 46 - others)
  else tget 0 s.ms.tierX p

/-- CXL_LINK_TRAINING (R411): a port that trains to 256-byte flits is up, unless its die is lost, and the memory behind
it is tier X; any other is held down, and its memory cannot be reached. -/
def execCxlLinkTraining (port : Fin 8) (flit256 : Bool) (s : State) : Out :=
  let p := port.val
  if flit256 && !(s.ms.die (p / 2)).lost then
    let s1 : State := { s with bd := { s.bd with cxlUp := s.bd.cxlUp ||| (1 : BitVec 8) <<< p } }
    .next (if p = 0 then s1
      else { s1 with
        free := s.free + 1
        ms := { s.ms with removed := tset false s.ms.removed p false, tierX := tset 0 s.ms.tierX p (s.attached p) } })
  else .next (s.portDown p)

/-! ### Keys and attestation (R416, R426, R427) -/

/-- "tlasta key wrap" in the label format of the SPDM 1.3 key schedule: length, version, label. -/
def kwkInfo : List Nat :=
  [32, 0] ++ ("spdm1.3 ".toList.map Char.toNat) ++ ("tlasta key wrap".toList.map Char.toNat)

/-- The device identity certificate chain of slot 0, whose leaf key is fused (R426). -/
def State.certificate (_ : State) : List Byte := Config.certChain

/-- The key-wrapping key of a session, from its export master secret (R426). -/
def kwkOf (secret : List Byte) : List Nat := (hkdfBlocks 1 1 (secret.map BitVec.toNat) kwkInfo []).take 32

/-- KEY_EXCHANGE (R426): a session and its key-wrapping key. The SM2 exchange of the requester's message gives the
session's export master secret, and the response is signed (R428; log 93). -/
def execKeyExchange (session : Nat) (request : List Byte) (s : State) : Out :=
  .next { s with
    free := s.free + 1
    bd := { s.bd with
      kwks := tset none s.bd.kwks session (some (kwkOf (Config.exportSecret s.free request)))
      signature := Config.sm2Sign s.free request } }

/-- KEY_LOAD (R416): a wrapped key and TWEAK_BASE unwrapped under the session's key into a slot; a failure changes
no slot. -/
def execKeyLoad (session kslot : Nat) (wrapped : List Byte) (s : State) : Out :=
  match tget none s.bd.kwks session with
  | none => .next s
  | some kwk =>
    if 4096 ≤ kslot || wrapped.length != 88 then .next s
    else
      match aesKeyUnwrap kwk (wrapped.map BitVec.toNat) with
      | none => .next s
      | some p =>
        let k : KeySlot :=
          { key := BitVec.ofNat 512 (ofNatBytesLE (p.take 64)), tweak := BitVec.ofNat 128 (ofNatBytesLE (p.drop 64)) }
        .next { s with bd := { s.bd with keys := tset none s.bd.keys kslot (some k) } }

/-- KEY_BIND (R416): a handle bound to a slot in a context; a bound handle stays as it is until it is unbound. -/
def execKeyBind (asid handle : BitVec 16) (kslot : Nat) (s : State) : Out :=
  let c := s.ctx asid.toNat
  if handle = 0 || 4096 ≤ kslot || tget 0 c.keys handle.toNat != 0 then .next s
  else .next (s.modCtx asid.toNat fun c => { c with keys := tset 0 c.keys handle.toNat (kslot + 1) })

/-- KEY_UNBIND (R416). -/
def execKeyUnbind (asid handle : BitVec 16) (s : State) : Out :=
  .next (s.modCtx asid.toNat fun c => { c with keys := tset 0 c.keys handle.toNat 0 })

/-- The digests of the 32 entries of a context's ligature set, in order; zero for an unbound entry (R427, 10
R291). -/
def State.ligDigests (s : State) (asid : Nat) : List Byte :=
  (List.range 32).flatMap fun n => match tget none (s.ctx asid).ligs n with
    | some e => e.digest.map (BitVec.ofNat 8)
    | none => List.replicate 32 0

/-- A measurement (R427). -/
def State.measurement (s : State) (index : Nat) : Option (List Byte) :=
  match index with
  | 1 => some (digestBytes Config.bootDigest)
  | 2 => some (digestBytes (Config.firmwareDigest s.bd.firmware))
  | 3 => some (digestBytes (Config.bankDigest s.bd.bank))
  | 4 => some (digestBytes Config.fuseDigest)
  | 16 => some (s.ligDigests (fieldN 64 s.bd.attctx 0 16))
  | _ => none

/-- GET_MEASUREMENTS (R427): the block of an index is reported, in a signed response (R428). -/
def execGetMeasurements (index : Nat) (s : State) : Out :=
  match s.measurement index with
  | some bs => .next { s with
      free := s.free + 1, bd := { s.bd with report := some (index, bs), signature := Config.sm2Sign s.free bs } }
  | none => .next s

/-! ### Debugging, profiling and ligatures through the management path (07 R200, R203, R206, 03 R84) -/

/-- PROFILE_SAMPLE (07 R200): with EN = 1 the thread's pc goes to the profiling buffer every PERIOD · 1,024 fc. -/
def execProfileSample (ring : Fin 16) (slot : Fin 4) (s : State) : Out :=
  let k := 4 * ring.val + slot.val
  let th := s.thread k
  if th.profile.getLsbD 0 && th.run != .idle && th.sampleFc + fieldN 64 th.profile 16 16 * 1024 ≤ s.clk.fc then
    .next (({ s with samples := s.samples ++ [(k, th.pc)] } : State).setThread k { th with sampleFc := s.clk.fc })
  else .next s

/-- DEBUG_AGENT_CLAIM (07 R203). -/
def execDebugAgentClaim (asid : BitVec 16) (claim : Bool) (s : State) : Out :=
  .next (s.modCtx asid.toNat fun c => { c with claimed := claim })

/-- DEBUG_AGENT_RESUME (07 R203): a thread stopped at BRK goes on at the pc that the agent chooses, whose bits [1:0]
are 0 (06 R144). -/
def execDebugAgentResume (ring : Fin 16) (slot : Fin 4) (pc : BitVec 56) (s : State) : Out :=
  let k := 4 * ring.val + slot.val
  if (s.thread k).run == .agent then .next (s.modThread k fun th => { th with run := .running, pc := pc &&& ~~~3 }) else .next s

/-- An image bound through the management path, or the entry cleared, with the result code kept for system software
(03 R84; log 109). -/
def State.bindPath (s : State) (asid n : Nat) (img : Option (List Byte)) : State :=
  let (s1, r) := s.bindLig asid n img
  s1.modCtx asid fun c => { c with ligResult := some r }

/-- MANAGEMENT_PATH_LIGATURE_BIND (03 R84): as LIGBIND, for a context, with an image at an address of it; address 0
unbinds. An image that is misaligned or cannot be read binds nothing and leaves no result code (log 109). -/
def execManagementPathLigatureBind (asid : BitVec 16) (n : BitVec 5) (addr : W64) (s : State) : Out :=
  let va := addr.toNat
  let a := asid.toNat
  if va = 0 then .next (s.bindPath a n.toNat none)
  else if va % 8 != 0 then .next s
  else
    match s.sysRead a va 16 with
    | none => .next s
    | some hd =>
      let s1 := s.touches a [(va, 16 + 8 * ligWords hd)]
      match s.sysRead a va (16 + 8 * ligWords hd) with
      | none => .next s1
      | some img => .next (s1.bindPath a n.toNat (some img))

end Sys2Proof.Machine
end

