-- ==== Sys2Proof/Machine/Float.lean ====
section
/-! DEFINITION. The floating-point instructions (06 R167-R170), on FP32 values in bits [31:0] of the
general registers. -/

namespace Sys2Proof.Machine

/-- The FP32 value in bits [31:0] of a register (R167). -/
def f32Of (v : W64) : Val := valF32 (v.toNat % 2 ^ 32)

/-- A rounded result with its flags; an invalid operation adds INV (R168). -/
def roundOp (mode : Rnd) (r : Val × Bool) : Nat × Flags :=
  let (c, f) := roundFp32 mode r.1
  (c, if r.2 then orFlags f invFlag else f)

/-- FADD (R167, R168). -/
def fAdd (mode : Rnd) (u v : W64) : Nat × Flags := roundOp mode (addV mode (f32Of u) (f32Of v))
/-- FSUB: the sum with the second operand negated (R167, R168). -/
def fSub (mode : Rnd) (u v : W64) : Nat × Flags := roundOp mode (addV mode (f32Of u) (negV (f32Of v)))
/-- FMUL (R167, R168). -/
def fMul (mode : Rnd) (u v : W64) : Nat × Flags := roundOp mode (mulV (f32Of u) (f32Of v))
/-- FDIV (R167, R168). -/
def fDiv (mode : Rnd) (u v : W64) : Nat × Flags :=
  let (q, f) := divV (f32Of u) (f32Of v)
  let (c, f') := roundFp32 mode q
  (c, orFlags f f')
/-- FMA: exact product and sum, one rounding; 0 × ∞ is invalid even when the addend is NaN (R168). -/
def fMa (mode : Rnd) (u v w : W64) : Nat × Flags :=
  let (p, bad) := mulV (f32Of u) (f32Of v)
  let (t, bad') := addV mode p (f32Of w)
  roundOp mode (t, bad || bad')

/-- Whether the first value is the smaller, with −0 below +0 (R167). -/
def below (a b : Val) : Bool := ltV a b || (eqV a b && valNeg a && !valNeg b)

/-- FMIN or FMAX of two codes: canonical NaN with any NaN source (R168). -/
def fPick (least : Bool) (u v : W64) : Nat :=
  let a := f32Of u
  let b := f32Of v
  if isNan a || isNan b then 0x7FC00000
  else if (if least then below b a else below a b) then v.toNat % 2 ^ 32
  else u.toNat % 2 ^ 32

/-- The predicates of FCMP (R169). -/
def fCmp (p : Nat) (u v : W64) : Bool :=
  let a := f32Of u
  let b := f32Of v
  match p with
  | 0 => eqV a b
  | 1 => ltV a b
  | 2 => leV a b
  | _ => isNan a || isNan b

/-- FP32 to a 64-bit integer range (R170, kinds 0 and 1). -/
def toInt64 (mode : Rnd) (lo hi : Int) (v : Val) : Nat × Flags :=
  match v with
  | .nan => (0, invFlag)
  | .inf neg => (wrapN 64 (if neg then lo else hi), satFlag)
  | .fin neg m e s =>
    let r := roundInt mode neg m e s
    (wrapN 64 (satI r lo hi), if r < lo ∨ hi < r then satFlag else noFlags)

/-- FCVT by kind (R170). -/
def fCvt (k : Nat) (mode : Rnd) (u : W64) : Nat × Flags :=
  match k with
  | 0 => toInt64 mode (-9223372036854775808) 9223372036854775807 (f32Of u)
  | 1 => toInt64 mode 0 18446744073709551615 (f32Of u)
  | 2 => roundFp32 mode (valOfInt u.toInt)
  | 3 => roundFp32 mode (valOfInt (u.toNat : Int))
  | 4 => roundFloat bf16 mode (f32Of u)
  | 5 => roundFloat fp16 mode (f32Of u)
  | 6 => roundFp32 mode (decodeFloat bf16 u.toNat)
  | 7 => roundFp32 mode (decodeFloat fp16 u.toNat)
  | 8 => roundFloat k8 mode (f32Of u)
  | _ => roundFp32 mode (decodeFloat k8 u.toNat)

/-- A floating-point instruction: the result zero-extended, its flags set (R147, R167). -/
def fpu (i : Instr) (s : State) (d : BitVec 5) (f : Thread → Nat × Flags) : Out :=
  checked i s fun th =>
    let r := f th
    update s ((th.put d (BitVec.ofNat 64 r.1)).flag r.2)

/-- FADD (R167, R168). -/
def execFadd (d a b : BitVec 5) (r : BitVec 2) (s : State) : Out :=
  fpu (.fadd d a b r) s d fun th => fAdd (rndOf r.toNat) (th.get a) (th.get b)

/-- FSUB (R167, R168). -/
def execFsub (d a b : BitVec 5) (r : BitVec 2) (s : State) : Out :=
  fpu (.fsub d a b r) s d fun th => fSub (rndOf r.toNat) (th.get a) (th.get b)

/-- FMUL (R167, R168). -/
def execFmul (d a b : BitVec 5) (r : BitVec 2) (s : State) : Out :=
  fpu (.fmul d a b r) s d fun th => fMul (rndOf r.toNat) (th.get a) (th.get b)

/-- FDIV (R167, R168). -/
def execFdiv (d a b : BitVec 5) (r : BitVec 2) (s : State) : Out :=
  fpu (.fdiv d a b r) s d fun th => fDiv (rndOf r.toNat) (th.get a) (th.get b)

/-- FMA (R167, R168): x[d] is the addend. -/
def execFma (d a b : BitVec 5) (r : BitVec 2) (s : State) : Out :=
  fpu (.fma d a b r) s d fun th => fMa (rndOf r.toNat) (th.get a) (th.get b) (th.get d)

/-- FMIN (R167, R168). -/
def execFmin (d a b : BitVec 5) (s : State) : Out :=
  fpu (.fmin d a b) s d fun th => (fPick true (th.get a) (th.get b), noFlags)

/-- FMAX (R167, R168). -/
def execFmax (d a b : BitVec 5) (s : State) : Out :=
  fpu (.fmax d a b) s d fun th => (fPick false (th.get a) (th.get b), noFlags)

/-- FCMP (R169): never sets a flag. -/
def execFcmp (d a b : BitVec 5) (p : BitVec 4) (s : State) : Out :=
  fpu (.fcmp d a b p) s d fun th => (if fCmp p.toNat (th.get a) (th.get b) then 1 else 0, noFlags)

/-- FCVT (R170). -/
def execFcvt (d a : BitVec 5) (k : BitVec 4) (r : BitVec 2) (s : State) : Out :=
  fpu (.fcvt d a k r) s d fun th => fCvt k.toNat (rndOf r.toNat) (th.get a)

end Sys2Proof.Machine
end

