-- ==== Sys2Proof/Machine/Dispatch.lean ====
section
/-! DEFINITION. The dispatch table: one arm per instruction, each a direct call of its meaning. -/

namespace Sys2Proof.Machine

/-- The meaning of an instruction in a state. -/
def exec (i : Instr) (s : State) : Host.Outcome State Fault Refusal :=
  match i with
  | .ill => Sys2Proof.Machine.execIll s
  | .add d a b => Sys2Proof.Machine.execAdd d a b s
  | .sub d a b => Sys2Proof.Machine.execSub d a b s
  | .and d a b => Sys2Proof.Machine.execAnd d a b s
  | .or d a b => Sys2Proof.Machine.execOr d a b s
  | .xor d a b => Sys2Proof.Machine.execXor d a b s
  | .sll d a b => Sys2Proof.Machine.execSll d a b s
  | .srl d a b => Sys2Proof.Machine.execSrl d a b s
  | .sra d a b => Sys2Proof.Machine.execSra d a b s
  | .slt d a b => Sys2Proof.Machine.execSlt d a b s
  | .sltu d a b => Sys2Proof.Machine.execSltu d a b s
  | .min d a b => Sys2Proof.Machine.execMin d a b s
  | .max d a b => Sys2Proof.Machine.execMax d a b s
  | .minu d a b => Sys2Proof.Machine.execMinu d a b s
  | .maxu d a b => Sys2Proof.Machine.execMaxu d a b s
  | .mul d a b => Sys2Proof.Machine.execMul d a b s
  | .mulh d a b => Sys2Proof.Machine.execMulh d a b s
  | .mulhu d a b => Sys2Proof.Machine.execMulhu d a b s
  | .div d a b => Sys2Proof.Machine.execDiv d a b s
  | .rem d a b => Sys2Proof.Machine.execRem d a b s
  | .divu d a b => Sys2Proof.Machine.execDivu d a b s
  | .remu d a b => Sys2Proof.Machine.execRemu d a b s
  | .clz d a => Sys2Proof.Machine.execClz d a s
  | .ctz d a => Sys2Proof.Machine.execCtz d a s
  | .popc d a => Sys2Proof.Machine.execPopc d a s
  | .bswp d a => Sys2Proof.Machine.execBswp d a s
  | .exts d a n m p => Sys2Proof.Machine.execExts d a n m p s
  | .extz d a n m p => Sys2Proof.Machine.execExtz d a n m p s
  | .insf d a n m p => Sys2Proof.Machine.execInsf d a n m p s
  | .sel d a b => Sys2Proof.Machine.execSel d a b s
  | .addi d a imm => Sys2Proof.Machine.execAddi d a imm s
  | .andi d a imm => Sys2Proof.Machine.execAndi d a imm s
  | .ori d a imm => Sys2Proof.Machine.execOri d a imm s
  | .xori d a imm => Sys2Proof.Machine.execXori d a imm s
  | .slli d a amt => Sys2Proof.Machine.execSlli d a amt s
  | .srli d a amt => Sys2Proof.Machine.execSrli d a amt s
  | .srai d a amt => Sys2Proof.Machine.execSrai d a amt s
  | .slti d a imm => Sys2Proof.Machine.execSlti d a imm s
  | .lui d imm => Sys2Proof.Machine.execLui d imm s
  | .addpc d imm => Sys2Proof.Machine.execAddpc d imm s
  | .fadd d a b r => Sys2Proof.Machine.execFadd d a b r s
  | .fsub d a b r => Sys2Proof.Machine.execFsub d a b r s
  | .fmul d a b r => Sys2Proof.Machine.execFmul d a b r s
  | .fdiv d a b r => Sys2Proof.Machine.execFdiv d a b r s
  | .fma d a b r => Sys2Proof.Machine.execFma d a b r s
  | .fmin d a b => Sys2Proof.Machine.execFmin d a b s
  | .fmax d a b => Sys2Proof.Machine.execFmax d a b s
  | .fcmp d a b p => Sys2Proof.Machine.execFcmp d a b p s
  | .fcvt d a k r => Sys2Proof.Machine.execFcvt d a k r s
  | .beq a b o => Sys2Proof.Machine.execBeq a b o s
  | .bne a b o => Sys2Proof.Machine.execBne a b o s
  | .blt a b o => Sys2Proof.Machine.execBlt a b o s
  | .bge a b o => Sys2Proof.Machine.execBge a b o s
  | .bltu a b o => Sys2Proof.Machine.execBltu a b o s
  | .bgeu a b o => Sys2Proof.Machine.execBgeu a b o s
  | .j o => Sys2Proof.Machine.execJ o s
  | .call o => Sys2Proof.Machine.execCall o s
  | .jr a => Sys2Proof.Machine.execJr a s
  | .callr d a => Sys2Proof.Machine.execCallr d a s
  | .callt d a imm => Sys2Proof.Machine.execCallt d a imm s
  | .ld d a z q o => Sys2Proof.Machine.execLd d a z q o s
  | .lds d a z q o => Sys2Proof.Machine.execLds d a z q o s
  | .st t a z q o => Sys2Proof.Machine.execSt t a z q o s
  | .prefR a o => Sys2Proof.Machine.execPrefR a o s
  | .prefW a o => Sys2Proof.Machine.execPrefW a o s
  | .amoadd d a b q z => Sys2Proof.Machine.execAmoadd d a b q z s
  | .amoand d a b q z => Sys2Proof.Machine.execAmoand d a b q z s
  | .amoor d a b q z => Sys2Proof.Machine.execAmoor d a b q z s
  | .amoxor d a b q z => Sys2Proof.Machine.execAmoxor d a b q z s
  | .amomin d a b q z => Sys2Proof.Machine.execAmomin d a b q z s
  | .amomax d a b q z => Sys2Proof.Machine.execAmomax d a b q z s
  | .amoswap d a b q z => Sys2Proof.Machine.execAmoswap d a b q z s
  | .cas d a b q z => Sys2Proof.Machine.execCas d a b q z s
  | .fence c k => Sys2Proof.Machine.execFence c k s
  | .evsig a => Sys2Proof.Machine.execEvsig a s
  | .evwait d a => Sys2Proof.Machine.execEvwait d a s
  | .evpoll d a => Sys2Proof.Machine.execEvpoll d a s
  | .evset d a => Sys2Proof.Machine.execEvset d a s
  | .bar a imm => Sys2Proof.Machine.execBar a imm s
  | .qpush a q => Sys2Proof.Machine.execQpush a q s
  | .qpop d q => Sys2Proof.Machine.execQpop d q s
  | .qspace d q => Sys2Proof.Machine.execQspace d q s
  | .qnote a q => Sys2Proof.Machine.execQnote a q s
  | .wfe d => Sys2Proof.Machine.execWfe d s
  | .hld h a amt => Sys2Proof.Machine.execHld h a amt s
  | .hst h a amt => Sys2Proof.Machine.execHst h a amt s
  | .hget d h f => Sys2Proof.Machine.execHget d h f s
  | .hset h a f => Sys2Proof.Machine.execHset h a f s
  | .hchk d h => Sys2Proof.Machine.execHchk d h s
  | .lrreg d a => Sys2Proof.Machine.execLrreg d a s
  | .lrfree a => Sys2Proof.Machine.execLrfree a s
  | .lrkey d a => Sys2Proof.Machine.execLrkey d a s
  | .scx d a amt => Sys2Proof.Machine.execScx d a amt s
  | .scl d amt cmd => Sys2Proof.Machine.execScl d amt cmd s
  | .scwait a => Sys2Proof.Machine.execScwait a s
  | .glaunch d a amt => Sys2Proof.Machine.execGlaunch d a amt s
  | .gwait d amt => Sys2Proof.Machine.execGwait d amt s
  | .gstat d amt => Sys2Proof.Machine.execGstat d amt s
  | .gmark amt => Sys2Proof.Machine.execGmark amt s
  | .gstop amt => Sys2Proof.Machine.execGstop amt s
  | .csrr d c => Sys2Proof.Machine.execCsrr d c s
  | .csrw a c => Sys2Proof.Machine.execCsrw a c s
  | .csrx d a c => Sys2Proof.Machine.execCsrx d a c s
  | .trap c => Sys2Proof.Machine.execTrap c s
  | .eret => Sys2Proof.Machine.execEret s
  | .halt => Sys2Proof.Machine.execHalt s
  | .brk c => Sys2Proof.Machine.execBrk c s
  | .tlbinv d a k => Sys2Proof.Machine.execTlbinv d a k s
  | .ctxsave a => Sys2Proof.Machine.execCtxsave a s
  | .ctxld a => Sys2Proof.Machine.execCtxld a s
  | .ligbind d a n => Sys2Proof.Machine.execLigbind d a n s
  | .vadd e => Sys2Proof.Machine.execVadd e s
  | .vsub e => Sys2Proof.Machine.execVsub e s
  | .vmul e => Sys2Proof.Machine.execVmul e s
  | .vfma e => Sys2Proof.Machine.execVfma e s
  | .vmin e => Sys2Proof.Machine.execVmin e s
  | .vmax e => Sys2Proof.Machine.execVmax e s
  | .vabs e => Sys2Proof.Machine.execVabs e s
  | .vneg e => Sys2Proof.Machine.execVneg e s
  | .vdiv e => Sys2Proof.Machine.execVdiv e s
  | .vsqrt e => Sys2Proof.Machine.execVsqrt e s
  | .vrcpe e => Sys2Proof.Machine.execVrcpe e s
  | .vrsqe e => Sys2Proof.Machine.execVrsqe e s
  | .vexp2 e => Sys2Proof.Machine.execVexp2 e s
  | .vlog2 e => Sys2Proof.Machine.execVlog2 e s
  | .vtanh e => Sys2Proof.Machine.execVtanh e s
  | .vsigm e => Sys2Proof.Machine.execVsigm e s
  | .viadd e => Sys2Proof.Machine.execViadd e s
  | .visub e => Sys2Proof.Machine.execVisub e s
  | .vimul e => Sys2Proof.Machine.execVimul e s
  | .vimulh e => Sys2Proof.Machine.execVimulh e s
  | .vshl e => Sys2Proof.Machine.execVshl e s
  | .vshr e => Sys2Proof.Machine.execVshr e s
  | .vsar e => Sys2Proof.Machine.execVsar e s
  | .vand e => Sys2Proof.Machine.execVand e s
  | .vor e => Sys2Proof.Machine.execVor e s
  | .vxor e => Sys2Proof.Machine.execVxor e s
  | .vnot e => Sys2Proof.Machine.execVnot e s
  | .vabsd e => Sys2Proof.Machine.execVabsd e s
  | .vcmp e => Sys2Proof.Machine.execVcmp e s
  | .vsel e => Sys2Proof.Machine.execVsel e s
  | .vclamp e => Sys2Proof.Machine.execVclamp e s
  | .vcvt e => Sys2Proof.Machine.execVcvt e s
  | .vresc e => Sys2Proof.Machine.execVresc e s
  | .vqnt e => Sys2Proof.Machine.execVqnt e s
  | .vhdr e => Sys2Proof.Machine.execVhdr e s
  | .vperm e => Sys2Proof.Machine.execVperm e s
  | .vrot e => Sys2Proof.Machine.execVrot e s
  | .vbcast e => Sys2Proof.Machine.execVbcast e s
  | .vpack e => Sys2Proof.Machine.execVpack e s
  | .vunpk e => Sys2Proof.Machine.execVunpk e s
  | .vpass e => Sys2Proof.Machine.execVpass e s
  | .vbuf e => Sys2Proof.Machine.execVbuf e s
  | .vcnt e => Sys2Proof.Machine.execVcnt e s
  | .vconst e => Sys2Proof.Machine.execVconst e s
  | .vrep e => Sys2Proof.Machine.execVrep e s
  | .vxtr e => Sys2Proof.Machine.execVxtr e s
  | .vmerge e => Sys2Proof.Machine.execVmerge e s
  | .vsplit e => Sys2Proof.Machine.execVsplit e s
  | .vtake e => Sys2Proof.Machine.execVtake e s
  | .vstate e => Sys2Proof.Machine.execVstate e s
  | .vred e => Sys2Proof.Machine.execVred e s
  | .vscan e => Sys2Proof.Machine.execVscan e s
  | .vacc e => Sys2Proof.Machine.execVacc e s
  | .vlrec e => Sys2Proof.Machine.execVlrec e s
  | .vchunk e => Sys2Proof.Machine.execVchunk e s
  | .vseg e => Sys2Proof.Machine.execVseg e s
  | .mma e => Sys2Proof.Machine.execMma e s
  | .mmag e => Sys2Proof.Machine.execMmag e s
  | .mlatb e => Sys2Proof.Machine.execMlatb e s
  | .mout e => Sys2Proof.Machine.execMout e s
  | .mzero e => Sys2Proof.Machine.execMzero e s
  | .mouter e => Sys2Proof.Machine.execMouter e s
  | .mtrn e => Sys2Proof.Machine.execMtrn e s
  | .mdot e => Sys2Proof.Machine.execMdot e s
  | .agld e => Sys2Proof.Machine.execAgld e s
  | .agst e => Sys2Proof.Machine.execAgst e s
  | .aggat e => Sys2Proof.Machine.execAggat e s
  | .agsct e => Sys2Proof.Machine.execAgsct e s
  | .agred e => Sys2Proof.Machine.execAgred e s
  | .agspad e => Sys2Proof.Machine.execAgspad e s
  | .ligature e => Sys2Proof.Machine.execLigature e s
  | .steer r => Sys2Proof.Machine.execSteer r s
  | .merge r => Sys2Proof.Machine.execMerge r s
  | .carry r => Sys2Proof.Machine.execCarry r s
  | .join r => Sys2Proof.Machine.execJoin r s
  | .fork r => Sys2Proof.Machine.execFork r s
  | .ordj r => Sys2Proof.Machine.execOrdj r s
  | .ordjIdleStamp l seg => Sys2Proof.Machine.execOrdjIdleStamp l seg s
  | .routerConversion k => Sys2Proof.Machine.execRouterConversion k s
  | .alignedTag e => Sys2Proof.Machine.execAlignedTag e s
  | .errToken e => Sys2Proof.Machine.execErrToken e s
  | .formeSwitch e => Sys2Proof.Machine.execFormeSwitch e s
  | .stateRestore e => Sys2Proof.Machine.execStateRestore e s
  | .shadowStage l stripe => Sys2Proof.Machine.execShadowStage l stripe s
  | .formeFetch l forme => Sys2Proof.Machine.execFormeFetch l forme s
  | .sweepBlockEnd p => Sys2Proof.Machine.execSweepBlockEnd p s
  | .seqChildImpose l node => Sys2Proof.Machine.execSeqChildImpose l node s
  | .launchEnd l => Sys2Proof.Machine.execLaunchEnd l s
  | .contextCounterAdvance ring => Sys2Proof.Machine.execContextCounterAdvance ring s
  | .bankReselect ring stripe => Sys2Proof.Machine.execBankReselect ring stripe s
  | .scTokenVisit dom => Sys2Proof.Machine.execScTokenVisit dom s
  | .xqSourceEmit l xq => Sys2Proof.Machine.execXqSourceEmit l xq s
  | .scLoad p => Sys2Proof.Machine.execScLoad p s
  | .scStore p => Sys2Proof.Machine.execScStore p s
  | .scGather p => Sys2Proof.Machine.execScGather p s
  | .scScatter p => Sys2Proof.Machine.execScScatter p s
  | .scCopy p => Sys2Proof.Machine.execScCopy p s
  | .scSpad p => Sys2Proof.Machine.execScSpad p s
  | .scOverflow p => Sys2Proof.Machine.execScOverflow p s
  | .scPeer p => Sys2Proof.Machine.execScPeer p s
  | .scReduce p => Sys2Proof.Machine.execScReduce p s
  | .scFill p => Sys2Proof.Machine.execScFill p s
  | .scStage p => Sys2Proof.Machine.execScStage p s
  | .scFence p => Sys2Proof.Machine.execScFence p s
  | .scMark p => Sys2Proof.Machine.execScMark p s
  | .scClose p => Sys2Proof.Machine.execScClose p s
  | .scWaitev p => Sys2Proof.Machine.execScWaitev p s
  | .scSigev p => Sys2Proof.Machine.execScSigev p s
  | .commandComplete ring slot ticket => Sys2Proof.Machine.execCommandComplete ring slot ticket s
  | .portAccess p => Sys2Proof.Machine.execPortAccess p s
  | .walk die asid va kind => Sys2Proof.Machine.execWalk die asid va kind s
  | .xfqPost die => Sys2Proof.Machine.execXfqPost die s
  | .xfrespRetry die fid => Sys2Proof.Machine.execXfrespRetry die fid s
  | .xfrespDecline die fid => Sys2Proof.Machine.execXfrespDecline die fid s
  | .traverseRequest die value => Sys2Proof.Machine.execTraverseRequest die value s
  | .moveStart pg => Sys2Proof.Machine.execMoveStart pg s
  | .moveOpened pg => Sys2Proof.Machine.execMoveOpened pg s
  | .copyStep pg => Sys2Proof.Machine.execCopyStep pg s
  | .moveCommit pg => Sys2Proof.Machine.execMoveCommit pg s
  | .moveRelease pg => Sys2Proof.Machine.execMoveRelease pg s
  | .moveAbort pg => Sys2Proof.Machine.execMoveAbort pg s
  | .movemaxExpiry pg => Sys2Proof.Machine.execMovemaxExpiry pg s
  | .starveExpiry pg => Sys2Proof.Machine.execStarveExpiry pg s
  | .agingPeriod die => Sys2Proof.Machine.execAgingPeriod die s
  | .budgetPeriod => Sys2Proof.Machine.execBudgetPeriod s
  | .rateWindow p => Sys2Proof.Machine.execRateWindow p s
  | .jobEnqueue func q off bytes full => Sys2Proof.Machine.execJobEnqueue func q off bytes full s
  | .cancel func q => Sys2Proof.Machine.execCancel func q s
  | .jobCheck q => Sys2Proof.Machine.execJobCheck q s
  | .kernelLoad q => Sys2Proof.Machine.execKernelLoad q s
  | .stagingBegin j => Sys2Proof.Machine.execStagingBegin j s
  | .stagingTimeout j => Sys2Proof.Machine.execStagingTimeout j s
  | .dispatchDecision => Sys2Proof.Machine.execDispatchDecision s
  | .nextJobPrefetch ring => Sys2Proof.Machine.execNextJobPrefetch ring s
  | .jobComplete j => Sys2Proof.Machine.execJobComplete j s
  | .retire q => Sys2Proof.Machine.execRetire q s
  | .deadlock j => Sys2Proof.Machine.execDeadlock j s
  | .watchdog j => Sys2Proof.Machine.execWatchdog j s
  | .preemption j => Sys2Proof.Machine.execPreemption j s
  | .save j => Sys2Proof.Machine.execSave j s
  | .saveTimeout j => Sys2Proof.Machine.execSaveTimeout j s
  | .marker l => Sys2Proof.Machine.execMarker l s
  | .finalMarker l => Sys2Proof.Machine.execFinalMarker l s
  | .cutComplete l => Sys2Proof.Machine.execCutComplete l s
  | .writeHoldFull l => Sys2Proof.Machine.execWriteHoldFull l s
  | .correctableError st => Sys2Proof.Machine.execCorrectableError st s
  | .softError st => Sys2Proof.Machine.execSoftError st s
  | .rollback l => Sys2Proof.Machine.execRollback l s
  | .containment j => Sys2Proof.Machine.execContainment j s
  | .warmReset => Sys2Proof.Machine.execWarmReset s
  | .dieLoss die => Sys2Proof.Machine.execDieLoss die s
  | .coldReset verified => Sys2Proof.Machine.execColdReset verified s
  | .fullService => Sys2Proof.Machine.execFullService s
  | .hostCxlMemAccess pa wdata => Sys2Proof.Machine.execHostCxlMemAccess pa wdata s
  | .cxlSurpriseRemoval port => Sys2Proof.Machine.execCxlSurpriseRemoval port s
  | .peerOpen link chan grant dir => Sys2Proof.Machine.execPeerOpen link chan grant dir s
  | .flitReceive link flit => Sys2Proof.Machine.execFlitReceive link flit s
  | .linkLost link => Sys2Proof.Machine.execLinkLost link s
  | .linkRetrain link => Sys2Proof.Machine.execLinkRetrain link s
  | .checkpoint value => Sys2Proof.Machine.execCheckpoint value s
  | .checkpointQuiesce => Sys2Proof.Machine.execCheckpointQuiesce s
  | .checkpointBlockCopy => Sys2Proof.Machine.execCheckpointBlockCopy s
  | .checkpointFlush ok => Sys2Proof.Machine.execCheckpointFlush ok s
  | .checkpointRestore => Sys2Proof.Machine.execCheckpointRestore s
  | .keyLoad session kslot wrapped => Sys2Proof.Machine.execKeyLoad session kslot wrapped s
  | .keyBind asid handle kslot => Sys2Proof.Machine.execKeyBind asid handle kslot s
  | .keyUnbind asid handle => Sys2Proof.Machine.execKeyUnbind asid handle s
  | .keyExchange session secret => Sys2Proof.Machine.execKeyExchange session secret s
  | .getMeasurements index => Sys2Proof.Machine.execGetMeasurements index s
  | .profileSample ring slot => Sys2Proof.Machine.execProfileSample ring slot s
  | .thermalStepDown => Sys2Proof.Machine.execThermalStepDown s
  | .thermalTrip => Sys2Proof.Machine.execThermalTrip s
  | .registerWrite dst value => Sys2Proof.Machine.execRegisterWrite dst value s
  | .lossOfPower => Sys2Proof.Machine.execLossOfPower s
  | .cxlLinkTraining port flit256 => Sys2Proof.Machine.execCxlLinkTraining port flit256 s
  | .debugAgentClaim asid claim => Sys2Proof.Machine.execDebugAgentClaim asid claim s
  | .debugAgentResume ring slot pc => Sys2Proof.Machine.execDebugAgentResume ring slot pc s
  | .managementPathLigatureBind asid n addr => Sys2Proof.Machine.execManagementPathLigatureBind asid n addr s

end Sys2Proof.Machine
end

