-- ==== Sys2Proof/Machine/Schedule.lean ====
section
/-! DEFINITION. The order in which the machine acts of itself when no turn is prescribed (log 5): in each fc, one
thread of each core (06 R145), then the fabric, the ports, the dispatcher and the services, each step being tried once. What
comes from outside (posts and register writes, key and debug requests, faults, resets, link events) happens only
in prescribed turns. -/

namespace Sys2Proof.Machine

/-- Time passes, and the tokens that stand at the external ends of the links of running launches move on. -/
def State.tick (s : State) (n : Nat) : State :=
  let s1 := s.pass n
  (tkeys s1.fab.launches).foldl (fun (a : State) lk => if a.lkActive lk then a.settle lk else a) s1

/-- A step of the machine. -/
abbrev Move1 := State → Out

/-- What the elements of a launch may do. -/
def State.elemMoves (s : State) (lk : Nat) (l : Launch) : List Move1 :=
  (List.range l.win.length).flatMap fun j => (List.range 16).flatMap fun c =>
    let e : ElemId := { launch := launchOf lk, stripe := j, col := Fin.ofNat 16 c }
    match s.site e with
    | some x => [execStateRestore e, execErrToken e, execAlignedTag e, execFormeSwitch e, execOp x.cfg.op e]
    | none => []

/-- What the routers and the typed links of a launch may do. -/
def Launch.routeMoves (lk : Nat) (l : Launch) : List Move1 :=
  ((tkeys l.formes).flatMap fun k => (List.range 8).flatMap fun r =>
    let x : RouterId := { launch := launchOf lk, forme := k, rtr := Fin.ofNat 8 r }
    match l.img k with
    | some img => match rCode (fRtr img r) with
      | 0 => []
      | _ => [execSteer x, execMerge x, execCarry x, execJoin x, execFork x, execOrdj x]
    | none => [])
  ++ ((l.links.filter fun (_, _, w) => w.typed).map fun (k, i, _) =>
    execRouterConversion { launch := launchOf lk, forme := k, link := i })

/-- The start of a command of code `n` at a port. -/
def startOf (n : Nat) (p : PortId) (s : State) : Out :=
  match n with
  | 1 => execScLoad p s
  | 2 => execScStore p s
  | 3 => execScGather p s
  | 4 => execScScatter p s
  | 5 => execScCopy p s
  | 6 => execScSpad p s
  | 7 => execScOverflow p s
  | 8 => execScPeer p s
  | 9 => execScReduce p s
  | 10 => execScFill p s
  | 11 => execScStage p s
  | 12 => execScFence p s
  | 13 => execScMark p s
  | 14 => execScClose p s
  | 15 => execScWaitev p s
  | 16 => execScSigev p s
  | _ => .next s

/-- What the ports of a launch may do, through the launch slots of every thread of its job. -/
def State.portMoves (s : State) (lk : Nat) (l : Launch) : List Move1 :=
  match s.job l.job with
  | none => []
  | some j =>
    j.threads.flatMap fun k =>
      let id := slotOf k (lk % 4)
      match s.live id with
      | some (lk', n, l') =>
        if lk' != lk then []
        else
          (List.range 256).flatMap fun q =>
            let p := s.port (s.portKey lk' l' n q)
            let pid : PortId := { launch := id, port := q }
            if p = ({} : PortSt) then []
            else
              (match p.q with
                | c :: _ => [startOf c.scop pid]
                | [] => []) ++ [execRateWindow pid, execPortAccess pid, execSweepBlockEnd pid]
      | none => []

/-- What the sources at exchange queues, the imposer and the launch itself may do. -/
def State.launchMoves (s : State) (lk : Nat) (l : Launch) : List Move1 :=
  let id := launchOf lk
  let threads := match s.job l.job with
    | some j => j.threads
    | none => [lkThread lk]
  (((List.range l.nformes).filter fun k => (l.img k).isNone) ++ s.dueFormes lk l).map (fun k => execFormeFetch id k)
  ++ (List.range l.win.length).map (fun j => execShadowStage id j)
  ++ threads.flatMap (fun k => (List.range 4).map fun q => execXqSourceEmit (slotOf k (lk % 4)) (Fin.ofNat 4 q))
  ++ (List.range l.nodes.length).map (fun i => execSeqChildImpose id i)
  ++ (List.range 16).map (fun g => execOrdjIdleStamp id (Fin.ofNat 16 g))
  ++ [execMarker id, execFinalMarker id, execCutComplete id, execWriteHoldFull id, execRollback id]

/-- What the fabric may do. -/
def State.fabricMoves (s : State) : List Move1 :=
  (s.fab.launches.flatMap fun (lk, l) => match l with
    | some l =>
      if l.ended then []
      else s.launchMoves lk l ++ Launch.routeMoves lk l ++ s.elemMoves lk l ++ s.portMoves lk l
    | none => [])
  ++ (s.fab.outstanding.flatMap fun (k, ts) =>
    ts.map fun t => execCommandComplete (Fin.ofNat 16 (k / 4)) (Fin.ofNat 4 k) t)
  ++ (if s.fab.launches.isEmpty then []
    else execScTokenVisit none :: (List.range 16).map fun g => execScTokenVisit (some (Fin.ofNat 16 g)))
  ++ ((tkeys s.fab.launches).map fun lk => execLaunchEnd (launchOf lk))

/-- What the dispatcher may do. -/
def State.dispatchMoves (s : State) : List Move1 :=
  (tkeys s.dp.queues).flatMap (fun q => [execJobCheck q, execKernelLoad q])
  ++ [execDispatchDecision]
  ++ s.jobIds.flatMap (fun j =>
    [execStagingBegin j, execStagingTimeout j, execDeadlock j, execWatchdog j, execContainment j, execSave j,
     execSaveTimeout j, execJobComplete j])
  ++ (tkeys s.dp.queues).map (fun q => execRetire q)

/-- What the services of memory, the rings and the boundary may do. -/
def State.serviceMoves (s : State) : List Move1 :=
  let dies := (List.range 4).map fun d => Fin.ofNat 4 d
  let pages := (s.ms.moves.map fun m => ({ asid := BitVec.ofNat 16 m.asid, va := BitVec.ofNat 64 m.va } : PageId))
    ++ (dies.flatMap fun d => (s.ms.die d.val).reqs.map fun r =>
      ({ asid := BitVec.ofNat 16 r.asid, va := BitVec.ofNat 64 r.va } : PageId))
  let rings := (s.jobIds.flatMap fun id => match s.job id with
    | some j => j.segs.map fun g => g.ring
    | none => []).eraseDups
  dies.flatMap (fun d => [execXfqPost d, execAgingPeriod d])
  ++ pages.flatMap (fun p =>
    [execMoveStart p, execMoveOpened p, execCopyStep p, execMoveCommit p, execMoveRelease p, execMoveAbort p,
     execMovemaxExpiry p, execStarveExpiry p])
  ++ (List.range 16).map (fun g => execContextCounterAdvance (Fin.ofNat 16 g))
  ++ rings.flatMap (fun g => (List.range 24).map fun i => execBankReselect (Fin.ofNat 16 g) (Fin.ofNat 24 i))
  ++ ((tkeys s.threads).filter fun k => (s.thread k).profile.getLsbD 0).map (fun k =>
    execProfileSample (Fin.ofNat 16 (k / 4)) (Fin.ofNat 4 k))
  ++ [execBudgetPeriod, execCheckpointQuiesce, execCheckpointBlockCopy] ++ (if s.bd.trained then [execFullService] else [])
  ++ (List.range 16).map (fun i => execLinkLost (Fin.ofNat 16 i))

/-- What the machine may do of itself behind its threads. -/
def State.moves (s : State) : List Move1 := s.fabricMoves ++ s.dispatchMoves ++ s.serviceMoves

end Sys2Proof.Machine
end

