-- ==== Sys2Proof/Machine/Step.lean ====
section
/-! DEFINITION. One step of the machine: the next turn, which is an instruction of a thread or another
step of the part (log 5). -/

namespace Sys2Proof.Machine

/-- The thread `k` fetches its next instruction and executes it (06 R145, R153), as far as the arbiters let its accesses
through (04 R116). -/
def issue (s : State) (k : Nat) : Host.Outcome State Fault Refusal :=
  let s0 := { s with cur := k }
  if s0.ready k then
    s0.gate k s0.wanted (s0.fetchInstr.andThen fun s1 ws =>
      match decodeFetched ws with
      | .ok i => exec i s1
      | .error t => trapOut s1 t)
  else .next s0

/-- Whether an issue of thread `k` would leave the machine as it is, but for what fetching the instruction again is
charged: the thread waits at its instruction (R145). -/
def State.waits (s : State) (k : Nat) : Bool :=
  match issue s k with
  | .next t => ({ t with charges := [] } : State) == { s with cur := k, charges := [] }
  | _ => false

/-- Whether a core has issued an instruction in this fc. -/
def State.coreDone (s : State) (g : Nat) : Bool := (s.ringSt g).issued == some s.clk.fc

/-- The thread of a ring whose turn it is, where its core has not issued in this fc: from the slot of the round robin on,
the first that is ready (R145). -/
def State.coreThread (s : State) (g : Nat) : Option Nat :=
  if s.coreDone g then none else ((List.range 4).map fun i => 4 * g + ((s.ringSt g).next + i) % 4).find? fun k => s.ready k && !s.waits k

/-- The next thread that issues in this fc: each core issues at most one instruction (R145). -/
def State.roundThread (s : State) : Option Nat :=
  ((List.range (16 - s.turn)).map fun i => s.turn + i).findSome? s.coreThread

/-- The core of a thread issues in this fc, and its next slot comes first (R145). -/
def State.issues (s : State) (k : Nat) : State :=
  s.modRing (k / 4) fun r => { r with next := (k + 1) % 4, issued := some s.clk.fc }

/-- The machine with the round past a thread: its core has issued, and the thread's job is not quiescent (14 R392). -/
def State.pastThread (s : State) (k : Nat) : State := (({ s with turn := k / 4 + 1 } : State).issues k).stirThread k

/-- The machine as a thread issues in a prescribed turn: where its core has issued in this fc the next fc begins first
(R145); the job of a thread that does not wait is not quiescent (14 R392). -/
def State.stirs (s : State) (k : Nat) : State :=
  let s1 := (if s.coreDone (k / 4) then s.tick 1 else s).issues k
  if (s1.thread k).job.isNone || s1.waits k then s1 else s1.stirThread k

/-- One step: the turn at the head of the schedule; without one, the next of what the machine does of itself
in this fc, and behind the last of these the next fc begins (log 5). -/
def step (s : State) : Host.Outcome State Fault Refusal :=
  match s.sched with
  | t :: rest =>
    let s0 := { s with sched := rest }.tick t.dt
    match t.act with
    | .issue g b => issue (s0.stirs (4 * g.val + b.val)) (4 * g.val + b.val)
    | .event i => if isEvent i then exec i s0 else .next s0
  | [] =>
    match s.roundThread with
    | some k => issue (s.pastThread k) k
    | none =>
      let i := s.turn - 16
      match s.moves[i]? with
      | some f => f { s with turn := 17 + i }
      | none => .next ({ s with turn := 0 }.tick 1)

/-- Where `withFetchWord` lays the page tables and the code (log 9): a first-level table, a second-level
table, and a page of 256 MiB at its own address. -/
def placeRoot : Nat := 0x20000
/-- The second-level table. -/
def placeTable : Nat := 0x40000
/-- The code, at the same virtual and physical address. -/
def placeCode : Nat := 0x10000000

/-- The state with an instruction where the next step fetches it: thread 0 of ring 0 runs without a job in
ASID 0, a page that allows reads, writes and fetch holds the code, and the first turn is that thread's. -/
def State.withFetchWord (s : State) (nbits w : Nat) : State :=
  let ms := s.ms
  let m0 := writeMem ms.mem placeRoot (bytesLE 8 (1 + placeTable))
  let m1 := writeMem m0 (placeTable + 8) (bytesLE 8 (placeCode + 2 ^ 52 + 0xBF))
  let m2 := writeMem m1 placeCode (bytesLE 20 (w % 2 ^ nbits))
  let ms1 := { ms with
    mem := m2, roots := tset 0 ms.roots 0 (1 + BitVec.ofNat 64 placeRoot)
    rootNow := tset 0 ms.rootNow 0 (1 + BitVec.ofNat 64 placeRoot), tlb := [], ue := [], moves := [] }
  let th := { s.thread 0 with pc := BitVec.ofNat 56 placeCode, run := .running, wait := none, job := none }
  { s with ms := ms1, sched := [{ dt := 1, act := .issue 0 0 }] }.setThread 0 th

end Sys2Proof.Machine
end

