-- ==== Sys2Proof/Safety.lean ====
section
/-! DEFINITION. What counts as a safe run: the machine goes on, its memory keeps its form, x0 holds zero and the
program counters stay aligned. -/

namespace Sys2Proof.Machine

/-- The canonical form of memory: addresses strictly rising, no byte listed at the value an unlisted byte
reads as. -/
def Memory.wf (m : Tab Byte) : Bool := twf 0 m

/-- A step goes on. -/
def goesOn (o : Out) : Bool :=
  match o with
  | .next _ => true
  | .fault _ => false
  | .refused _ => false

/-- A thread without NOTE and the thresholds of QNOTE, which the fabric also changes (07 R186). -/
def Thread.regs (th : Thread) : Thread := { th with note := 0, qarm := Vector.replicate 8 0 }

/-- The pc, TRAP_PC and TRAP_BASE of a thread have zero in bits [1:0] (06 R144, 07 R197), and the place of x0 holds
zero. -/
def Thread.wf (th : Thread) : Bool :=
  th.pc.toNat % 4 == 0 && th.trapPc.toNat % 4 == 0 && th.trapBase.toNat % 4 == 0
  && th.x[0] == 0

/-- The invariant: memory is in its canonical form, and every thread is as `Thread.wf` says. -/
def Inv (s : State) : Prop := Memory.wf s.ms.mem = true ∧ ∀ k, (s.thread k).wf = true

end Sys2Proof.Machine
end

