-- ==== Sys2Proof/Certificates/Slice0/Obligations.lean ====
section
/-! DEFINITION. The statements for the provers. `Claims` holds what they share; each obligation is one proposition.
A statement about an instruction's result has as its conclusion the next state that the instruction answers; the
frames are stated beside it. -/

namespace Sys2Proof.Claims

open Sys2Proof Sys2Proof.Machine

/-- A general register of the issuing thread. -/
abbrev reg (s : State) (r : BitVec 5) : W64 := s.me.get r

/-- The machine after an instruction that gives its thread the value `v` in x[d] and goes on at the next word. -/
def wrote (s : State) (d : BitVec 5) (v : W64) : State := s.setMe (s.me.put d v).adv

/-- The machine after an instruction that only goes on at the next word. -/
def passed (s : State) : State := s.setMe s.me.adv

/-- 1 or 0. -/
def bit (p : Prop) [Decidable p] : W64 := if p then 1 else 0

/-- A trap of the issuing thread with a cause, a detail and information. -/
def trapped (s : State) (c : Cause) (detail : Nat) (info va : W64) : State :=
  s.trap { cause := c, detail := detail, info := info, va := va }

/-- ILLEGAL with the instruction's word (07 R199). -/
def illegalAt (s : State) (i : Instr) : State := trapped s .illegal 0 (trapWord i) 0

/-- Everything in the machine but the issuing thread. -/
def SameOutside (s t : State) : Prop := t = s.setMe t.me

/-- An access of `n` bytes at `va` in memory that no rule of 07 R178 stops: aligned, in range, outside the device
window, translated to `pa` (the machine then is `s1`), matched by no watchpoint. -/
def Reaches (s : State) (va : W64) (n : Nat) (k : AccessKind) (setD rd wr : Bool) (s1 : State) (pa : Nat) : Prop :=
  va.toNat % n = 0 ∧ highVa va = false ∧ inDevice va = false ∧ s.translateMe va k setD = .ok s1 pa
  ∧ s.watchMe va.toNat n rd wr = none

/-- The value of the `n` bytes at a physical address, least significant byte first. -/
def valueAt (s : State) (pa n : Nat) : Nat := ofBytesLE (readMem s.ms.mem pa n)

/-- The machine with bytes stored at a physical address. -/
def stored (s : State) (pa : Nat) (bs : List Byte) : State := { s with ms := s.ms.writeData pa bs }

/-- The physical address at which a move in progress keeps the copy of a byte at `pa`, when the copy of its 4 KiB
sub-block has been made (12 R350). -/
def copyOf (ms : MemSys) (pa : Nat) : Option Nat :=
  match ms.moves.find? fun m => (m.phase == .copying || m.phase == .committing) && m.src ≤ pa && pa < m.src + 2 ^ m.size with
  | some m => if (pa - m.src) / 4096 < m.frontier then some (m.dst + (pa - m.src)) else none
  | none => none

/-- The byte of a running checkpoint's image that holds the byte at `pa`, when it lies below the frontier
(17 R421). -/
def imageOf (ms : MemSys) (pa : Nat) : Option Nat :=
  match ms.mirror, ckptPos pa with
  | some r, some o => if o < r.frontier then some (r.pa o) else none
  | _, _ => none

/-- Whether the byte at `a` is one of those that a store of `n` bytes at `pa` writes: the bytes named, in the frame
where a move that has committed has put them (12 R351), the copy that a move under way keeps of them, and the image of a
checkpoint. -/
def StoredAt (ms : MemSys) (pa n a : Nat) : Prop :=
  ∃ i, i < n ∧ (a = ms.nowPa pa + i ∨ imageOf ms (ms.nowPa pa + i) = some a
    ∨ ∃ b, copyOf ms pa = some b ∧ (a = b + i ∨ imageOf ms (b + i) = some a))

/-- The value of a signed integer in 64 bits. -/
def ofSigned (v : Int) : W64 := BitVec.ofInt 64 v

/-- The end of the range on the dividend's side; 0 for 0 (06 R163). -/
def divByZero (u : W64) : W64 :=
  if u.toInt = 0 then 0 else if 0 < u.toInt then ofSigned (2 ^ 63 - 1) else ofSigned (-2 ^ 63)

/-- What a fetch makes of a word whose function field is `n`: the instruction listed for that value, and without one
the ILLEGAL trap with the word (06 R151). -/
def picked (is : List (Option Instr)) (n : Nat) (w : W32) : Except TrapReq Instr :=
  match is[n]? with
  | some (some i) => .ok i
  | _ => .error { cause := .illegal, info := w.setWidth 64 }

end Sys2Proof.Claims

open Sys2Proof Sys2Proof.Machine Sys2Proof.Claims

/-! ### Encodings -/

/-- Words written out from the encodings of 06 R149-R173, 03 R81 and 07 decode to their instructions. -/
def Obligations.WordsDecode : Prop :=
  decodeWords [0x00000000] = .ok (.ill, [])
  ∧ decodeWords [0x40C00005] = .ok (.beq 6 0 5, [])
  ∧ decodeWords [0x09A53007] = .ok (.remu 13 5 6, [])
  ∧ decodeWords [0x40C03FFD] = .ok (.bne 6 0 0x1FFD, [])
  ∧ decodeWords [0x4C010000] = .ok (.jr 1, [])
  ∧ decodeWords [0x1042FFE0] = .ok (.addi 2 2 0xFFE0, [])
  ∧ decodeWords [0x4BFFFFF4] = .ok (.call 0x3FFFFF4, [])
  ∧ decodeWords [0x0DC57845] = .ok (.extz 14 5 15 0 8, [])
  ∧ decodeWords [0x50230002] = .ok (.callt 1 3 2, [])
  ∧ decodeWords [0x2CA00012] = .ok (.addpc 5 0x12, [])
  ∧ decodeWords [0xC0A6030A] = .ok (.ligbind 5 6 3, [])
  ∧ decodeWords [0xA1AE0000] = .ok (.scx 13 7 0, [])
  ∧ decodeWords [0xC0000002] = .ok (.halt, [])

/-- Decoding the words of an instruction gives it back with every operand at every value, and leaves the words that
follow (06 R149, R150, 07 R192). -/
def Obligations.DecodeEncode : Prop :=
  ∀ (i : Instr) (ws rest : List W32), encode i = some ws → decodeWords (ws ++ rest) = .ok (i, rest)

/-- What decodes has one meaning: the words read are the encoding of the instruction (06 R149-R151). -/
def Obligations.DecodedIsEncoded : Prop :=
  ∀ (ws rest : List W32) (i : Instr), decodeWords ws = .ok (i, rest) →
    ∃ us, encode i = some us ∧ ws = us ++ rest

/-- The check of an instruction's encoding comes first: an unassigned sub-field value traps ILLEGAL with the
instruction's word in every state, and the all-zero word always does (06 R151, 07 R174). -/
def Obligations.EncodingCheckedFirst : Prop :=
  ∀ (i : Instr) (s : State), (encodeWord i).isSome = true → encodingOk i = false ∨ i = .ill →
    exec i s = .next (illegalAt s i)

/-! ### The step -/

/-- What an issue of thread `k` at `s` answers when its instruction answers `t`: `t` where the arbiters let its accesses
through, and else the thread waits at the instruction, its request in their line (04 R116; log 125). -/
def Sys2Proof.Claims.issued (s : State) (k : Nat) (t : State) : State :=
  if s.admits (.thread k) s.wanted (s.chargedBy t) then t.served (.thread k) else s.waitsFor (.thread k) (s.chargedBy t)

/-- When the word at the issuing thread's pc decodes to an instruction, a step whose turn is that thread's is `exec`
of it: the time of the turn passes, the job of a thread that executes is not quiescent (14 R392), the word is read
through the translation of its address, and nothing else comes between but the arbiters that its accesses meet (04 R116):
where they let them through, or where nothing is charged, the thread executes. -/
def Obligations.StepRunsDecoded : Prop :=
  ∀ (s s1 : State) (g : Fin 16) (b : Fin 4) (dt pa : Nat) (rest : List Turn) (i : Instr),
    let k := 4 * g.val + b.val
    let s0 : State := { (({ s with sched := rest } : State).tick dt).stirs k with cur := k }
    let w := BitVec.ofNat 32 (valueAt s1 pa 4)
    s.sched = { dt := dt, act := .issue g b } :: rest → s0.ready s0.cur = true →
    s0.fetchable s0.me.pc64 = .ok s1 pa → s1.ms.rangeBad pa 4 = false →
    isScl w = false → decodeWords [w] = .ok (i, []) →
    (∀ t, exec i s1 = .next t → step s = .next (issued s0 k t)
      ∧ (s0.admits (.thread k) s0.wanted (s0.chargedBy t) = true → step s = .next (t.served (.thread k))))
    ∧ ∃ t, exec i s1 = .next t

/-- The same for SCL, whose four inline words follow it (07 R192), and for a step that no turn prescribes: the next
thread of the round issues, which is ready and waits for nothing, and its core issues no more in this fc (06 R145). -/
def Sys2Proof.Claims.StepRunsFetched : Prop :=
  (∀ (s s1 : State) (g : Fin 16) (b : Fin 4) (dt : Nat) (rest : List Turn) (ws us : List W32) (i : Instr),
    let k := 4 * g.val + b.val
    let s0 : State := { (({ s with sched := rest } : State).tick dt).stirs k with cur := k }
    s.sched = { dt := dt, act := .issue g b } :: rest → s0.ready s0.cur = true →
    s0.fetchInstr = .ok s1 ws → decodeWords ws = .ok (i, us) → ∃ t, exec i s1 = .next t ∧ step s = .next (issued s0 k t))
  ∧ (∀ (s s1 : State) (k : Nat) (ws us : List W32) (i : Instr),
    let s0 : State := { s.pastThread k with cur := k }
    s.sched = [] → s.roundThread = some k → s0.ready k = true →
    s0.fetchInstr = .ok s1 ws → decodeWords ws = .ok (i, us) → ∃ t, exec i s1 = .next t ∧ step s = .next (issued s0 k t))
  ∧ (∀ (s : State) (k : Nat), s.roundThread = some k →
      k < 64 ∧ s.turn ≤ k / 4 ∧ s.ready k = true ∧ s.waits k = false ∧ (s.pastThread k).turn = k / 4 + 1)

/-- A turn that is a step of the part runs it once its time has passed; a scalar instruction is executed by the issue
of a thread alone. -/
def Sys2Proof.Claims.StepRunsEvent : Prop :=
  ∀ (s : State) (dt : Nat) (rest : List Turn) (i : Instr),
    s.sched = { dt := dt, act := .event i } :: rest →
    step s = if (encodeWord i).isNone then exec i (({ s with sched := rest } : State).tick dt)
      else .next (({ s with sched := rest } : State).tick dt)

/-- Every other turn: SCL with its inline words, the next thread of the round where no turn is prescribed, and a turn
that is a step of the part. -/
def Obligations.StepRunsTurn : Prop := Claims.StepRunsFetched ∧ Claims.StepRunsEvent

/-- The machine never stops: every step of every state answers a next state. -/
def Obligations.EveryStepGoesOn : Prop := ∀ s : State, ∃ t, step s = .next t

/-- What reset leaves. The specification gives the reset values of time, the flags and modes (06 R147, R148), QCTL (04
R97), DPOL (04 R110), TPOL (12 R356), DLCFG (14 R392) and SPQUOTA (11 R319). TRAP_BASE and the event counters at 0, key
slots not loaded, which hold 0, and memory that lists no byte and reads 0 are the model's choice (logs 1, 3); no thread
runs (log 2). -/
def Obligations.ResetValues : Prop :=
  State.reset.clk.fc = 0 ∧ State.reset.time = 0
  ∧ (∀ k, (State.reset.thread k).run = .idle ∧ (State.reset.thread k).fstat = 0 ∧ (State.reset.thread k).inTrap = false
      ∧ (State.reset.thread k).trapBase = 0)
  ∧ (∀ q, (State.reset.queue q).ctl = 0x03E8000006010000 ∧ (State.reset.queue q).jobs = [])
  ∧ (∀ g, (State.reset.ringSt g).spquota = 0x04040404)
  ∧ State.reset.dp.dpol = 0x04080064 ∧ State.reset.dp.dlcfg = 4096 ∧ State.reset.ms.tpol = 0x010AB7E85A024000
  ∧ (∀ e, State.reset.event e = 0) ∧ (∀ h, tget none State.reset.bd.keys h = none)
  ∧ (∀ a, State.reset.ms.byte a = 0)

/-- The threads that saved jobs hold are as the invariant says (14 R395). -/
def Sys2Proof.Claims.SavedWf (s : State) : Prop :=
  ∀ id j v, (id, j) ∈ s.jobs → j.saved = some v → ∀ th, th ∈ v.threads → th.wf = true

/-- The invariant holds at reset, for the threads and for those of saved jobs, of which there are none. -/
def Obligations.ResetInv : Prop := Inv State.reset ∧ Claims.SavedWf State.reset

/-- The events that write the registers of threads, or memory, of themselves keep the invariant: the resets, RESTORE and
the copy of a checkpoint, writes of registers through the management path and the queue pages, a debug agent that sends a
thread on, a host's write, a dispatch decision, which starts and resumes jobs, and a job's save, containment, completion
and retirement. -/
def Sys2Proof.Claims.EventsKeepInv : Prop :=
  ∀ (s t : State) (i : Instr) (b : Bool) (v : W64) (dst : RegDest) (ring : Fin 16) (slot : Fin 4) (pc : BitVec 56) (pa q : Nat)
    (bs : List Byte) (id : JobId), Inv s → SavedWf s →
    (i = .coldReset b ∨ i = .warmReset ∨ i = .lossOfPower ∨ i = .thermalTrip ∨ i = .checkpoint v ∨ i = .checkpointBlockCopy
      ∨ i = .checkpointRestore ∨ i = .registerWrite dst v ∨ i = .debugAgentResume ring slot pc
      ∨ i = .hostCxlMemAccess pa (some bs) ∨ i = .dispatchDecision ∨ i = .preemption id ∨ i = .save id ∨ i = .containment id
      ∨ i = .jobComplete id ∨ i = .retire q) →
    exec i s = .next t → Inv t ∧ Claims.SavedWf t

/-- Every step that issues an instruction keeps the invariant, whether a turn prescribes the thread or the round
reaches it, and so do the events that write registers or memory: memory stays in its canonical form, x0 stays zero, and the
pc, TRAP_PC and TRAP_BASE of every thread, and of the threads that saved jobs hold, stay aligned (06 R144, 07 R197). The
form of memory is the model's own. -/
def Obligations.IssueKeepsInv : Prop :=
  Claims.EventsKeepInv ∧
  (∀ (s t : State) (i : Instr), Inv s → (encodeWord i).isSome = true → exec i s = .next t → Inv t)
  ∧ (∀ (s t : State) (g : Fin 16) (b : Fin 4) (dt : Nat) (rest : List Turn),
      Inv s → s.sched = { dt := dt, act := .issue g b } :: rest → step s = .next t → Inv t)
  ∧ (∀ (s t : State), Inv s → s.sched = [] → s.roundThread.isSome = true → step s = .next t → Inv t)
  ∧ (∀ (s t : State) (i : Instr), Inv s → Claims.SavedWf s → (encodeWord i).isSome = true → exec i s = .next t →
      Claims.SavedWf t)

/-- No thread can write another thread's registers: an instruction of the issuing thread leaves every other thread as
it was, but for the notify register and its thresholds, which the queues and launches set (06 R144, 07 R186). -/
def Obligations.OtherThreadsKept : Prop :=
  ∀ (s t : State) (i : Instr) (k : Nat), (encodeWord i).isSome = true → exec i s = .next t → k ≠ s.cur →
    (t.thread k).regs = (s.thread k).regs

/-! ### General registers and arithmetic -/

/-- x0 reads as zero and discards what is written to it; another register reads what was written, and a write of one
leaves every other as it was (06 R144, R152). -/
def Sys2Proof.Claims.RegisterFile : Prop :=
  ∀ (th : Thread) (d r : BitVec 5) (v : W64),
    th.get 0 = 0 ∧ th.put 0 v = th ∧ (d ≠ 0 → (th.put d v).get d = v) ∧ (r ≠ d → (th.put d v).get r = th.get r)

/-- R162: the operations of the ALU; nothing else changes but the pc. A word of major 0x01 is the operation that fn
selects, and ILLEGAL for every other fn. -/
def Obligations.AluResults : Prop :=
  (∀ w : W32, w.toNat / 2 ^ 26 = 0x01 →
    let d := w.extractLsb' 21 5
    let a := w.extractLsb' 16 5
    let b := w.extractLsb' 11 5
    decodeFetched [w] = picked [some (.add d a b), some (.sub d a b), some (.and d a b), some (.or d a b),
      some (.xor d a b), some (.sll d a b), some (.srl d a b), some (.sra d a b), some (.slt d a b), some (.sltu d a b),
      some (.min d a b), some (.max d a b), some (.minu d a b), some (.maxu d a b)] (w.toNat % 2 ^ 11) w)
  ∧ ∀ (s : State) (d a b : BitVec 5),
    let u := reg s a
    let v := reg s b
    let sh := v.toNat % 64
    exec (.add d a b) s = .next (wrote s d (u + v))
    ∧ exec (.sub d a b) s = .next (wrote s d (u - v))
    ∧ exec (.and d a b) s = .next (wrote s d (u &&& v))
    ∧ exec (.or d a b) s = .next (wrote s d (u ||| v))
    ∧ exec (.xor d a b) s = .next (wrote s d (u ^^^ v))
    ∧ exec (.sll d a b) s = .next (wrote s d (u <<< sh))
    ∧ exec (.srl d a b) s = .next (wrote s d (u >>> sh))
    ∧ exec (.sra d a b) s = .next (wrote s d (ofSigned (u.toInt / 2 ^ sh)))
    ∧ exec (.slt d a b) s = .next (wrote s d (bit (u.toInt < v.toInt)))
    ∧ exec (.sltu d a b) s = .next (wrote s d (bit (u.toNat < v.toNat)))
    ∧ exec (.min d a b) s = .next (wrote s d (if u.toInt ≤ v.toInt then u else v))
    ∧ exec (.max d a b) s = .next (wrote s d (if v.toInt ≤ u.toInt then u else v))
    ∧ exec (.minu d a b) s = .next (wrote s d (if u.toNat ≤ v.toNat then u else v))
    ∧ exec (.maxu d a b) s = .next (wrote s d (if v.toNat ≤ u.toNat then u else v))

/-- R163: multiplication and division, with division by zero and the one signed overflow. A word of major 0x02 is the
operation that fn selects, and ILLEGAL for every other fn. -/
def Obligations.MulDivResults : Prop :=
  (∀ w : W32, w.toNat / 2 ^ 26 = 0x02 →
    let d := w.extractLsb' 21 5
    let a := w.extractLsb' 16 5
    let b := w.extractLsb' 11 5
    decodeFetched [w] = picked [some (.mul d a b), some (.mulh d a b), some (.mulhu d a b), none, some (.div d a b),
      some (.rem d a b), some (.divu d a b), some (.remu d a b)] (w.toNat % 2 ^ 11) w)
  ∧ ∀ (s : State) (d a b : BitVec 5),
    let u := reg s a
    let v := reg s b
    exec (.mul d a b) s = .next (wrote s d (ofSigned (u.toInt * v.toInt)))
    ∧ exec (.mulh d a b) s = .next (wrote s d (ofSigned (u.toInt * v.toInt / 2 ^ 64)))
    ∧ exec (.mulhu d a b) s = .next (wrote s d (BitVec.ofNat 64 (u.toNat * v.toNat / 2 ^ 64)))
    ∧ exec (.div d a b) s = .next (wrote s d (if v.toInt = 0 then divByZero u
        else ofSigned (min (u.toInt.tdiv v.toInt) (2 ^ 63 - 1))))
    ∧ exec (.rem d a b) s = .next (wrote s d (if v.toInt = 0 then u
        else ofSigned (u.toInt - v.toInt * u.toInt.tdiv v.toInt)))
    ∧ exec (.divu d a b) s = .next (wrote s d (if v.toNat = 0 then (if u.toNat = 0 then 0 else BitVec.allOnes 64)
        else BitVec.ofNat 64 (u.toNat / v.toNat)))
    ∧ exec (.remu d a b) s = .next (wrote s d (if v.toNat = 0 then u
        else BitVec.ofNat 64 (u.toNat - v.toNat * (u.toNat / v.toNat))))

/-- R164: counts of bits, byte order, fields and selection. A leading or trailing zero count is told by the bits: all
those counted are zero, and the next is one. -/
def Obligations.BitResults : Prop :=
  ∀ (s : State) (d a b n : BitVec 5) (m : BitVec 1) (p : BitVec 6),
    let u := reg s a
    let pos := p.toNat
    let len := 32 * m.toNat + n.toNat + 1
    let mask : W64 := BitVec.ofNat 64 ((2 ^ len - 1) * 2 ^ pos)
    (∃ c, exec (.clz d a) s = .next (wrote s d (BitVec.ofNat 64 c)) ∧ c ≤ 64 ∧ u.toNat < 2 ^ (64 - c)
        ∧ (c < 64 → u.getLsbD (63 - c) = true))
    ∧ (∃ c, exec (.ctz d a) s = .next (wrote s d (BitVec.ofNat 64 c)) ∧ c ≤ 64 ∧ u.toNat % 2 ^ c = 0
        ∧ (c < 64 → u.getLsbD c = true))
    ∧ exec (.popc d a) s = .next (wrote s d (BitVec.ofNat 64 ((List.range 64).countP fun i => u.getLsbD i)))
    ∧ exec (.bswp d a) s = .next (wrote s d
        (u.extractLsb' 0 8 ++ u.extractLsb' 8 8 ++ u.extractLsb' 16 8 ++ u.extractLsb' 24 8
          ++ u.extractLsb' 32 8 ++ u.extractLsb' 40 8 ++ u.extractLsb' 48 8 ++ u.extractLsb' 56 8 : BitVec 64))
    ∧ exec (.sel d a b) s = .next (wrote s d (if reg s d ≠ 0 then u else reg s b))
    ∧ (pos + len ≤ 64 →
        exec (.exts d a n m p) s = .next (wrote s d ((u.extractLsb' pos len).signExtend 64))
        ∧ exec (.extz d a n m p) s = .next (wrote s d ((u.extractLsb' pos len).setWidth 64))
        ∧ exec (.insf d a n m p) s = .next (wrote s d ((reg s d &&& ~~~mask) ||| ((u <<< pos) &&& mask))))
    ∧ (64 < pos + len →
        exec (.exts d a n m p) s = .next (illegalAt s (.exts d a n m p))
        ∧ exec (.extz d a n m p) s = .next (illegalAt s (.extz d a n m p))
        ∧ exec (.insf d a n m p) s = .next (illegalAt s (.insf d a n m p)))

/-- R165, R166: immediates, shifts by an immediate, LUI and ADDPC. A word of major 0x04-0x0B is the instruction of its
major; in SHI imm16[7:6] selects the kind, and kind 3 or a non-zero imm16[15:8] is ILLEGAL. -/
def Obligations.ImmediateResults : Prop :=
  (∀ w : W32, 0x04 ≤ w.toNat / 2 ^ 26 → w.toNat / 2 ^ 26 ≤ 0x0B →
    let d := w.extractLsb' 21 5
    let a := w.extractLsb' 16 5
    let i := w.extractLsb' 0 16
    let sh := w.extractLsb' 0 6
    decodeFetched [w] = if w.toNat / 2 ^ 26 = 0x08
      then picked [some (.slli d a sh), some (.srli d a sh), some (.srai d a sh)] (w.toNat % 2 ^ 16 / 2 ^ 6) w
      else picked [some (.addi d a i), some (.andi d a i), some (.ori d a i), some (.xori d a i), none, some (.slti d a i),
        some (.lui d (w.extractLsb' 0 21)), some (.addpc d (w.extractLsb' 0 21))] (w.toNat / 2 ^ 26 - 4) w)
  ∧ ∀ (s : State) (d a : BitVec 5) (i : BitVec 16) (sh : BitVec 6) (k : BitVec 21),
    let u := reg s a
    exec (.addi d a i) s = .next (wrote s d (u + i.signExtend 64))
    ∧ exec (.andi d a i) s = .next (wrote s d (u &&& i.setWidth 64))
    ∧ exec (.ori d a i) s = .next (wrote s d (u ||| i.setWidth 64))
    ∧ exec (.xori d a i) s = .next (wrote s d (u ^^^ i.setWidth 64))
    ∧ exec (.slti d a i) s = .next (wrote s d (bit (u.toInt < i.toInt)))
    ∧ exec (.slli d a sh) s = .next (wrote s d (u <<< sh.toNat))
    ∧ exec (.srli d a sh) s = .next (wrote s d (u >>> sh.toNat))
    ∧ exec (.srai d a sh) s = .next (wrote s d (ofSigned (u.toInt / 2 ^ sh.toNat)))
    ∧ exec (.lui d k) s = .next (wrote s d (k.signExtend 64 <<< 16))
    ∧ exec (.addpc d k) s = .next (wrote s d (s.me.pc.setWidth 64 + 4 * k.signExtend 64))

/-- R52: the integer to which `num / den` is rounded, for a positive `den`. -/
def Sys2Proof.Claims.roundedInt (mode : Rnd) (num den : Int) : Int :=
  let down := num / den
  let up := -(-num / den)
  match mode with
  | .rdn => down
  | .rup => up
  | .rz => if num < 0 then up else down
  | .rne =>
    if 2 * (num - down * den) < den then down
    else if den < 2 * (num - down * den) then up
    else if down % 2 = 0 then down else up

/-- R170: each kind of FCVT. FP32 to a 64-bit integer is the rounded integer, clamped to the range with SAT; an infinity
clamps with SAT, and NaN gives 0 with INV. An integer, or FP32 to a narrower format, is rounded once, with the flags of 02
R53. A BF16, FP16 or K8 code converts exactly, with no flag, and its NaN gives the canonical NaN. A narrow source is read
from the low bits. -/
def Sys2Proof.Claims.ConversionResults : Prop :=
  ∀ (s : State) (d a : BitVec 5) (k : BitVec 4) (r : BitVec 2), encodingOk (.fcvt d a k r) = true →
    let u := reg s a
    let x := valF32 (u.toNat % 2 ^ 32)
    let mode := rndOf r.toNat
    let run := exec (.fcvt d a k r) s
    let gives := fun (w : W64) (f : Flags) => (.next (s.setMe ((s.me.put d w).flag f).adv) : Out)
    let code := fun (c : Nat × Flags) => gives (BitVec.ofNat 64 c.1) c.2
    let toInt := fun (lo hi : Int) =>
      (x = .nan → run = gives 0 { inv := true })
      ∧ (∀ neg, x = .inf neg → run = gives (ofSigned (if neg then lo else hi)) { sat := true })
      ∧ ∀ neg m e st, x = .fin neg m e st →
        let v := roundedInt mode ((if neg then -(m : Int) else m) * 2 ^ e.toNat) (2 ^ (-e).toNat)
        run = gives (ofSigned (max lo (min hi v))) { sat := decide (v < lo ∨ hi < v) }
    let exactly := fun (f : FloatFmt) (n : Nat) =>
      let v := decodeFloat f (u.toNat % 2 ^ n)
      run = gives (BitVec.ofNat 64 (roundFp32 .rne v).1) {} ∧ (v = .nan → run = gives 0x7FC00000 {})
    (k = 0 → toInt (-2 ^ 63) (2 ^ 63 - 1))
    ∧ (k = 1 → toInt 0 (2 ^ 64 - 1))
    ∧ (k = 2 → run = code (roundFp32 mode (valOfInt u.toInt)))
    ∧ (k = 3 → run = code (roundFp32 mode (valOfInt u.toNat)))
    ∧ (k = 4 → run = code (roundFloat bf16 mode x))
    ∧ (k = 5 → run = code (roundFloat fp16 mode x))
    ∧ (k = 6 → exactly bf16 16)
    ∧ (k = 7 → exactly fp16 16)
    ∧ (k = 8 → run = code (roundFloat k8 mode x))
    ∧ (k = 9 → exactly k8 8)
    ∧ k.toNat < 10

/-- R167-R169: a floating-point instruction writes its code zero-extended and adds its flags to FSTAT, on FP32 values
rounded once from the exact result; the comparison writes 1 or 0 and no flag. -/
def Sys2Proof.Claims.FloatResults : Prop :=
  ∀ (s : State) (d a b : BitVec 5) (r : BitVec 2) (p : BitVec 4),
    let th := s.me
    let u := th.get a
    let v := th.get b
    let rnd := rndOf r.toNat
    let x := valF32 (u.toNat % 2 ^ 32)
    let y := valF32 (v.toNat % 2 ^ 32)
    let z := valF32 ((th.get d).toNat % 2 ^ 32)
    let done := fun (c : Nat × Flags) => s.setMe ((th.put d (BitVec.ofNat 64 c.1)).flag c.2).adv
    let inv := fun (e : Val × Bool) => let q := roundFp32 rnd e.1; (q.1, if e.2 then orFlags q.2 invFlag else q.2)
    exec (.fadd d a b r) s = .next (done (inv (addV rnd x y)))
    ∧ exec (.fsub d a b r) s = .next (done (inv (addV rnd x (negV y))))
    ∧ exec (.fmul d a b r) s = .next (done (inv (mulV x y)))
    ∧ exec (.fdiv d a b r) s = .next (done ((roundFp32 rnd (divV x y).1).1,
        orFlags (divV x y).2 (roundFp32 rnd (divV x y).1).2))
    ∧ exec (.fma d a b r) s = .next (done (inv ((addV rnd (mulV x y).1 z).1, (mulV x y).2 || (addV rnd (mulV x y).1 z).2)))
    ∧ exec (.fmin d a b) s = .next (done (if isNan x || isNan y then 0x7FC00000
        else if ltV y x || (eqV y x && valNeg y && !valNeg x) then v.toNat % 2 ^ 32 else u.toNat % 2 ^ 32, {}))
    ∧ exec (.fmax d a b) s = .next (done (if isNan x || isNan y then 0x7FC00000
        else if ltV x y || (eqV x y && valNeg x && !valNeg y) then v.toNat % 2 ^ 32 else u.toNat % 2 ^ 32, {}))
    ∧ (encodingOk (.fcmp d a b p) = true →
        exec (.fcmp d a b p) s = .next (wrote s d (bit ((match p.toNat with
          | 0 => eqV x y
          | 1 => ltV x y
          | 2 => leV x y
          | _ => isNan x || isNan y) = true))))

/-- R167-R170: the floating-point instructions. -/
def Obligations.FpuResults : Prop := Claims.FloatResults ∧ Claims.ConversionResults

/-- The frame of the instructions that only write a general register (06 R162-R170): every other register, header
register, flag and special register is as before, no byte of memory changes, nothing outside the thread changes, and
FSTAT only gains bits, none of them but by floating-point instructions. -/
def Sys2Proof.Claims.RegisterFrame : Prop :=
  ∀ (s t : State) (i : Instr) (d : BitVec 5), encodingOk i = true →
    ((∃ a b, i = .add d a b ∨ i = .sub d a b ∨ i = .and d a b ∨ i = .or d a b ∨ i = .xor d a b ∨ i = .sll d a b
        ∨ i = .srl d a b ∨ i = .sra d a b ∨ i = .slt d a b ∨ i = .sltu d a b ∨ i = .min d a b ∨ i = .max d a b
        ∨ i = .minu d a b ∨ i = .maxu d a b ∨ i = .mul d a b ∨ i = .mulh d a b ∨ i = .mulhu d a b ∨ i = .div d a b
        ∨ i = .rem d a b ∨ i = .divu d a b ∨ i = .remu d a b ∨ i = .sel d a b)
      ∨ (∃ a n m p, i = .exts d a n m p ∨ i = .extz d a n m p ∨ i = .insf d a n m p)
      ∨ (∃ a, i = .clz d a ∨ i = .ctz d a ∨ i = .popc d a ∨ i = .bswp d a)
      ∨ (∃ a k, i = .addi d a k ∨ i = .andi d a k ∨ i = .ori d a k ∨ i = .xori d a k ∨ i = .slti d a k)
      ∨ (∃ a k, i = .slli d a k ∨ i = .srli d a k ∨ i = .srai d a k)
      ∨ (∃ k, i = .lui d k ∨ i = .addpc d k)
      ∨ (∃ c, i = .csrr d c)
      ∨ (∃ a b p, i = .fcmp d a b p)
      ∨ ∃ a b, i = .fmin d a b ∨ i = .fmax d a b) →
    exec i s = .next t →
      (∀ r, r ≠ d → t.me.get r = s.me.get r) ∧ t.me.pc = s.me.pc + 4 ∧ t.me.h = s.me.h
      ∧ t.me.fstat = s.me.fstat ∧ t.me.trapPc = s.me.trapPc ∧ t.me.trapCause = s.me.trapCause
      ∧ t.me.trapInfo = s.me.trapInfo ∧ t.me.trapBase = s.me.trapBase ∧ t.me.inTrap = s.me.inTrap
      ∧ t.me.profile = s.me.profile ∧ t.me.note = s.me.note ∧ t.me.tickets = s.me.tickets
      ∧ t.me.safept = s.me.safept ∧ t.me.cdepth = s.me.cdepth ∧ t.me.ltbase = s.me.ltbase ∧ t.me.grant = s.me.grant
      ∧ SameOutside s t ∧ ∀ a, t.ms.byte a = s.ms.byte a

/-- The frame of the floating-point instructions that set flags: as above, and a flag of FSTAT that was set stays set
(06 R147, R167). -/
def Sys2Proof.Claims.FlagsFrame : Prop :=
  ∀ (s t : State) (i : Instr) (d : BitVec 5), encodingOk i = true →
    ((∃ a b r, i = .fadd d a b r ∨ i = .fsub d a b r ∨ i = .fmul d a b r ∨ i = .fdiv d a b r ∨ i = .fma d a b r)
      ∨ ∃ a k r, i = .fcvt d a k r) →
    exec i s = .next t →
      (∀ r, r ≠ d → t.me.get r = s.me.get r) ∧ t.me.pc = s.me.pc + 4
      ∧ (∃ f, t = s.setMe { ((s.me.put d (t.me.get d)).adv) with fstat := s.me.fstat ||| f })
      ∧ ∀ a, t.ms.byte a = s.ms.byte a

/-- The register file, and the frames of the instructions that write one register of it (06 R144, R147, R162-R170). -/
def Obligations.RegisterFrames : Prop := Claims.RegisterFile ∧ Claims.RegisterFrame ∧ Claims.FlagsFrame

/-! ### Control transfer -/

/-- R171: a branch whose condition holds goes to pc + 4 · off13, when an instruction can be fetched there; one whose
condition does not hold goes on at the next word; it writes nothing else. A word of major 0x10 is the branch that cond
selects, and conditions 6 and 7 are ILLEGAL. -/
def Obligations.BranchResults : Prop :=
  (∀ w : W32, w.toNat / 2 ^ 26 = 0x10 →
    let a := w.extractLsb' 21 5
    let b := w.extractLsb' 16 5
    let o := w.extractLsb' 0 13
    decodeFetched [w] = picked [some (.beq a b o), some (.bne a b o), some (.blt a b o), some (.bge a b o),
      some (.bltu a b o), some (.bgeu a b o)] (w.toNat / 2 ^ 13 % 8) w)
  ∧ ∀ (s : State) (a b : BitVec 5) (o : BitVec 13) (i : Instr) (p : Prop) [Decidable p],
    let u := reg s a
    let v := reg s b
    let dest : W64 := (s.me.pc + 4 * o.signExtend 56).setWidth 64
    ((i = .beq a b o ∧ (p ↔ u = v)) ∨ (i = .bne a b o ∧ (p ↔ u ≠ v)) ∨ (i = .blt a b o ∧ (p ↔ u.toInt < v.toInt))
      ∨ (i = .bge a b o ∧ (p ↔ v.toInt ≤ u.toInt)) ∨ (i = .bltu a b o ∧ (p ↔ u.toNat < v.toNat))
      ∨ (i = .bgeu a b o ∧ (p ↔ v.toNat ≤ u.toNat))) →
    (¬p → exec i s = .next (passed s))
    ∧ (p → ∀ s1 pa, s.fetchable dest = .ok s1 pa →
        exec i s = .next (s1.setMe { s1.me with pc := (s.me.pc + 4 * o.signExtend 56) &&& ~~~3 }))

/-- R172, R173, R152, R88: jumps and calls go to their target when an instruction can be fetched there; a call writes
pc + 4 and counts one more call that has not returned, with d ≠ 0. -/
def Sys2Proof.Claims.JumpsGo : Prop :=
  ∀ (s s1 : State) (d a : BitVec 5) (o : BitVec 26) (pa : Nat),
    let dest : W64 := (s.me.pc + 4 * o.signExtend 56).setWidth 64
    let link := fun (th : Thread) (d : BitVec 5) =>
      if d = 0 then th
      else { th.put d (s.me.pc.setWidth 64 + 4) with cdepth := if s.me.cdepth = 65535 then 65535 else s.me.cdepth + 1 }
    (s.fetchable dest = .ok s1 pa →
      exec (.j o) s = .next (s1.setMe { s1.me with pc := (s.me.pc + 4 * o.signExtend 56) &&& ~~~3 })
      ∧ exec (.call o) s = .next (s1.setMe { link s1.me 1 with pc := (s.me.pc + 4 * o.signExtend 56) &&& ~~~3 }))
    ∧ ((reg s a).toNat % 4 = 0 → s.fetchable (reg s a) = .ok s1 pa →
      exec (.callr d a) s = .next (s1.setMe { link s1.me d with pc := (reg s a).setWidth 56 &&& ~~~3 })
      ∧ (a ≠ 1 → exec (.jr a) s = .next (s1.setMe { s1.me with pc := (reg s a).setWidth 56 &&& ~~~3 })))

/-- R88: `jr ra` takes the call depth down by one; from 1 to 0 it advances SAFEPT by one and the core writes the new
value in the thread's safe-point word, the 8 bytes at cx + 0x0200 + 8·n of its job, through the translation of that
address (04 R108 keeps the block mapped; without a mapping there is no word to write); at 0 both stay. -/
def Sys2Proof.Claims.ReturnsCount : Prop :=
  ∀ (s s1 : State) (pa : Nat),
    (reg s 1).toNat % 4 = 0 → s.fetchable (reg s 1) = .ok s1 pa →
    let gone := s1.setMe (s1.me.jump (reg s 1))
    (s1.me.cdepth = 0 → exec (.jr 1) s = .next gone)
    ∧ (1 < s1.me.cdepth.toNat → exec (.jr 1) s = .next (gone.setMe { gone.me with cdepth := s1.me.cdepth - 1 }))
    ∧ (s1.me.cdepth = 1 →
        let back := gone.setMe { gone.me with cdepth := 0, safept := s1.me.safept + 1 }
        (s1.myJob = none → exec (.jr 1) s = .next back)
        ∧ ∀ j, s1.myJob = some j →
          let word := (j.cx + 0x0200 + 8 * s1.me.n) % 2 ^ 64
          let bytes := bytesLE 8 (s1.me.safept + 1).toNat
          (∀ ms pb, s1.ms.translate (.core s1.ring) (s1.ring / 4) s1.asid word .write true = (ms, .ok pb) →
            ∃ t, exec (.jr 1) s = .next t ∧ t = { back with ms := ms.writeData pb bytes, charges := t.charges }
              ∧ s1.charges <+: t.charges
              ∧ ∀ x, ¬ StoredAt ms pb 8 x → t.ms.byte x = ms.byte x)
          ∧ (∀ ms e, s1.ms.translate (.core s1.ring) (s1.ring / 4) s1.asid word .write true = (ms, .error e) →
            exec (.jr 1) s = .next back))

/-- R81: CALLT reads the 8 bytes of a link-table entry; a code entry is the target, and any other traps ILLEGAL with
the entry's address, a misaligned entry ALIGN. R88: with d ≠ 0 it counts one call more, up to 65,535. -/
def Obligations.CalltResults : Prop :=
  ∀ (s s1 s2 : State) (d a : BitVec 5) (i : BitVec 16) (pa pb : Nat),
    let ea := reg s a + 8 * i.setWidth 64
    (ea.toNat % 8 ≠ 0 → exec (.callt d a i) s = .next (trapped s .align 0 ea ea)) ∧ (
    let e := valueAt s1 pa 8
    let dest : W64 := BitVec.ofNat 64 (e % 2 ^ 56 / 4 * 4)
    Reaches s ea 8 .read false true false s1 pa → s1.ms.rangeBad pa 8 = false →
    (e % 4 = 1 → s1.fetchable dest = .ok s2 pb →
      ∃ t, exec (.callt d a i) s = .next t ∧ t.me.pc = dest.setWidth 56
        ∧ (d ≠ 0 → t.me.get d = s2.me.pc.setWidth 64 + 4) ∧ (∀ r, r ≠ d → t.me.get r = s2.me.get r)
        ∧ (t.me.cdepth = if d = 0 ∨ s2.me.cdepth = 65535 then s2.me.cdepth else s2.me.cdepth + 1)
        ∧ t = s2.setMe t.me)
    ∧ (e % 4 ≠ 1 → exec (.callt d a i) s = .next (trapped s1 .illegal 0 ea ea)))

/-- `i` transfers control to `dest`: a jump or call by an offset or, aligned, by a register; a branch whose condition
holds. -/
def Sys2Proof.Claims.GoesTo (s : State) (i : Instr) (dest : W64) : Prop :=
  ∃ (d a b : BitVec 5) (o : BitVec 26) (k : BitVec 13),
    ((i = .j o ∨ i = .call o) ∧ dest = (s.me.pc + 4 * o.signExtend 56).setWidth 64)
    ∨ ((i = .jr a ∨ i = .callr d a) ∧ dest = reg s a ∧ dest.toNat % 4 = 0)
    ∨ (dest = (s.me.pc + 4 * k.signExtend 56).setWidth 64
      ∧ ((i = .beq a b k ∧ reg s a = reg s b) ∨ (i = .bne a b k ∧ reg s a ≠ reg s b)
        ∨ (i = .blt a b k ∧ (reg s a).toInt < (reg s b).toInt) ∨ (i = .bge a b k ∧ (reg s b).toInt ≤ (reg s a).toInt)
        ∨ (i = .bltu a b k ∧ (reg s a).toNat < (reg s b).toNat)
        ∨ (i = .bgeu a b k ∧ (reg s b).toNat ≤ (reg s a).toNat)))

/-- R171-R173, R153: a misaligned target in a register traps ALIGN with the target; a target that cannot be fetched is
a fault of the transfer, with no update made: beyond 56 bits or in the page at 0 XLATE, in the device window or on a page
without X PERM. -/
def Sys2Proof.Claims.TransferFaults : Prop :=
  ∀ (s : State) (d a : BitVec 5),
    let t := reg s a
    (t.toNat % 4 ≠ 0 → exec (.jr a) s = .next (trapped s .align 0 t t)
      ∧ exec (.callr d a) s = .next (trapped s .align 0 t t))
    ∧ ∀ i dest, GoesTo s i dest →
      ((2 ^ 56 ≤ dest.toNat ∨ dest.toNat < 65536) → exec i s = .next (trapped s .xlate 0 dest dest))
      ∧ (0x00FFFF0000000000 ≤ dest.toNat → dest.toNat < 2 ^ 56 → exec i s = .next (trapped s .perm 0 dest dest))
      ∧ (65536 ≤ dest.toNat → dest.toNat < 0x00FFFF0000000000 →
          ∀ s1 : State, s.translateMe dest .fetch false = .trap s1 (trapAt .perm dest) →
            exec i s = .next (trapped s1 .perm 0 dest dest))

/-- R172, R173, R88: jumps, calls and returns, and the targets that cannot be fetched. -/
def Obligations.JumpResults : Prop := Claims.JumpsGo ∧ Claims.ReturnsCount ∧ Claims.TransferFaults

/-! ### Loads, stores and atomics -/

/-- R177: LD writes the bytes at the address zero-extended, LDS sign-extended. -/
def Sys2Proof.Claims.LoadsRead : Prop :=
  ∀ (s s1 : State) (d a : BitVec 5) (z q : BitVec 2) (o : BitVec 12) (pa : Nat),
    let n := 2 ^ z.toNat
    let ea := reg s a + o.signExtend 64
    Reaches s ea n .read false true false s1 pa → s1.ms.rangeBad pa n = false →
    (encodingOk (.ld d a z q o) = true →
      exec (.ld d a z q o) s = .next (wrote s1 d (BitVec.ofNat 64 (valueAt s1 pa n))))
    ∧ (encodingOk (.lds d a z q o) = true →
      exec (.lds d a z q o) s = .next (wrote s1 d (ofSigned (signedN (8 * n) (valueAt s1 pa n)))))

/-- R177, R188: ST writes the low bytes of x[s], HST the header register as it is held, at the address given, and
nothing else of the machine changes but the pc. -/
def Sys2Proof.Claims.StoresWrite : Prop :=
  ∀ (s s1 : State) (r a : BitVec 5) (z q : BitVec 2) (o : BitVec 12) (h : BitVec 3) (k : BitVec 8) (pa : Nat),
    (Reaches s (reg s a + o.signExtend 64) (2 ^ z.toNat) .write true false true s1 pa →
      encodingOk (.st r a z q o) = true →
      exec (.st r a z q o) s = .next (passed (stored s1 pa (bytesLE (2 ^ z.toNat) (reg s r).toNat))))
    ∧ (Reaches s (reg s a + 32 * k.signExtend 64) 32 .write true false true s1 pa →
      exec (.hst h a k) s = .next (passed (stored s1 pa (bytesLE 32 (s.me.getH h).toNat))))

/-- The frame of a store: every byte outside those stored reads as it did after the translation, the bytes stored
read as written while no move and no checkpoint keeps a second copy, and nothing but memory changes, save that an
uncorrectable error at a move's copy aborts the move (07 R177, 12 R350, R352, 17 R421). -/
def Sys2Proof.Claims.StoreFrame : Prop :=
  ∀ (s : State) (pa : Nat) (bs : List Byte),
    let t := stored s pa bs
    (∀ a, ¬ StoredAt s.ms pa bs.length a → t.ms.byte a = s.ms.byte a)
    ∧ (copyOf s.ms pa = none → s.ms.mirror = none →
        readMem t.ms.mem (s.ms.nowPa pa) bs.length = bs)
    ∧ t = { s with ms := { s.ms with mem := t.ms.mem, moves := t.ms.moves } }
    ∧ ((∀ b, copyOf s.ms pa = some b → s.ms.rangeBad b bs.length = false) → t.ms.moves = s.ms.moves)

/-- R177, R188, R350: stores and their frame. -/
def Obligations.StoreResults : Prop := Claims.StoresWrite ∧ Claims.StoreFrame

/-- What a translation of the issuing thread changes: the caches of translations, their access counters and the
SHARERS of a move; of memory at most the leaf that a walk finds, in which it sets A and D; the charges of its job's
budget class (04 R115; log 37); and nothing else of the machine (12 R338-R340, R349). -/
def Obligations.TranslationFrame : Prop :=
  ∀ (s t : State) (va : W64) (k : AccessKind) (setD : Bool) (pa : Nat), s.translateMe va k setD = .ok t pa →
    t = { s with ms := { s.ms with mem := t.ms.mem, tlb := t.ms.tlb, moves := t.ms.moves }, charges := t.charges }
    ∧ (∃ walks, t.charges = s.charges ++ walks ++ s.coreCharges pa)
    ∧ (t.ms.mem = s.ms.mem ∨ ∃ w, s.ms.walk s.asid va.toNat = .ok w
        ∧ t.ms.mem = (s.ms.writePa w.entry (bytesLE 8 (setAD w.leaf setD))).mem)

/-- R177, R181: PREF and FENCE have no effect on any result, and PREF never traps on its address. -/
def Sys2Proof.Claims.HintsPass : Prop :=
  ∀ (s : State) (a : BitVec 5) (o : BitVec 12) (c : BitVec 3) (k : BitVec 2),
    exec (.prefR a o) s = .next (passed s) ∧ exec (.prefW a o) s = .next (passed s)
    ∧ (c.toNat ≤ 6 → k.toNat ≤ 2 → exec (.fence c k) s = .next (passed s))


/-- R179: an AMO combines the word or doubleword in memory with x[b], writes the result back and returns the old value
sign-extended. -/
def Sys2Proof.Claims.AmoResults : Prop :=
  ∀ (s s1 s2 : State) (d a b : BitVec 5) (q z : BitVec 2) (pa pb : Nat),
    let n := 2 ^ z.toNat
    let w := 8 * n
    let old := valueAt s1 pa n
    let v := (reg s b).toNat % 2 ^ w
    let done := fun (new : Nat) => (.next (wrote (stored s2 pb (bytesLE n new)) d (ofSigned (signedN w old))) : Out)
    2 ≤ z.toNat → Reaches s (reg s a) n .atomic false true true s1 pa → s1.ms.rangeBad pa n = false →
    s1.translateMe (reg s a) .atomic true = .ok s2 pb →
    exec (.amoadd d a b q z) s = done ((old + v) % 2 ^ w)
    ∧ exec (.amoand d a b q z) s = done (old &&& v)
    ∧ exec (.amoor d a b q z) s = done (old ||| v)
    ∧ exec (.amoxor d a b q z) s = done (old ^^^ v)
    ∧ exec (.amomin d a b q z) s = done (if signedN w old ≤ signedN w v then old else v)
    ∧ exec (.amomax d a b q z) s = done (if signedN w v ≤ signedN w old then old else v)
    ∧ exec (.amoswap d a b q z) s = done v

/-- R180: CAS writes x[b] when memory holds x[d], and returns the old value sign-extended; when the compare fails it
writes nothing, sets no D and is a read for watchpoints. -/
def Sys2Proof.Claims.CasResults : Prop :=
  ∀ (s s1 : State) (d a b : BitVec 5) (q z : BitVec 2) (pa : Nat),
    let n := 2 ^ z.toNat
    let w := 8 * n
    let old := valueAt s1 pa n
    2 ≤ z.toNat → s1.ms.rangeBad pa n = false →
    (old = (reg s d).toNat % 2 ^ w → Reaches s (reg s a) n .atomic false true true s1 pa →
      ∀ s2 pb, s1.translateMe (reg s a) .atomic true = .ok s2 pb →
      exec (.cas d a b q z) s
        = .next (wrote (stored s2 pb (bytesLE n ((reg s b).toNat % 2 ^ w))) d (ofSigned (signedN w old))))
    ∧ (old ≠ (reg s d).toNat % 2 ^ w → Reaches s (reg s a) n .atomic false true false s1 pa →
      exec (.cas d a b q z) s = .next (wrote s1 d (ofSigned (signedN w old))))

/-- R177, R179-R181: loads, hints, and the read-modify-write operations on memory. That FENCE completes at once is the
model's choice: it performs every access in its own step (log 7). -/
def Obligations.LoadResults : Prop := Claims.LoadsRead ∧ Claims.HintsPass ∧ Claims.AmoResults ∧ Claims.CasResults

/-- The faults of an instruction that accesses `n` bytes at `va`, in the order of 07 R178, each with the address and as
the whole of what the instruction does: a misaligned access traps ALIGN, an address beyond 56 bits XLATE; in memory a page
without the right traps PERM, a translation that faults is posted and the thread waits, a watchpoint traps WATCH with its
number, and an uncorrectable error in a line that is read DATA_UE. A translation that is permitted has set A, and D
where it sets D (12 R340); nothing is stored. -/
def Sys2Proof.Claims.FaultsAt (s : State) (i : Instr) (va : W64) (n : Nat) (k : AccessKind) (setD rd : Bool)
    (wr : State → Nat → Bool) : Prop :=
  (va.toNat % n ≠ 0 → exec i s = .next (trapped s .align 0 va va))
  ∧ (va.toNat % n = 0 → 2 ^ 56 ≤ va.toNat → exec i s = .next (trapped s .xlate 0 va va))
  ∧ (va.toNat % n = 0 → va.toNat < 0x00FFFF0000000000 →
    (∀ s1 : State, s.translateMe va k setD = .trap s1 (trapAt .perm va) →
      s1 = { s with charges := s1.charges } ∧ exec i s = .next (trapped s1 .perm 0 va va))
    ∧ (∀ s1, s.translateMe va k setD = .post s1 → exec i s = .next s1)
    ∧ ∀ s1 pa, s.translateMe va k setD = .ok s1 pa →
      (∀ w, s.watchMe va.toNat n rd (wr s1 pa) = some w → exec i s = .next (trapped s1 .watch w va va))
      ∧ (rd = true → s.watchMe va.toNat n rd (wr s1 pa) = none → s1.ms.rangeBad pa n = true →
        exec i s = .next (trapped s1 .dataUe 0 va va)))

/-- R178 of the loads, LD, LDS, HLD and CALLT's of its entry (03 R81), and of the stores ST and HST. In the device window
they trap PERM where no rule lets them read, or store: outside the thread's part of the scratchpad for a store. -/
def Sys2Proof.Claims.PlainFaults : Prop :=
  ∀ (s : State) (d a : BitVec 5) (z q : BitVec 2) (o : BitVec 12) (h : BitVec 3) (g : BitVec 8) (m : BitVec 16),
    let ea := reg s a + o.signExtend 64
    let eg := reg s a + 32 * g.signExtend 64
    let et := reg s a + 8 * m.setWidth 64
    let no : State → Nat → Bool := fun _ _ => false
    let yes : State → Nat → Bool := fun _ _ => true
    let closed := fun (va : W64) (n : Nat) => va.toNat % n = 0 ∧ 0x00FFFF0000000000 ≤ va.toNat ∧ va.toNat < 2 ^ 56
    (encodingOk (.ld d a z q o) = true → FaultsAt s (.ld d a z q o) ea (2 ^ z.toNat) .read false true no
      ∧ (closed ea (2 ^ z.toNat) → s.deviceRead ea.toNat (2 ^ z.toNat) = none →
        exec (.ld d a z q o) s = .next (trapped s .perm 0 ea ea)))
    ∧ (encodingOk (.lds d a z q o) = true → FaultsAt s (.lds d a z q o) ea (2 ^ z.toNat) .read false true no
      ∧ (closed ea (2 ^ z.toNat) → s.deviceRead ea.toNat (2 ^ z.toNat) = none →
        exec (.lds d a z q o) s = .next (trapped s .perm 0 ea ea)))
    ∧ (encodingOk (.st d a z q o) = true → FaultsAt s (.st d a z q o) ea (2 ^ z.toNat) .write true false yes
      ∧ (closed ea (2 ^ z.toNat) → 0x00FFFF0001800000 ≤ ea.toNat ∨ s.spPlace ea.toNat (2 ^ z.toNat) = none →
        exec (.st d a z q o) s = .next (trapped s .perm 0 ea ea)))
    ∧ FaultsAt s (.hld h a g) eg 32 .read false true no
    ∧ (closed eg 32 → s.deviceRead eg.toNat 32 = none → exec (.hld h a g) s = .next (trapped s .perm 0 eg eg))
    ∧ FaultsAt s (.hst h a g) eg 32 .write true false yes
    ∧ (closed eg 32 → 0x00FFFF0001800000 ≤ eg.toNat ∨ s.spPlace eg.toNat 32 = none →
        exec (.hst h a g) s = .next (trapped s .perm 0 eg eg))
    ∧ FaultsAt s (.callt d a m) et 8 .read false true no

/-- R178 of the read-modify-write operations (07 R179, R180), with no access to the device window: an AMO is a read and
a write for watchpoints, a CAS a write only when its compare holds (12 R362). -/
def Sys2Proof.Claims.AtomicFaults : Prop :=
  ∀ (s : State) (d a b : BitVec 5) (q z : BitVec 2) (i : Instr),
    let n := 2 ^ z.toNat
    let va := reg s a
    let holds : State → Nat → Bool := fun s1 pa =>
      !s1.ms.rangeBad pa n && valueAt s1 pa n == (reg s d).toNat % 2 ^ (8 * n)
    let amo : Prop := i = .amoadd d a b q z ∨ i = .amoand d a b q z ∨ i = .amoor d a b q z ∨ i = .amoxor d a b q z
      ∨ i = .amomin d a b q z ∨ i = .amomax d a b q z ∨ i = .amoswap d a b q z
    2 ≤ z.toNat →
    (amo → FaultsAt s i va n .atomic false true fun _ _ => true)
    ∧ FaultsAt s (.cas d a b q z) va n .atomic false true holds
    ∧ (amo ∨ i = .cas d a b q z → va.toNat % n = 0 → 0x00FFFF0000000000 ≤ va.toNat → va.toNat < 2 ^ 56 →
        exec i s = .next (trapped s .perm 0 va va))

/-- R178, and R81 for CALLT: the faults of loads, stores and read-modify-write operations as the instructions take them,
in their order and each with the address; of memory a trap changes nothing. -/
def Obligations.AccessFaults : Prop :=
  Claims.PlainFaults ∧ Claims.AtomicFaults
  ∧ ∀ (s : State) (c : Cause) (detail : Nat) (info va : W64),
      (trapped s c detail info va).ms = s.ms ∧ (trapped s c detail info va).fab = s.fab
        ∧ (trapped s c detail info va).scratch = s.scratch

/-! ### Traps and system instructions -/

/-- R201, R203: with a handler and outside it, TRAP, BRK and ILL save the instruction's address, the cause with its
detail and the information, set INTRAP and go to TRAP_BASE; no general register, header register, flag or byte of
memory changes. A context that a debug agent has claimed stops at BRK instead. -/
def Sys2Proof.Claims.TrapInstructions : Prop :=
  ∀ (s : State) (c : BitVec 8),
    let entered := fun (cause detail : Nat) => s.setMe { s.me with
      trapPc := s.me.pc.setWidth 64, trapCause := BitVec.ofNat 64 (cause + 256 * detail), trapInfo := 0, inTrap := true,
      pc := s.me.trapBase.setWidth 56 }
    s.me.inTrap = false → s.me.trapBase ≠ 0 →
    exec (.trap c) s = .next (entered 0x20 c.toNat)
    ∧ exec .ill s = .next (entered 0x0D 0)
    ∧ ((s.ctx s.asid).claimed = false → exec (.brk c) s = .next (entered 0x21 c.toNat))
    ∧ ((s.ctx s.asid).claimed = true → exec (.brk c) s = .next (s.setMe { s.me with run := .agent }))

/-- R201: the same for every trap, whatever raised it: TRAP_PC, TRAP_CAUSE, TRAP_INFO, INTRAP and the pc are all that
changes. -/
def Sys2Proof.Claims.TrapRegisters : Prop :=
  ∀ (s : State) (r : TrapReq), s.me.inTrap = false → s.me.trapBase ≠ 0 →
    s.trap r = s.setMe { s.me with
      trapPc := s.me.pc.setWidth 64, trapCause := BitVec.ofNat 64 (r.cause.code + 256 * (r.detail % 256)),
      trapInfo := r.info, inTrap := true, pc := s.me.trapBase.setWidth 56 }


/-- R201, R199: a trap in a handler, or without one, ends the job with the class of its cause: the thread stops, and a
started job without an earlier fault is contained with that class. -/
def Sys2Proof.Claims.DoubleFaultEndsJob : Prop :=
  ∀ (s : State) (r : TrapReq) (id : JobId) (j : Job),
    s.me.inTrap = true ∨ s.me.trapBase = 0 → s.me.job = some id → s.job id = some j → j.phase = .started → j.faults = [] →
    (s.trap r).me = { s.me with run := .stopped }
    ∧ (∃ k, (s.trap r).job id = some k ∧ k.phase = .containing ∧ k.status = .error ∧ k.errClass = r.cause.cls.code)
    ∧ (s.trap r).ms = s.ms ∧ ∀ i, i ≠ s.cur → (s.trap r).thread i = s.thread i

/-- R203: ERET returns to TRAP_PC and leaves the handler, and outside one it traps ILLEGAL; HALT ends the thread, and
its commands and launches run on. -/
def Sys2Proof.Claims.EretHalt : Prop :=
  ∀ s : State,
    (s.me.inTrap = true → exec .eret s = .next (s.setMe { s.me with pc := s.me.trapPc.setWidth 56 &&& ~~~3, inTrap := false }))
    ∧ (s.me.inTrap = false → exec .eret s = .next (illegalAt s .eret))
    ∧ ∃ t, exec .halt s = .next t ∧ t.me = { s.me with run := .halted } ∧ t.fab = s.fab ∧ t.ms = s.ms
      ∧ ∀ i, i ≠ s.cur → t.thread i = s.thread i

/-- R199, R201, R203: what taking a trap saves and where it goes, a trap without a handler, ERET and HALT. -/
def Obligations.TrapEntry : Prop :=
  Claims.TrapInstructions ∧ Claims.TrapRegisters ∧ Claims.DoubleFaultEndsJob ∧ Claims.EretHalt

/-- R174: a privileged instruction in a context without privilege traps PRIV with its word and has no other effect. -/
def Obligations.Privilege : Prop :=
  ∀ (s : State) (i : Instr) (d a n : BitVec 5) (k : BitVec 2),
    (i = .lrkey d a ∨ i = .tlbinv d a k ∨ i = .ctxsave a ∨ i = .ctxld a ∨ i = .ligbind d a n) →
    encodingOk i = true → s.priv = false → exec i s = .next (trapped s .priv 0 (trapWord i) 0)

/-- R197, R198, R147, R200: reading each control and status register. -/
def Sys2Proof.Claims.CsrReads : Prop :=
  ∀ (s : State) (d : BitVec 5),
    let st : Nat := (if s.priv then 1 else 0) + (if s.me.inTrap then 2 else 0)
      + (if (s.myJob.map fun j => j.rcd.getLsbD 35) = some true then 4 else 0) + s.asid * 2 ^ 8 + s.slot * 2 ^ 24
    exec (.csrr d 0x00) s = .next (wrote s d (BitVec.ofNat 64 st))
    ∧ exec (.csrr d 0x01) s = .next (wrote s d s.me.trapPc)
    ∧ exec (.csrr d 0x02) s = .next (wrote s d s.me.trapCause)
    ∧ exec (.csrr d 0x03) s = .next (wrote s d s.me.trapInfo)
    ∧ exec (.csrr d 0x04) s = .next (wrote s d s.me.trapBase)
    ∧ exec (.csrr d 0x08) s = .next (wrote s d (BitVec.ofNat 64 s.clk.fc))
    ∧ exec (.csrr d 0x09) s = .next (wrote s d (BitVec.ofNat 64 (s.clk.fs / 1000000)))
    ∧ exec (.csrr d 0x0A) s = .next (wrote s d s.me.ltbase)
    ∧ exec (.csrr d 0x0B) s = .next (wrote s d s.me.safept)
    ∧ exec (.csrr d 0x0C) s = .next (wrote s d s.me.grant)
    ∧ exec (.csrr d 0x0D) s = .next (wrote s d (s.me.fstat.setWidth 64))
    ∧ exec (.csrr d 0x0E) s = .next (wrote s d s.me.profile)

/-- R197, R147, R200: writing the writable registers under the access codes of their fields, with CSRX returning the
old value; a register whose fields are all read-only, or that is not listed, traps ILLEGAL. -/
def Sys2Proof.Claims.CsrWrites : Prop :=
  ∀ (s : State) (d a : BitVec 5) (c : BitVec 8),
    let v := reg s a
    let th := s.me
    let addr := v &&& 0x00FFFFFFFFFFFFFC
    let prof := (v &&& 1) ||| (if v &&& 0xFFFF0000 = 0 then th.profile &&& 0xFFFF0000 else v &&& 0xFFFF0000)
    (exec (.csrw a 0x01) s = .next (s.setMe { th with trapPc := addr }.adv)
      ∧ exec (.csrw a 0x04) s = .next (s.setMe { th with trapBase := addr }.adv)
      ∧ exec (.csrw a 0x0D) s = .next (s.setMe { th with fstat := th.fstat &&& ~~~(v.setWidth 4) }.adv)
      ∧ exec (.csrw a 0x0E) s = .next (s.setMe { th with profile := prof }.adv))
    ∧ (exec (.csrx d a 0x01) s = .next (s.setMe ({ th with trapPc := addr }.put d th.trapPc).adv)
      ∧ exec (.csrx d a 0x04) s = .next (s.setMe ({ th with trapBase := addr }.put d th.trapBase).adv)
      ∧ exec (.csrx d a 0x0D) s
          = .next (s.setMe ({ th with fstat := th.fstat &&& ~~~(v.setWidth 4) }.put d (th.fstat.setWidth 64)).adv)
      ∧ exec (.csrx d a 0x0E) s = .next (s.setMe ({ th with profile := prof }.put d th.profile).adv))
    ∧ (c ≠ 0x01 → c ≠ 0x04 → c ≠ 0x0D → c ≠ 0x0E →
      exec (.csrw a c) s = .next (illegalAt s (.csrw a c)) ∧ exec (.csrx d a c) s = .next (illegalAt s (.csrx d a c)))

/-- R197, R147, R200: the control and status registers. -/
def Obligations.CsrResults : Prop := Claims.CsrReads ∧ Claims.CsrWrites

/-- R204, R333: TLBINV drops from every cache of translations those of a page, of an ASID or all of them, and no other;
it completes once no write that used one is held, and with kind 1 the ASID's root, as last written, takes effect; an
ASID beyond 16 bits traps ILLEGAL. -/
def Sys2Proof.Claims.TlbinvResults : Prop :=
  ∀ (s : State) (d a : BitVec 5) (k : BitVec 2), s.priv = true → encodingOk (.tlbinv d a k) = true →
    (65536 ≤ (reg s d).toNat → exec (.tlbinv d a k) s = .next (illegalAt s (.tlbinv d a k)))
    ∧ ((reg s d).toNat < 65536 → ∃ t, exec (.tlbinv d a k) s = .next t
      ∧ (s.undrained k.toNat (reg s d).toNat (reg s a).toNat s.clk.fs = false →
          t = passed { s with ms := { s.ms with
            tlb := t.ms.tlb
            rootNow := if k.toNat = 1 then tset 0 s.ms.rootNow (reg s d).toNat (tget 0 s.ms.roots (reg s d).toNat)
              else s.ms.rootNow } })
      ∧ (s.undrained k.toNat (reg s d).toNat (reg s a).toNat s.clk.fs = true →
          t = { s with ms := { s.ms with tlb := t.ms.tlb } })
      ∧ ∀ e, e ∈ t.ms.tlb ↔ e ∈ s.ms.tlb ∧ ¬ (match k.toNat with
          | 0 => e.asid = (reg s d).toNat ∧ e.page = (reg s a).toNat / 2 ^ e.size
          | 1 => e.asid = (reg s d).toNat
          | _ => True))

/-- R205: the image of a thread, by offset. -/
def Sys2Proof.Claims.ImageLayout : Prop :=
  ∀ (th : Thread) (pc : W64),
    let w := fun (offset : Nat) => (th.image pc).getD (offset / 8) 0
    (th.image pc).length = 96 ∧ w 0x000 = pc
    ∧ (∀ i : Fin 32, i ≠ 0 → w (8 * i.val) = th.x[i.val])
    ∧ (∀ i : Fin 8, th.h[i.val] = w (0x118 + 32 * i.val) ++ w (0x110 + 32 * i.val) ++ w (0x108 + 32 * i.val)
        ++ w (0x100 + 32 * i.val))
    ∧ w 0x200 = th.trapPc ∧ w 0x208 = th.trapCause ∧ w 0x210 = th.trapInfo ∧ w 0x218 = th.trapBase
    ∧ w 0x220 = th.fstat.setWidth 64 ∧ w 0x228 = th.profile ∧ w 0x230 = (if th.inTrap then 1 else 0)
    ∧ w 0x238 = (th.tickets ++ th.note : BitVec 64) ∧ w 0x240 = th.cdepth.setWidth 64
    ∧ ∀ i, i < 23 → w (0x248 + 8 * i) = 0

/-- R205: CTXSAVE writes the image of the issuing thread, its pc the next instruction; CTXLD installs an image that
passes its checks and goes on at its pc; a reserved bit that is not zero traps ILLEGAL and installs nothing. -/
def Sys2Proof.Claims.ContextResults : Prop :=
  ∀ (s s1 s2 : State) (a : BitVec 5) (ws : List W64), s.priv = true → (reg s a).toNat % 64 = 0 →
    (s.probe (reg s a) 96 false = .ok s1 () →
      s1.storeWords (reg s a) (s.me.image (s.me.pc.setWidth 64 + 4)) = .ok s2 () →
      exec (.ctxsave a) s = .next (passed s2))
    ∧ (s.probe (reg s a) 96 true = .ok s1 () → s1.loadWords (reg s a) 96 = .ok s2 ws →
      (imageBad ws = false → imageHeaderFault (imgHeaders ws).toList = none →
        ∃ t, exec (.ctxld a) s = .next t ∧ SameOutside s2 t
          ∧ t.me.pc = (ws.getD 0 0).setWidth 56 ∧ (∀ i : Fin 32, i ≠ 0 → t.me.x[i.val] = ws.getD i.val 0)
          ∧ t.me.trapPc = ws.getD 64 0 ∧ t.me.trapCause = ws.getD 65 0 ∧ t.me.trapInfo = ws.getD 66 0
          ∧ t.me.trapBase = ws.getD 67 0 ∧ t.me.fstat = (ws.getD 68 0).setWidth 4
          ∧ t.me.inTrap = (ws.getD 70 0).getLsbD 0 ∧ (t.me.tickets ++ t.me.note : BitVec 64) = ws.getD 71 0
          ∧ t.me.cdepth = (ws.getD 72 0).setWidth 16
          ∧ t.me.safept = s2.me.safept ∧ t.me.grant = s2.me.grant ∧ t.me.ltbase = s2.me.ltbase)
      ∧ (imageBad ws = true → exec (.ctxld a) s = .next (illegalAt s2 (.ctxld a)))
      ∧ ((ws.getD 71 0).toNat / 2 ^ 13 % 8 ≠ 0 → imageBad ws = true))

/-- R204, R205: TLBINV, and the images of threads. ILLEGAL for an ASID beyond 16 bits and for a reserved bit of an
image are deductions of the model (logs 12, 13). -/
def Obligations.SystemResults : Prop := Claims.TlbinvResults ∧ Claims.ImageLayout ∧ Claims.ContextResults

/-- R206: LIGBIND of an image that passes its checks, with no running launch that configures the opcode, binds it and
sets x[d] to 0; with x[a] = 0 it clears the binding; a refusal changes no binding and answers its number. BUSY answers an
unbinding too, and comes after the other checks (R291's lowest code; log 53). -/
def Obligations.LigbindResults : Prop :=
  ∀ (s s1 s2 : State) (d a n : BitVec 5) (hd rest : List W64), s.priv = true →
    (reg s a = 0 → s.ligBusy s.asid (0xE0 + n.toNat) = false →
      exec (.ligbind d a n) s = .next (wrote (s.modCtx s.asid fun c => { c with ligs := tset none c.ligs n.toNat none }) d 0))
    ∧ (reg s a = 0 → s.ligBusy s.asid (0xE0 + n.toNat) = true → exec (.ligbind d a n) s = .next (wrote s d 5))
    ∧ (let bytes := fun (ws : List W64) => ws.flatMap fun w => bytesLE 8 w.toNat
      let img := bytes hd ++ bytes rest
      (reg s a).toNat % 8 = 0 → reg s a ≠ 0 → s.loadWords (reg s a) 2 = .ok s1 hd →
      s1.loadWords (reg s a + 16) (ligWords (bytes hd)) = .ok s2 rest →
      (ligCheck img n.toNat ≠ 0 →
        exec (.ligbind d a n) s = .next (wrote s2 d (BitVec.ofNat 64 (ligCheck img n.toNat))))
      ∧ (ligCheck img n.toNat = 0 → s2.ligBusy s.asid (0xE0 + n.toNat) = true →
        exec (.ligbind d a n) s = .next (wrote s2 d 5))
      ∧ (ligCheck img n.toNat = 0 → s2.ligBusy s.asid (0xE0 + n.toNat) = false →
        ∃ e, e.image = img.take (16 + 8 * ligWords img) ∧
        exec (.ligbind d a n) s = .next
          (wrote (s2.modCtx s.asid fun c => { c with ligs := tset none c.ligs n.toNat (some e) }) d 0)))

/-! ### Header registers -/

/-- R188, R189: HLD loads a header that passes checks 1-7, HGET reads a field, HSET writes one with the CRC made anew,
HCHK answers the first check of 1-10 that fails in memory form. HLD of a header that fails traps with its class, the check
and the detail word; HSET of an empty register, of a value beyond the field, or in word 0 of another MAGIC or HVER traps
ILLEGAL, and of a header that would fail checks 4-7 COMBO, with the register as it was. Check 7 is that of memory: an I48
tile with SLAY other than 0 fails it here, and is left to the reader's own rule in the fabric alone (log 114). -/
def Obligations.HeaderResults : Prop :=
  ∀ (s s1 : State) (h : BitVec 3) (d a : BitVec 5) (k f : BitVec 8) (pa lo len : Nat),
    (Reaches s (reg s a + 32 * k.signExtend 64) 32 .read false true false s1 pa → s1.ms.rangeBad pa 32 = false →
      let hd : Header := BitVec.ofNat 256 (valueAt s1 pa 32)
      (checks1to7 hd = 0 → exec (.hld h a k) s = .next (s1.setMe (s1.me.putH h hd).adv))
      ∧ (checks1to7 hd ≠ 0 → exec (.hld h a k) s = .next (trapped s1 (if checks1to7 hd ≤ 3 then .hdrCrc else .combo)
          (checks1to7 hd) (detailWord (checks1to7 hd) 4 hd) 0)))
    ∧ exec (.hchk d h) s = .next (wrote s d (BitVec.ofNat 64 (checks1to10 (s.me.getH h) true)))
    ∧ (encodingOk (.hget d h f) = true → headerField f.toNat = some (lo, len) →
        exec (.hget d h f) s = .next (wrote s d (BitVec.ofNat 64 ((s.me.getH h).toNat / 2 ^ lo % 2 ^ len))))
    ∧ (encodingOk (.hset h a f) = true → headerField f.toNat = some (lo, len) →
        let old := s.me.getH h
        let new := withCrc ((old.toNat % 2 ^ 224 - old.toNat / 2 ^ lo % 2 ^ len * 2 ^ lo) + (reg s a).toNat % 2 ^ len * 2 ^ lo)
        let bad : Prop := old = 0 ∨ 2 ^ len ≤ (reg s a).toNat ∨ (f = 32 ∧ (reg s a).toNat % 2 ^ 12 ≠ old.toNat % 2 ^ 12)
        (¬bad → checks1to7 new = 0 → exec (.hset h a f) s = .next (s.setMe (s.me.putH h new).adv))
        ∧ (bad → exec (.hset h a f) s = .next (illegalAt s (.hset h a f)))
        ∧ (¬bad → 4 ≤ checks1to7 new →
          exec (.hset h a f) s = .next (trapped s .combo (checks1to7 new) (detailWord (checks1to7 new) 4 new) 0)))

/-! ### Events, barriers, queues -/

/-- R182: EVSIG counts an event on, EVSET sets it, EVPOLL reads it, EVWAIT waits until it has come to x[d] and then
reads it; an event that is not granted traps PERM with its number, bits above 15 ILLEGAL. -/
def Sys2Proof.Claims.EventCounters : Prop :=
  ∀ (s : State) (d a : BitVec 5),
    let e := (reg s a).toNat
    let counter := s.event e
    (e < 65536 → s.granted e s.asid = true →
      exec (.evsig a) s = .next (passed (s.setEvent e (counter + 1)))
      ∧ exec (.evpoll d a) s = .next (wrote s d counter)
      ∧ exec (.evset d a) s = .next (passed (s.setEvent e (reg s d)))
      ∧ ((reg s d).toNat ≤ counter.toNat → exec (.evwait d a) s = .next (wrote s d counter))
      ∧ (counter.toNat < (reg s d).toNat → exec (.evwait d a) s = .next s))
    ∧ (e < 65536 → s.granted e s.asid = false → ∀ i, i = .evsig a ∨ i = .evwait d a ∨ i = .evpoll d a ∨ i = .evset d a →
      exec i s = .next (trapped s .perm 0 (reg s a) 0))
    ∧ (65536 ≤ e → ∀ i, i = .evsig a ∨ i = .evwait d a ∨ i = .evpoll d a ∨ i = .evset d a →
      exec i s = .next (illegalAt s i))

/-- R183: the first arrivals of a generation wait with their arrival recorded, the last releases it and begins the
next, and a thread whose generation has passed goes on; a mask without the thread, beyond the job or other than the
generation's traps ILLEGAL. -/
def Sys2Proof.Claims.BarResults : Prop :=
  ∀ (s : State) (a : BitVec 5) (i : BitVec 4) (id : JobId) (j : Job),
    let b := tget {} j.bars i.toNat
    let mask := if a = 0 then 2 ^ j.nrings - 1 else (reg s a).toNat % 65536
    let put := fun (b : Bar) => s.modJob id fun x => { x with bars := tset {} x.bars i.toNat b }
    let arr := b.arrived ||| 2 ^ s.me.n
    let good : Prop := mask / 2 ^ s.me.n % 2 = 1 ∧ mask < 2 ^ j.nrings ∧ (b.arrived = 0 ∨ b.mask = mask)
    s.me.job = some id → s.myJob = some j →
    let held := s.me.arrived.lookup i.toNat
    let rest := s.me.arrived.filter fun e => e.1 != i.toNat
    (held = none → good → arr = mask →
      exec (.bar a i) s = .next ((put { gen := b.gen + 1 }).setMe s.me.adv))
    ∧ (held = none → good → arr ≠ mask →
      exec (.bar a i) s = .next ((put { b with mask := mask, arrived := arr }).setMe
        { s.me with arrived := (i.toNat, b.gen) :: s.me.arrived }))
    ∧ (held = none → ¬good → exec (.bar a i) s = .next (illegalAt s (.bar a i)))
    ∧ (held = some b.gen → exec (.bar a i) s = .next s)
    ∧ (∀ g, g ≠ b.gen → held = some g →
      exec (.bar a i) s = .next (s.setMe { s.me with arrived := rest }.adv))

/-- R184, R185: QPUSH appends x[a] to a queue with a free entry, QPOP takes the oldest entry of one that holds any;
each waits otherwise. QSPACE answers the free entries of queues 0-3 and the held ones of queues 4-7. -/
def Sys2Proof.Claims.QueuesMove : Prop :=
  ∀ (s : State) (d a : BitVec 5) (q : BitVec 3),
    let k := 8 * s.cur + q.toNat
    let es := s.queueOf k
    (q.toNat < 4 → es.length < 256 → ∃ t, exec (.qpush a q) s = .next t ∧ t.queueOf k = es ++ [reg s a]
      ∧ t.me.regs = s.me.adv.regs ∧ t.ms = s.ms ∧ ∀ k', k' ≠ k → t.queueOf k' = s.queueOf k')
    ∧ (q.toNat < 4 → 256 ≤ es.length → exec (.qpush a q) s = .next s)
    ∧ (4 ≤ q.toNat → es = [] → exec (.qpop d q) s = .next s)
    ∧ (4 ≤ q.toNat → ∀ v rest, es = v :: rest →
        exec (.qpop d q) s = .next (((s.setMe (s.me.put d v).adv).setQueue k rest).settleThread s.cur))
    ∧ exec (.qspace d q) s = .next (wrote s d (BitVec.ofNat 64 (if q.toNat < 4 then 256 - es.length else es.length)))

/-- R185, R186: QNOTE arms the queue's notify bit with min(x[a], 256), and the bit is set at once, and the queue
disarmed, when the condition holds already; WFE waits while NOTE is zero, and then takes and clears it. -/
def Sys2Proof.Claims.NotifyResults : Prop :=
  ∀ (s : State) (d a : BitVec 5) (q : BitVec 3),
    let n := (s.queueOf (8 * s.cur + q.toNat)).length
    let have' := if q.toNat < 4 then 256 - n else n
    let t := min (reg s a).toNat 256
    (t = 0 ∨ have' < t → exec (.qnote a q) s = .next (s.setMe { s.me.adv with qarm := s.me.qarm.set q.toNat t }))
    ∧ (0 < t → t ≤ have' → exec (.qnote a q) s = .next (s.setMe { s.me.adv with
        qarm := s.me.qarm.set q.toNat 0, note := s.me.note ||| (1 : BitVec 16) <<< q.toNat }))
    ∧ (s.me.note = 0 → exec (.wfe d) s = .next s)
    ∧ (s.me.note ≠ 0 → exec (.wfe d) s = .next (s.setMe { (s.me.put d (s.me.note.setWidth 64)).adv with note := 0 }))

/-- R182-R186: events, barriers, exchange queues and the notify register. -/
def Obligations.EventResults : Prop :=
  Claims.EventCounters ∧ Claims.BarResults ∧ Claims.QueuesMove ∧ Claims.NotifyResults

/-! ### Layout records, stream issue, launches -/

/-- R190: LRREG registers the 64 bytes at x[a] and answers the handle, or the cause times 65,536 with nothing
registered; LRFREE ends a handle; LRKEY sets its key. A handle of no registered record traps ILLEGAL, a key that is not
bound KEY. -/
def Obligations.LayoutResults : Prop :=
  ∀ (s s1 s2 : State) (d a : BitVec 5) (ws : List W64) (h c : Nat) (l : Layout),
    let cx := s.ctx s.asid
    let no := (reg s a).toNat
    let key := (reg s d).toNat
    ((reg s a).toNat % 8 = 0 → s.loadWords (reg s a) 8 = .ok s1 ws →
      let r : BitVec 512 := BitVec.ofNat 512 (packBits 64 (ws.map BitVec.toNat))
      (s1.register s.asid r (s1.handleBusy s.asid) = (s2, .inl h) → exec (.lrreg d a) s = .next (wrote s2 d (BitVec.ofNat 64 h)))
      ∧ (s1.register s.asid r (s1.handleBusy s.asid) = (s2, .inr c) →
          s2 = s1 ∧ exec (.lrreg d a) s = .next (wrote s1 d (BitVec.ofNat 64 (c * 65536)))))
    ∧ ((reg s a).toNat % 8 ≠ 0 → exec (.lrreg d a) s = .next (trapped s .align 0 (reg s a) (reg s a)))
    ∧ (cx.layout no = some l →
        exec (.lrfree a) s = .next ((s.unregister s.asid no).setMe s.me.adv)
        ∧ (s.unregister s.asid no |>.ctx s.asid).layout no = none)
    ∧ (cx.layout no = none → exec (.lrfree a) s = .next (illegalAt s (.lrfree a))
        ∧ (s.priv = true → exec (.lrkey d a) s = .next (illegalAt s (.lrkey d a))))
    ∧ (s.priv = true → cx.layout no = some l → key < 65536 → key = 0 ∨ (cx.keySlot key).isSome = true →
        exec (.lrkey d a) s = .next (passed (s.modCtx s.asid fun c =>
          { c with layouts := tset none c.layouts no (some { l with key := key }) })))
    ∧ (s.priv = true → cx.layout no = some l → key < 65536 → key ≠ 0 → cx.keySlot key = none →
        exec (.lrkey d a) s = .next (trapped s .key 0 (reg s d) 0))

/-- R191-R193: SCX and SCL hand one 128-bit command over, with the next ticket, which x[d] receives, and go on behind
the instruction's words; while 64 commands are outstanding they wait, and an unassigned SCOP traps ILLEGAL. SCWAIT waits
for the commands up to ticket x[a], or for all. -/
def Obligations.StreamIssue : Prop :=
  ∀ (s : State) (d a : BitVec 5) (p : BitVec 4) (ls : BitVec 2) (inl : BitVec 128) (i : Instr) (bits : BitVec 128) (n : Nat),
    ((i = .scx d p ls ∧ bits = s.me.get (p.setWidth 5 * 2 + 1) ++ s.me.get (p.setWidth 5 * 2) ∧ n = 4)
        ∨ (i = .scl d ls inl ∧ bits = inl ∧ n = 20)) →
    (scopKnown (bits.toNat % 256) = true → (s.openTickets s.cur).length < 64 →
      ∃ t, exec i s = .next t ∧ t.me.tickets = s.me.tickets + 1
        ∧ (d ≠ 0 → t.me.get d = (s.me.tickets + 1).setWidth 64) ∧ (∀ r, r ≠ d → t.me.get r = s.me.get r)
        ∧ t.me.pc = s.me.pc + BitVec.ofNat 56 n
        ∧ t.openTickets s.cur = s.openTickets s.cur ++ [(s.me.tickets + 1).toNat]
        ∧ t.ms = s.ms ∧ t.dp = s.dp ∧ ∀ k, k ≠ s.cur → t.thread k = s.thread k)
    ∧ (scopKnown (bits.toNat % 256) = true → 64 ≤ (s.openTickets s.cur).length → exec i s = .next s)
    ∧ (scopKnown (bits.toNat % 256) = false → exec i s = .next (illegalAt s i))
    ∧ ((∃ x, x ∈ s.openTickets s.cur ∧ (reg s a = 0 ∨ x ≤ (reg s a).toNat)) → exec (.scwait a) s = .next s)
    ∧ ((∀ x, x ∈ s.openTickets s.cur → reg s a ≠ 0 ∧ (reg s a).toNat < x) → exec (.scwait a) s = .next (passed s))

/-- R195: GLAUNCH reads the galley entry and entry 0, and either starts the launch that the galley and the window
give, with the handles of the layout table captured, and answers 0; or answers the cause of R140, or 5 where the slot
holds a launch. Its checks trap as R195 says. That a chained launch is seen in every thread's slot, for answer 5, is
log 24; that a galley or a tree that cannot be read answers cause 1 is log 16; the rounding of what is reserved is log
54. -/
def Obligations.GlaunchResults : Prop :=
  ∀ (s s1 s2 : State) (d a : BitVec 5) (ls : BitVec 2) (e lt0 : Nat),
    let desc := reg s d
    let base := reg s a
    let ea := base + 8 * (desc &&& 0xFFFF)
    let chain := desc.getLsbD 32
    let off := desc.toNat / 2 ^ 16 % 32
    let p := desc.toNat / 2 ^ 24 % 32
    let bad : Prop := desc.toNat / 2 ^ 21 % 8 ≠ 0 ∨ desc.toNat / 2 ^ 29 % 8 ≠ 0 ∨ desc.toNat / 2 ^ 33 ≠ 0
      ∨ (chain = true ∧ (off ≠ 0 ∨ p ≠ 0))
    let id := slotOf s.cur ls.toNat
    (bad → exec (.glaunch d a ls) s = .next (trapped s .illegal 0 desc 0))
    ∧ (¬bad → base.toNat % 8 ≠ 0 → exec (.glaunch d a ls) s = .next (trapped s .align 0 base base))
    ∧ (¬bad → base.toNat % 8 = 0 → s.load ea 8 = .ok s1 e →
        (e % 4 ≠ 2 → exec (.glaunch d a ls) s = .next (trapped s .illegal 0 ea 0))
        ∧ (e % 4 = 2 → s1.load base 8 = .ok s2 lt0 →
          ((s2.shown id).isSome = true → exec (.glaunch d a ls) s = .next (wrote s2 d 5))
          ∧ (s2.shown id = none → ∀ c, s2.planLaunch (entryAddr e) ls.toNat off p chain = .inl c →
              exec (.glaunch d a ls) s = .next (wrote s2 d (BitVec.ofNat 64 c)))
          ∧ (s2.shown id = none → ∀ l, s2.planLaunch (entryAddr e) ls.toNat off p chain = .inr l →
              let placed := s2.setLaunch (launchKey id) (some { l with layouts := s2.tableHandles s2.asid (entryAddr lt0) })
              exec (.glaunch d a ls) s
                = .next (wrote (((placed.bindPending).stirred (launchKey id)).settle (launchKey id)) d 0))))

/-- R194, R196: GWAIT frees the slot of a launch that has ended and tells how it ended, waits for one that has not,
and answers 2 without a launch; GSTAT tells the slot's state; GMARK requests a marker; GSTOP stops the sources.
Neither of the last two has an effect on an empty slot. That another thread's chained launch is told of and not freed
is a deduction of the model (log 24). -/
def Obligations.LaunchControl : Prop :=
  ∀ (s : State) (d : BitVec 5) (ls : BitVec 2) (lk n : Nat) (l : Launch),
    let id := slotOf s.cur ls.toNat
    (s.shown id = none →
      exec (.gwait d ls) s = .next (wrote s d 2) ∧ exec (.gstat d ls) s = .next (wrote s d 0)
      ∧ exec (.gmark ls) s = .next (passed s) ∧ exec (.gstop ls) s = .next (passed s))
    ∧ (s.shown id = some (lk, n) → s.launch lk = some l →
      (l.ended = false → exec (.gwait d ls) s = .next s)
      ∧ (l.ended = true → lk = launchKey id →
          exec (.gwait d ls) s = .next (wrote (s.setLaunch lk none) d (if l.stopped then 1 else 0)))
      ∧ (l.ended = true → lk ≠ launchKey id → exec (.gwait d ls) s = .next (wrote s d (if l.stopped then 1 else 0)))
      ∧ exec (.gstat d ls) s = .next (wrote s d (BitVec.ofNat 64 ((if l.ended then 2
          else if (s.job l.job).any (fun j => j.phase == .saving) then 3 else 1)
          + (if l.stopped then 4 else 0) + l.sweeps % 65536 * 2 ^ 16 + l.gid % 65536 * 2 ^ 32)))
      ∧ (l.ended = true → exec (.gmark ls) s = .next (passed s) ∧ exec (.gstop ls) s = .next (passed s))
      ∧ (l.ended = false →
          exec (.gmark ls) s = .next ((passed s).request lk) ∧ exec (.gstop ls) s = .next ((passed s).gstop lk)))

namespace Sys2Proof.Claims

open Sys2Proof Sys2Proof.Machine

/-- The machine once every token at the external ends of a launch's links has moved as far as it can. -/
abbrev moved (s : State) (id : LaunchId) : State := s.settle (launchKey id)

/-- `i` is a firing of the element `id`, which holds opcode `op`, and `f` is the step of that operation: the
arithmetic and logic of 09. -/
def IsLaneOp (i : Instr) (id : ElemId) (op : Nat) (f : Cfg → OpSt → Ins → Res) : Prop :=
  (i = .vadd id ∧ op = 0x01 ∧ f = stepVadd) ∨ (i = .vsub id ∧ op = 0x02 ∧ f = stepVsub)
  ∨ (i = .vmul id ∧ op = 0x03 ∧ f = stepVmul) ∨ (i = .vfma id ∧ op = 0x04 ∧ f = stepVfma)
  ∨ (i = .vmin id ∧ op = 0x05 ∧ f = stepVmin) ∨ (i = .vmax id ∧ op = 0x06 ∧ f = stepVmax)
  ∨ (i = .vabs id ∧ op = 0x07 ∧ f = stepVabs) ∨ (i = .vneg id ∧ op = 0x08 ∧ f = stepVneg)
  ∨ (i = .vdiv id ∧ op = 0x09 ∧ f = stepVdiv) ∨ (i = .vsqrt id ∧ op = 0x0A ∧ f = stepVsqrt)
  ∨ (i = .vrcpe id ∧ op = 0x0B ∧ f = stepVrcpe) ∨ (i = .vrsqe id ∧ op = 0x0C ∧ f = stepVrsqe)
  ∨ (i = .vexp2 id ∧ op = 0x0D ∧ f = stepVexp2) ∨ (i = .vlog2 id ∧ op = 0x0E ∧ f = stepVlog2)
  ∨ (i = .vtanh id ∧ op = 0x0F ∧ f = stepVtanh) ∨ (i = .vsigm id ∧ op = 0x10 ∧ f = stepVsigm)
  ∨ (i = .viadd id ∧ op = 0x11 ∧ f = stepViadd) ∨ (i = .visub id ∧ op = 0x12 ∧ f = stepVisub)
  ∨ (i = .vimul id ∧ op = 0x13 ∧ f = stepVimul) ∨ (i = .vimulh id ∧ op = 0x14 ∧ f = stepVimulh)
  ∨ (i = .vshl id ∧ op = 0x15 ∧ f = stepVshl) ∨ (i = .vshr id ∧ op = 0x16 ∧ f = stepVshr)
  ∨ (i = .vsar id ∧ op = 0x17 ∧ f = stepVsar) ∨ (i = .vand id ∧ op = 0x18 ∧ f = stepVand)
  ∨ (i = .vor id ∧ op = 0x19 ∧ f = stepVor) ∨ (i = .vxor id ∧ op = 0x1A ∧ f = stepVxor)
  ∨ (i = .vnot id ∧ op = 0x1B ∧ f = stepVnot) ∨ (i = .vabsd id ∧ op = 0x1C ∧ f = stepVabsd)
  ∨ (i = .vcmp id ∧ op = 0x20 ∧ f = stepVcmp) ∨ (i = .vsel id ∧ op = 0x21 ∧ f = stepVsel)
  ∨ (i = .vclamp id ∧ op = 0x22 ∧ f = stepVclamp)

/-- The same for conversion, headers, lane movement, streams and state of 09. -/
def IsStreamOp (i : Instr) (id : ElemId) (op : Nat) (f : Cfg → OpSt → Ins → Res) : Prop :=
  (i = .vcvt id ∧ op = 0x28 ∧ f = stepVcvt) ∨ (i = .vresc id ∧ op = 0x29 ∧ f = stepVresc)
  ∨ (i = .vqnt id ∧ op = 0x2A ∧ f = stepVqnt) ∨ (i = .vhdr id ∧ op = 0x2B ∧ f = stepVhdr)
  ∨ (i = .vperm id ∧ op = 0x30 ∧ f = stepVperm) ∨ (i = .vrot id ∧ op = 0x31 ∧ f = stepVrot)
  ∨ (i = .vbcast id ∧ op = 0x32 ∧ f = stepVbcast) ∨ (i = .vpack id ∧ op = 0x33 ∧ f = stepVpack)
  ∨ (i = .vunpk id ∧ op = 0x34 ∧ f = stepVunpk) ∨ (i = .vpass id ∧ op = 0x40 ∧ f = stepVpass)
  ∨ (i = .vbuf id ∧ op = 0x41 ∧ f = stepVbuf) ∨ (i = .vcnt id ∧ op = 0x42 ∧ f = stepVcnt)
  ∨ (i = .vrep id ∧ op = 0x44 ∧ f = stepVrep) ∨ (i = .vxtr id ∧ op = 0x45 ∧ f = stepVxtr)
  ∨ (i = .vmerge id ∧ op = 0x46 ∧ f = stepVmerge) ∨ (i = .vsplit id ∧ op = 0x47 ∧ f = stepVsplit)
  ∨ (i = .vtake id ∧ op = 0x48 ∧ f = stepVtake) ∨ (i = .vstate id ∧ op = 0x49 ∧ f = stepVstate)

/-- The same for the reductions, scans and matrix operations of 10. -/
def IsMatrixOp (i : Instr) (id : ElemId) (op : Nat) (f : Cfg → OpSt → Ins → Res) : Prop :=
  (i = .vred id ∧ op = 0x38 ∧ f = stepVred) ∨ (i = .vscan id ∧ op = 0x39 ∧ f = stepVscan)
  ∨ (i = .vacc id ∧ op = 0x3A ∧ f = stepVacc) ∨ (i = .vlrec id ∧ op = 0x3B ∧ f = stepVlrec)
  ∨ (i = .vchunk id ∧ op = 0x3C ∧ f = stepVchunk) ∨ (i = .vseg id ∧ op = 0x3D ∧ f = stepVseg)
  ∨ (i = .mma id ∧ op = 0x60 ∧ f = stepMma) ∨ (i = .mmag id ∧ op = 0x61 ∧ f = stepMmag)
  ∨ (i = .mlatb id ∧ op = 0x62 ∧ f = stepMlatb) ∨ (i = .mout id ∧ op = 0x63 ∧ f = stepMout)
  ∨ (i = .mzero id ∧ op = 0x64 ∧ f = stepMzero) ∨ (i = .mouter id ∧ op = 0x65 ∧ f = stepMouter)
  ∨ (i = .mtrn id ∧ op = 0x66 ∧ f = stepMtrn) ∨ (i = .mdot id ∧ op = 0x67 ∧ f = stepMdot)

/-- A firing of an element by the step of its operation. -/
def IsElemOp (i : Instr) (id : ElemId) (op : Nat) (f : Cfg → OpSt → Ins → Res) : Prop :=
  IsLaneOp i id op f ∨ IsStreamOp i id op f ∨ IsMatrixOp i id op f

/-- The element that an identity names, in the machine `s1` where links have moved: it is configured, it may fire in
this fc, and nothing holds it: it owes no token, no ERR, aligned tag or FSW heads its inputs, and its outputs have
capacity (08 R219-R221). -/
structure Free (s1 : State) (id : ElemId) (x : Site) : Prop where
  site : s1.site id = some x
  may : s1.may x = true
  oweA : x.e.owea = []
  oweB : x.e.oweb = []
  noErr : ∀ k, headTag (s1.inHead x k) ≠ some .err
  noTag : heldBy x.cfg (s1.insOf x) = false
  roomA : s1.roomOf x 0 = true
  roomB : s1.roomOf x 1 = true

/-- What an output that is enabled sends, and what an output that is not. -/
def sends (x : Site) (o : Nat) (ts : List Tok) : List Tok := if x.cfg.outOn o then ts else []

/-- The element after a firing of its operation: its operation's registers, the tokens that it then owes, and the
flags it has set. -/
def firedElem (x : Site) (r : Fire) : ElemSt :=
  { x.e with st := r.st
             owea := (splitTok (sends x 0 (r.outa ++ r.owea))).2
             oweb := (splitTok (sends x 1 (r.outb ++ r.oweb))).2
             flags := orFlags x.e.flags r.flags }

/-- A firing performed: the heads of the inputs named are consumed, one token goes out on each output that has any, the
element has counted the firing, and the fabric moves on. -/
def fired (s1 : State) (x : Site) (r : Fire) : State :=
  s1.commit x (firedElem x r) r.take (splitTok (sends x 0 (r.outa ++ r.owea))).1
    (splitTok (sends x 1 (r.outb ++ r.oweb))).1

/-- A header of a tile of a format without scales and sparsity, in link form, that passes its checks: its order, rows
and columns. -/
def DenseHdr (h : Header) (f : Fmt) (o rows cols : Nat) : Prop :=
  checks1to11 h false none = 0 ∧ (Hdr.ofBits h).fmt = fmtCode f ∧ (Hdr.ofBits h).slay = 0 ∧ (Hdr.ofBits h).spar = 0
  ∧ (Hdr.ofBits h).order = o ∧ (Hdr.ofBits h).rowsM1 + 1 = rows ∧ (Hdr.ofBits h).colsM1 + 1 = cols
  ∧ (Hdr.ofBits h).rstride = ((Hdr.ofBits h).linkGeom f).lineBytes

/-- Lane `q` of a DATA token of elements of `w` bits. -/
def lane (w : Nat) (d : BitVec 2048) (q : Nat) : Nat := d.toNat / 2 ^ (w * q) % 2 ^ w

/-- Elements of `w` bits that a DATA token has room for. -/
def perTok (w : Nat) : Nat := 2048 / w

/-- An element-by-element operation within tiles of format `f`, in row or column order `o`: `k` DATA tokens of each tile
input named and of the result, whose format is `g`, have passed, and DATA token `k` of each, `d i`, heads its input. A
tile of elements narrower than a byte has one line, so that no line ends within a byte. -/
structure AtToken (is : List Nat) (f g : Fmt) (o rows cols k : Nat) (d : Nat → BitVec 2048) (st : OpSt) (ins : Ins) :
    Prop where
  more : k * perTok (fmtWidth f) < rows * cols
  lines : o < 2 ∧ (8 ≤ fmtWidth f ∨ (if o = 1 then cols else rows) = 1)
  inputs : ∀ i, i ∈ is → ∃ h img, DenseHdr h f o rows cols ∧ img < 2 ^ (2048 * k)
    ∧ st.inp i = some { hdr := h, img := img, got := k } ∧ ins.get i = some { tok := .data (d i) }
  result : ∃ h img, DenseHdr h f o rows cols ∧ st.inp 0 = some { hdr := h, img := img, got := k } ∧
    ∃ r, r < 2 ^ (2048 * k) ∧ st.outa = some { hdr := linkHdr (resultHdr (Hdr.ofBits h) g), img := r
                                               cnt := k * perTok (fmtWidth f), sent := k }
  pos : st.pos = k * perTok (fmtWidth f)
  rest : st.outb = none ∧ st.hold = false ∧ st.seg = none

/-- A step that takes the DATA token of each input named and puts one DATA token of `n` elements of `w` bits on o0, as
`g` says by position: the code and the flags. -/
def LanesGo (r : Res) (is : List Nat) (w n : Nat) (g : Nat → Nat × Flags) : Prop :=
  ∃ f d, r = .fire f ∧ f.take = bitsMask is ∧ f.outa = [.data d] ∧ f.outb = [] ∧ f.owea = [] ∧ f.oweb = []
    ∧ (∀ q, q < n → lane w d q = (g q).1 % 2 ^ w) ∧ d.toNat < 2 ^ (w * n)
    ∧ f.flags = ((List.range n).map g).foldl (fun a e => orFlags a e.2) {}

/-- The tile inputs of an operation of `n` operands: a scalar takes the place of B with MODE bit 0, of C with bit 1
(R232). -/
def tileIns (c : Cfg) (n : Nat) : List Nat :=
  (List.range n).filter fun i => !(i == 1 && c.mode % 2 == 1) && !(i == 2 && c.mode / 2 % 2 == 1)

/-- The number of elements in DATA token `k` of a tile of `n`. -/
def inToken (w n k : Nat) : Nat := min (perTok w) (n - k * perTok w)

end Sys2Proof.Claims

/-! ### The fabric: elements -/

/-- R219-R221, 09, 10: an element that holds an operation, may fire in this fc and is held by nothing fires by the step
of its operation: heads consumed, one token sent on each output that has any, registers and flags written. Where the
step has nothing to do, nothing is consumed; where it faults, the fault is recorded at the element. VBUF may owe
sixteen tokens. -/
def Sys2Proof.Claims.StepsFire : Prop :=
  ∀ (s : State) (i : Instr) (id : ElemId) (op : Nat) (f : Cfg → OpSt → Ins → Res) (x : Site),
    IsElemOp i id op f → Free (moved s id.launch) id x → x.cfg.op = op →
    (∀ r, f x.cfg x.e.st ((moved s id.launch).insOf x) = .fire r →
        (op = 0x41 → tokCount (firedElem x r).owea ≤ 16) →
        exec i s = .next (fired (moved s id.launch) x r))
    ∧ (f x.cfg x.e.st ((moved s id.launch).insOf x) = .idle → exec i s = .next (moved s id.launch))
    ∧ (∀ cls d, f x.cfg x.e.st ((moved s id.launch).insOf x) = .bad cls d →
        exec i s = .next ((moved s id.launch).elemFault x cls d))

/-- R289: the same for an element with a ligature opcode, whose step is that of the image bound to the opcode in the
launch's context; and R254 for VCONST, in a resident pipeline without markers and before GSTOP, which sends the tiles
of its constant pool and takes nothing. -/
def Sys2Proof.Claims.ConstAndLigatureFire : Prop :=
  ∀ (s : State) (id : ElemId) (x : Site) (r : Fire),
    let s1 := moved s id.launch
    Free s1 id x →
    (∀ img, opLig x.cfg.op = true → s1.ligImage (s1.lkAsid (launchKey id.launch)) x.cfg.op = some img →
      ligStep img x.cfg x.e.st (s1.insOf x) = .fire r → exec (.ligature id) s = .next (fired s1 x r))
    ∧ (x.cfg.op = 0x43 → x.l.blockLen x.k = none → x.l.snapOn = false → x.l.stopped = false → (s1.constEnv x).saving = false →
      stepVconst x.cfg x.e.st (s1.insOf x) = .fire r → hasMark (r.outa ++ r.owea) = false →
      exec (.vconst id) s = .next ((s1.countIn x.lk (splitTok (sends x 0 (r.outa ++ r.owea))).1).commit x (firedElem x r) r.take
        (splitTok (sends x 0 (r.outa ++ r.owea))).1 (splitTok (sends x 1 (r.outb ++ r.oweb))).1))

/-- R219, R220: an element that is not configured, does not hold the operation, or may not fire in this fc does
nothing. -/
def Sys2Proof.Claims.ElementHeld : Prop :=
  ∀ (s : State) (i : Instr) (id : ElemId) (op : Nat) (f : Cfg → OpSt → Ins → Res), IsElemOp i id op f →
    ((moved s id.launch).site id = none → exec i s = .next s)
    ∧ (∀ x, (moved s id.launch).site id = some x →
        (x.cfg.op ≠ op ∨ (moved s id.launch).may x = false → exec i s = .next s)
        ∧ (x.cfg.op = op → (moved s id.launch).may x = true → x.e.owea = [] → x.e.oweb = [] →
            (∃ k, k < 3 ∧ headTag ((moved s id.launch).inHead x k) = some .err) →
            exec i s = .next (moved s id.launch)))

/-- R219-R221, R254, R289: the firing of every element operation of 09 and 10. -/
def Obligations.ElementFires : Prop := Claims.StepsFire ∧ Claims.ElementHeld ∧ Claims.ConstAndLigatureFire

/-- R232, R238: the element-by-element floating-point operations on tiles of any Float format, at each of their
DATA tokens (K6, whose lines end within bytes, in tiles of one line), into the same format or another of its width, with a tile or the scalar of IMM32 for B and a tile or the constant of the pool for C: lane by lane the
result of the operation, rounded once in the element's mode, with the flags of all lanes. -/
def Sys2Proof.Claims.FloatLanes : Prop :=
  ∀ (c : Cfg) (f : Fmt) (o rows cols k : Nat) (d : Nat → BitVec 2048) (st : OpSt) (ins : Ins),
    let w := fmtWidth f
    let g := c.outFmt f
    let x := fun i q =>
      if i = 1 ∧ c.mode % 2 = 1 then valF32 c.imm32
      else if i = 2 ∧ c.mode / 2 % 2 = 1 then valF32 (c.poolWord c.imm16)
      else decodeElem f 0 (lane w (d i) q)
    let rnd := fun (v : Val) (fl : Flags) => let r := c.fit g v; (r.1, orFlags fl r.2)
    let inv := fun (b : Bool) => ({ inv := b } : Flags)
    let go := fun (step : Cfg → OpSt → Ins → Res) (m : Nat) (r : Nat → Nat × Flags) =>
      AtToken (tileIns c m) f g o rows cols k d st ins → LanesGo (step c st ins) (tileIns c m) w (inToken w (rows * cols) k) r
    isFloat f = true → isFloat g = true → fmtWidth g = w → c.mode < 4 →
    go stepVadd 2 (fun q => let r := addV (rndOf c.rnd) (x 0 q) (x 1 q); rnd r.1 (inv r.2))
    ∧ go stepVsub 2 (fun q => let r := addV (rndOf c.rnd) (x 0 q) (negV (x 1 q)); rnd r.1 (inv r.2))
    ∧ go stepVmul 2 (fun q => let r := mulV (x 0 q) (x 1 q); rnd r.1 (inv r.2))
    ∧ go stepVfma 3 (fun q => let p := mulV (x 0 q) (x 1 q); let r := addV (rndOf c.rnd) p.1 (x 2 q); rnd r.1 (inv (p.2 || r.2)))
    ∧ go stepVmin 2 (fun q =>
        rnd (if isNan (x 0 q) || isNan (x 1 q) then .nan
             else if ltV (x 0 q) (x 1 q) || (!ltV (x 1 q) (x 0 q) && valNeg (x 0 q)) then x 0 q else x 1 q) {})
    ∧ go stepVmax 2 (fun q =>
        rnd (if isNan (x 0 q) || isNan (x 1 q) then .nan
             else if ltV (x 0 q) (x 1 q) || (!ltV (x 1 q) (x 0 q) && valNeg (x 0 q)) then x 1 q else x 0 q) {})
    ∧ go stepVdiv 2 (fun q => let r := divV (x 0 q) (x 1 q); rnd r.1 r.2)
    ∧ go stepVabs 1 (fun q => rnd (absV (x 0 q)) {})
    ∧ go stepVneg 1 (fun q => rnd (negV (x 0 q)) {})

/-- R232, R242: the integer operations on tiles of any Integer format, at each of their DATA tokens (INT4 and UINT4 in
tiles of one line), with a tile or the scalar of IMM32 for B: the exact result fit to the format, or the bits of the result without a flag.
What VIMULH keeps of a product with a scalar beyond the format's range is the model's choice (log 130). -/
def Sys2Proof.Claims.IntegerLanes : Prop :=
  ∀ (c : Cfg) (f : Fmt) (o rows cols k : Nat) (d : Nat → BitVec 2048) (st : OpSt) (ins : Ins),
    let w := fmtWidth f
    let x := fun i q => if i = 1 ∧ c.mode % 2 = 1 then signedN 32 c.imm32 else decodeInt f (lane w (d i) q)
    let pat := fun i q => wrapN w (x i q)
    let sh := fun q => wrapN 6 (x 1 q)
    let fit := fun (v : Int) => c.fit f (valOfInt v)
    let bits := fun (v : Nat) => (v, ({} : Flags))
    let go := fun (step : Cfg → OpSt → Ins → Res) (r : Nat → Nat × Flags) =>
      AtToken (tileIns c 2) f f o rows cols k d st ins → LanesGo (step c st ins) (tileIns c 2) w (inToken w (rows * cols) k) r
    isInt f = true → f ≠ .i48 →
    (c.mode < 2 →
      go stepViadd (fun q => fit (x 0 q + x 1 q))
      ∧ go stepVisub (fun q => fit (x 0 q - x 1 q))
      ∧ go stepVimul (fun q => fit (x 0 q * x 1 q))
      ∧ go stepVimulh (fun q => bits (wrapN w (x 0 q * x 1 q / 2 ^ w)))
      ∧ go stepVabsd (fun q => fit (x 0 q - x 1 q).natAbs)
      ∧ go stepVshl (fun q => fit (x 0 q * 2 ^ sh q))
      ∧ go stepVshr (fun q => bits (pat 0 q / 2 ^ sh q))
      ∧ go stepVsar (fun q => bits (wrapN w (x 0 q / 2 ^ sh q)))
      ∧ go stepVand (fun q => bits (pat 0 q &&& pat 1 q))
      ∧ go stepVor (fun q => bits (pat 0 q ||| pat 1 q))
      ∧ go stepVxor (fun q => bits (pat 0 q ^^^ pat 1 q)))
    ∧ (c.mode = 0 → AtToken [0] f f o rows cols k d st ins →
        LanesGo (stepVnot c st ins) [0] w (inToken w (rows * cols) k) (fun q => bits (2 ^ w - 1 - pat 0 q)))

/-- R238, R242: the element-by-element operations, lane by lane. -/
def Obligations.LaneResults : Prop := Claims.FloatLanes ∧ Claims.IntegerLanes

/-- The frame of every firing of an element, a router or a tag: no thread's registers change, and no context,
scratchpad byte, board register or clock; of memory only what an overflow queue's translation marks, so that without
one every byte is as before (08 R219-R221, 11 R324). -/
def Obligations.FabricFrame : Prop :=
  ∀ (s t : State) (i : Instr),
    ((∃ id op f, IsElemOp i id op f) ∨ (∃ id, i = .ligature id ∨ i = .alignedTag id ∨ i = .errToken id)
      ∨ (∃ r, i = .steer r ∨ i = .merge r ∨ i = .carry r ∨ i = .join r ∨ i = .fork r ∨ i = .ordj r)) →
    exec i s = .next t →
      (∀ k, (t.thread k).regs = (s.thread k).regs) ∧ t.ctxs = s.ctxs ∧ t.scratch = s.scratch ∧ t.bd = s.bd
      ∧ t.clk = s.clk ∧ ((∀ e, e ∈ s.fab.links → e.2.ovf = none) → t.ms = s.ms)

namespace Sys2Proof.Claims

open Sys2Proof Sys2Proof.Machine

/-- The AG element that an identity names, with its operation: configured, may fire, no ERR at its inputs. -/
structure AgFree (s1 : State) (id : ElemId) (op : Nat) (x : Site) : Prop where
  site : s1.site id = some x
  op : x.cfg.op = op
  may : s1.may x = true
  noErr : errAt (s1.headsOf x) = false

/-- A firing of an AG element that takes inputs and changes the machine as `f` says. -/
abbrev agFires (s1 : State) (x : Site) (take : Nat) (f : State → State) : Out := .next (s1.agFired x take f)

end Sys2Proof.Claims

/-! ### The fabric: AG elements, tags, routers -/

/-- R307, R318: AGLD and AGGAT send the head of their port's reply stream, which leaves it; AGGAT takes an index token
for a gather that has none. R308, R309: AGST and AGRED take the head of their input into their port's command; AGSCT
takes a tile on A, and its index on B with the tile's EOT; the EOS of an input is noted. A store element first sends
the token that tells of a tile written (R317). -/
def Sys2Proof.Claims.AgPortsMove : Prop :=
  ∀ (s : State) (id : ElemId) (op : Nat) (x : Site) (h : Head),
    let s1 := moved s id.launch
    let p := s1.port x.port
    let r := s1.siteRef x
    AgFree s1 id op x →
    ((op = 0x70 ∨ op = 0x72) → p.replyHead = some h → s1.mayEmit x p (some h) = true → x.l.owesMark p = false →
      h.tok.tag ≠ some .mark → s1.inHead x 0 = none →
      ∀ i, (i = .agld id ∧ op = 0x70) ∨ (i = .aggat id ∧ op = 0x72) →
      exec i s = agFires s1 x 0 fun a =>
        ((a.setPort x.port { s1.delivered x.l x.k p h.toks with reply := p.reply.drop (h.segs.length + 1) }).countIn x.lk
          h.toks).sendOut x.lk x.l x.k x.c 0 h.toks)
    ∧ (op = 0x72 → ∀ v c, s1.inHead x 0 = some { tok := .ctl .data v } → p.cur = some c → c.cmd.scop = 3 →
        p.index = none → c.loaded = false → c.freeze = none → p.sealed = false → p.atStop c = false →
        headTag p.replyHead ≠ some .fsw →
        exec (.aggat id) s = agFires s1 x 1 fun a => a.modPort x.port fun q => { q with index := some v.toNat })
    ∧ ((op = 0x71 ∨ op = 0x74) → p.reply = [] → s1.inHead x 0 = some h → storeHead x.cfg (some h) = true →
        s1.storeTakes r h = true → ∀ i, (i = .agst id ∧ op = 0x71) ∨ (i = .agred id ∧ op = 0x74) →
        exec i s = agFires s1 { x with e := eosMark x.e (some h) 1 } 1 fun a => a.storeTok r h none)
    ∧ (op = 0x73 → p.reply = [] → x.l.stopped = false → p.sealed = false → s1.inHead x 0 = some h →
        tagHead (some h) = false → tagHead (s1.inHead x 1) = false → s1.storeTakes r h = true →
        (headEot (some h) = false → exec (.agsct id) s = agFires s1 x 1 fun a => a.storeTok r h none)
        ∧ (∀ v, headEot (some h) = true → headVal (s1.inHead x 1) = some v →
            exec (.agsct id) s = agFires s1 x 3 fun a => a.storeTok r h (some v.toNat)))
    ∧ (∀ t, p.reply = t :: (p.reply.drop 1) → s1.roomOf x 0 = true → s1.rateOk x.l p = true →
        ∀ i, (i = .agst id ∧ op = 0x71) ∨ (i = .agsct id ∧ op = 0x73) ∨ (i = .agred id ∧ op = 0x74) →
        exec i s = agFires s1 x 0 fun a =>
          (a.setPort x.port { s1.rated x.l p 1 with reply := p.reply.drop 1 }).sendOut x.lk x.l x.k x.c 0 [t.2])

/-- R323, R21, R30: AGSPAD in FIFO mode sends the head of its region's buffer with the payload that the region's granules
hold, and writes a token behind those it holds; in WRITE mode it gathers a tile and writes it, in canonical form, to the
next slot with the tile's EOT; in READ mode a control value names the slot whose tile it then sends. A token that its
tile's rules do not allow fails its check. Without a binding it waits; with SC = 1 it accesses the scratchpad only in a
visit of the sequencing token (R306). -/
def Sys2Proof.Claims.AgspadResults : Prop :=
  ∀ (s : State) (id : ElemId) (x : Site) (h : Head),
    let s1 := moved s id.launch
    let p := s1.port x.port
    let r := s1.siteRef x
    AgFree s1 id 0x75 x →
    (x.cfg.sc = true → s1.spadAccess x = true → exec (.agspad id) s = .next s1)
    ∧ (p.spad = none → exec (.agspad id) s = .next s1)
    ∧ ∀ b, p.spad = some b → (x.cfg.sc = false ∨ s1.spadAccess x = false) →
      (x.cfg.mode = 0 → headOf [] b.q = some h → s1.roomOf x 0 = true → s1.rateOk x.l p = true →
        let out := fun (a : State) => ((a.setSpad x.port { b with q := dropHead b.q }).spadRated x).sendOut x.lk x.l x.k x.c 0
          (s1.spFifoGet r b ((b.next + b.splen - fifoGran b.q % b.splen) % b.splen) h.toks)
        (h.tok.tag ≠ some .mark → exec (.agspad id) s = agFires s1 x 0 out)
        ∧ (h.tok.tag = some .mark → exec (.agspad id) s = .next (s1.agPassed x out)))
      ∧ (x.cfg.mode = 0 → headOf [] b.q = none → s1.inHead x 0 = some h →
        (h.tok.tag ≠ some .fsw ∧ h.tok.tag ≠ some .err ∧ h.tok.tag ≠ some .mark) →
        ((x.l.linkTo x.k x.c 0).any fun (_, _, w) => w.plane == 0) = true →
        fifoGran b.q + fifoGran h.toks ≤ b.splen →
        (∀ tile, spadTile p.tile h.tok = .ok tile →
          exec (.agspad id) s = agFires s1 { x with e := eosMark x.e (some h) 1 } 1 fun a =>
            ((a.spFifoPut r b b.next h.toks).setSpad x.port
              { b with q := b.q ++ h.toks, next := (b.next + fifoGran h.toks) % b.splen }).modPort x.port fun q =>
                { q with tile := tile })
        ∧ (∀ cls d, spadTile p.tile h.tok = .error (cls, d) → exec (.agspad id) s = .next (s1.portFail r cls d 0)))
      ∧ (x.cfg.mode = 1 → ∀ d t, h.tok = .data d → s1.inHead x 0 = some h → p.tile = some t → t.got < t.n →
        exec (.agspad id) s = agFires s1 x 1 fun a => a.modPort x.port fun q => { q with tile := some (t.add d) })
      ∧ (x.cfg.mode = 1 → ∀ v t, h.tok = .ctl .eot v → s1.inHead x 0 = some h → p.tile = some t → t.got = t.n →
        eotFits t v = true →
        exec (.agspad id) s = agFires s1 x 1 fun a =>
          (a.spPut r (32 * (b.spoff + b.next * b.tsize)) (linkTile t.hdr t.img).toMem).modPort x.port fun q =>
            { q with tile := none, spad := some { b with next := (b.next + 1) % (b.splen / b.tsize) } })
      ∧ (2 ≤ x.cfg.mode → x.e.owea = [] → ∀ v s2 t, headVal (s1.inHead x 0) = some v → v.toNat < b.splen / b.tsize →
        s1.tileInSpad r (32 * (b.spoff + v.toNat * b.tsize)) (b.tsize * 32) 0x3F false = (s2, .ok t) →
        exec (.agspad id) s = .next (s2.agFired
          { x with e := { x.e with owea := tileToks (t.toLink t.x.seq).1 (t.toLink t.x.seq).2 } } 1 fun a => a))

/-- R307-R309, R317, R318, R323: the AG element operations. R21, R30 and R306 for AGSPAD; the payload of FIFO tokens
in the region's granules is a deduction of the model (log 42). -/
def Obligations.AgResults : Prop := Claims.AgPortsMove ∧ Claims.AgspadResults

/-- R219: the tag that heads every input over which it is aligned is consumed from them and sent, with the payload at
the lowest, on every enabled output; the operation's registers change as its rule says, and an EOS is noted. An ERR at
an input is consumed alone, sent on every enabled output, and what the element owed is discarded. -/
def Sys2Proof.Claims.TagsPass : Prop :=
  ∀ (s : State) (id : ElemId) (x : Site),
    let s1 := moved s id.launch
    let out := fun (tok : Tok) (a : State) => (a.sendOut x.lk x.l x.k x.c 0 (sends x 0 [tok])).sendOut x.lk x.l x.k x.c 1
      (sends x 1 [tok])
    let done := fun (a : State) => (a.stirred x.lk).settle x.lk
    s1.site id = some x →
    (∀ t st, s1.may x = true → alignedAt x.cfg (s1.insOf x) = some t → t ≠ .fsw → t ≠ .mark → opAg x.cfg.op = false →
      x.cfg.op ≠ 0x41 → errAt (s1.headsOf x) = false → x.e.owea = [] → x.e.oweb = [] → s1.roomOf x 0 = true →
      s1.roomOf x 1 = true → opTag x.cfg x.e.st t = some st →
      let is := tagInputs x.cfg t
      let e := { x.e with st := st, lastFc := some s.clk.fc
                          eos := if t = .eos then x.e.eos ||| bitsMask is else x.e.eos }
      exec (.alignedTag id) s
        = .next (done ((out (.ctl t (payOf (s1.insOf x) is)) (s1.popAll x (bitsMask is))).setElem x.key e)))
    ∧ (∀ k h, k < 3 → s1.lkActive x.lk = true → s1.inHead x k = some h → headTag (some h) = some .err →
      (∀ j, j < k → headTag (s1.inHead x j) ≠ some .err) →
      exec (.errToken id) s = .next (done ((out (.ctl .err h.tok.pay) (s1.popAll x (2 ^ k))).setElem x.key
        { x.e with owea := [], oweb := [] })))

/-- R133, R137: an element of a scrolling pipeline at whose every enabled input an FSW stands consumes them, sends FSW
on every enabled output and leaves its forme, a store element once it has told of its tiles (11 R317) and no tile is open
at it (01 R30); a VCONST leaves behind the elements that have inputs, once it has counted its block (log 41); a record kept
for the forme, the whole state of the element (log 104), is restored before the element's first firing. -/
def Sys2Proof.Claims.SwitchResults : Prop :=
  ∀ (s : State) (id : ElemId) (x : Site),
    let s1 := moved s id.launch
    let p := s1.port x.port
    let done := fun (a : State) => (a.stirred x.lk).settle x.lk
    (s1.site id = some x → s1.may x = true → x.e.owea = [] → x.e.oweb = [] → x.p.scrolls = true →
      (opAg x.cfg.op = true → x.cfg.outOn 0 = true → p.reply = [] ∧ p.full = none) → p.inTile x = false →
      (∀ st h, x.cfg.inen ≠ 0 → x.cfg.replies = false →
        (∀ k, k < 3 → x.cfg.inOn k = true → headTag (s1.inHead x k) = some .fsw) →
        (((List.range 3).filter x.cfg.inOn).head?).bind (s1.insOf x).get = some h →
        s1.roomOf x 0 = true → s1.roomOf x 1 = true → opTag x.cfg x.e.st .fsw = some st →
        let tok := Tok.ctl .fsw h.tok.pay
        let sent := ((s1.popAll x x.cfg.inen).sendOut x.lk x.l x.k x.c 0 (sends x 0 [tok])).sendOut x.lk x.l x.k x.c 1
          (sends x 1 [tok])
        exec (.formeSwitch id) s = .next (done (((sent.setElem x.key
          { x.e with st := st, lastFc := some s.clk.fc }).leave x.lk x.p x.j x.c).follow x.lk x.p x.j x.e.v)))
      ∧ (∀ n, x.cfg.inen = 0 → x.cfg.replies = false → x.l.blockLen x.k = some n → n ≤ x.e.st.cnt2 →
        s1.behind x.lk x.l x.p x.j x.e.v true = [] →
        exec (.formeSwitch id) s = .next (done (s1.leave x.lk x.p x.j x.c))))
    ∧ (∀ st fl, s.site id = some x → x.e.restore = true → tget none s.fab.recs (recKey x.lk x.k x.c) = some (st, fl) →
        exec (.stateRestore id) s
          = .next (s.setElem x.key { x.e with restore := false, st := st, flags := orFlags fl x.e.flags }))

/-- R219, R133, R137: aligned tags, ERR, switches and restores. When a VCONST leaves (log 41) and that a record holds
the whole state of an element (log 104) are deductions of the model. -/
def Obligations.TagResults : Prop := Claims.TagsPass ∧ Claims.SwitchResults

/-- R222-R227: the routers between units. STEER sends a unit by its predicate; MERGE one by its selector or in turn;
CARRY one that comes back, or one from outside the loop below its limit; JOIN a unit of i0 once i1's has arrived; FORK
each unit to both outputs, or units in turn; ORDJ the unit with the lower stamp. An ERR goes to every output at once. -/
def Sys2Proof.Claims.RoutersRoute : Prop :=
  ∀ (s : State) (id : RouterId) (x : RSite) (u v : Head) (p : W64) (b : Bool),
    let s1 := moved s id.launch
    let h := fun i => s1.rHead x i
    let more := openAfter false (some u)
    let oi := fun (b : Bool) => if b then 1 else 0
    let err := fun (code : Nat) => s1.rsite id code = some x ∧ s1.rErr x (rIns x.w) (rOuts x.w) = none
    (∀ code t, s1.rsite id code = some x → s1.rErr x (rIns x.w) (rOuts x.w) = some t →
      ∀ i, (i = .steer id ∧ code = 1) ∨ (i = .merge id ∧ code = 2) ∨ (i = .carry id ∧ code = 3) ∨ (i = .join id ∧ code = 4)
        ∨ (i = .fork id ∧ code = 5) ∨ (i = .ordj id ∧ code = 6) → exec i s = .next (t.progress x.lk))
    ∧ (err 1 → x.st.open' = none → h 0 = some u → rUnit (some u) = true → headVal (h 1) = some p →
        steerHolds (rMode x.w) p = b → s1.rRoom x (oi b) = true →
        let t := s1.rStep x { x.st with open' := if more then some b else none } [0, 1] [(oi b, u.toks)]
        exec (.steer id) s = .next (if more then t else t.carryExit x (oi b)))
    ∧ (err 2 → x.st.open' = none → rMode x.w = 1 → s1.rAligned x (rIns x.w) = false → headVal (h 2) = some p →
        p.getLsbD 0 = b → h (oi b) = some u → rUnit (some u) = true → s1.rRoom x 0 = true →
        exec (.merge id) s = .next (s1.rStep x { x.st with open' := if more then some b else none, last := b }
          [oi b, 2] [(0, u.toks)]))
    ∧ (err 2 → x.st.open' = none → rMode x.w ≠ 1 → h (oi b) = some u → rUnit (some u) = true → s1.rRoom x 0 = true →
        b = !x.st.last ∨ rUnit (h (oi (!b))) = false →
        exec (.merge id) s = .next (s1.rStep x { x.st with open' := if more then some b else none, last := b }
          [oi b] [(0, u.toks)]))
    ∧ (err 3 → x.st.open' = none → h 1 = some u → rUnit (some u) = true → s1.rRoom x 0 = true →
        exec (.carry id) s = .next (s1.rStep x { x.st with open' := if more then some true else none, last := true }
          [1] [(0, u.toks)]))
    ∧ (err 3 → x.st.open' = none → rTag (h 1) = false → rUnit (h 1) = false → h 0 = some u → rUnit (some u) = true →
        x.st.occ < rLimit x.w → s1.rRoom x 0 = true →
        exec (.carry id) s = .next (s1.rStep x
          { x.st with occ := x.st.occ + 1, open' := if more then some false else none, last := false } [0] [(0, u.toks)]))
    ∧ (err 4 → x.st.ready = true → x.st.open' = none → h 0 = some u → rUnit (some u) = true → s1.rRoom x 0 = true →
        exec (.join id) s = .next (s1.rStep x { x.st with open' := if more then some false else none, ready := more }
          [0] [(0, u.toks)]))
    ∧ (err 4 → x.st.ready = false → x.st.open' = none → h 1 = some u → rUnit (some u) = true →
        (rMode x.w = 1 → s1.rRoom x 1 = true) →
        exec (.join id) s = .next (s1.rStep x { x.st with open' := if more then some true else none, ready := !more }
          [1] (if rMode x.w = 1 then [(1, u.toks)] else [])))
    ∧ (err 5 → x.st.open' = none → rMode x.w = 0 → h 0 = some u → rUnit (some u) = true → s1.rRoom x 0 = true →
        s1.rRoom x 1 = true →
        exec (.fork id) s = .next (s1.rStep x { x.st with open' := if more then some false else none } [0]
          [(0, u.toks), (1, u.toks)]))
    ∧ (err 5 → x.st.open' = none → rMode x.w ≠ 0 → h 0 = some u → rUnit (some u) = true → b = !x.st.last →
        s1.rRoom x (oi b) = true →
        exec (.fork id) s = .next (s1.rStep x { x.st with open' := if more then some b else none, last := b } [0]
          [(oi b, u.toks)]))
    ∧ (err 6 → x.st.open' = none → h 0 = some u → rUnit (some u) = true → h 1 = some v → rUnit (some v) = true →
        s1.rRoom x 0 = true → ∀ ka kb la lb m n ms ns, s1.rLink x 0 = some (ka, la) → s1.rLink x 1 = some (kb, lb) →
        la.stamps = m :: ms → lb.stamps = n :: ns →
        (m < n → exec (.ordj id) s = .next ((s1.rStep x { x.st with open' := if more then some false else none, last := false }
            [0] [(0, u.toks)]).dropStamp ka))
        ∧ (n < m → exec (.ordj id) s = .next ((s1.rStep x
            { x.st with open' := if openAfter false (some v) then some true else none, last := true }
            [1] [(0, v.toks)]).dropStamp kb)))

/-- R227, R32: every 64 fc the idle circuits of a segment learn the highest stamp it has issued; a typed link's stage
delivers a token it has made when the latch is free, and takes the next source token when it has delivered all; a
token that fails its check faults at the link. -/
def Sys2Proof.Claims.LinkResults : Prop :=
  ∀ (s : State) (l : LaunchId) (seg : Fin 16) (x : Launch) (id : LinkId) (img : Nat) (h : Head),
    let lk := launchKey l
    let s1 := moved s id.launch
    let lk' := launchKey id.launch
    let w := linkW (fLink img id.link)
    let key := linkKey lk' id.forme id.link
    let st := (s1.link key).deliver
    (s.launch lk = some x → s.clk.fc % 64 = 0 → s.lkActive lk = true →
      exec (.ordjIdleStamp l seg) s = .next ((s.idleCircuits lk x seg.val).foldl
        (fun (a : State) k => a.setLink k { a.link k with idle := tget 0 x.stamps seg.val }) s))
    ∧ (s1.launch lk' = some x → x.img id.forme = some img → w.typed = true → id.link < fLinks img →
        s1.lkActive lk' = true →
        (st.stage.out ≠ [] ∨ headOf [] (st.ready s1.clk.fc) = none →
          exec (.routerConversion id) s = .next ((s1.setLink key st).settle lk'))
        ∧ (st.stage.out = [] → headOf [] (st.ready s1.clk.fc) = some h →
          (∀ stage fl, stageTake w st.stage h = .ok (stage, fl) →
            exec (.routerConversion id) s = .next (((s1.setLink key
              ({ st with q := dropHeadL st.q, stage := stage } : LinkSt).deliver).linkFlags lk' id.forme w fl).settle lk'))
          ∧ (∀ cls d, stageTake w st.stage h = .error (cls, d) → ∃ f, f.cls = cls ∧ f.detail = d ∧ f.forme = id.forme
              ∧ exec (.routerConversion id) s = .next (s1.recordFault x.job f))))

/-- R222-R227, R32: routers and the stages of typed links. JOIN's mode 1 and the order of CARRY and MERGE are log 39,
the place of a conversion's fault log 40, the idle stamp as a step of its own log 23: deductions of the model. -/
def Obligations.RouterResults : Prop := Claims.RoutersRoute ∧ Claims.LinkResults

/-! ### Completion: control transfer and stream issue -/

/-- R171-R173, R192, R193: J, CALL, JR and CALLR go to a target that lies below the device window and above the page at
0, and that the translation of a fetch allows; SCX and SCL with an assigned SCOP issue their command while fewer than 64
are outstanding; SCWAIT goes on when none of the commands it waits for is outstanding. -/
def Obligations.ScalarCompletes : Prop :=
  (∀ (s s1 : State) (d a : BitVec 5) (o : BitVec 26) (pa : Nat),
    let fetched := fun (dest : W64) => 65536 ≤ dest.toNat ∧ dest.toNat < 0x00FFFF0000000000
      ∧ s.translateMe dest .fetch false = .ok s1 pa
    let rel : BitVec 56 := s.me.pc + 4 * o.signExtend 56
    let linked := fun (th : Thread) (d : BitVec 5) =>
      if d = 0 then th
      else { th.put d (s1.me.pc.setWidth 64 + 4) with cdepth := if s1.me.cdepth = 65535 then 65535 else s1.me.cdepth + 1 }
    (fetched (rel.setWidth 64) →
      exec (.j o) s = .next (s1.setMe { s1.me with pc := rel &&& ~~~3 })
      ∧ exec (.call o) s = .next (s1.setMe { linked s1.me 1 with pc := rel &&& ~~~3 }))
    ∧ ((reg s a).toNat % 4 = 0 → fetched (reg s a) →
      exec (.callr d a) s = .next (s1.setMe { linked s1.me d with pc := (reg s a).setWidth 56 &&& ~~~3 })
      ∧ (a ≠ 1 → exec (.jr a) s = .next (s1.setMe { s1.me with pc := (reg s a).setWidth 56 &&& ~~~3 }))
      ∧ (a = 1 → ∃ t, exec (.jr a) s = .next t ∧ t.me.pc = (reg s a).setWidth 56 &&& ~~~3
          ∧ t.me.regs = s1.me.regs ∧ t.me.cdepth = s1.me.cdepth - (if s1.me.cdepth = 0 then 0 else 1))))
  ∧ ∀ (s : State) (d a : BitVec 5) (p : BitVec 4) (ls : BitVec 2) (inl : BitVec 128),
    let pair := s.me.get (p.setWidth 5 * 2 + 1) ++ s.me.get (p.setWidth 5 * 2)
    let issued := fun (bits : BitVec 128) (n : Nat) (t : State) =>
      t.me.tickets = s.me.tickets + 1 ∧ (d ≠ 0 → t.me.get d = (s.me.tickets + 1).setWidth 64)
      ∧ (∀ r, r ≠ d → t.me.get r = s.me.get r) ∧ t.me.pc = s.me.pc + BitVec.ofNat 56 n
      ∧ t.openTickets s.cur = s.openTickets s.cur ++ [(s.me.tickets + 1).toNat] ∧ t.ms = s.ms
      ∧ (s.live (slotOf s.cur ls.toNat) = none → t.fab.pending.map (fun c => (c.bits, c.ticket))
          = s.fab.pending.map (fun c => (c.bits, c.ticket)) ++ [(bits, (s.me.tickets + 1).toNat)])
    ((s.openTickets s.cur).length < 64 → 1 ≤ pair.toNat % 256 → pair.toNat % 256 ≤ 16 →
      ∃ t, exec (.scx d p ls) s = .next t ∧ issued pair 4 t)
    ∧ ((s.openTickets s.cur).length < 64 → 1 ≤ inl.toNat % 256 → inl.toNat % 256 ≤ 16 →
      ∃ t, exec (.scl d ls inl) s = .next t ∧ issued inl 20 t)
    ∧ ((∀ x, x ∈ s.openTickets s.cur → reg s a ≠ 0 ∧ (reg s a).toNat < x) → exec (.scwait a) s = .next (passed s))

namespace Sys2Proof.Claims

open Sys2Proof Sys2Proof.Machine

/-- The next command of the port that `p` names: command `c`, with code `scop`, heads the port's queue and may start,
its launch goes on, and it passes its checks (11 R301, R303, R304). -/
structure Starts (s : State) (p : PortId) (scop : Nat) (r : PRef) (c : Cmd) (rest : List Cmd) : Prop where
  port : s.pref p = some r
  head : (s.port r.key).q = c :: rest
  code : c.scop = scop
  may : s.mayStart r c = true
  goes : r.l.stopped = false
  good : s.causeOf r c = 0

/-- The machine with the command taken from its port's queue. -/
def taken (s : State) (r : PRef) (rest : List Cmd) : State := s.modPort r.key fun q => { q with q := rest }

/-- The machine after a step of a launch: its job has acted, and what can move has moved. -/
def acted (lk : Nat) (s : State) : State := (s.stirred lk).settle lk

end Sys2Proof.Claims

/-! ### The imposer -/

/-- R134, R229: a forme due in a stripe's shadow that fails its checks faults as the stripe takes it: where it is the
stripe's first or an element waits for it; without one due, or before it is in the imposer's cache, nothing is staged. A
forme that is cached is not fetched again, and one that the arbiters do not let through waits (04 R116; log 125). -/
def Sys2Proof.Claims.FormeResults : Prop :=
  ∀ (s : State) (id : LaunchId) (j v k : Nat) (l : Launch) (p : Pipe),
    let lk := launchKey id
    s.launch lk = some l →
    (l.pipeAt j = some p → s.due lk p j = some v → s.lkActive lk = true → s.cached lk l (p.formeAt v) = true →
      (tget 0 s.fab.shadows (stripeKey lk j) = 0
        ∨ ∃ c e, c < 16 ∧ s.elem (elemKey lk j c) = some e ∧ e.await = true ∧ e.v = v) →
      (∀ c e, c < 16 → s.elem (elemKey lk j c) = some e → e.v = v → e.await = true) →
      ∀ cls off, s.takeOffence lk l p v = some (cls, off) →
        exec (.shadowStage id j) s
          = .next (s.recordFault l.job (formeFault l j (s.bankOf lk l j) (p.formeAt v) off cls)))
    ∧ (l.pipeAt j = some p → s.due lk p j = none → exec (.shadowStage id j) s = .next s)
    ∧ (l.pipeAt j = some p → s.due lk p j = some v → s.cached lk l (p.formeAt v) = false →
        exec (.shadowStage id j) s = .next s)
    ∧ (s.cached lk l k = true → exec (.formeFetch id k) s = .next s)
    ∧ (∀ ms bs, l.ended = false → k < l.nformes → s.cached lk l k = false →
        s.ms.vread (dispPlace (s.lkAsid lk) (l.formeVa k)) 0 (s.lkAsid lk) (l.formeVa k) 1024 = (ms, .ok bs) →
        let cs := s.ms.readCharges (dispPlace (s.lkAsid lk) (l.formeVa k)) 0 (s.lkAsid lk) (l.formeVa k) 1024 (s.classOf l.job)
        s.admits (.forme lk k) [] cs = false → exec (.formeFetch id k) s = .next (s.waitsFor (.forme lk k) cs))

/-- R132, R185, R129, R194: a source whose block has not ended emits nothing that ends it; an outbound queue whose
pipeline is not imposed, that is empty, or whose source has ended and has no block to end emits nothing, and after GSTOP
one that has not ended emits EOS. -/
def Sys2Proof.Claims.SourceResults : Prop :=
  ∀ (s : State) (id : PortId) (la : LaunchId) (q : Fin 4) (lk n : Nat) (l : Launch),
    (s.shown id.launch = some (lk, n) → (s.settle lk).launch lk = some l → (s.settle lk).lkActive lk = true → id.port < 48 →
      let s1 := s.settle lk
      ∀ b, l.blockLen (s1.portBase l n + id.port / 2) = some b →
        l.blockTok b (s1.port (s1.portKey lk l n id.port)) = none → exec (.sweepBlockEnd id) s = .next s)
    ∧ (s.shown la = some (lk, n) → (s.settle lk).launch lk = some l → (s.settle lk).lkActive lk = true →
      let s1 := s.settle lk
      let pk := xqPort lk n q.val
      let qk := xqKey (lkThread (launchKey la)) q.val
      ∀ k i w, (l.links.find? fun e => e.2.2.xend == 1 && e.2.2.xnum == 16 + q.val && l.segOfForme e.1 == n) = some (k, i, w) →
        (l.pipeFor k = none → exec (.xqSourceEmit la q) s = .next s)
        ∧ (l.owesMark (s1.port pk) = false →
          (s1.room lk k i w = true → (l.pipeFor k).isSome = true → (s1.port pk).eos = false → (s1.port pk).stopping = false →
            l.stopped = true → exec (.xqSourceEmit la q) s
              = .next (((s1.setPort pk (s1.delivered l k (s1.port pk) [eosTok])).send lk k i w [eosTok]).settle lk))
          ∧ ((s1.port pk).eos = true ∨ (s1.port pk).stopping = true →
              (∀ b, l.blockLen k = some b → l.blockTok b (s1.port pk) = none) → exec (.xqSourceEmit la q) s = .next s)
          ∧ (l.stopped = false → (s1.port pk).eos = false → (s1.port pk).stopping = false → l.xqTaken = [] →
              s1.queueOf qk = [] → exec (.xqSourceEmit la q) s = .next s)))

/-- R129, R406: a SEQ node whose child has not drained, or whose child is the last, keeps it; a launch that has not drained
for good does not end. -/
def Sys2Proof.Claims.TreeResults : Prop :=
  ∀ (s : State) (id : LaunchId) (node : Nat) (l : Launch),
    let lk := launchKey id
    let s1 := s.settle lk
    let ns := l.nodes.map BitVec.toNat
    let cur := (nodeKids ns node).getD (tget 0 l.seq node) 0
    let stop := (nodeEnd ns treeFuel cur).getD 0
    s1.launch lk = some l →
    ((∃ p, p ∈ l.pipes ∧ cur ≤ p.node ∧ p.node < stop ∧ (s1.drained lk l p = false ∨ s1.childStored lk l p = false)) →
        exec (.seqChildImpose id node) s = .next s)
    ∧ ((nodeKids ns node).length ≤ tget 0 l.seq node + 1 → exec (.seqChildImpose id node) s = .next s)
    ∧ (s1.launchDone lk l = false → exec (.launchEnd id) s = .next s)

/-- R142, R377: before SLICE fc have passed a ring's context counter stays; a stripe whose bank has something to do
keeps it, and its 4 idle fc begin again; a bank chosen is the first, from the context counter on, with something to do.
Without a node that has an access waiting the sequencing token stays. -/
def Sys2Proof.Claims.BankResults : Prop :=
  ∀ (s : State) (g : Fin 16) (i : Fin 24) (dom : Option (Fin 16)),
    let r := s.ringSt g.val
    let a := tget 0 r.active i.val
    (s.clk.fc < r.advFc + r.slice → exec (.contextCounterAdvance g) s = .next s)
    ∧ (a ≠ 0 → s.fireable g.val (a - 1) i.val = true → exec (.bankReselect g i) s
        = .next (s.modRing g.val fun r => { r with idleFc := tset 0 r.idleFc i.val s.clk.fc }))
    ∧ tget 0 ((s.reselect g.val i.val).ringSt g.val).active i.val = s.pickBank g.val i.val r.cc
    ∧ (((s.scNodes (dom.map Fin.val)).filter fun x => s.scWaits x.2) = [] → exec (.scTokenVisit dom) s = .next s)

/-- R129, R132, R134, R138, R142, R229, R377, R406: where the imposer, sources, the tree and banks wait or fault. -/
def Obligations.ImposerResults : Prop := Claims.FormeResults ∧ Claims.SourceResults ∧ Claims.TreeResults ∧ Claims.BankResults

namespace Sys2Proof.Claims

open Sys2Proof Sys2Proof.Machine

/-- R134, R229: the forme due in a stripe's shadow, once it is in the imposer's cache, is staged when it passes its
checks. FORME_FETCH brings the 1,024 bytes of a forme that is not cached into the cache, when the arbiters let the read
through (04 R116). -/
def FormesComplete : Prop :=
  ∀ (s : State) (id : LaunchId) (j v k : Nat) (l : Launch) (p : Pipe),
    let lk := launchKey id
    s.launch lk = some l →
    (l.pipeAt j = some p → s.due lk p j = some v → s.lkActive lk = true → s.cached lk l (p.formeAt v) = true →
      s.takeBad lk l p j v = none →
      ∃ t, exec (.shadowStage id j) s = .next t ∧ tget 0 t.fab.shadows (stripeKey lk j) = v + 1)
    ∧ (∀ ms bs, l.ended = false → k < l.nformes → s.cached lk l k = false →
        s.ms.vread (dispPlace (s.lkAsid lk) (l.formeVa k)) 0 (s.lkAsid lk) (l.formeVa k) 1024 = (ms, .ok bs) →
        s.admits (.forme lk k) []
          (s.ms.readCharges (dispPlace (s.lkAsid lk) (l.formeVa k)) 0 (s.lkAsid lk) (l.formeVa k) 1024 (s.classOf l.job)) = true →
        ∃ t m, exec (.formeFetch id k) s = .next t ∧ t.ms = ms ∧ t.launch lk = some m
          ∧ m.img k = some (ofBytesLE bs) ∧ t.cached lk m k = true)

/-- R132, R185, R194: at the end of its block a source port puts the marker that it owes, and then FSW, behind the tile
in progress, with the FSW it begins its next block; a ring port and an outbound queue send them into their link, a ring port
under its rate (04 R117); the oldest entry of an outbound queue enters the fabric as a control token tagged DATA, and leaves
the queue where the launch holds nothing back. -/
def SourcesComplete : Prop :=
  ∀ (s : State) (id : PortId) (la : LaunchId) (q : Fin 4) (lk n : Nat) (l : Launch),
    let s1 := s.settle lk
    let ended := fun (pk : Nat) (t : Tok) (fifo : List Tok) =>
      if t.tag = some .mark then s1.markPort lk pk fifo else s1.modPort pk PortSt.nextBlock
    s1.launch lk = some l → s1.lkActive lk = true →
    (s.shown id.launch = some (lk, n) → id.port < 48 →
      let pk := s1.portKey lk l n id.port
      ∀ b t, l.blockLen (s1.portBase l n + id.port / 2) = some b → l.blockTok b (s1.port pk) = some t →
        headTag (s1.port pk).replyHead ≠ some .mark →
        (t = fswTok (s1.port pk).sweep ∨ t = markTok l.mark)
        ∧ exec (.sweepBlockEnd id) s = .next ((ended pk t []).modPort pk fun p => { p with reply := (noTicket, t) :: p.reply }))
    ∧ (s.shown id.launch = some (lk, n) → 48 ≤ id.port →
      let pk := s1.portKey lk l n id.port
      ∀ k i w b t, (l.links.find? fun e => e.2.2.xend == 1 && 48 + e.2.2.xnum == id.port && l.segOfForme e.1 == n)
          = some (k, i, w) →
        l.blockLen k = some b → l.blockTok b (s1.port pk) = some t →
        s1.room lk k i w = true → s1.rateOk l (s1.port pk) = true →
        exec (.sweepBlockEnd id) s = .next ((((ended pk t (s1.fifo (fifoKey lk n id.port))).modPort pk fun q => s1.rated l q 1).send
          lk k i w [t]).settle lk))
    ∧ (s.shown la = some (lk, n) →
      let pk := xqPort lk n q.val
      let qk := xqKey (lkThread (launchKey la)) q.val
      ∀ k i w v rest, (l.links.find? fun e => e.2.2.xend == 1 && e.2.2.xnum == 16 + q.val && l.segOfForme e.1 == n)
          = some (k, i, w) →
        s1.room lk k i w = true → (l.pipeFor k).isSome = true → l.owesMark (s1.port pk) = false →
        ((s1.port pk).eos = false → (s1.port pk).stopping = false → l.stopped = false → l.holding = false → l.xqTaken = [] →
          s1.queueOf qk = v :: rest →
          exec (.xqSourceEmit la q) s
            = .next ((((s1.setQueue qk rest).send lk k i w [.ctl .data v]).stirred lk).settle lk))
        ∧ ((s1.port pk).eos = true ∨ (s1.port pk).stopping = true → ∀ b t, l.blockLen k = some b →
          l.blockTok b (s1.port pk) = some t →
          exec (.xqSourceEmit la q) s = .next (((ended pk t []).send lk k i w [t]).settle lk)))

/-- R129, R406, R138: when the child of a SEQ node has drained and its stores are performed, the next child is imposed on
the sub-window; a launch that has drained for good writes its flag word, ends in its slot, and sets the notify bit of its
slot. -/
def TreeCompletes : Prop :=
  ∀ (s : State) (id : LaunchId) (node : Nat) (l : Launch) (ps : List Pipe),
    let lk := launchKey id
    let s1 := s.settle lk
    let ns := l.nodes.map BitVec.toNat
    let c := tget 0 l.seq node
    let cur := (nodeKids ns node).getD c 0
    let stop := (nodeEnd ns treeFuel cur).getD 0
    let mine := l.pipes.filter fun p => cur ≤ p.node && p.node < stop
    let seq := tset 0 (l.seq.filter fun e => !(cur ≤ e.1 && e.1 < stop)) node (c + 1)
    s1.launch lk = some l → s1.lkActive lk = true →
    (nKind (ns.getD node 0) = 1 → c + 1 < (nodeKids ns node).length → mine ≠ [] →
      (∀ p, p ∈ mine → s1.drained lk l p = true ∧ s1.childStored lk l p = true) →
      ((s1.jobOf lk).any fun j => j.phase == .saving) = false →
      imposeNode ns seq treeFuel 0 0 l.win.length = some ps →
      ∃ t m, exec (.seqChildImpose id node) s = .next t ∧ t.launch lk = some m ∧ tget 0 m.seq node = c + 1
        ∧ ∀ p, p ∈ ps → ∃ q, q ∈ m.pipes ∧ q.node = p.node)
    ∧ (s1.launchDone lk l = true →
      let th := s1.thread (lkThread lk)
      let va := (match s1.job l.job with
        | some j => j.cx
        | none => 0) + 0x280 + 8 * (4 * th.n + lk % 4)
      exec (.launchEnd id) s = .next ((((s1.sysWrite (s1.lkAsid lk) va (bytesLE 8 (flagWord (s1.launchFlags lk l)))).endLaunch
        lk).notify (lkThread lk) (8 + lk % 4)).progress lk))

/-- R142, R377: SLICE fc after the last advance a ring's context counter advances and every stripe chooses its bank
anew; a stripe without a bank, or whose bank has idled for 4 fc while another slot has work, does so at once. The
sequencing token goes to the next node of its domain with an access waiting, which performs it; where the arbiters do not
let it through, it waits for that node (04 R116; log 125). -/
def BanksComplete : Prop :=
  ∀ (s : State) (g : Fin 16) (i : Fin 24) (dom : Option (Fin 16)),
    let r := s.ringSt g.val
    let a := tget 0 r.active i.val
    let at' := tget 0 s.fab.seqTok ((dom.map Fin.val).getD 16)
    let nodes := (s.scNodes (dom.map Fin.val)).filter fun x => s.scWaits x.2
    (r.advFc + r.slice ≤ s.clk.fc → exec (.contextCounterAdvance g) s
      = .next ((List.range 24).foldl (fun (a : State) i => a.reselect g.val i)
          (s.modRing g.val fun r => { r with cc := (r.cc + 1) % 4, advFc := s.clk.fc })))
    ∧ ((a = 0 ∨ (tget 0 r.idleFc i.val + 4 ≤ s.clk.fc ∧ s.fireable g.val (a - 1) i.val = false
          ∧ ∃ b, b < 4 ∧ b + 1 ≠ a ∧ s.fireable g.val b i.val = true)) →
        exec (.bankReselect g i) s = .next (s.reselect g.val i.val))
    ∧ (∀ key n rest pre, nodes = pre ++ (key, n) :: rest →
        (pre = [] ∧ ∀ x, x ∈ nodes → x.1 < at') ∨ ((∀ x, x ∈ pre → x.1 < at') ∧ at' ≤ key) →
        let s1 := s.modFab fun f => { f with seqTok := tset 0 f.seqTok ((dom.map Fin.val).getD 16) (key + 1) }
        let t := s.scAccess n
        (s.admits (.port n.key) s.wanted (s.chargedBy t) = true → t ≠ s → missed s.ms t.ms = [] →
          exec (.scTokenVisit dom) s = .next ((acted n.lk (s1.scAccess n)).served (.port n.key)))
        ∧ (s.admits (.port n.key) s.wanted (s.chargedBy t) = false →
          exec (.scTokenVisit dom) s = .next (s.waitsFor (.port n.key) (s.chargedBy t))))

end Sys2Proof.Claims

/-- R129, R132, R134, R138, R142, R229, R377, R406: the imposer, sources, the tree and banks run. -/
def Obligations.ImposerCompletes : Prop :=
  Claims.FormesComplete ∧ Claims.SourcesComplete ∧ Claims.TreeCompletes ∧ Claims.BanksComplete

/-! ### Stream commands -/

/-- R302-R304, R301: a command of another code, or one that may not start, stays in its queue; GSTOP drops one; one
that fails a check is refused with its cause, and completes. -/
def Sys2Proof.Claims.CommandRefused : Prop :=
  ∀ (s : State) (p : PortId) (i : Instr) (scop : Nat) (r : PRef) (c : Cmd) (rest : List Cmd),
    (i = .scLoad p ∧ scop = 1) ∨ (i = .scStore p ∧ scop = 2) ∨ (i = .scGather p ∧ scop = 3) ∨ (i = .scScatter p ∧ scop = 4)
      ∨ (i = .scCopy p ∧ scop = 5) ∨ (i = .scSpad p ∧ scop = 6) ∨ (i = .scOverflow p ∧ scop = 7) ∨ (i = .scPeer p ∧ scop = 8)
      ∨ (i = .scReduce p ∧ scop = 9) ∨ (i = .scFill p ∧ scop = 10) ∨ (i = .scStage p ∧ scop = 11) ∨ (i = .scFence p ∧ scop = 12)
      ∨ (i = .scMark p ∧ scop = 13) ∨ (i = .scClose p ∧ scop = 14) ∨ (i = .scWaitev p ∧ scop = 15) ∨ (i = .scSigev p ∧ scop = 16) →
    s.pref p = some r → (s.port r.key).q = c :: rest →
    (c.scop ≠ scop ∨ s.mayStart r c = false → exec i s = .next s)
    ∧ (c.scop = scop → s.mayStart r c = true →
      (r.l.stopped = true → exec i s = .next ((taken s r rest).finish c))
      ∧ (r.l.stopped = false → s.causeOf r c ≠ 0 →
          exec i s = .next (((taken s r rest).refuse r c (s.causeOf r c)).finish c)))

/-- R312-R315: SC.FENCE waits for the port's accesses, SC.WAITEV for its event; SC.PEER over a link that is down raises
PEER; a binding that holds tokens stays. -/
def Sys2Proof.Claims.CommandsWait : Prop :=
  ∀ (s : State) (p : PortId) (scop : Nat) (r : PRef) (c : Cmd) (rest : List Cmd), Starts s p scop r c rest →
    let s1 := taken s r rest
    let q := s1.port r.key
    (scop = 12 → q.settled = false → exec (.scFence p) s = .next s)
    ∧ (scop = 15 → (s1.event c.w3).toNat < c.fld 64 48 → exec (.scWaitev p) s = .next s)
    ∧ (scop = 14 → c.all = false → ∀ b, q.spad = some b → b.q ≠ [] → exec (.scClose p) s = .next s)
    ∧ (scop = 16 → c.all = false → q.trail ≠ [] → exec (.scSigev p) s = .next s)
    ∧ (scop = 8 → (s1.peer (c.fld 48 4)).up = false →
        let b : PeerBind := { cmd := c, link := c.fld 48 4, grant := c.fld 64 16, dir := c.fld 80 1 == 1
                              chan := (s1.peer (c.fld 48 4)).free }
        exec (.scPeer p) s
          = .next (acted r.lk ((s1.modLaunch r.lk fun l => { l with peered := l.peered || l.snapOn }).peerFault r b 3 0)))

/-- R305, R306, R116: a command that is not complete stays; a port whose next access the arbiters do not let through waits,
its request in their line (log 125), as does SC.PEER, whose request would cross the link; a port with nothing to access,
and an SC node, do nothing of themselves. -/
def Sys2Proof.Claims.PortsWait : Prop :=
  ∀ (s : State) (ring : Fin 16) (slot : Fin 4) (ticket key : Nat) (c : Cur) (l : Launch) (p : PortId) (r : PRef),
    let k := 4 * ring.val + slot.val
    (s.fab.ports.findSome? (fun e => (e.2.ending.find? fun c => c.cmd.thread == k && c.cmd.ticket == ticket).map fun c => (e.1, c))
        = some (key, c) → s.launch (key / 2 ^ 20) = some l → s.complete l (s.port key) c = false →
        exec (.commandComplete ring slot ticket) s = .next s)
    ∧ (s.pref p = some r → (s.lkActive r.lk = false ∨ r.scNode = true) → exec (.portAccess p) s = .next s)
    ∧ (s.pref p = some r → s.lkActive r.lk = true → r.scNode = false → (s.port r.key).peer = none →
        (s.access r = s → (∀ w, w ∈ s.bd.line → w.who ≠ .port r.key) → exec (.portAccess p) s = .next s)
        ∧ (s.admits (.port r.key) s.wanted (s.chargedBy (s.access r)) = false →
          exec (.portAccess p) s = .next (s.waitsFor (.port r.key) (s.chargedBy (s.access r)))))

/-- R301-R315, R116: where stream commands are refused or wait. That GSTOP drops a command is R194; that a link which
is down raises PEER with cause 3 is R360 and R418. Who asks first is log 125. -/
def Obligations.CommandResults : Prop := Claims.CommandRefused ∧ Claims.CommandsWait ∧ Claims.PortsWait

/-- R303, R307-R311, R323: a command that passes its checks leaves its port's queue: one that makes accesses becomes
the port's current command; SC.SPAD binds its region. -/
def Obligations.AccessCommandsComplete : Prop :=
  ∀ (s : State) (p : PortId) (scop : Nat) (r : PRef) (c : Cmd) (rest : List Cmd), Starts s p scop r c rest →
    let s1 := taken s r rest
    (∀ i, (i = .scLoad p ∧ scop = 1) ∨ (i = .scStore p ∧ scop = 2) ∨ (i = .scGather p ∧ scop = 3)
        ∨ (i = .scScatter p ∧ scop = 4) ∨ (i = .scCopy p ∧ scop = 5) ∨ (i = .scReduce p ∧ scop = 9)
        ∨ (i = .scFill p ∧ scop = 10) ∨ (i = .scStage p ∧ scop = 11) →
      exec i s = .next (acted r.lk (s1.modPort r.key fun q => { q with cur := some { cmd := c } })))
    ∧ (scop = 6 → exec (.scSpad p) s = .next (acted r.lk (s1.modPort r.key fun q =>
        { q with spad := some { cmd := c, spoff := c.w3, splen := c.fld 64 16, tsize := c.fld 80 16 } })))

namespace Sys2Proof.Claims

open Sys2Proof Sys2Proof.Machine

/-- R312-R315, R324: SC.OVERFLOW binds its queue to the link, with 64 places in the launch pool where it has room; SC.PEER
asks for a channel over a link that is up, when the arbiters let the request through; SC.FENCE completes, with its token
on a source port, when the port's accesses have been performed; SC.MARK without snapshots completes, and with them it asks
for the launch's next marker on a source port and holds the port until the marker is emitted; SC.OVERFLOW on a record with
TIER 1 asks for its pages in tier H (log 50); SC.CLOSE ends a binding that holds nothing, and a load port's
stream; SC.WAITEV completes once the event has come to COUNT, SC.SIGEV signals once the commands before it have
completed. -/
def CommandsComplete : Prop :=
  ∀ (s : State) (p : PortId) (scop : Nat) (r : PRef) (c : Cmd) (rest : List Cmd), Starts s p scop r c rest →
    let s1 := taken s r rest
    let q := s1.port r.key
    let done := fun (t : State) => Host.Outcome.next (σ := State) (φ := Fault) (ρ := Refusal) (acted r.lk t)
    (scop = 7 → ∀ w lr h, s1.ovfLink r c = some w → c.lh = some (lr, h) →
        let key := linkKey r.lk c.w3 (c.fld 64 6)
        let need := roundUp (64 * (if w.plane = 1 then 8 else 256)) 4096
        let lo := (lrLow lr).toNat
        let bound := fun (n : Nat) =>
          let t := s1.setLink key { s1.link key with ovf := some { cmd := c, base := lo, size := ovfSize lr, places := n } }
          if lrTier lr = 1 then
            let hi := lo + ovfSize lr
            { t with ms := t.ms.askMoves c.asid lo hi 1 .stage c.tag (s1.classOf r.l.job) (ovfSize lr / 65536 + 2) }
          else t
        (s1.poolUsed r.g + need ≤ launchPool →
          exec (.scOverflow p) s = done ((bound 64).modLaunch r.lk fun l => { l with sram := tmod 0 l.sram r.g (· + need) }))
        ∧ (launchPool < s1.poolUsed r.g + need → exec (.scOverflow p) s = done (bound 0)))
    ∧ (scop = 12 → q.settled = true →
      exec (.scFence p) s = done ((if s1.isSource r then s1.reply r noTicket [.ctl .fence (BitVec.ofNat 64 (c.flag 7 3))]
        else s1).finish c))
    ∧ (scop = 13 → (r.l.snapOn = false ∨ s1.isSource r = false → exec (.scMark p) s = done (s1.finish c))
      ∧ (r.l.snapOn = true → s1.isSource r = true → ∀ l, (s1.request r.lk).launch r.lk = some l →
        exec (.scMark p) s = done ((s1.request r.lk).modPort r.key fun q => { q with cur := some { cmd := c, elem := l.mark } })))
    ∧ (scop = 14 → c.all = false → q.spad = none → q.peer = none → r.ag = true → (∃ g, r.cfg = some g ∧ g.replies = true) →
        q.q.any Cmd.loads = false →
        exec (.scClose p) s = done ((s1.reply r noTicket [.ctl .eos 0]).finish c))
    ∧ (scop = 14 → c.all = false → ∀ b, q.spad = some b → b.q = [] → q.tile = none →
        exec (.scClose p) s = done (((s1.modPort r.key fun q => { q with spad := none }).finish b.cmd).finish c))
    ∧ (scop = 15 → c.fld 64 48 ≤ (s1.event c.w3).toNat → exec (.scWaitev p) s = done (s1.finish c))
    ∧ (scop = 16 → c.all = false → q.trail = [] → q.spad = none → q.peer = none →
        exec (.scSigev p) s = done ((s1.signal c.w3).finish c))
    ∧ (scop = 8 → (s1.peer (c.fld 48 4)).up = true →
        let i := c.fld 48 4
        let g := c.fld 64 16
        let dir := c.fld 80 1 == 1
        let n := (s1.peer i).free
        let s2 := s1.modLaunch r.lk fun l => { l with peered := l.peered || l.snapOn }
        let t := ((s2.setChan i n (some { cls := s1.classOf r.l.job, dir := dir, credit := Config.peerCredits
            })).tell i n (.ask g dir)).modPort r.key fun q =>
            { q with peer := some { cmd := c, link := i, grant := g, dir := dir, chan := n } }
        (s1.admits (.port r.key) s1.wanted (s1.chargedBy t) = true → exec (.scPeer p) s = done (t.served (.port r.key)))
        ∧ (s1.admits (.port r.key) s1.wanted (s1.chargedBy t) = false → exec (.scPeer p) s = .next s))

/-- R305, R306, R117: a command whose accesses have been performed and whose tokens have gone completes and leaves its
port; a port that no sequencing orders performs the accesses of one stream element, which its budget admits, and at a
port bound to a peer one token crosses; at the end of a rate window a port admits tokens anew. -/
def PortsComplete : Prop :=
  ∀ (s : State) (ring : Fin 16) (slot : Fin 4) (ticket key : Nat) (c : Cur) (l : Launch) (p : PortId) (r : PRef),
    let k := 4 * ring.val + slot.val
    let other := fun (x : Cur) => x.cmd.ticket != ticket || x.cmd.thread != k
    (s.fab.ports.findSome? (fun e => (e.2.ending.find? fun c => c.cmd.thread == k && c.cmd.ticket == ticket).map fun c => (e.1, c))
        = some (key, c) → s.launch (key / 2 ^ 20) = some l → s.complete l (s.port key) c = true →
        exec (.commandComplete ring slot ticket) s = .next ((s.setPort key { s.port key with
          cur := (s.port key).cur.filter other, trail := (s.port key).trail.filter other }).finish c.cmd))
    ∧ (s.pref p = some r → s.lkActive r.lk = true → r.scNode = false →
      ((s.port r.key).peer = none → s.admits (.port r.key) s.wanted (s.chargedBy (s.access r)) = true →
        (s.access r).served (.port r.key) ≠ s →
        exec (.portAccess p) s = .next (acted r.lk ((s.access r).served (.port r.key))))
      ∧ (∀ b, (s.port r.key).peer = some b → (s.port r.key).sealed = false →
          s.admits (.port r.key) s.wanted (s.chargedBy (s.peerStep r b)) = true →
          (s.peerStep r b).served (.port r.key) ≠ s →
          exec (.portAccess p) s = .next (acted r.lk ((s.peerStep r b).served (.port r.key)))))
    ∧ (s.pref p = some r → r.l.rate.getLsbD 32 = true → (s.port r.key).win ≠ s.rateWin r.l →
        exec (.rateWindow p) s
          = .next ((s.modPort r.key fun q => { q with win := s.rateWin r.l, admitted := 0 }).settle r.lk))

end Sys2Proof.Claims

/-- R305, R306, R312-R315, R117, R324: the other stream commands, and what ports do. The rounding of an overflow
queue's extent is log 54, its first 64 places in the SRAM log 50, the credits of a channel log 57, that a whole step
is admitted or waits log 125. -/
def Obligations.OtherCommandsComplete : Prop := Claims.CommandsComplete ∧ Claims.PortsComplete

/-! ### Translation faults and migration -/

/-- R339, R342, R344: WALK finds nothing to do where a usable translation is held; a queue that is disabled or full, or
for which every fault has been posted, is posted nothing, and the oldest fault waits; an answer to a fault that is not
open has no effect. -/
def Sys2Proof.Claims.FaultQueueResults : Prop :=
  ∀ (s : State) (die : Fin 4) (asid fid : BitVec 16) (va : W64) (k : AccessKind),
    let d := s.ms.die die.val
    let full : Prop := (d.xfq.tail.toNat + 2 ^ 32 - d.xfq.head.toNat) % 2 ^ 32 ≥ 2 ^ (d.xfq.base.toNat % 2 ^ 4 + 6)
    ((∃ e, e ∈ s.ms.tlb ∧ e.holds (.slice die.val (sliceOf asid.toNat va.toNat)) asid.toNat va.toNat = true
        ∧ (needsD k = false ∨ pteD e.leaf.toNat = true)) → exec (.walk die asid va k) s = .next s)
    ∧ ((∀ o, o ∈ d.opens → o.posted = true) → exec (.xfqPost die) s = .next s)
    ∧ (d.xfq.base.getLsbD 4 = false ∨ full → exec (.xfqPost die) s = .next s)
    ∧ ((d.opens.find? fun x => x.fid == fid.toNat) = none →
        exec (.xfrespRetry die fid) s = .next s ∧ exec (.xfrespDecline die fid) s = .next s)

/-- The request of die `d` that MOVE_START takes for the page `pg`, where no move of the page waits for its swap: the
oldest of its queue that does not wait (04 R113), while its engine has fewer than 64 moves; of several dies with a request
for the page the lowest. -/
structure Sys2Proof.Claims.Takes (s : State) (pg : PageId) (d : Nat) (r : MoveReq) : Prop where
  none' : s.moveIn' pg [.starting] = none
  die : d < 4
  next : s.ms.nextReq d = some r
  page : r.asid = pg.asid.toNat ∧ r.va / 65536 = pg.va.toNat / 65536
  here : (s.ms.die d).lost = false
  room : (s.ms.moves.filter fun m => s.ms.moveDie m == d).length < 64
  first : ∀ d', d' < d → ∀ r', s.ms.nextReq d' = some r' →
    r'.asid ≠ pg.asid.toNat ∨ r'.va / 65536 ≠ pg.va.toNat / 65536

/-- R347, R348, R353: a TRVREQ without a tier asks for nothing. MOVE_START of a request that may not start drops it, and
records one of TRVREQ with its cause: 9 where the walk fails, 8 for a pinned page or one of the safe tier, 11 for a
saddled one (log 62: source before destination), 7 for one of 256 MiB, 10 for a tier it has; one whose page has its home on
another die goes to that die; a leaf that has changed since its frame was taken refuses the move with SWCHANGE, and the
frame is released. -/
def Sys2Proof.Claims.MoveStartResults : Prop :=
  ∀ (s : State) (die : Fin 4) (v : W64) (pg : PageId) (d : Nat) (r : MoveReq) (x : Walked) (m : Move),
    let s1 : State := { s with ms := s.ms.modDie d fun y => { y with reqs := y.reqs.erase r } }
    let refused := fun (cause tier va : Nat) (big : Bool) => (.next (if r.origin = .trvreq then
        { s1 with ms := s1.ms.postEvent d (trvRecord 3 cause r.asid tier r.dtier big r.origin 0 va s.time) }
      else s1) : Out)
    (v.toNat / 2 ^ 56 % 4 = 0 → exec (.traverseRequest die v) s = .next s)
    ∧ (Claims.Takes s pg d r →
      (∀ w, s1.ms.walk r.asid r.va = .error w → exec (.moveStart pg) s = refused 9 0 r.va false)
      ∧ (s1.ms.walk r.asid r.va = .ok x →
        let base := r.va / 2 ^ x.size * 2 ^ x.size
        let no := fun (cause : Nat) => refused cause (pteTier x.leaf) base (x.size == 21)
        let pinned : Prop := ptePin x.leaf = true ∨ s1.inSafe (pteAddr x.leaf) = true
        let saddled : Prop := pteSaddle x.leaf = true
          ∨ ∃ y, y ∈ s.ms.moves ∧ y.asid = r.asid ∧ y.va = r.va / 2 ^ y.size * 2 ^ y.size
        (s1.ms.homeOf x.leaf = d →
          (pinned → exec (.moveStart pg) s = no 8)
          ∧ (¬pinned → saddled → exec (.moveStart pg) s = no 11)
          ∧ (¬pinned → ¬saddled → x.size = 28 → exec (.moveStart pg) s = no 7)
          ∧ (¬pinned → ¬saddled → x.size ≠ 28 → pteTier x.leaf = r.dtier → exec (.moveStart pg) s = no 10))
        ∧ (s1.ms.homeOf x.leaf ≠ d → exec (.moveStart pg) s = .next { s1 with
            ms := s1.ms.modDie (s1.ms.homeOf x.leaf) fun y => { y with reqs := y.reqs ++ [r] } })))
    ∧ (s.moveIn' pg [.starting] = some m → leafCore (s.ms.readPa m.leafPa 8) ≠ leafCore m.p0.toNat →
        ∃ r cause w, cause = 5 ∧ r.asid = m.asid ∧ r.va = m.va
          ∧ exec (.moveStart pg) s = .next (({ s.dropMove m with
              ms := (s.dropMove m).ms.release (s.ms.moveDie m) m.dst } : State).rejectMove (s.ms.moveDie m) r cause w))

/-- R350-R352: an uncorrectable error at a source aborts a move with cause 6, at a destination with cause 1, as the copy
or the commit meets it (log 108); a leaf that has changed aborts the commit with cause 5; while a write is held that used a
dropped translation a move is neither opened nor released, and the frame of an aborted one not either. -/
def Sys2Proof.Claims.MovesAbort : Prop :=
  ∀ (s : State) (pg : PageId) (m : Move),
    let a := m.src + 4096 * m.frontier
    let b := m.dst + 4096 * m.frontier
    (s.moveIn' pg [.copying] = some m → m.frontier < m.blocks →
      (s.ms.rangeBad a 4096 = true → exec (.copyStep pg) s = .next (s.modMove pg fun m => m.fail 6))
      ∧ (s.ms.rangeBad a 4096 = false → s.ms.rangeBad b 4096 = true →
          exec (.copyStep pg) s = .next (s.modMove pg fun m => m.fail 1)))
    ∧ (s.moveIn' pg [.committing] = some m →
      (s.ms.rangeBad m.dst (2 ^ m.size) = true → exec (.moveCommit pg) s = .next (s.modMove pg fun m => m.fail 1))
      ∧ (s.ms.rangeBad m.dst (2 ^ m.size) = false → leafCore (s.ms.readPa m.leafPa 8) ≠ leafCore m.p0.toNat →
        exec (.moveCommit pg) s = .next (s.modMove pg fun m => m.fail 5)))
    ∧ (s.moveIn' pg [.opening] = some m → s.undrained 0 m.asid m.va m.advFs = true → exec (.moveOpened pg) s = .next s)
    ∧ (s.moveIn' pg [.releasing] = some m → s.undrained 0 m.asid m.va m.advFs = true → exec (.moveRelease pg) s = .next s)
    ∧ (s.moveIn' pg [.aborting, .undone] = some m → m.phase = .undone → s.undrained 0 m.asid m.va m.advFs = true →
        exec (.moveAbort pg) s = .next s)

/-- R355, R115: before its period has ended the access counters of a die and the charges of the budgets stay. -/
def Sys2Proof.Claims.PeriodResults : Prop :=
  ∀ (s : State) (die : Fin 4),
    (s.time / 100000 ≤ (s.ms.die die.val).aged → exec (.agingPeriod die) s = .next s)
    ∧ (s.time / 50000 ≤ s.bd.periods → exec .budgetPeriod s = .next s)

/-- R339-R355, R115: where walks, fault queues, moves and periods wait, abort or do nothing. That the source's state
is looked at before the destination's is log 62. -/
def Obligations.MigrationResults : Prop :=
  Claims.FaultQueueResults ∧ Claims.MoveStartResults ∧ Claims.MovesAbort ∧ Claims.PeriodResults

/-- R339, R342, R344, R347, R355, R357, R115: a slice without a usable translation walks and installs the leaf; the oldest
fault that has not been posted is written to its die's queue as 32 bytes while the queue has room; RETRY lets everything
that waits for a fault try again, DECLINE fails it, and the fault is closed; a request written to TRVREQ joins the engine
of the page's home die; at the end of each 100 µs a die's policy asks for its moves and its access counters are halved;
each 50 µs the charges begin again, USED is what the period has charged (log 37 names the part that is free), and the
requests that waited are made again (log 125). -/
def Obligations.FaultServiceCompletes : Prop :=
  ∀ (s : State) (die : Fin 4) (asid fid : BitVec 16) (va v : W64) (k : AccessKind) (o : OpenFault),
    let d := s.ms.die die.val
    let p := TlbPlace.slice die.val (sliceOf asid.toNat va.toNat)
    let closed : State := { s with ms := s.ms.modDie die.val fun d =>
      { d with opens := d.opens.filter fun x => x.fid != fid.toNat } }
    (highVa va = false → inDevice va = false →
      (∀ e, e ∈ s.ms.tlb → e.holds p asid.toNat va.toNat = true → needsD k = true ∧ pteD e.leaf.toNat = false) →
      exec (.walk die asid va k) s
        = .next { s with ms := (s.ms.walkSlice die.val asid.toNat va.toNat k (needsD k)).1 })
    ∧ ((d.opens.find? fun x => !x.posted) = some o → ∀ ms r,
        s.ms.drainTo d.xfq [bytesLE 32 o.bits.toNat] (.xfq die.val) = (ms, r, []) →
        exec (.xfqPost die) s = .next { s with ms := ms.modDie die.val fun y => { y with
          xfq := r, opens := y.opens.map fun x => if x.fid == o.fid then { x with posted := true } else x } })
    ∧ ((d.opens.find? fun x => x.fid == fid.toNat) = some o →
        exec (.xfrespRetry die fid) s = .next (o.waiters.foldl (fun (a : State) w => (a.retry o w).stirWaiter w) closed)
        ∧ exec (.xfrespDecline die fid) s
            = .next (o.waiters.foldl (fun (a : State) w => (a.decline o w).stirWaiter w) closed))
    ∧ (v.toNat / 2 ^ 56 % 4 ≠ 0 →
        let r : MoveReq := { asid := v.toNat / 2 ^ 40 % 65536, va := v.toNat % 2 ^ 40 * 65536
                             dtier := v.toNat / 2 ^ 56 % 4, origin := .trvreq }
        exec (.traverseRequest die v) s = .next { s with ms := s.ms.ask die.val r })
    ∧ (d.aged < s.time / 100000 → ∃ t, exec (.agingPeriod die) s = .next t ∧ (t.ms.die die.val).aged = d.aged + 1
      ∧ (t.ms.die die.val).reqs = d.reqs ++ (if s.ms.tpol.getLsbD 0 then s.policy die.val else [])
      ∧ t.ms.mem = s.ms.mem ∧ t.ms.tlb = s.ms.tlb.map fun e => match e.place with
        | .slice n _ => if n = die.val then { e with cnt := e.cnt / 2 } else e
        | _ => e)
    ∧ (s.bd.periods < s.time / 50000 → ∃ t : State, exec .budgetPeriod s = .next t.newPeriod ∧ t.charges = []
        ∧ t.bd.periods = s.bd.periods + 1 ∧ (∀ i, i < 256 → tget 0 t.bd.used i = s.usedNow i) ∧ t.ms = s.ms ∧ t.fab = s.fab
        ∧ t.bd.line = s.bd.line ∧ (s.bd.line = [] → t.newPeriod = t))

/-- R347-R352, R116: an engine with room takes a request and a frame for it, and the move begins (the frame and the
swap of the leaf are two steps: log 108); the leaf then names the move and its translations are dropped; when they
have drained the move opens, and copies one 4 KiB sub-block at a time as its budget admits, or waits for that in the
arbiters' line (log 125); with all of them copied the leaf is swapped to the new frame, and the old one released when
the translations have drained; an aborted move puts the leaf back and drops its translations, and with these drained
releases the new frame and records the abort; a move that has run too long, or stood still too long, aborts. The steps
between the request and the swap are log 108. -/
def Obligations.MovesComplete : Prop :=
  (∀ (s : State) (pg : PageId) (d : Nat) (r : MoveReq) (x : Walked) (pool : MRing) (f : Nat),
    let s1 : State := { s with ms := s.ms.modDie d fun y => { y with reqs := y.reqs.erase r } }
    let p0 := (s1.ms.die d).pools.getD (poolIndex r.dtier x.size) {}
    Claims.Takes s pg d r →
    s1.ms.walk r.asid r.va = .ok x → s1.ms.homeOf x.leaf = d → s1.moveRefusal x r.asid r.va r.dtier = 0 →
    takeFrame s1.ms s1.inSafe r.dtier x.size (p0.held + 1) p0 = (pool, some f) →
    ∃ t m, exec (.moveStart pg) s = .next t ∧ t.ms.moves = s.ms.moves ++ [m] ∧ m.asid = r.asid
      ∧ m.va = r.va / 2 ^ x.size * 2 ^ x.size ∧ m.src = pteAddr x.leaf ∧ m.dst = f ∧ m.phase = .starting ∧ m.frontier = 0
      ∧ m.leafPa = x.entry ∧ t.ms.mem = s.ms.mem)
  ∧ ∀ (s : State) (pg : PageId) (m : Move),
    let a := m.src + 4096 * m.frontier
    let b := m.dst + 4096 * m.frontier
    let e := s.ms.readPa m.leafPa 8
    let lim := (s.ms.die (s.ms.moveDie m)).trvlim.toNat
    (s.moveIn' pg [.starting] = some m → leafCore e = leafCore m.p0.toNat →
      let leaf := e + 2 ^ 54 + m.dtier * 2 ^ 55
      exec (.moveStart pg) s
        = .next (({ s with ms := (s.ms.writePa m.leafPa (bytesLE 8 leaf)).invalidate 0 m.asid m.va } : State).modMove pg fun m =>
            { m with phase := .opening, p0 := BitVec.ofNat 64 leaf, advFs := s.clk.fs }))
    ∧ (s.moveIn' pg [.opening] = some m → s.undrained 0 m.asid m.va m.advFs = false →
      exec (.moveOpened pg) s = .next (s.modMove pg fun m => { m with phase := .copying, frontier := 0 }))
    ∧ (s.moveIn' pg [.copying] = some m → m.frontier < m.blocks → s.ms.rangeBad a 4096 = false →
      s.ms.rangeBad b 4096 = false →
      let s1 := ({ s with ms := s.ms.writePa b (readMem s.ms.mem a 4096) } : State).charge (s.ms.copyCharges m)
      let t := s1.modMove pg fun m => { m with
        frontier := m.frontier + 1, advFs := s.clk.fs, phase := if m.frontier + 1 < m.blocks then .copying else .committing }
      let who : Asker := .move m.asid m.va
      (s.admits who s.wanted (s.ms.copyCharges m) = true → exec (.copyStep pg) s = .next (t.served who))
      ∧ (s.admits who s.wanted (s.ms.copyCharges m) = false →
        exec (.copyStep pg) s = .next (s.waitsFor who (s.ms.copyCharges m))))
    ∧ (s.moveIn' pg [.committing] = some m → s.ms.rangeBad m.dst (2 ^ m.size) = false → leafCore e = leafCore m.p0.toNat →
      exec (.moveCommit pg) s
        = .next (({ s with ms := (s.ms.writePa m.leafPa (bytesLE 8 (commitLeaf e m))).invalidate 0 m.asid m.va } : State).modMove pg
            fun m => { m with phase := .releasing, advFs := s.clk.fs }))
    ∧ (s.moveIn' pg [.releasing] = some m → s.undrained 0 m.asid m.va m.advFs = false →
        let s1 : State := { s.dropMove m with ms := (s.dropMove m).ms.release (s.ms.moveDie m) m.src }
        exec (.moveRelease pg) s = .next (if s.ms.tpol.getLsbD 1 then s1.postMove m 1 0 else s1))
    ∧ (s.moveIn' pg [.aborting, .undone] = some m →
      (m.phase = .aborting →
        let back := if (pteSaddle e && pteAddr e = m.src) = true
          then s.ms.writePa m.leafPa (bytesLE 8 (e - 2 ^ 54 - pteDtier e * 2 ^ 55)) else s.ms
        exec (.moveAbort pg) s = .next (({ s with ms := back.invalidate 0 m.asid m.va } : State).modMove pg fun m =>
          { m with phase := .undone, advFs := s.clk.fs }))
      ∧ (m.phase = .undone → s.undrained 0 m.asid m.va m.advFs = false →
        let s1 := s.dropMove m
        exec (.moveAbort pg) s
          = .next (({ s1 with ms := s1.ms.release (s.ms.moveDie m) m.dst } : State).postMove m 2 m.cause)))
    ∧ (s.moveIn' pg [.opening, .copying] = some m →
      (m.startFs + lim % 65536 * 1000000000 ≤ s.clk.fs →
        exec (.movemaxExpiry pg) s = .next (s.modMove pg fun m => m.fail 3))
      ∧ (m.advFs + lim / 65536 % 65536 * 1000000000 ≤ s.clk.fs →
        exec (.starveExpiry pg) s = .next (s.modMove pg fun m => m.fail 4)))

/-! ### Queues and dispatch -/

/-- R99: a record written to a queue's push window by the function that owns it is rejected where the queue is disabled,
the write is not whole, the sequence number is not the next, or 64 jobs wait; one counter says why, and nothing else
changes. Another function's write has no effect, nor one while CXL port 0, which carries it, is down (17 R411). -/
def Sys2Proof.Claims.EnqueueResults : Prop :=
  ∀ (s : State) (func q off : Nat) (bytes : List Byte) (full : Bool),
    let x := s.queue q
    let r := jobRecord bytes
    let rej := fun (f : QRej → QRej) => (.next (s.modQueue q fun x => { x with rej := f x.rej }) : Out)
    let form : Prop := off = 0 ∧ bytes.length = 128 ∧ full = true
    let i := Instr.jobEnqueue func q off bytes full
    (q < 8192 → off < 128 → s.ownerOf q = func → s.portUp 0 = true →
      (x.en = false ∨ s.shut q = true → exec i s = rej fun r => { r with off := satInc r.off })
      ∧ (x.en = true → s.shut q = false →
        (¬form → exec i s = rej fun r => { r with form := satInc r.form })
        ∧ (form → r.setWidth 32 ≠ x.next → exec i s = rej fun r => { r with seq := satInc r.seq })
        ∧ (form → r.setWidth 32 = x.next → x.occ = 64 → exec i s = rej fun r => { r with full := satInc r.full })))
    ∧ (8192 ≤ q ∨ 128 ≤ off ∨ s.ownerOf q ≠ func ∨ s.portUp 0 = false → exec i s = .next s)

/-- R105, R84, R106: a record that fails a check is refused with the number of the first that fails; the loader refuses a
file that fails with its record; CANCEL through another function than 0, or over port 0 while it is down, has no effect. -/
def Sys2Proof.Claims.JobCheckResults : Prop :=
  ∀ (s : State) (q : Nat) (j : Job),
    let x := s.queue q
    let id : JobId := { queue := q, seq := j.seq }
    (x.head = some j → j.phase = .queued →
      (j.check = .unchecked → ∀ n c a, s.checkRecord x.asid j = some (n, c, a) →
        exec (.jobCheck q) s = .next ((s.touches x.asid (s.checkReadsOf x.asid j)).refuseJob id n c a))
      ∧ (j.check = .loading → ∀ k, s.kob x.asid j.kernel = some k →
        ((s.ctx x.asid).published.find? fun p => p.file == j.kernel && p.fcrc == k.fcrc) = none →
        let s0 := s.touches x.asid [(j.kernel, k.len)]
        ∀ record, s0.loadKob x.asid j.kernel k = .inl record → exec (.kernelLoad q) s
          = .next ((s0.modJob id fun y => { y with refusal := record }).endUnstarted id .refused 0 [])))
    ∧ ∀ f, f ≠ 0 ∨ s.portUp 0 = false → exec (.cancel f q) s = .next s

/-- R109, R112, R424: while bring-up or a checkpoint drains the machine, and where no decision is due, no job starts; a
staging whose time has not passed goes on. -/
def Sys2Proof.Claims.DispatchResults : Prop :=
  ∀ (s : State) (id : JobId) (j : Job),
    (s.bd.stage < 2 ∨ s.bd.trained = true ∨ s.bd.quiet = true ∨ s.decisionDue = false →
      exec .dispatchDecision s = .next s)
    ∧ (s.job id = some j → ∀ since, j.stage = .staging since → s.clk.fs < since + j.stageTo * 10 ^ 11 →
        exec (.stagingTimeout id) s = .next s)

/-- What retiring a job gives back: its block, whose first 128 bytes from 0x200 on then read 0xFF (04 R108), its slots
and segments (05 R122). -/
def Sys2Proof.Claims.released (s : State) (q : Nat) (j : Job) : State :=
  (if j.block.isSome then s.sysWrite (s.queue q).asid (j.cx + 0x200) (List.replicate 128 0xFF) else s).releaseJob
    { queue := q, seq := j.seq }

/-- R103: a job with a thread that has not halted or a launch that has not ended does not complete; the oldest record of a
queue does not retire before its job has completed, nor while its retire record cannot be written: while translation
refuses it, or for a host's ring while CXL port 0 is down (17 R411). -/
def Sys2Proof.Claims.CompletionResults : Prop :=
  ∀ (s : State) (id : JobId) (q : Nat) (j : Job) (rest : List Job),
    (s.job id = some j → j.phase = .started →
      ((∃ k, k ∈ j.threads ∧ (s.thread k).run ≠ .halted) ∨ (∃ e, e ∈ s.jobLaunches id ∧ e.2.ended = false)) →
      exec (.jobComplete id) s = .next s)
    ∧ ((s.queue q).jobs = j :: rest → j.phase ≠ .completed → exec (.retire q) s = .next s)
    ∧ ((s.queue q).jobs = j :: rest → (s.queue q).rhost = true → s.portUp 0 = false → exec (.retire q) s = .next s)
    ∧ ((s.queue q).jobs = j :: rest → (s.queue q).rhost = false →
      let x := s.queue q
      let va := (x.rbase.toNat + 32 * (j.seq.toNat % 2 ^ (x.fld 24 4 + 6))) % 2 ^ 56
      ∀ ms e, (released s q j).ms.vwrite (dispPlace x.asid va) 0 x.asid va (retireRecord j) = (ms, some e) →
        exec (.retire q) s = .next s)

/-- R99, R103-R106, R109, R112, R84: where a record is rejected or refused, and where a job waits. -/
def Obligations.JobResults : Prop := Claims.EnqueueResults ∧ Claims.JobCheckResults ∧ Claims.DispatchResults ∧ Claims.CompletionResults

namespace Sys2Proof.Claims

open Sys2Proof Sys2Proof.Machine

/-- R99, R105, R84, R106: a record written whole to the push window of an enabled queue with room, with the next sequence
number, joins the queue; the oldest unstarted job passes its checks, or with a kernel file is loaded next; the loader uses
what the context has published from the same place, or publishes the file; CANCEL through function 0 ends every job that
has not started. CXL port 0 carries the record and the cancellation, and is up (17 R411). -/
def RecordsComplete : Prop :=
  ∀ (s : State) (q : Nat) (j : Job) (bytes : List Byte),
    let x := s.queue q
    let id : JobId := { queue := q, seq := j.seq }
    let rcd := jobRecord bytes
    (q < 8192 → s.portUp 0 = true → x.en = true → s.shut q = false → bytes.length = 128 → rcd.setWidth 32 = x.next →
      x.occ ≠ 64 → exec (.jobEnqueue (s.ownerOf q) q 0 bytes true) s = .next (s.modQueue q fun x =>
        { x with next := x.next + 1, jobs := x.jobs ++ [{ seq := rcd.setWidth 32, rcd := rcd }] }))
    ∧ (x.head = some j → j.phase = .queued → j.check = .unchecked → s.checkRecord x.asid j = none →
      exec (.jobCheck q) s = .next ((s.touches x.asid (s.checkReadsOf x.asid j)).modJob id fun y => { y with
        check := if j.kfile then .loading else .passed, table := if j.kfile then 0 else j.kernel }))
    ∧ (x.head = some j → j.phase = .queued → j.check = .loading → ∀ k, s.kob x.asid j.kernel = some k →
      let s0 := s.touches x.asid [(j.kernel, k.len)]
      let ready := fun (a : State) (table : Nat) =>
        (a.touches x.asid (a.tableReads x.asid table j)).modJob id fun y => { y with check := .passed, table := table }
      (∀ p, ((s.ctx x.asid).published.find? fun p => p.file == j.kernel && p.fcrc == k.fcrc) = some p →
        s0.checkTable x.asid p.table j = none → exec (.kernelLoad q) s = .next (ready s0 p.table))
      ∧ (((s.ctx x.asid).published.find? fun p => p.file == j.kernel && p.fcrc == k.fcrc) = none →
        ∀ s1 table, s0.loadKob x.asid j.kernel k = .inr (s1, table) → s1.checkTable x.asid table j = none →
        exec (.kernelLoad q) s = .next (ready s1 table)))
    ∧ (q < 8192 → s.portUp 0 = true → exec (.cancel 0 q) s = .next (((s.queue q).jobs.filter Job.unstarted).foldl
        (fun (a : State) j => a.endUnstarted { queue := q, seq := j.seq } .cancelled 0 []) s))

/-- R109, R112-R114, R103, R104: where a decision is due, it is taken; staging begins for a job among the first, by asking
for the moves of its working set, and ends when its time has passed; a prefetch changes nothing; a job whose threads have halted and whose launches have ended
completes, as does one whose containment is complete; the oldest completed record of a queue is retired: its retire
record is written at the place of its sequence number, in memory or at the host, DONE advances, the job, its block and its
slots are gone, and with RIRQ = 1 the queue's message follows. -/
def RunsComplete : Prop :=
  ∀ (s : State) (id : JobId) (q : Nat) (j : Job) (rest : List Job) (g : Fin 16),
    (2 ≤ s.bd.stage → s.bd.trained = false → s.bd.quiet = false → s.decisionDue = true →
      exec .dispatchDecision s = .next s.decide')
    ∧ exec (.nextJobPrefetch g) s = .next s
    ∧ (s.job id = some j → j.stage = .none →
        ((((s.queue id.queue).jobs.filter fun y => y.unstarted && s.passed6 (s.queue id.queue).asid y).take
          (s.dp.dpol.toNat / 2 ^ 24 % 16)).any fun y => y.seq == j.seq) = true →
        (j.kfile = false ∨ j.check = .passed) →
        let x := s.queue id.queue
        let ms := (s.stagingSet x.asid j).foldl (fun (m : MemSys) e => if e.2 = 0 then m
            else m.askMoves x.asid (lrLow e.1).toNat (lrEnd e.1).toNat e.2 .staging (stagingTag id) j.bclass
              (((lrEnd e.1).toNat - (lrLow e.1).toNat) / 65536 + 2))
          (s.touches x.asid (if j.workset = 0 then [] else [(j.workset, 8 * j.wscount)])).ms
        exec (.stagingBegin id) s
          = .next (({ s with ms := ms } : State).modJob id fun y => { y with stage := .staging s.clk.fs }))
    ∧ (s.job id = some j → ∀ since, j.stage = .staging since → since + j.stageTo * 10 ^ 11 ≤ s.clk.fs →
        exec (.stagingTimeout id) s = .next (s.modJob id fun y => { y with stage := .done }))
    ∧ (s.job id = some j → j.phase = .started → (∀ k, k ∈ j.threads → (s.thread k).run = .halted) →
      (∀ e, e ∈ s.jobLaunches id → e.2.ended = true) → exec (.jobComplete id) s = .next (s.finishJob id))
    ∧ (s.job id = some j → j.phase = .containing → j.contained = true →
        exec (.jobComplete id) s = .next (s.finishJob id))
    ∧ ((s.queue q).jobs = j :: rest → j.phase = .completed →
      let x := s.queue q
      let s2 := released s q j
      let va := (x.rbase.toNat + 32 * (j.seq.toNat % 2 ^ (x.fld 24 4 + 6))) % 2 ^ 56
      let gone := fun (u : State) =>
        let v := u.modQueue q fun y => { y with jobs := y.jobs.drop 1, retired := y.retired + 1 }
        if x.fld 2 1 = 1 then { v with ms := { v.ms with msix := v.ms.msix ++ [v.queueMsg q] } } else v
      (x.rhost = false → ∀ ms, s2.ms.vwrite (dispPlace x.asid va) 0 x.asid va (retireRecord j) = (ms, none) →
        exec (.retire q) s = .next (gone { s2 with ms := ms }))
      ∧ (x.rhost = true → s.portUp 0 = true →
        exec (.retire q) s = .next (gone { s2 with bd := { s2.bd with hostOut := s2.bd.hostOut ++ [(va, retireRecord j)] } })))

end Sys2Proof.Claims

/-- R99, R103-R106, R109, R112-R114, R84: a job from its record to its retirement. -/
def Obligations.JobsComplete : Prop := Claims.RecordsComplete ∧ Claims.RunsComplete

/-! ### Interruption -/

/-- R392, R393: a job that is not quiescent, or has made progress within its time, goes on. -/
def Sys2Proof.Claims.JobsGoOn : Prop :=
  ∀ (s : State) (id : JobId) (j : Job), s.job id = some j →
    (s.clk.fs < j.progressFs + s.watchdogMs id j * 10 ^ 12 → exec (.watchdog id) s = .next s)
    ∧ (s.clk.fc < j.quietFc + s.dp.dlcfg.toNat % 2 ^ 20 → exec (.deadlock id) s = .next s)
    ∧ (s.dp.dlcfg.getLsbD 20 = true → exec (.deadlock id) s = .next s)
    ∧ ((∃ e, e ∈ s.jobLaunches id ∧ s.launchActs e.1 e.2 = true) → exec (.deadlock id) s = .next s)
    ∧ (j.phase ≠ .started → exec (.preemption id) s = .next s)
    ∧ (j.phase = .saving → (∃ e, e ∈ s.jobLaunches id ∧ (e.2.struck = true ∨ s.stilled e.1 e.2 = false)) →
        exec (.save id) s = .next s)

/-- R384, R385, R390, R396: without snapshots a launch has no marker, no final marker and no cut; a third rollback to one cut
is an unrecoverable error; a save that would pass SAVESIZE is abandoned. -/
def Sys2Proof.Claims.SnapshotsEnd : Prop :=
  ∀ (s : State) (id : LaunchId) (l : Launch) (jid : JobId) (j : Job),
    let lk := launchKey id
    (s.launch lk = some l → l.snapOn = false → exec (.marker id) s = .next s ∧ exec (.finalMarker id) s = .next s)
    ∧ ((s.settle lk).launch lk = some l → l.snapOn = false → exec (.cutComplete id) s = .next s)
    ∧ (s.launch lk = some l → l.struck = true → l.ended = false → 3 ≤ l.rollbacks + 1 →
      let s0 := (s.modLaunch lk fun l => { l with struck := false, rollbacks := l.rollbacks + 1 }).modJob l.job
        fun j => { j with rollbacks := j.rollbacks + 1, quietFc := s.clk.fc }
      exec (.rollback id) s = .next (s0.storageFault l.job (lkThread lk / 4) (lkThread lk % 4)))
    ∧ (s.job jid = some j → j.phase = .saving → j.imaged = true → j.quietFc + 64 ≤ s.clk.fc →
      (∀ e, e ∈ s.jobLaunches jid → e.2.struck = false ∧ s.stilled e.1 e.2 = true) → j.saveSize < s.saveBytes j →
      exec (.save jid) s = .next (({ s with free := s.free + 1 } : State).abandonSave jid))

/-- R384-R396: where a job goes on, and where a snapshot or a save ends. A save that would pass SAVESIZE is abandoned
at once (R395); the size of the launch state in it is free (log 77). -/
def Obligations.SnapshotResults : Prop := Claims.JobsGoOn ∧ Claims.SnapshotsEnd

namespace Sys2Proof.Claims

open Sys2Proof Sys2Proof.Machine

/-- R391-R396: a job that has been quiescent for QCYC fc, or without progress for its time, has a fault recorded at SITE 8;
containment stops every thread of the job and ends its launches; pre-emption stops a started job's threads and saves
their images; when nothing of it has fired for 64 fc everything it holds is saved; after 2 ms the save is abandoned. -/
def JobsInterrupted : Prop :=
  ∀ (s : State) (id : JobId) (j : Job), s.job id = some j →
    (j.phase = .started → s.dp.dlcfg.getLsbD 20 = false →
      (∃ k, k ∈ j.threads ∧ ((s.thread k).run ≠ .halted ∨ s.jobLaunches id ≠ [])) →
      (∀ k, k ∈ j.threads → (s.thread k).run = .halted ∨ ((s.thread k).run = .running ∧ s.stuckAt k = true)) →
      s.faultOpen id j = false → (∀ e, e ∈ s.jobLaunches id → s.launchActs e.1 e.2 = false) →
      j.quietFc + s.dp.dlcfg.toNat % 2 ^ 20 ≤ s.clk.fc →
      exec (.deadlock id) s = .next (s.recordFault id { cls := .deadlock, site := 8 }))
    ∧ (j.progressFs + s.watchdogMs id j * 10 ^ 12 ≤ s.clk.fs →
      (j.phase = .started → exec (.watchdog id) s = .next (s.recordFault id { cls := .watchdog, site := 8 }))
      ∧ (j.phase = .saving → exec (.watchdog id) s = .next (s.modJob id fun x => { x with expiry := true })))
    ∧ (j.phase = .containing → j.contained = false → (∀ e, e ∈ s.jobLaunches id → e.2.struck = false) →
      ∃ t, exec (.containment id) s = .next t ∧ (∀ k, k ∈ j.threads → (t.thread k).run = .stopped)
        ∧ ∃ j', t.job id = some j' ∧ j'.contained = true ∧ j'.phase = .containing)
    ∧ (j.phase = .started → (∀ e, e ∈ s.jobLaunches id → e.2.struck = false) → 4096 * j.segs.length ≤ j.saveSize →
      let s1 := s.modJob id fun x => { x with phase := .saving, saveFs := s.clk.fs, imaged := false, preemptDue := false }
      let s2 := j.threads.foldl (fun (a : State) k => a.modThread k fun th => { th with wait := none }) s1
      ∀ s3, s2.writeImages j (s.queue id.queue).asid = some s3 →
        let s4 := s3.modJob id fun x => { x with imaged := true }
        exec (.preemption id) s = .next ((s4.jobLaunches id).foldl
          (fun (a : State) (e : Nat × Launch) => if e.2.ended then a else a.stopSources e.1 e.2) s4))
    ∧ (j.phase = .saving → j.imaged = true → j.quietFc + 64 ≤ s.clk.fc →
      (∀ e, e ∈ s.jobLaunches id → e.2.struck = false ∧ s.stilled e.1 e.2 = true) → s.saveBytes j ≤ j.saveSize →
      exec (.save id) s = .next ((({ s with free := s.free + 1 } : State).writeArea j (s.queue id.queue).asid
        (s.saveBytes j)).saveNow id))
    ∧ (j.phase = .saving → j.saveFs + 2 * 10 ^ 12 ≤ s.clk.fs → exec (.saveTimeout id) s = .next (s.abandonSave id))

/-- R384, R385, R388-R390: a marker falls due by the tokens that a source has delivered; the final one when every source
has ended; a cut commits when it has been passed everywhere, as the budgets let it; a full hold is performed and the
interval is unprotected; a launch that an error has struck goes back to its last complete cut. -/
def SnapshotsComplete : Prop :=
  ∀ (s : State) (id : LaunchId) (l : Launch),
    let lk := launchKey id
    let s1 := s.settle lk
    (s.launch lk = some l → s.lkActive lk = true →
      (l.snapOn = true → l.markint ≠ 0 →
        ((∃ k, k ∈ l.sourceKeys lk ∧ l.b * l.markint * (l.scheds + 1) ≤ (s.port k).toks)
          ∨ ∃ x, x ∈ s.constElems lk l ∧ l.b * l.markint * (l.scheds + 1) ≤ constToks x) →
        exec (.marker id) s = .next (((s.modLaunch lk fun l => { l with scheds := l.scheds + 1 }).request lk).settle lk))
      ∧ (l.snapOn = true → l.finalReq = false → l.seqLeft = false → s.marking lk l = false →
        (∀ k, k ∈ l.sourceKeys lk → (s.port k).eos = true) → (∀ st, st ∈ s.constStates lk l → 1 ≤ st.cnt1) →
        exec (.finalMarker id) s = .next (((s.request lk).modLaunch lk fun l => { l with finalReq := true }).settle lk))
      ∧ (l.holding = true → s.holdFull l = true →
        let t := (((s.performHeld (s.classOf l.job) l.held).releaseEntries l.xqSent l.xqTaken).modLaunch lk fun l =>
          { l with held := [], undo := [], xqSent := [], xqTaken := [], unprot := true }).settle lk
        (s.admits (.commit lk) s.wanted (s.chargedBy t) = true → exec (.writeHoldFull id) s = .next (t.served (.commit lk)))
        ∧ (s.admits (.commit lk) s.wanted (s.chargedBy t) = false →
          exec (.writeHoldFull id) s = .next (s.waitsFor (.commit lk) (s.chargedBy t)))))
    ∧ (s1.launch lk = some l → s1.lkActive lk = true → l.snapOn = true → l.cut + 1 ≤ l.mark →
        (∀ key, key ∈ l.sourceKeys lk → l.cut + 1 ≤ (s1.port key).mark) → (l.mark ≠ l.cut + 1 ∨ s1.marking lk l = false) →
        s1.inTransit lk (l.cut + 1) = false → (∀ p, p ∈ l.pipes → s1.cutPassed lk l (l.cut + 1) p = true) →
        let t := ((((s1.writeSnaps lk l (l.cut + 1)).commitCut lk l (l.cut + 1))).stirred lk).settle lk
        (s1.admits (.commit lk) s1.wanted (s1.chargedBy t) = true → exec (.cutComplete id) s = .next (t.served (.commit lk)))
        ∧ (s1.admits (.commit lk) s1.wanted (s1.chargedBy t) = false →
          exec (.cutComplete id) s = .next (s1.waitsFor (.commit lk) (s1.chargedBy t))))
    ∧ (s.launch lk = some l → l.struck = true → l.ended = false → l.rollbacks + 1 < 3 → ∀ j, s.job l.job = some j →
      j.phase ≠ .saving → j.preemptDue = false →
      (l.cut = 0 ∨ s.ms.areaBad (s.lkAsid lk) (Launch.snapHalf j (s.thread (lkThread lk)).n (lk % 4) l.cut)
        (s.launchPlan lk l).footprint = false) →
      let s0 := (s.modLaunch lk fun l => { l with struck := false, rollbacks := l.rollbacks + 1 }).modJob l.job
        fun j => { j with rollbacks := j.rollbacks + 1, quietFc := s.clk.fc }
      let t := ((s0.revert lk).restoreCut lk).settle lk
      ((t.job l.job).any fun j => j.preemptDue) = false → exec (.rollback id) s = .next t)

end Sys2Proof.Claims

/-- R384, R385, R388-R396: detectors, containment, saving, markers, cuts and rollback. When a marker is due is log 73,
when a job is quiescent log 69, the areas' free bytes and sizes log 77, the expiry held while a job is saved log 80,
containment as one step log 67, budgets of a whole step log 125: deductions and choices of the model. -/
def Obligations.InterruptionCompletes : Prop := Claims.JobsInterrupted ∧ Claims.SnapshotsComplete

/-! ### Errors, resets, boundary, keys -/

/-- R403, R422, R424: a warm reset loses tier H, every thread, the fabric, the queues, the scratchpads' contents and
the translations, and keeps the rest of memory; loss of power and a thermal trip lose all memory but the safe tier, and
every register but what is attached and what has left the module; a cold reset then comes up at stage 2 with the clock
at 1.0 GHz where the firmware verifies, and at stage 1 where it does not. -/
def Sys2Proof.Claims.ResetEvents : Prop :=
  ∀ s : State,
    (∃ t, exec .warmReset s = .next t ∧ t.threads = [] ∧ t.xq = [] ∧ t.fab = {} ∧ t.scratch = [] ∧ t.ms.tlb = [] ∧ t.ms.moves = []
      ∧ (s.jobs = [] → ∀ a, t.ms.byte a = if a < 0xC000000000 then 0 else s.ms.byte a))
    ∧ (∃ t, exec .lossOfPower s = .next t ∧ exec .thermalTrip s = .next t
        ∧ (∀ a, t.ms.byte a = if s.inSafeTier a then s.ms.byte a else 0)
        ∧ t.bd.safeHdr = s.bd.safeHdr ∧ t.threads = [] ∧ t.fab = {} ∧ t.dp = State.reset.dp ∧ t.rings = State.reset.rings ∧ t.ctxs = State.reset.ctxs
        ∧ t.bd.stage = 0 ∧ t.clk = State.reset.clk ∧ t.ms.tierX = s.ms.tierX
        ∧ ∃ u v, exec (.coldReset true) s = .next u ∧ exec (.coldReset false) s = .next v
          ∧ u.bd.stage = 2 ∧ u.clk.mhz = 1000 ∧ v.bd.stage = 1 ∧ u.ms = t.ms ∧ v.ms = t.ms ∧ u.dp = t.dp ∧ v.dp = t.dp)

/-- R424: full service waits for the started jobs, and begins from reduced service alone. -/
def Sys2Proof.Claims.ServiceResults : Prop :=
  ∀ s : State,
    (s.bd.stage = 2 → (∃ e, e ∈ s.jobs ∧ e.2.startedOnce = true) →
        exec .fullService s = .next { s with bd := { s.bd with trained := true } })
    ∧ (s.bd.stage ≠ 2 → exec .fullService s = .next s)

/-- R379, R411, R412, R424: a host's read through CXL.mem changes nothing, nor does its write elsewhere than in tiers H
and L, as far as the bring-up stage serves them (log 95), or while port 0 is down; port 0 is not removed. -/
def Sys2Proof.Claims.CxlResults : Prop :=
  ∀ (s : State) (pa : Nat) (bs : List Byte),
    exec (.hostCxlMemAccess pa none) s = .next s
    ∧ (ckptPos pa = none ∨ s.portUp 0 = false ∨ s.bd.stage < 2 ∨ s.ms.tierOf pa = none → exec (.hostCxlMemAccess pa (some bs)) s = .next s)
    ∧ exec (.cxlSurpriseRemoval 0) s = .next s

/-- R359, R417, R418: an open request on a channel in use, or over a link that is down, has no effect; one without a
grant is refused; a flit that fails its CRC is counted, and one out of sequence is passed over, so that each acts once. -/
def Sys2Proof.Claims.PeerResults : Prop :=
  ∀ (s : State) (i : Fin 16) (n : Nat) (g : BitVec 16) (dir : Bool) (bs : List Byte),
    let p := s.peer i.val
    let crcOk : Prop := ofBytesLE (bs.drop 248) = (Config.flitCrc (bs.take 248)).toNat
    let seq := (Config.flitSeq (BitVec.ofNat 64 (ofBytesLE (bs.take 8)))).toNat
    let s1 := s.modPeer i.val fun p => { p with lastFs := s.clk.fs }
    (p.up = false ∨ (s.chan i.val n).isSome = true → exec (.peerOpen i n g dir) s = .next s)
    ∧ (p.up = true → s.chan i.val n = none → s.grantOk i.val g.toNat dir = none →
        exec (.peerOpen i n g dir) s = .next (s.tell i.val n .refuse))
    ∧ (p.up = true → bs.length = 256 →
        (¬crcOk → exec (.flitReceive i bs) s = .next (s1.modPeer i.val fun p => { p with fails := p.fails + 1 }))
        ∧ (crcOk → seq ≠ p.rxSeq → exec (.flitReceive i bs) s = .next s1))
    ∧ (p.up = true → p.replaysFailed = false → s.clk.fs < p.lastFs + 10000000000 → exec (.linkLost i) s = .next s)

/-- R359, R379, R403, R411, R412, R417, R418, R422, R424: resets, service, CXL ports and peer links. What a loss of
power keeps is log 90, the state before a cold reset log 2, what a warm reset keeps log 82, a host's access outside
tiers H and L log 95; the thermal trip is R425. -/
def Obligations.PowerResults : Prop :=
  Claims.ResetEvents ∧ Claims.ServiceResults ∧ Claims.CxlResults ∧ Claims.PeerResults

/-- R383, R403, R405, R422, R424, R425: a corrected error is counted; an uncorrectable one in memory leaves its line
reading as DATA_UE, one in a forme's configuration drops the cached forme, one in a clean cache changes nothing, one
in a thread's state is recorded; the loss of a die marks it and the dies that go with it; resets lose what their rules
say; full service begins, at 1.75 GHz and with all of memory, when no started job is left; a thermal step takes the
clock down by 50 MHz, 1 ms after the step before it at the soonest; an error in the fabric strikes the launch whose
storage it is, and clears what no launch uses. The counter by storage, and soft errors without a further effect, are
log 76, the loss of power log 90, the state before a cold reset log 2: choices of the model. -/
def Obligations.ErrorsAndResetsComplete : Prop :=
  ∀ (s : State) (st : Storage) (line : Nat) (id : LaunchId) (k : Nat) (g : Fin 16) (b : Fin 4) (die : Fin 4) (j : JobId),
    exec (.correctableError st) s = .next { s with bd := { s.bd with errors := tmod 0 s.bd.errors (storageCounter st) (· + 1) } }
    ∧ exec (.softError (.memory line)) s = .next { s with ms := { s.ms with ue := tset false s.ms.ue line true } }
    ∧ exec (.softError (.formeConfig id k)) s
        = .next (s.modLaunch (launchKey id) fun l => { l with formes := tset none l.formes k none })
    ∧ (∀ l, s.launch (launchKey id) = some l → exec (.softError (.fabric id)) s = .next (s.tier2 (launchKey id) l)
        ∧ (s.lkActive (launchKey id) = true → l.ended = false → l.snapOn = true → l.unprot = false → l.peered = false →
          s.tier2 (launchKey id) l = s.setLaunch (launchKey id) (some { l with struck := true })))
    ∧ (s.launch (launchKey id) = none →
        exec (.softError (.fabric id)) s = .next (s.clearUnused (lkThread (launchKey id) / 4)))
    ∧ exec (.softError (.unusedFabric g)) s = .next (s.clearUnused g.val)
    ∧ exec (.softError (.icache g)) s = .next s ∧ exec (.softError (.dcacheClean g)) s = .next s
    ∧ ((s.thread (4 * g.val + b.val)).job = some j →
        exec (.softError (.threadState g b)) s = .next (s.storageFault j g.val b.val))
    ∧ (∃ t, exec (.dieLoss die) s = .next t ∧ (t.ms.die die.val).lost = true)
    ∧ (∃ t, exec .warmReset s = .next t ∧ t.threads = [] ∧ t.fab = {} ∧ t.ms.tlb = [])
    ∧ (∃ t, exec .lossOfPower s = .next t ∧ exec .thermalTrip s = .next t ∧ t.threads = [] ∧ t.fab = {} ∧ t.bd.stage = 0
        ∧ ∀ a, t.ms.byte a = if s.inSafeTier a then s.ms.byte a else 0)
    ∧ (∃ t u, exec (.coldReset true) s = .next t ∧ t.bd.stage = 2 ∧ t.clk.mhz = 1000 ∧ t.threads = []
        ∧ exec (.coldReset false) s = .next u ∧ u.bd.stage = 1)
    ∧ (s.bd.stage = 2 → (∀ e, e ∈ s.jobs → e.2.startedOnce = false) →
        ∃ t, exec .fullService s = .next t ∧ t.bd.stage = 3 ∧ t.clk.mhz = 1750 ∧ t.ms.reduced = false ∧ t.ms.mem = s.ms.mem)
    ∧ (50 < s.clk.mhz → (s.bd.heat = 0 ∨ s.bd.heatFs + 10 ^ 12 ≤ s.clk.fs) →
        ∃ t, exec .thermalStepDown s = .next t ∧ t.clk.mhz = s.clk.mhz - 50 ∧ t.bd.heat = s.bd.heat + 1
          ∧ t.bd.heatFs = s.clk.fs ∧ t.ms = s.ms)
    ∧ (s.bd.heat ≠ 0 → s.clk.fs < s.bd.heatFs + 10 ^ 12 → exec .thermalStepDown s = .next s)

/-- R359, R379, R411, R412, R417, R418: a host writes bytes of tiers H and L through port 0; a port that is removed
goes down and its memory reads as DATA_UE; a port that trains to 256-byte flits is up, and the memory behind it is
tier X; an open request with a grant starts a far end; a flit with a good CRC, in sequence, does what it says; a link
that has failed eight replays, or stood still for 10 µs, is lost; it comes up again without channels. That training to
256-byte flits makes a port up and its memory present is log 92, the credits and the fields of flits log 57: the
model's own. -/
def Obligations.LinksComplete : Prop :=
  (∀ (s : State) (pa o : Nat) (bs : List Byte) (p : Fin 8),
    (s.portUp 0 = true → 2 ≤ s.bd.stage → bs ≠ [] → ckptPos pa = some o →
        ckptPos (pa + bs.length - 1) = some (o + (bs.length - 1)) → (s.ms.tierOf pa).isSome = true →
        (s.ms.tierOf (pa + bs.length - 1)).isSome = true →
        exec (.hostCxlMemAccess pa (some bs)) s = .next { s with ms := s.ms.writeData pa bs })
    ∧ (p ≠ 0 → ∃ t, exec (.cxlSurpriseRemoval p) s = .next t ∧ t.portUp p.val = false
        ∧ tget false t.ms.removed p.val = true ∧ t.ms.mem = s.ms.mem)
    ∧ ((s.ms.die (p.val / 2)).lost = false → ∃ t, exec (.cxlLinkTraining p true) s = .next t ∧ t.portUp p.val = true
        ∧ t.ms.mem = s.ms.mem
        ∧ (p ≠ 0 → tget false t.ms.removed p.val = false ∧ tget 0 t.ms.tierX p.val = s.attached p.val))
    ∧ ∃ t, exec (.cxlLinkTraining p false) s = .next t ∧ t.portUp p.val = false ∧ t.ms.mem = s.ms.mem)
  ∧ ∀ (s : State) (i : Fin 16) (n : Nat) (g : BitVec 16) (dir : Bool) (bs : List Byte),
    let p := s.peer i.val
    let s1 := s.modPeer i.val fun p => { p with lastFs := s.clk.fs }
    (p.up = true → s.chan i.val n = none → ∀ lh, s.grantOk i.val g.toNat dir = some lh →
        let c := farCmd (s.grant g.toNat) dir lh
        c.nestBad = false → c.beyond lh.1 = false →
        exec (.peerOpen i n g dir) s = .next (((s.tell i.val n .accept).setChan i.val n
          (some { dir := dir, cmd := some c, credit := Config.peerCredits })).pumpAll i.val n))
    ∧ (p.up = true → bs.length = 256 → ofBytesLE (bs.drop 248) = (Config.flitCrc (bs.take 248)).toNat →
        (Config.flitSeq (BitVec.ofNat 64 (ofBytesLE (bs.take 8)))).toNat = p.rxSeq →
        exec (.flitReceive i bs) s = .next ((s1.modPeer i.val fun p => { p with fails := 0 }).flit i.val bs))
    ∧ (p.up = true → (p.replaysFailed = true ∨ p.lastFs + 10000000000 ≤ s.clk.fs) →
        exec (.linkLost i) s = .next (s.loseLink i.val) ∧ ((s.loseLink i.val).peer i.val).up = false
        ∧ ((s.loseLink i.val).peer i.val).chans = [])
    ∧ (p.up = false → (s.ms.die (peerDie i.val)).lost = false →
        exec (.linkRetrain i) s = .next (s.modPeer i.val fun p =>
          { p with up := true, fails := 0, naks := 0, lastFs := s.clk.fs, rxSeq := 0, txSeq := 0 }))

/-- R420-R422, R416, R426, R427: a checkpoint that cannot begin, for want of a safe tier, or be written aborts and keeps
the image it had, and GO has no effect while one runs; a step of the copy that the arbiters do not let through waits (log
125); RESTORE waits for every queue to be disabled, and does nothing without an image (log 88); a key that does not unwrap,
a handle that is bound and a measurement that does not exist change nothing (log 93). -/
def Sys2Proof.Claims.CheckpointWaits : Prop :=
  ∀ (s : State) (r : Mirror) (n kslot m : Nat) (wrapped : List Byte) (kwk : List Nat) (asid h : BitVec 16),
    (s.bd.ckpt.phase = .copying → s.ms.mirror = some r →
        (r.failed = true ∨ ∃ i, i < 16 ∧ (s.ms.tierOf (r.pa (r.frontier + 4096 * i)) = none
          ∨ s.ms.rangeBad (r.pa (r.frontier + 4096 * i)) 4096 = true)) →
        exec .checkpointBlockCopy s = .next (s.ckptEnd .aborted))
    ∧ (∀ v : W64, v.getLsbD 2 = false → v.getLsbD 0 = true →
        (s.bd.ckpt.runs = true → exec (.checkpoint v) s = .next s)
        ∧ (s.bd.ckpt.runs = false → v.getLsbD 1 = false → s.safePorts = [] →
          exec (.checkpoint v) s = .next (s.ckptEnd .aborted)))
    ∧ (s.bd.ckpt.phase = .copying → s.ms.mirror = some r → r.failed = false →
        let gs := (List.range 16).map fun i => r.frontier + 4096 * i
        let cs := gs.flatMap fun o => s.ms.memCharges 0 (ckptPa o) 4096 31 ++ s.ms.memCharges 0 (r.pa o) 4096 31
        (∀ o, o ∈ gs → (s.ms.tierOf (r.pa o)).isSome = true ∧ s.ms.rangeBad (r.pa o) 4096 = false) →
        s.admits .ckpt s.wanted cs = false → exec .checkpointBlockCopy s = .next (s.waitsFor .ckpt cs))
    ∧ (s.bd.ckpt.phase = .flushing → exec (.checkpointFlush false) s = .next (s.ckptEnd .aborted))
    ∧ (s.ckptEnd .aborted).bd.safeHdr = s.bd.safeHdr
    ∧ (s.bd.safeHdr = none ∨ (∃ e, e ∈ s.dp.queues ∧ e.2.en = true) → exec .checkpointRestore s = .next s)
    ∧ (tget none s.bd.kwks n = some kwk → aesKeyUnwrap kwk (wrapped.map BitVec.toNat) = none →
        exec (.keyLoad n kslot wrapped) s = .next s)
    ∧ ((s.ctx asid.toNat).keySlot h.toNat ≠ none → exec (.keyBind asid h kslot) s = .next s)
    ∧ (s.measurement m = none → exec (.getMeasurements m) s = .next s)

namespace Sys2Proof.Claims

open Sys2Proof Sys2Proof.Machine

/-- R420-R422: CKPTCTL with GO begins a checkpoint, with QUIESCE by saving every started job; each step of the copy
advances the frontier by 64 KiB, when the arbiters let it through; behind the last the safe tier is flushed, and the header
marks the new image, of the other area, valid. -/
def CheckpointsComplete : Prop :=
  ∀ (s : State) (v : W64) (r : Mirror),
    (v.getLsbD 2 = false → v.getLsbD 0 = true → s.bd.ckpt.runs = false →
      (v.getLsbD 1 = true → exec (.checkpoint v) s
        = .next { s with bd := { s.bd with ckpt := { phase := .saving, quiesce := true } } })
      ∧ (v.getLsbD 1 = false → s.safePorts ≠ [] → exec (.checkpoint v) s = .next { s with
          ms := { s.ms with mirror := some s.newMirror }
          bd := { s.bd with ckpt := { phase := .copying, quiesce := false } } }))
    ∧ (s.bd.ckpt.phase = .saving → (∀ e, e ∈ s.jobs → e.2.phase ≠ .started ∧ e.2.phase ≠ .saving ∧ e.2.phase ≠ .containing) →
        s.safePorts ≠ [] → exec .checkpointQuiesce s = .next { s with
          ms := { s.ms with mirror := some s.newMirror }
          bd := { s.bd with ckpt := { phase := .copying, quiesce := true } } })
    ∧ (s.bd.ckpt.phase = .copying → s.ms.mirror = some r → r.failed = false →
        let gs := (List.range 16).map fun i => r.frontier + 4096 * i
        let cs := gs.flatMap fun o => s.ms.memCharges 0 (ckptPa o) 4096 31 ++ s.ms.memCharges 0 (r.pa o) 4096 31
        let mem := gs.foldl (fun (m : Tab Byte) o => copyBytes m (ckptPa o) (r.pa o) 4096) s.ms.mem
        (∀ o, o ∈ gs → (s.ms.tierOf (r.pa o)).isSome = true ∧ s.ms.rangeBad (r.pa o) 4096 = false) →
        s.admits .ckpt s.wanted cs = true →
        ∃ t, exec .checkpointBlockCopy s = .next t ∧ t.dp = s.dp ∧ t.fab = s.fab
          ∧ (r.frontier + 65536 < ckptBytes →
            t.ms = { s.ms with mem := mem, mirror := some { r with frontier := r.frontier + 65536 } }
            ∧ t.bd = { (s.served .ckpt).bd with ckpt := { s.bd.ckpt with copied := r.frontier + 65536 } })
          ∧ (ckptBytes ≤ r.frontier + 65536 →
            t.ms = { s.ms with mem := mem, mirror := none }
            ∧ t.bd = { (s.served .ckpt).bd with
                ckpt := { s.bd.ckpt with phase := .flushing, copied := r.frontier + 65536, journal := some s.dp } }))
    ∧ (s.bd.ckpt.phase = .flushing →
        ∃ t h, exec (.checkpointFlush true) s = .next t ∧ t.bd.safeHdr = some h ∧ t.bd.ckpt.phase = .done
          ∧ t.ms.mem = s.ms.mem ∧ (∀ h0, s.bd.safeHdr = some h0 → h.area = 1 - h0.area ∧ h.gen = h0.gen + 1)
          ∧ (∀ jn, s.bd.ckpt.journal = some jn → h.journal = jn) ∧ h.time = s.time ∧ h.quiesce = s.bd.ckpt.quiesce)

/-- R422, R420, R403: RESTORE, with every queue disabled and no checkpoint under way, copies the newest image back: every
byte of tiers H and L is that of its place in the image, which the safe tier holds interleaved (R419), and every other byte
is as before; the queues and events are those of the image's journal, save the counts of rejected records (log 88); the
dispatcher then rebuilds its state from the journal as after a warm reset: saved jobs whose areas it has kept stay, other
jobs that had started end; threads, fabric, scratchpads and translations are gone. -/
def RestoreCompletes : Prop :=
  ∀ (s : State) (h : SafeHdr), s.bd.safeHdr = some h → s.bd.ckpt.runs = false → (∀ e, e ∈ s.dp.queues → e.2.en = false) →
    let r : Mirror := { ports := s.safePorts, offset := s.safeOffset, base := 65536 + h.area * imageArea }
    ∃ (mem : Tab Byte) (ue : Tab Bool) (keep : JobId → Bool),
      let t0 : State := { s with
        ms := { s.ms with mem := mem, tlb := [], ue := ue }
        dp := { s.dp with
          queues := h.journal.queues.map fun e => (e.1, { e.2 with rej := (s.queue e.1).rej })
          events := h.journal.events } }
      let t := (t0.rebuild keep).dropVolatile
      exec .checkpointRestore s = .next t
      ∧ (∀ i, keep i = true ↔ ∃ j, (i, j) ∈ t0.jobs ∧ j.phase = .saved ∧ t0.saveKept i j = true)
      ∧ (Memory.wf s.ms.mem = true → s.safePorts ≠ [] → h.area ≤ 1 →
          s.safeOffset + safeShare s.safePorts.length ≤ 0x100000000000 →
          ∀ a o, ckptPos a = some o → t0.ms.byte a = s.ms.byte (r.pa o))
      ∧ (Memory.wf s.ms.mem = true → ∀ a, ckptPos a = none → t0.ms.byte a = s.ms.byte a)
      ∧ (∀ l, tget false ue l = if (ckptPos (64 * l)).isSome then false else tget false s.ms.ue l)
      ∧ t.threads = [] ∧ t.xq = [] ∧ t.fab = {} ∧ t.scratch = [] ∧ t.ms.tlb = [] ∧ t.ms.moves = [] ∧ t.dp.ptr = []
      ∧ ((∀ e, e ∈ t0.jobs → e.2.phase = .queued ∨ e.2.phase = .completed ∨ keep e.1 = true) →
          t.ms.mem = mem ∧ t.dp.events = h.journal.events)

/-- R416, R426: a key exchange gives a session its wrapping key (the standards are the model's, log 10); a key that unwraps
under it fills its slot; a handle that is not bound is bound, and unbinding ends the binding. -/
def KeysComplete : Prop :=
  ∀ (s : State) (n kslot : Nat) (request wrapped : List Byte) (asid h : BitVec 16) (kwk p : List Nat),
    exec (.keyExchange n request) s = .next { s with
        free := s.free + 1
        bd := { s.bd with
          kwks := tset none s.bd.kwks n
            (some ((hkdfBlocks 1 1 ((Config.exportSecret s.free request).map BitVec.toNat) kwkInfo []).take 32))
          signature := Config.sm2Sign s.free request } }
    ∧ (tget none s.bd.kwks n = some kwk → kslot < 4096 → wrapped.length = 88 →
      aesKeyUnwrap kwk (wrapped.map BitVec.toNat) = some p →
      exec (.keyLoad n kslot wrapped) s = .next { s with bd := { s.bd with keys := tset none s.bd.keys kslot (some
            { key := BitVec.ofNat 512 (ofNatBytesLE (p.take 64)), tweak := BitVec.ofNat 128 (ofNatBytesLE (p.drop 64)) }) } })
    ∧ (h ≠ 0 → kslot < 4096 → (s.ctx asid.toNat).keySlot h.toNat = none →
        ∃ t, exec (.keyBind asid h kslot) s = .next t ∧ (t.ctx asid.toNat).keySlot h.toNat = some kslot
          ∧ (∀ a, a ≠ asid.toNat → t.ctx a = s.ctx a) ∧ t.ms = s.ms)
    ∧ (∃ t, exec (.keyUnbind asid h) s = .next t ∧ (t.ctx asid.toNat).keySlot h.toNat = none
        ∧ (∀ a, a ≠ asid.toNat → t.ctx a = s.ctx a) ∧ t.ms = s.ms)

end Sys2Proof.Claims

/-- R416, R420-R422, R426: checkpoints and keys. What RESTORE waits for, and where the safe tier's header stands, is
log 88. -/
def Obligations.CheckpointsAndKeysComplete : Prop :=
  Claims.CheckpointsComplete ∧ Claims.RestoreCompletes ∧ Claims.KeysComplete

/-- R6, R200, R203, R84, R427: a measurement that exists is reported; a register write goes to the page or offset it
names; a profile sample of an enabled thread whose period has passed records its pc; an agent claims a context, and
sends a thread that stopped at BRK on at an aligned pc; a ligature bound through the management path is bound as by
LIGBIND, and the result code is kept. That QNEXT sets the count of retired records is log 84, where samples go and
their phase log 94, the aligned pc of a resume log 102, the result code that a ligature keeps log 109: deductions and
choices of the model. -/
def Obligations.AgentsComplete : Prop :=
  ∀ (s : State) (m q : Nat) (v addr : W64) (ring : Fin 16) (slot : Fin 4) (asid : BitVec 16) (n : BitVec 5) (b : Bool)
    (pc : BitVec 56) (hd img : List Byte),
    let k := 4 * ring.val + slot.val
    (∀ bs, s.measurement m = some bs →
        exec (.getMeasurements m) s = .next { s with
          free := s.free + 1, bd := { s.bd with report := some (m, bs), signature := Config.sm2Sign s.free bs } })
    ∧ (q < 8192 → s.portUp 0 = true → (s.queue q).en = false → (s.queue q).next = (s.queue q).retired →
        exec (.registerWrite (.queuePage 0 q 0x88) v) s
          = .next (s.modQueue q fun x => { x with next := v.setWidth 32, retired := v.setWidth 32 }))
    ∧ (s.admits .mgmt s.wanted [{ res := 6, inst := 0, cls := 31, units := 1 }] = true →
        ∃ t, exec (.registerWrite (.mgmt 0xC00000) v) s = .next t ∧ t.ms = { s.ms with tpol := writeTpol s.ms.tpol v }
        ∧ t.dp = s.dp ∧ t.fab = s.fab)
    ∧ ((s.thread k).profile.getLsbD 0 = true → (s.thread k).run ≠ .idle →
        (s.thread k).sampleFc + (s.thread k).profile.toNat / 65536 % 65536 * 1024 ≤ s.clk.fc →
        exec (.profileSample ring slot) s
          = .next (({ s with samples := s.samples ++ [(k, (s.thread k).pc)] } : State).setThread k
              { s.thread k with sampleFc := s.clk.fc }))
    ∧ (∃ t, exec (.debugAgentClaim asid b) s = .next t ∧ (t.ctx asid.toNat).claimed = b
        ∧ ∀ a, a ≠ asid.toNat → t.ctx a = s.ctx a)
    ∧ ((s.thread k).run = .agent → exec (.debugAgentResume ring slot pc) s
        = .next (s.modThread k fun th => { th with run := .running, pc := pc &&& ~~~3 }))
    ∧ (addr ≠ 0 → addr.toNat % 8 = 0 → s.sysRead asid.toNat addr.toNat 16 = some hd →
        s.sysRead asid.toNat addr.toNat (16 + 8 * ligWords hd) = some img → ligCheck img n.toNat = 0 →
        (s.touches asid.toNat [(addr.toNat, 16 + 8 * ligWords hd)]).ligBusy asid.toNat (0xE0 + n.toNat) = false →
        ∃ t e, exec (.managementPathLigatureBind asid n addr) s = .next t ∧ e.image = img.take (16 + 8 * ligWords img)
          ∧ tget none (t.ctx asid.toNat).ligs n.toNat = some e ∧ (t.ctx asid.toNat).ligResult = some 0
          ∧ ∀ a, a ≠ asid.toNat → t.ctx a = s.ctx a)

/-- R6, R99, R200: a write to a queue page through another function than 0 changes nothing; a thread whose profiling is off,
or whose period has not passed, is not sampled; a thread that does not stop at BRK is not sent on. -/
def Sys2Proof.Claims.AgentsWait : Prop :=
  ∀ (s : State) (q off f : Nat) (v : W64) (ring : Fin 16) (slot : Fin 4) (pc : BitVec 56),
    let k := 4 * ring.val + slot.val
    (f ≠ 0 ∨ s.portUp 0 = false → exec (.registerWrite (.queuePage f q off) v) s = .next s)
    ∧ (s.admits .mgmt s.wanted [{ res := 6, inst := 0, cls := 31, units := 1 }] = false →
        exec (.registerWrite (.mgmt 0xC00000) v) s = .next (s.waitsFor .mgmt [{ res := 6, inst := 0, cls := 31, units := 1 }]))
    ∧ ((s.thread k).profile.getLsbD 0 = false
        ∨ s.clk.fc < (s.thread k).sampleFc + (s.thread k).profile.toNat / 65536 % 65536 * 1024 →
        exec (.profileSample ring slot) s = .next s)
    ∧ ((s.thread k).run ≠ .agent → exec (.debugAgentResume ring slot pc) s = .next s)

/-- R6, R99, R200, R416, R420-R422, R427: where checkpoints, keys, measurements and agents wait or change nothing.
KEY_BIND of a handle that is bound, KEY_LOAD that does not unwrap and GET_MEASUREMENTS of an index that is missing
have no effect by log 93; RESTORE's waiting is log 88; the slots of keys are R413. -/
def Obligations.CheckpointResults : Prop := Claims.CheckpointWaits ∧ Claims.AgentsWait
end

