-- ==== Sys2Proof/Laws/State.lean ====
section
/-! SUPPORT. What each update of the state leaves alone, field by field, and what a thread's registers read after
each update of a thread. -/

namespace Sys2Proof.Machine

/-! `State.setThread` -/
@[simp] theorem State.setThread_clk (s : State) (k : Nat) (th : Thread) : (s.setThread k th).clk = s.clk := rfl
@[simp] theorem State.setThread_xq (s : State) (k : Nat) (th : Thread) : (s.setThread k th).xq = s.xq := rfl
@[simp] theorem State.setThread_ms (s : State) (k : Nat) (th : Thread) : (s.setThread k th).ms = s.ms := rfl
@[simp] theorem State.setThread_ctxs (s : State) (k : Nat) (th : Thread) : (s.setThread k th).ctxs = s.ctxs := rfl
@[simp] theorem State.setThread_dp (s : State) (k : Nat) (th : Thread) : (s.setThread k th).dp = s.dp := rfl
@[simp] theorem State.setThread_rings (s : State) (k : Nat) (th : Thread) : (s.setThread k th).rings = s.rings := rfl
@[simp] theorem State.setThread_fab (s : State) (k : Nat) (th : Thread) : (s.setThread k th).fab = s.fab := rfl
@[simp] theorem State.setThread_bd (s : State) (k : Nat) (th : Thread) : (s.setThread k th).bd = s.bd := rfl
@[simp] theorem State.setThread_scratch (s : State) (k : Nat) (th : Thread) : (s.setThread k th).scratch = s.scratch := rfl
@[simp] theorem State.setThread_spGen (s : State) (k : Nat) (th : Thread) : (s.setThread k th).spGen = s.spGen := rfl
@[simp] theorem State.setThread_charges (s : State) (k : Nat) (th : Thread) : (s.setThread k th).charges = s.charges := rfl
@[simp] theorem State.setThread_samples (s : State) (k : Nat) (th : Thread) : (s.setThread k th).samples = s.samples := rfl
@[simp] theorem State.setThread_sched (s : State) (k : Nat) (th : Thread) : (s.setThread k th).sched = s.sched := rfl
@[simp] theorem State.setThread_turn (s : State) (k : Nat) (th : Thread) : (s.setThread k th).turn = s.turn := rfl
@[simp] theorem State.setThread_cur (s : State) (k : Nat) (th : Thread) : (s.setThread k th).cur = s.cur := rfl
@[simp] theorem State.setThread_free (s : State) (k : Nat) (th : Thread) : (s.setThread k th).free = s.free := rfl

/-! `State.modThread` -/
@[simp] theorem State.modThread_clk (s : State) (k : Nat) (f : Thread → Thread) : (s.modThread k f).clk = s.clk := rfl
@[simp] theorem State.modThread_xq (s : State) (k : Nat) (f : Thread → Thread) : (s.modThread k f).xq = s.xq := rfl
@[simp] theorem State.modThread_ms (s : State) (k : Nat) (f : Thread → Thread) : (s.modThread k f).ms = s.ms := rfl
@[simp] theorem State.modThread_ctxs (s : State) (k : Nat) (f : Thread → Thread) : (s.modThread k f).ctxs = s.ctxs := rfl
@[simp] theorem State.modThread_dp (s : State) (k : Nat) (f : Thread → Thread) : (s.modThread k f).dp = s.dp := rfl
@[simp] theorem State.modThread_rings (s : State) (k : Nat) (f : Thread → Thread) : (s.modThread k f).rings = s.rings := rfl
@[simp] theorem State.modThread_fab (s : State) (k : Nat) (f : Thread → Thread) : (s.modThread k f).fab = s.fab := rfl
@[simp] theorem State.modThread_bd (s : State) (k : Nat) (f : Thread → Thread) : (s.modThread k f).bd = s.bd := rfl
@[simp] theorem State.modThread_scratch (s : State) (k : Nat) (f : Thread → Thread) : (s.modThread k f).scratch = s.scratch := rfl
@[simp] theorem State.modThread_spGen (s : State) (k : Nat) (f : Thread → Thread) : (s.modThread k f).spGen = s.spGen := rfl
@[simp] theorem State.modThread_charges (s : State) (k : Nat) (f : Thread → Thread) : (s.modThread k f).charges = s.charges := rfl
@[simp] theorem State.modThread_samples (s : State) (k : Nat) (f : Thread → Thread) : (s.modThread k f).samples = s.samples := rfl
@[simp] theorem State.modThread_sched (s : State) (k : Nat) (f : Thread → Thread) : (s.modThread k f).sched = s.sched := rfl
@[simp] theorem State.modThread_turn (s : State) (k : Nat) (f : Thread → Thread) : (s.modThread k f).turn = s.turn := rfl
@[simp] theorem State.modThread_cur (s : State) (k : Nat) (f : Thread → Thread) : (s.modThread k f).cur = s.cur := rfl
@[simp] theorem State.modThread_free (s : State) (k : Nat) (f : Thread → Thread) : (s.modThread k f).free = s.free := rfl

/-! `State.setMe` -/
@[simp] theorem State.setMe_clk (s : State) (th : Thread) : (s.setMe th).clk = s.clk := rfl
@[simp] theorem State.setMe_xq (s : State) (th : Thread) : (s.setMe th).xq = s.xq := rfl
@[simp] theorem State.setMe_ms (s : State) (th : Thread) : (s.setMe th).ms = s.ms := rfl
@[simp] theorem State.setMe_ctxs (s : State) (th : Thread) : (s.setMe th).ctxs = s.ctxs := rfl
@[simp] theorem State.setMe_dp (s : State) (th : Thread) : (s.setMe th).dp = s.dp := rfl
@[simp] theorem State.setMe_rings (s : State) (th : Thread) : (s.setMe th).rings = s.rings := rfl
@[simp] theorem State.setMe_fab (s : State) (th : Thread) : (s.setMe th).fab = s.fab := rfl
@[simp] theorem State.setMe_bd (s : State) (th : Thread) : (s.setMe th).bd = s.bd := rfl
@[simp] theorem State.setMe_scratch (s : State) (th : Thread) : (s.setMe th).scratch = s.scratch := rfl
@[simp] theorem State.setMe_spGen (s : State) (th : Thread) : (s.setMe th).spGen = s.spGen := rfl
@[simp] theorem State.setMe_charges (s : State) (th : Thread) : (s.setMe th).charges = s.charges := rfl
@[simp] theorem State.setMe_samples (s : State) (th : Thread) : (s.setMe th).samples = s.samples := rfl
@[simp] theorem State.setMe_sched (s : State) (th : Thread) : (s.setMe th).sched = s.sched := rfl
@[simp] theorem State.setMe_turn (s : State) (th : Thread) : (s.setMe th).turn = s.turn := rfl
@[simp] theorem State.setMe_cur (s : State) (th : Thread) : (s.setMe th).cur = s.cur := rfl
@[simp] theorem State.setMe_free (s : State) (th : Thread) : (s.setMe th).free = s.free := rfl

/-! `State.modCtx` -/
@[simp] theorem State.modCtx_clk (s : State) (a : Nat) (f : Ctx → Ctx) : (s.modCtx a f).clk = s.clk := rfl
@[simp] theorem State.modCtx_threads (s : State) (a : Nat) (f : Ctx → Ctx) : (s.modCtx a f).threads = s.threads := rfl
@[simp] theorem State.modCtx_xq (s : State) (a : Nat) (f : Ctx → Ctx) : (s.modCtx a f).xq = s.xq := rfl
@[simp] theorem State.modCtx_ms (s : State) (a : Nat) (f : Ctx → Ctx) : (s.modCtx a f).ms = s.ms := rfl
@[simp] theorem State.modCtx_dp (s : State) (a : Nat) (f : Ctx → Ctx) : (s.modCtx a f).dp = s.dp := rfl
@[simp] theorem State.modCtx_rings (s : State) (a : Nat) (f : Ctx → Ctx) : (s.modCtx a f).rings = s.rings := rfl
@[simp] theorem State.modCtx_fab (s : State) (a : Nat) (f : Ctx → Ctx) : (s.modCtx a f).fab = s.fab := rfl
@[simp] theorem State.modCtx_bd (s : State) (a : Nat) (f : Ctx → Ctx) : (s.modCtx a f).bd = s.bd := rfl
@[simp] theorem State.modCtx_scratch (s : State) (a : Nat) (f : Ctx → Ctx) : (s.modCtx a f).scratch = s.scratch := rfl
@[simp] theorem State.modCtx_spGen (s : State) (a : Nat) (f : Ctx → Ctx) : (s.modCtx a f).spGen = s.spGen := rfl
@[simp] theorem State.modCtx_charges (s : State) (a : Nat) (f : Ctx → Ctx) : (s.modCtx a f).charges = s.charges := rfl
@[simp] theorem State.modCtx_samples (s : State) (a : Nat) (f : Ctx → Ctx) : (s.modCtx a f).samples = s.samples := rfl
@[simp] theorem State.modCtx_sched (s : State) (a : Nat) (f : Ctx → Ctx) : (s.modCtx a f).sched = s.sched := rfl
@[simp] theorem State.modCtx_turn (s : State) (a : Nat) (f : Ctx → Ctx) : (s.modCtx a f).turn = s.turn := rfl
@[simp] theorem State.modCtx_cur (s : State) (a : Nat) (f : Ctx → Ctx) : (s.modCtx a f).cur = s.cur := rfl
@[simp] theorem State.modCtx_free (s : State) (a : Nat) (f : Ctx → Ctx) : (s.modCtx a f).free = s.free := rfl

/-! `State.modQueue` -/
@[simp] theorem State.modQueue_clk (s : State) (q : Nat) (f : Queue → Queue) : (s.modQueue q f).clk = s.clk := rfl
@[simp] theorem State.modQueue_threads (s : State) (q : Nat) (f : Queue → Queue) : (s.modQueue q f).threads = s.threads := rfl
@[simp] theorem State.modQueue_xq (s : State) (q : Nat) (f : Queue → Queue) : (s.modQueue q f).xq = s.xq := rfl
@[simp] theorem State.modQueue_ms (s : State) (q : Nat) (f : Queue → Queue) : (s.modQueue q f).ms = s.ms := rfl
@[simp] theorem State.modQueue_ctxs (s : State) (q : Nat) (f : Queue → Queue) : (s.modQueue q f).ctxs = s.ctxs := rfl
@[simp] theorem State.modQueue_rings (s : State) (q : Nat) (f : Queue → Queue) : (s.modQueue q f).rings = s.rings := rfl
@[simp] theorem State.modQueue_fab (s : State) (q : Nat) (f : Queue → Queue) : (s.modQueue q f).fab = s.fab := rfl
@[simp] theorem State.modQueue_bd (s : State) (q : Nat) (f : Queue → Queue) : (s.modQueue q f).bd = s.bd := rfl
@[simp] theorem State.modQueue_scratch (s : State) (q : Nat) (f : Queue → Queue) : (s.modQueue q f).scratch = s.scratch := rfl
@[simp] theorem State.modQueue_spGen (s : State) (q : Nat) (f : Queue → Queue) : (s.modQueue q f).spGen = s.spGen := rfl
@[simp] theorem State.modQueue_charges (s : State) (q : Nat) (f : Queue → Queue) : (s.modQueue q f).charges = s.charges := rfl
@[simp] theorem State.modQueue_samples (s : State) (q : Nat) (f : Queue → Queue) : (s.modQueue q f).samples = s.samples := rfl
@[simp] theorem State.modQueue_sched (s : State) (q : Nat) (f : Queue → Queue) : (s.modQueue q f).sched = s.sched := rfl
@[simp] theorem State.modQueue_turn (s : State) (q : Nat) (f : Queue → Queue) : (s.modQueue q f).turn = s.turn := rfl
@[simp] theorem State.modQueue_cur (s : State) (q : Nat) (f : Queue → Queue) : (s.modQueue q f).cur = s.cur := rfl
@[simp] theorem State.modQueue_free (s : State) (q : Nat) (f : Queue → Queue) : (s.modQueue q f).free = s.free := rfl

/-! `State.modJob` -/
@[simp] theorem State.modJob_clk (s : State) (j : JobId) (f : Job → Job) : (s.modJob j f).clk = s.clk := rfl
@[simp] theorem State.modJob_threads (s : State) (j : JobId) (f : Job → Job) : (s.modJob j f).threads = s.threads := rfl
@[simp] theorem State.modJob_xq (s : State) (j : JobId) (f : Job → Job) : (s.modJob j f).xq = s.xq := rfl
@[simp] theorem State.modJob_ms (s : State) (j : JobId) (f : Job → Job) : (s.modJob j f).ms = s.ms := rfl
@[simp] theorem State.modJob_ctxs (s : State) (j : JobId) (f : Job → Job) : (s.modJob j f).ctxs = s.ctxs := rfl
@[simp] theorem State.modJob_rings (s : State) (j : JobId) (f : Job → Job) : (s.modJob j f).rings = s.rings := rfl
@[simp] theorem State.modJob_fab (s : State) (j : JobId) (f : Job → Job) : (s.modJob j f).fab = s.fab := rfl
@[simp] theorem State.modJob_bd (s : State) (j : JobId) (f : Job → Job) : (s.modJob j f).bd = s.bd := rfl
@[simp] theorem State.modJob_scratch (s : State) (j : JobId) (f : Job → Job) : (s.modJob j f).scratch = s.scratch := rfl
@[simp] theorem State.modJob_spGen (s : State) (j : JobId) (f : Job → Job) : (s.modJob j f).spGen = s.spGen := rfl
@[simp] theorem State.modJob_charges (s : State) (j : JobId) (f : Job → Job) : (s.modJob j f).charges = s.charges := rfl
@[simp] theorem State.modJob_samples (s : State) (j : JobId) (f : Job → Job) : (s.modJob j f).samples = s.samples := rfl
@[simp] theorem State.modJob_sched (s : State) (j : JobId) (f : Job → Job) : (s.modJob j f).sched = s.sched := rfl
@[simp] theorem State.modJob_turn (s : State) (j : JobId) (f : Job → Job) : (s.modJob j f).turn = s.turn := rfl
@[simp] theorem State.modJob_cur (s : State) (j : JobId) (f : Job → Job) : (s.modJob j f).cur = s.cur := rfl
@[simp] theorem State.modJob_free (s : State) (j : JobId) (f : Job → Job) : (s.modJob j f).free = s.free := rfl

/-! `State.recordFault` -/
@[simp] theorem State.recordFault_clk (s : State) (j : JobId) (f : FaultRec) : (s.recordFault j f).clk = s.clk := rfl
@[simp] theorem State.recordFault_threads (s : State) (j : JobId) (f : FaultRec) : (s.recordFault j f).threads = s.threads := rfl
@[simp] theorem State.recordFault_xq (s : State) (j : JobId) (f : FaultRec) : (s.recordFault j f).xq = s.xq := rfl
@[simp] theorem State.recordFault_ms (s : State) (j : JobId) (f : FaultRec) : (s.recordFault j f).ms = s.ms := rfl
@[simp] theorem State.recordFault_ctxs (s : State) (j : JobId) (f : FaultRec) : (s.recordFault j f).ctxs = s.ctxs := rfl
@[simp] theorem State.recordFault_rings (s : State) (j : JobId) (f : FaultRec) : (s.recordFault j f).rings = s.rings := rfl
@[simp] theorem State.recordFault_fab (s : State) (j : JobId) (f : FaultRec) : (s.recordFault j f).fab = s.fab := rfl
@[simp] theorem State.recordFault_bd (s : State) (j : JobId) (f : FaultRec) : (s.recordFault j f).bd = s.bd := rfl
@[simp] theorem State.recordFault_scratch (s : State) (j : JobId) (f : FaultRec) : (s.recordFault j f).scratch = s.scratch := rfl
@[simp] theorem State.recordFault_spGen (s : State) (j : JobId) (f : FaultRec) : (s.recordFault j f).spGen = s.spGen := rfl
@[simp] theorem State.recordFault_charges (s : State) (j : JobId) (f : FaultRec) : (s.recordFault j f).charges = s.charges := rfl
@[simp] theorem State.recordFault_samples (s : State) (j : JobId) (f : FaultRec) : (s.recordFault j f).samples = s.samples := rfl
@[simp] theorem State.recordFault_sched (s : State) (j : JobId) (f : FaultRec) : (s.recordFault j f).sched = s.sched := rfl
@[simp] theorem State.recordFault_turn (s : State) (j : JobId) (f : FaultRec) : (s.recordFault j f).turn = s.turn := rfl
@[simp] theorem State.recordFault_cur (s : State) (j : JobId) (f : FaultRec) : (s.recordFault j f).cur = s.cur := rfl
@[simp] theorem State.recordFault_free (s : State) (j : JobId) (f : FaultRec) : (s.recordFault j f).free = s.free := rfl

/-! `State.setEvent` -/
@[simp] theorem State.setEvent_clk (s : State) (e : Nat) (v : W64) : (s.setEvent e v).clk = s.clk := rfl
@[simp] theorem State.setEvent_threads (s : State) (e : Nat) (v : W64) : (s.setEvent e v).threads = s.threads := rfl
@[simp] theorem State.setEvent_xq (s : State) (e : Nat) (v : W64) : (s.setEvent e v).xq = s.xq := rfl
@[simp] theorem State.setEvent_ms (s : State) (e : Nat) (v : W64) : (s.setEvent e v).ms = s.ms := rfl
@[simp] theorem State.setEvent_ctxs (s : State) (e : Nat) (v : W64) : (s.setEvent e v).ctxs = s.ctxs := rfl
@[simp] theorem State.setEvent_rings (s : State) (e : Nat) (v : W64) : (s.setEvent e v).rings = s.rings := rfl
@[simp] theorem State.setEvent_fab (s : State) (e : Nat) (v : W64) : (s.setEvent e v).fab = s.fab := rfl
@[simp] theorem State.setEvent_bd (s : State) (e : Nat) (v : W64) : (s.setEvent e v).bd = s.bd := rfl
@[simp] theorem State.setEvent_scratch (s : State) (e : Nat) (v : W64) : (s.setEvent e v).scratch = s.scratch := rfl
@[simp] theorem State.setEvent_spGen (s : State) (e : Nat) (v : W64) : (s.setEvent e v).spGen = s.spGen := rfl
@[simp] theorem State.setEvent_charges (s : State) (e : Nat) (v : W64) : (s.setEvent e v).charges = s.charges := rfl
@[simp] theorem State.setEvent_samples (s : State) (e : Nat) (v : W64) : (s.setEvent e v).samples = s.samples := rfl
@[simp] theorem State.setEvent_sched (s : State) (e : Nat) (v : W64) : (s.setEvent e v).sched = s.sched := rfl
@[simp] theorem State.setEvent_turn (s : State) (e : Nat) (v : W64) : (s.setEvent e v).turn = s.turn := rfl
@[simp] theorem State.setEvent_cur (s : State) (e : Nat) (v : W64) : (s.setEvent e v).cur = s.cur := rfl
@[simp] theorem State.setEvent_free (s : State) (e : Nat) (v : W64) : (s.setEvent e v).free = s.free := rfl

/-! `State.signal` -/
@[simp] theorem State.signal_clk (s : State) (e : Nat) : (s.signal e).clk = s.clk := rfl
@[simp] theorem State.signal_threads (s : State) (e : Nat) : (s.signal e).threads = s.threads := rfl
@[simp] theorem State.signal_xq (s : State) (e : Nat) : (s.signal e).xq = s.xq := rfl
@[simp] theorem State.signal_ms (s : State) (e : Nat) : (s.signal e).ms = s.ms := rfl
@[simp] theorem State.signal_ctxs (s : State) (e : Nat) : (s.signal e).ctxs = s.ctxs := rfl
@[simp] theorem State.signal_rings (s : State) (e : Nat) : (s.signal e).rings = s.rings := rfl
@[simp] theorem State.signal_fab (s : State) (e : Nat) : (s.signal e).fab = s.fab := rfl
@[simp] theorem State.signal_bd (s : State) (e : Nat) : (s.signal e).bd = s.bd := rfl
@[simp] theorem State.signal_scratch (s : State) (e : Nat) : (s.signal e).scratch = s.scratch := rfl
@[simp] theorem State.signal_spGen (s : State) (e : Nat) : (s.signal e).spGen = s.spGen := rfl
@[simp] theorem State.signal_charges (s : State) (e : Nat) : (s.signal e).charges = s.charges := rfl
@[simp] theorem State.signal_samples (s : State) (e : Nat) : (s.signal e).samples = s.samples := rfl
@[simp] theorem State.signal_sched (s : State) (e : Nat) : (s.signal e).sched = s.sched := rfl
@[simp] theorem State.signal_turn (s : State) (e : Nat) : (s.signal e).turn = s.turn := rfl
@[simp] theorem State.signal_cur (s : State) (e : Nat) : (s.signal e).cur = s.cur := rfl
@[simp] theorem State.signal_free (s : State) (e : Nat) : (s.signal e).free = s.free := rfl

/-! `State.modFab` -/
@[simp] theorem State.modFab_clk (s : State) (f : Fabric → Fabric) : (s.modFab f).clk = s.clk := rfl
@[simp] theorem State.modFab_threads (s : State) (f : Fabric → Fabric) : (s.modFab f).threads = s.threads := rfl
@[simp] theorem State.modFab_xq (s : State) (f : Fabric → Fabric) : (s.modFab f).xq = s.xq := rfl
@[simp] theorem State.modFab_ms (s : State) (f : Fabric → Fabric) : (s.modFab f).ms = s.ms := rfl
@[simp] theorem State.modFab_ctxs (s : State) (f : Fabric → Fabric) : (s.modFab f).ctxs = s.ctxs := rfl
@[simp] theorem State.modFab_dp (s : State) (f : Fabric → Fabric) : (s.modFab f).dp = s.dp := rfl
@[simp] theorem State.modFab_rings (s : State) (f : Fabric → Fabric) : (s.modFab f).rings = s.rings := rfl
@[simp] theorem State.modFab_bd (s : State) (f : Fabric → Fabric) : (s.modFab f).bd = s.bd := rfl
@[simp] theorem State.modFab_scratch (s : State) (f : Fabric → Fabric) : (s.modFab f).scratch = s.scratch := rfl
@[simp] theorem State.modFab_spGen (s : State) (f : Fabric → Fabric) : (s.modFab f).spGen = s.spGen := rfl
@[simp] theorem State.modFab_charges (s : State) (f : Fabric → Fabric) : (s.modFab f).charges = s.charges := rfl
@[simp] theorem State.modFab_samples (s : State) (f : Fabric → Fabric) : (s.modFab f).samples = s.samples := rfl
@[simp] theorem State.modFab_sched (s : State) (f : Fabric → Fabric) : (s.modFab f).sched = s.sched := rfl
@[simp] theorem State.modFab_turn (s : State) (f : Fabric → Fabric) : (s.modFab f).turn = s.turn := rfl
@[simp] theorem State.modFab_cur (s : State) (f : Fabric → Fabric) : (s.modFab f).cur = s.cur := rfl
@[simp] theorem State.modFab_free (s : State) (f : Fabric → Fabric) : (s.modFab f).free = s.free := rfl

/-! `State.setLaunch` -/
@[simp] theorem State.setLaunch_clk (s : State) (lk : Nat) (l : Option Launch) : (s.setLaunch lk l).clk = s.clk := rfl
@[simp] theorem State.setLaunch_threads (s : State) (lk : Nat) (l : Option Launch) : (s.setLaunch lk l).threads = s.threads := rfl
@[simp] theorem State.setLaunch_xq (s : State) (lk : Nat) (l : Option Launch) : (s.setLaunch lk l).xq = s.xq := rfl
@[simp] theorem State.setLaunch_ms (s : State) (lk : Nat) (l : Option Launch) : (s.setLaunch lk l).ms = s.ms := rfl
@[simp] theorem State.setLaunch_ctxs (s : State) (lk : Nat) (l : Option Launch) : (s.setLaunch lk l).ctxs = s.ctxs := rfl
@[simp] theorem State.setLaunch_dp (s : State) (lk : Nat) (l : Option Launch) : (s.setLaunch lk l).dp = s.dp := rfl
@[simp] theorem State.setLaunch_rings (s : State) (lk : Nat) (l : Option Launch) : (s.setLaunch lk l).rings = s.rings := rfl
@[simp] theorem State.setLaunch_bd (s : State) (lk : Nat) (l : Option Launch) : (s.setLaunch lk l).bd = s.bd := rfl
@[simp] theorem State.setLaunch_scratch (s : State) (lk : Nat) (l : Option Launch) : (s.setLaunch lk l).scratch = s.scratch := rfl
@[simp] theorem State.setLaunch_spGen (s : State) (lk : Nat) (l : Option Launch) : (s.setLaunch lk l).spGen = s.spGen := rfl
@[simp] theorem State.setLaunch_charges (s : State) (lk : Nat) (l : Option Launch) : (s.setLaunch lk l).charges = s.charges := rfl
@[simp] theorem State.setLaunch_samples (s : State) (lk : Nat) (l : Option Launch) : (s.setLaunch lk l).samples = s.samples := rfl
@[simp] theorem State.setLaunch_sched (s : State) (lk : Nat) (l : Option Launch) : (s.setLaunch lk l).sched = s.sched := rfl
@[simp] theorem State.setLaunch_turn (s : State) (lk : Nat) (l : Option Launch) : (s.setLaunch lk l).turn = s.turn := rfl
@[simp] theorem State.setLaunch_cur (s : State) (lk : Nat) (l : Option Launch) : (s.setLaunch lk l).cur = s.cur := rfl
@[simp] theorem State.setLaunch_free (s : State) (lk : Nat) (l : Option Launch) : (s.setLaunch lk l).free = s.free := rfl

/-! `State.setElem` -/
@[simp] theorem State.setElem_clk (s : State) (k : Nat) (e : ElemSt) : (s.setElem k e).clk = s.clk := rfl
@[simp] theorem State.setElem_threads (s : State) (k : Nat) (e : ElemSt) : (s.setElem k e).threads = s.threads := rfl
@[simp] theorem State.setElem_xq (s : State) (k : Nat) (e : ElemSt) : (s.setElem k e).xq = s.xq := rfl
@[simp] theorem State.setElem_ms (s : State) (k : Nat) (e : ElemSt) : (s.setElem k e).ms = s.ms := rfl
@[simp] theorem State.setElem_ctxs (s : State) (k : Nat) (e : ElemSt) : (s.setElem k e).ctxs = s.ctxs := rfl
@[simp] theorem State.setElem_dp (s : State) (k : Nat) (e : ElemSt) : (s.setElem k e).dp = s.dp := rfl
@[simp] theorem State.setElem_rings (s : State) (k : Nat) (e : ElemSt) : (s.setElem k e).rings = s.rings := rfl
@[simp] theorem State.setElem_bd (s : State) (k : Nat) (e : ElemSt) : (s.setElem k e).bd = s.bd := rfl
@[simp] theorem State.setElem_scratch (s : State) (k : Nat) (e : ElemSt) : (s.setElem k e).scratch = s.scratch := rfl
@[simp] theorem State.setElem_spGen (s : State) (k : Nat) (e : ElemSt) : (s.setElem k e).spGen = s.spGen := rfl
@[simp] theorem State.setElem_charges (s : State) (k : Nat) (e : ElemSt) : (s.setElem k e).charges = s.charges := rfl
@[simp] theorem State.setElem_samples (s : State) (k : Nat) (e : ElemSt) : (s.setElem k e).samples = s.samples := rfl
@[simp] theorem State.setElem_sched (s : State) (k : Nat) (e : ElemSt) : (s.setElem k e).sched = s.sched := rfl
@[simp] theorem State.setElem_turn (s : State) (k : Nat) (e : ElemSt) : (s.setElem k e).turn = s.turn := rfl
@[simp] theorem State.setElem_cur (s : State) (k : Nat) (e : ElemSt) : (s.setElem k e).cur = s.cur := rfl
@[simp] theorem State.setElem_free (s : State) (k : Nat) (e : ElemSt) : (s.setElem k e).free = s.free := rfl

/-! `State.setLink` -/
@[simp] theorem State.setLink_clk (s : State) (k : Nat) (l : LinkSt) : (s.setLink k l).clk = s.clk := rfl
@[simp] theorem State.setLink_threads (s : State) (k : Nat) (l : LinkSt) : (s.setLink k l).threads = s.threads := rfl
@[simp] theorem State.setLink_xq (s : State) (k : Nat) (l : LinkSt) : (s.setLink k l).xq = s.xq := rfl
@[simp] theorem State.setLink_ms (s : State) (k : Nat) (l : LinkSt) : (s.setLink k l).ms = s.ms := rfl
@[simp] theorem State.setLink_ctxs (s : State) (k : Nat) (l : LinkSt) : (s.setLink k l).ctxs = s.ctxs := rfl
@[simp] theorem State.setLink_dp (s : State) (k : Nat) (l : LinkSt) : (s.setLink k l).dp = s.dp := rfl
@[simp] theorem State.setLink_rings (s : State) (k : Nat) (l : LinkSt) : (s.setLink k l).rings = s.rings := rfl
@[simp] theorem State.setLink_bd (s : State) (k : Nat) (l : LinkSt) : (s.setLink k l).bd = s.bd := rfl
@[simp] theorem State.setLink_scratch (s : State) (k : Nat) (l : LinkSt) : (s.setLink k l).scratch = s.scratch := rfl
@[simp] theorem State.setLink_spGen (s : State) (k : Nat) (l : LinkSt) : (s.setLink k l).spGen = s.spGen := rfl
@[simp] theorem State.setLink_charges (s : State) (k : Nat) (l : LinkSt) : (s.setLink k l).charges = s.charges := rfl
@[simp] theorem State.setLink_samples (s : State) (k : Nat) (l : LinkSt) : (s.setLink k l).samples = s.samples := rfl
@[simp] theorem State.setLink_sched (s : State) (k : Nat) (l : LinkSt) : (s.setLink k l).sched = s.sched := rfl
@[simp] theorem State.setLink_turn (s : State) (k : Nat) (l : LinkSt) : (s.setLink k l).turn = s.turn := rfl
@[simp] theorem State.setLink_cur (s : State) (k : Nat) (l : LinkSt) : (s.setLink k l).cur = s.cur := rfl
@[simp] theorem State.setLink_free (s : State) (k : Nat) (l : LinkSt) : (s.setLink k l).free = s.free := rfl

/-! `State.setRtr` -/
@[simp] theorem State.setRtr_clk (s : State) (k : Nat) (r : RtSt) : (s.setRtr k r).clk = s.clk := rfl
@[simp] theorem State.setRtr_threads (s : State) (k : Nat) (r : RtSt) : (s.setRtr k r).threads = s.threads := rfl
@[simp] theorem State.setRtr_xq (s : State) (k : Nat) (r : RtSt) : (s.setRtr k r).xq = s.xq := rfl
@[simp] theorem State.setRtr_ms (s : State) (k : Nat) (r : RtSt) : (s.setRtr k r).ms = s.ms := rfl
@[simp] theorem State.setRtr_ctxs (s : State) (k : Nat) (r : RtSt) : (s.setRtr k r).ctxs = s.ctxs := rfl
@[simp] theorem State.setRtr_dp (s : State) (k : Nat) (r : RtSt) : (s.setRtr k r).dp = s.dp := rfl
@[simp] theorem State.setRtr_rings (s : State) (k : Nat) (r : RtSt) : (s.setRtr k r).rings = s.rings := rfl
@[simp] theorem State.setRtr_bd (s : State) (k : Nat) (r : RtSt) : (s.setRtr k r).bd = s.bd := rfl
@[simp] theorem State.setRtr_scratch (s : State) (k : Nat) (r : RtSt) : (s.setRtr k r).scratch = s.scratch := rfl
@[simp] theorem State.setRtr_spGen (s : State) (k : Nat) (r : RtSt) : (s.setRtr k r).spGen = s.spGen := rfl
@[simp] theorem State.setRtr_charges (s : State) (k : Nat) (r : RtSt) : (s.setRtr k r).charges = s.charges := rfl
@[simp] theorem State.setRtr_samples (s : State) (k : Nat) (r : RtSt) : (s.setRtr k r).samples = s.samples := rfl
@[simp] theorem State.setRtr_sched (s : State) (k : Nat) (r : RtSt) : (s.setRtr k r).sched = s.sched := rfl
@[simp] theorem State.setRtr_turn (s : State) (k : Nat) (r : RtSt) : (s.setRtr k r).turn = s.turn := rfl
@[simp] theorem State.setRtr_cur (s : State) (k : Nat) (r : RtSt) : (s.setRtr k r).cur = s.cur := rfl
@[simp] theorem State.setRtr_free (s : State) (k : Nat) (r : RtSt) : (s.setRtr k r).free = s.free := rfl

/-! `State.setPort` -/
@[simp] theorem State.setPort_clk (s : State) (k : Nat) (p : PortSt) : (s.setPort k p).clk = s.clk := rfl
@[simp] theorem State.setPort_threads (s : State) (k : Nat) (p : PortSt) : (s.setPort k p).threads = s.threads := rfl
@[simp] theorem State.setPort_xq (s : State) (k : Nat) (p : PortSt) : (s.setPort k p).xq = s.xq := rfl
@[simp] theorem State.setPort_ms (s : State) (k : Nat) (p : PortSt) : (s.setPort k p).ms = s.ms := rfl
@[simp] theorem State.setPort_ctxs (s : State) (k : Nat) (p : PortSt) : (s.setPort k p).ctxs = s.ctxs := rfl
@[simp] theorem State.setPort_dp (s : State) (k : Nat) (p : PortSt) : (s.setPort k p).dp = s.dp := rfl
@[simp] theorem State.setPort_rings (s : State) (k : Nat) (p : PortSt) : (s.setPort k p).rings = s.rings := rfl
@[simp] theorem State.setPort_bd (s : State) (k : Nat) (p : PortSt) : (s.setPort k p).bd = s.bd := rfl
@[simp] theorem State.setPort_scratch (s : State) (k : Nat) (p : PortSt) : (s.setPort k p).scratch = s.scratch := rfl
@[simp] theorem State.setPort_spGen (s : State) (k : Nat) (p : PortSt) : (s.setPort k p).spGen = s.spGen := rfl
@[simp] theorem State.setPort_charges (s : State) (k : Nat) (p : PortSt) : (s.setPort k p).charges = s.charges := rfl
@[simp] theorem State.setPort_samples (s : State) (k : Nat) (p : PortSt) : (s.setPort k p).samples = s.samples := rfl
@[simp] theorem State.setPort_sched (s : State) (k : Nat) (p : PortSt) : (s.setPort k p).sched = s.sched := rfl
@[simp] theorem State.setPort_turn (s : State) (k : Nat) (p : PortSt) : (s.setPort k p).turn = s.turn := rfl
@[simp] theorem State.setPort_cur (s : State) (k : Nat) (p : PortSt) : (s.setPort k p).cur = s.cur := rfl
@[simp] theorem State.setPort_free (s : State) (k : Nat) (p : PortSt) : (s.setPort k p).free = s.free := rfl

/-! `State.modPort` -/
@[simp] theorem State.modPort_clk (s : State) (k : Nat) (f : PortSt → PortSt) : (s.modPort k f).clk = s.clk := rfl
@[simp] theorem State.modPort_threads (s : State) (k : Nat) (f : PortSt → PortSt) : (s.modPort k f).threads = s.threads := rfl
@[simp] theorem State.modPort_xq (s : State) (k : Nat) (f : PortSt → PortSt) : (s.modPort k f).xq = s.xq := rfl
@[simp] theorem State.modPort_ms (s : State) (k : Nat) (f : PortSt → PortSt) : (s.modPort k f).ms = s.ms := rfl
@[simp] theorem State.modPort_ctxs (s : State) (k : Nat) (f : PortSt → PortSt) : (s.modPort k f).ctxs = s.ctxs := rfl
@[simp] theorem State.modPort_dp (s : State) (k : Nat) (f : PortSt → PortSt) : (s.modPort k f).dp = s.dp := rfl
@[simp] theorem State.modPort_rings (s : State) (k : Nat) (f : PortSt → PortSt) : (s.modPort k f).rings = s.rings := rfl
@[simp] theorem State.modPort_bd (s : State) (k : Nat) (f : PortSt → PortSt) : (s.modPort k f).bd = s.bd := rfl
@[simp] theorem State.modPort_scratch (s : State) (k : Nat) (f : PortSt → PortSt) : (s.modPort k f).scratch = s.scratch := rfl
@[simp] theorem State.modPort_spGen (s : State) (k : Nat) (f : PortSt → PortSt) : (s.modPort k f).spGen = s.spGen := rfl
@[simp] theorem State.modPort_charges (s : State) (k : Nat) (f : PortSt → PortSt) : (s.modPort k f).charges = s.charges := rfl
@[simp] theorem State.modPort_samples (s : State) (k : Nat) (f : PortSt → PortSt) : (s.modPort k f).samples = s.samples := rfl
@[simp] theorem State.modPort_sched (s : State) (k : Nat) (f : PortSt → PortSt) : (s.modPort k f).sched = s.sched := rfl
@[simp] theorem State.modPort_turn (s : State) (k : Nat) (f : PortSt → PortSt) : (s.modPort k f).turn = s.turn := rfl
@[simp] theorem State.modPort_cur (s : State) (k : Nat) (f : PortSt → PortSt) : (s.modPort k f).cur = s.cur := rfl
@[simp] theorem State.modPort_free (s : State) (k : Nat) (f : PortSt → PortSt) : (s.modPort k f).free = s.free := rfl

/-! `State.setFifo` -/
@[simp] theorem State.setFifo_clk (s : State) (k : Nat) (q : List Tok) : (s.setFifo k q).clk = s.clk := rfl
@[simp] theorem State.setFifo_threads (s : State) (k : Nat) (q : List Tok) : (s.setFifo k q).threads = s.threads := rfl
@[simp] theorem State.setFifo_xq (s : State) (k : Nat) (q : List Tok) : (s.setFifo k q).xq = s.xq := rfl
@[simp] theorem State.setFifo_ms (s : State) (k : Nat) (q : List Tok) : (s.setFifo k q).ms = s.ms := rfl
@[simp] theorem State.setFifo_ctxs (s : State) (k : Nat) (q : List Tok) : (s.setFifo k q).ctxs = s.ctxs := rfl
@[simp] theorem State.setFifo_dp (s : State) (k : Nat) (q : List Tok) : (s.setFifo k q).dp = s.dp := rfl
@[simp] theorem State.setFifo_rings (s : State) (k : Nat) (q : List Tok) : (s.setFifo k q).rings = s.rings := rfl
@[simp] theorem State.setFifo_bd (s : State) (k : Nat) (q : List Tok) : (s.setFifo k q).bd = s.bd := rfl
@[simp] theorem State.setFifo_scratch (s : State) (k : Nat) (q : List Tok) : (s.setFifo k q).scratch = s.scratch := rfl
@[simp] theorem State.setFifo_spGen (s : State) (k : Nat) (q : List Tok) : (s.setFifo k q).spGen = s.spGen := rfl
@[simp] theorem State.setFifo_charges (s : State) (k : Nat) (q : List Tok) : (s.setFifo k q).charges = s.charges := rfl
@[simp] theorem State.setFifo_samples (s : State) (k : Nat) (q : List Tok) : (s.setFifo k q).samples = s.samples := rfl
@[simp] theorem State.setFifo_sched (s : State) (k : Nat) (q : List Tok) : (s.setFifo k q).sched = s.sched := rfl
@[simp] theorem State.setFifo_turn (s : State) (k : Nat) (q : List Tok) : (s.setFifo k q).turn = s.turn := rfl
@[simp] theorem State.setFifo_cur (s : State) (k : Nat) (q : List Tok) : (s.setFifo k q).cur = s.cur := rfl
@[simp] theorem State.setFifo_free (s : State) (k : Nat) (q : List Tok) : (s.setFifo k q).free = s.free := rfl

/-! `State.notify` -/
@[simp] theorem State.notify_clk (s : State) (k b : Nat) : (s.notify k b).clk = s.clk := rfl
@[simp] theorem State.notify_xq (s : State) (k b : Nat) : (s.notify k b).xq = s.xq := rfl
@[simp] theorem State.notify_ms (s : State) (k b : Nat) : (s.notify k b).ms = s.ms := rfl
@[simp] theorem State.notify_ctxs (s : State) (k b : Nat) : (s.notify k b).ctxs = s.ctxs := rfl
@[simp] theorem State.notify_dp (s : State) (k b : Nat) : (s.notify k b).dp = s.dp := rfl
@[simp] theorem State.notify_rings (s : State) (k b : Nat) : (s.notify k b).rings = s.rings := rfl
@[simp] theorem State.notify_fab (s : State) (k b : Nat) : (s.notify k b).fab = s.fab := rfl
@[simp] theorem State.notify_bd (s : State) (k b : Nat) : (s.notify k b).bd = s.bd := rfl
@[simp] theorem State.notify_scratch (s : State) (k b : Nat) : (s.notify k b).scratch = s.scratch := rfl
@[simp] theorem State.notify_spGen (s : State) (k b : Nat) : (s.notify k b).spGen = s.spGen := rfl
@[simp] theorem State.notify_charges (s : State) (k b : Nat) : (s.notify k b).charges = s.charges := rfl
@[simp] theorem State.notify_samples (s : State) (k b : Nat) : (s.notify k b).samples = s.samples := rfl
@[simp] theorem State.notify_sched (s : State) (k b : Nat) : (s.notify k b).sched = s.sched := rfl
@[simp] theorem State.notify_turn (s : State) (k b : Nat) : (s.notify k b).turn = s.turn := rfl
@[simp] theorem State.notify_cur (s : State) (k b : Nat) : (s.notify k b).cur = s.cur := rfl
@[simp] theorem State.notify_free (s : State) (k b : Nat) : (s.notify k b).free = s.free := rfl

/-! `State.modRing` -/
@[simp] theorem State.modRing_clk (s : State) (g : Nat) (f : RingSt → RingSt) : (s.modRing g f).clk = s.clk := rfl
@[simp] theorem State.modRing_threads (s : State) (g : Nat) (f : RingSt → RingSt) : (s.modRing g f).threads = s.threads := rfl
@[simp] theorem State.modRing_xq (s : State) (g : Nat) (f : RingSt → RingSt) : (s.modRing g f).xq = s.xq := rfl
@[simp] theorem State.modRing_ms (s : State) (g : Nat) (f : RingSt → RingSt) : (s.modRing g f).ms = s.ms := rfl
@[simp] theorem State.modRing_ctxs (s : State) (g : Nat) (f : RingSt → RingSt) : (s.modRing g f).ctxs = s.ctxs := rfl
@[simp] theorem State.modRing_dp (s : State) (g : Nat) (f : RingSt → RingSt) : (s.modRing g f).dp = s.dp := rfl
@[simp] theorem State.modRing_fab (s : State) (g : Nat) (f : RingSt → RingSt) : (s.modRing g f).fab = s.fab := rfl
@[simp] theorem State.modRing_bd (s : State) (g : Nat) (f : RingSt → RingSt) : (s.modRing g f).bd = s.bd := rfl
@[simp] theorem State.modRing_scratch (s : State) (g : Nat) (f : RingSt → RingSt) : (s.modRing g f).scratch = s.scratch := rfl
@[simp] theorem State.modRing_spGen (s : State) (g : Nat) (f : RingSt → RingSt) : (s.modRing g f).spGen = s.spGen := rfl
@[simp] theorem State.modRing_charges (s : State) (g : Nat) (f : RingSt → RingSt) : (s.modRing g f).charges = s.charges := rfl
@[simp] theorem State.modRing_samples (s : State) (g : Nat) (f : RingSt → RingSt) : (s.modRing g f).samples = s.samples := rfl
@[simp] theorem State.modRing_sched (s : State) (g : Nat) (f : RingSt → RingSt) : (s.modRing g f).sched = s.sched := rfl
@[simp] theorem State.modRing_turn (s : State) (g : Nat) (f : RingSt → RingSt) : (s.modRing g f).turn = s.turn := rfl
@[simp] theorem State.modRing_cur (s : State) (g : Nat) (f : RingSt → RingSt) : (s.modRing g f).cur = s.cur := rfl
@[simp] theorem State.modRing_free (s : State) (g : Nat) (f : RingSt → RingSt) : (s.modRing g f).free = s.free := rfl

/-! `State.pass` -/
@[simp] theorem State.pass_threads (s : State) (n : Nat) : (s.pass n).threads = s.threads := rfl
@[simp] theorem State.pass_xq (s : State) (n : Nat) : (s.pass n).xq = s.xq := rfl
@[simp] theorem State.pass_ms (s : State) (n : Nat) : (s.pass n).ms = s.ms := rfl
@[simp] theorem State.pass_ctxs (s : State) (n : Nat) : (s.pass n).ctxs = s.ctxs := rfl
@[simp] theorem State.pass_dp (s : State) (n : Nat) : (s.pass n).dp = s.dp := rfl
@[simp] theorem State.pass_rings (s : State) (n : Nat) : (s.pass n).rings = s.rings := rfl
@[simp] theorem State.pass_fab (s : State) (n : Nat) : (s.pass n).fab = s.fab := rfl
@[simp] theorem State.pass_bd (s : State) (n : Nat) : (s.pass n).bd = s.bd := rfl
@[simp] theorem State.pass_scratch (s : State) (n : Nat) : (s.pass n).scratch = s.scratch := rfl
@[simp] theorem State.pass_spGen (s : State) (n : Nat) : (s.pass n).spGen = s.spGen := rfl
@[simp] theorem State.pass_charges (s : State) (n : Nat) : (s.pass n).charges = s.charges := rfl
@[simp] theorem State.pass_samples (s : State) (n : Nat) : (s.pass n).samples = s.samples := rfl
@[simp] theorem State.pass_sched (s : State) (n : Nat) : (s.pass n).sched = s.sched := rfl
@[simp] theorem State.pass_turn (s : State) (n : Nat) : (s.pass n).turn = s.turn := rfl
@[simp] theorem State.pass_cur (s : State) (n : Nat) : (s.pass n).cur = s.cur := rfl
@[simp] theorem State.pass_free (s : State) (n : Nat) : (s.pass n).free = s.free := rfl

/-! `Thread.skip` -/
@[simp] theorem Thread.skip_x (th : Thread) (m : Nat) : (th.skip m).x = th.x := rfl
@[simp] theorem Thread.skip_h (th : Thread) (m : Nat) : (th.skip m).h = th.h := rfl
@[simp] theorem Thread.skip_inTrap (th : Thread) (m : Nat) : (th.skip m).inTrap = th.inTrap := rfl
@[simp] theorem Thread.skip_trapPc (th : Thread) (m : Nat) : (th.skip m).trapPc = th.trapPc := rfl
@[simp] theorem Thread.skip_trapCause (th : Thread) (m : Nat) : (th.skip m).trapCause = th.trapCause := rfl
@[simp] theorem Thread.skip_trapInfo (th : Thread) (m : Nat) : (th.skip m).trapInfo = th.trapInfo := rfl
@[simp] theorem Thread.skip_trapBase (th : Thread) (m : Nat) : (th.skip m).trapBase = th.trapBase := rfl
@[simp] theorem Thread.skip_ltbase (th : Thread) (m : Nat) : (th.skip m).ltbase = th.ltbase := rfl
@[simp] theorem Thread.skip_safept (th : Thread) (m : Nat) : (th.skip m).safept = th.safept := rfl
@[simp] theorem Thread.skip_cdepth (th : Thread) (m : Nat) : (th.skip m).cdepth = th.cdepth := rfl
@[simp] theorem Thread.skip_grant (th : Thread) (m : Nat) : (th.skip m).grant = th.grant := rfl
@[simp] theorem Thread.skip_fstat (th : Thread) (m : Nat) : (th.skip m).fstat = th.fstat := rfl
@[simp] theorem Thread.skip_profile (th : Thread) (m : Nat) : (th.skip m).profile = th.profile := rfl
@[simp] theorem Thread.skip_note (th : Thread) (m : Nat) : (th.skip m).note = th.note := rfl
@[simp] theorem Thread.skip_qarm (th : Thread) (m : Nat) : (th.skip m).qarm = th.qarm := rfl
@[simp] theorem Thread.skip_tickets (th : Thread) (m : Nat) : (th.skip m).tickets = th.tickets := rfl
@[simp] theorem Thread.skip_run (th : Thread) (m : Nat) : (th.skip m).run = th.run := rfl
@[simp] theorem Thread.skip_wait (th : Thread) (m : Nat) : (th.skip m).wait = th.wait := rfl
@[simp] theorem Thread.skip_job (th : Thread) (m : Nat) : (th.skip m).job = th.job := rfl
@[simp] theorem Thread.skip_n (th : Thread) (m : Nat) : (th.skip m).n = th.n := rfl
@[simp] theorem Thread.skip_arrived (th : Thread) (m : Nat) : (th.skip m).arrived = th.arrived := rfl
@[simp] theorem Thread.skip_sampleFc (th : Thread) (m : Nat) : (th.skip m).sampleFc = th.sampleFc := rfl

/-! `Thread.adv` -/
@[simp] theorem Thread.adv_x (th : Thread) : (th.adv).x = th.x := rfl
@[simp] theorem Thread.adv_h (th : Thread) : (th.adv).h = th.h := rfl
@[simp] theorem Thread.adv_inTrap (th : Thread) : (th.adv).inTrap = th.inTrap := rfl
@[simp] theorem Thread.adv_trapPc (th : Thread) : (th.adv).trapPc = th.trapPc := rfl
@[simp] theorem Thread.adv_trapCause (th : Thread) : (th.adv).trapCause = th.trapCause := rfl
@[simp] theorem Thread.adv_trapInfo (th : Thread) : (th.adv).trapInfo = th.trapInfo := rfl
@[simp] theorem Thread.adv_trapBase (th : Thread) : (th.adv).trapBase = th.trapBase := rfl
@[simp] theorem Thread.adv_ltbase (th : Thread) : (th.adv).ltbase = th.ltbase := rfl
@[simp] theorem Thread.adv_safept (th : Thread) : (th.adv).safept = th.safept := rfl
@[simp] theorem Thread.adv_cdepth (th : Thread) : (th.adv).cdepth = th.cdepth := rfl
@[simp] theorem Thread.adv_grant (th : Thread) : (th.adv).grant = th.grant := rfl
@[simp] theorem Thread.adv_fstat (th : Thread) : (th.adv).fstat = th.fstat := rfl
@[simp] theorem Thread.adv_profile (th : Thread) : (th.adv).profile = th.profile := rfl
@[simp] theorem Thread.adv_note (th : Thread) : (th.adv).note = th.note := rfl
@[simp] theorem Thread.adv_qarm (th : Thread) : (th.adv).qarm = th.qarm := rfl
@[simp] theorem Thread.adv_tickets (th : Thread) : (th.adv).tickets = th.tickets := rfl
@[simp] theorem Thread.adv_run (th : Thread) : (th.adv).run = th.run := rfl
@[simp] theorem Thread.adv_wait (th : Thread) : (th.adv).wait = th.wait := rfl
@[simp] theorem Thread.adv_job (th : Thread) : (th.adv).job = th.job := rfl
@[simp] theorem Thread.adv_n (th : Thread) : (th.adv).n = th.n := rfl
@[simp] theorem Thread.adv_arrived (th : Thread) : (th.adv).arrived = th.arrived := rfl
@[simp] theorem Thread.adv_sampleFc (th : Thread) : (th.adv).sampleFc = th.sampleFc := rfl

/-! `Thread.jump` -/
@[simp] theorem Thread.jump_x (th : Thread) (v : W64) : (th.jump v).x = th.x := rfl
@[simp] theorem Thread.jump_h (th : Thread) (v : W64) : (th.jump v).h = th.h := rfl
@[simp] theorem Thread.jump_inTrap (th : Thread) (v : W64) : (th.jump v).inTrap = th.inTrap := rfl
@[simp] theorem Thread.jump_trapPc (th : Thread) (v : W64) : (th.jump v).trapPc = th.trapPc := rfl
@[simp] theorem Thread.jump_trapCause (th : Thread) (v : W64) : (th.jump v).trapCause = th.trapCause := rfl
@[simp] theorem Thread.jump_trapInfo (th : Thread) (v : W64) : (th.jump v).trapInfo = th.trapInfo := rfl
@[simp] theorem Thread.jump_trapBase (th : Thread) (v : W64) : (th.jump v).trapBase = th.trapBase := rfl
@[simp] theorem Thread.jump_ltbase (th : Thread) (v : W64) : (th.jump v).ltbase = th.ltbase := rfl
@[simp] theorem Thread.jump_safept (th : Thread) (v : W64) : (th.jump v).safept = th.safept := rfl
@[simp] theorem Thread.jump_cdepth (th : Thread) (v : W64) : (th.jump v).cdepth = th.cdepth := rfl
@[simp] theorem Thread.jump_grant (th : Thread) (v : W64) : (th.jump v).grant = th.grant := rfl
@[simp] theorem Thread.jump_fstat (th : Thread) (v : W64) : (th.jump v).fstat = th.fstat := rfl
@[simp] theorem Thread.jump_profile (th : Thread) (v : W64) : (th.jump v).profile = th.profile := rfl
@[simp] theorem Thread.jump_note (th : Thread) (v : W64) : (th.jump v).note = th.note := rfl
@[simp] theorem Thread.jump_qarm (th : Thread) (v : W64) : (th.jump v).qarm = th.qarm := rfl
@[simp] theorem Thread.jump_tickets (th : Thread) (v : W64) : (th.jump v).tickets = th.tickets := rfl
@[simp] theorem Thread.jump_run (th : Thread) (v : W64) : (th.jump v).run = th.run := rfl
@[simp] theorem Thread.jump_wait (th : Thread) (v : W64) : (th.jump v).wait = th.wait := rfl
@[simp] theorem Thread.jump_job (th : Thread) (v : W64) : (th.jump v).job = th.job := rfl
@[simp] theorem Thread.jump_n (th : Thread) (v : W64) : (th.jump v).n = th.n := rfl
@[simp] theorem Thread.jump_arrived (th : Thread) (v : W64) : (th.jump v).arrived = th.arrived := rfl
@[simp] theorem Thread.jump_sampleFc (th : Thread) (v : W64) : (th.jump v).sampleFc = th.sampleFc := rfl

/-! `Thread.put` -/
@[simp] theorem Thread.put_h (th : Thread) (r : BitVec 5) (v : W64) : (th.put r v).h = th.h := by unfold Thread.put; split <;> rfl
@[simp] theorem Thread.put_pc (th : Thread) (r : BitVec 5) (v : W64) : (th.put r v).pc = th.pc := by unfold Thread.put; split <;> rfl
@[simp] theorem Thread.put_inTrap (th : Thread) (r : BitVec 5) (v : W64) : (th.put r v).inTrap = th.inTrap := by unfold Thread.put; split <;> rfl
@[simp] theorem Thread.put_trapPc (th : Thread) (r : BitVec 5) (v : W64) : (th.put r v).trapPc = th.trapPc := by unfold Thread.put; split <;> rfl
@[simp] theorem Thread.put_trapCause (th : Thread) (r : BitVec 5) (v : W64) : (th.put r v).trapCause = th.trapCause := by unfold Thread.put; split <;> rfl
@[simp] theorem Thread.put_trapInfo (th : Thread) (r : BitVec 5) (v : W64) : (th.put r v).trapInfo = th.trapInfo := by unfold Thread.put; split <;> rfl
@[simp] theorem Thread.put_trapBase (th : Thread) (r : BitVec 5) (v : W64) : (th.put r v).trapBase = th.trapBase := by unfold Thread.put; split <;> rfl
@[simp] theorem Thread.put_ltbase (th : Thread) (r : BitVec 5) (v : W64) : (th.put r v).ltbase = th.ltbase := by unfold Thread.put; split <;> rfl
@[simp] theorem Thread.put_safept (th : Thread) (r : BitVec 5) (v : W64) : (th.put r v).safept = th.safept := by unfold Thread.put; split <;> rfl
@[simp] theorem Thread.put_cdepth (th : Thread) (r : BitVec 5) (v : W64) : (th.put r v).cdepth = th.cdepth := by unfold Thread.put; split <;> rfl
@[simp] theorem Thread.put_grant (th : Thread) (r : BitVec 5) (v : W64) : (th.put r v).grant = th.grant := by unfold Thread.put; split <;> rfl
@[simp] theorem Thread.put_fstat (th : Thread) (r : BitVec 5) (v : W64) : (th.put r v).fstat = th.fstat := by unfold Thread.put; split <;> rfl
@[simp] theorem Thread.put_profile (th : Thread) (r : BitVec 5) (v : W64) : (th.put r v).profile = th.profile := by unfold Thread.put; split <;> rfl
@[simp] theorem Thread.put_note (th : Thread) (r : BitVec 5) (v : W64) : (th.put r v).note = th.note := by unfold Thread.put; split <;> rfl
@[simp] theorem Thread.put_qarm (th : Thread) (r : BitVec 5) (v : W64) : (th.put r v).qarm = th.qarm := by unfold Thread.put; split <;> rfl
@[simp] theorem Thread.put_tickets (th : Thread) (r : BitVec 5) (v : W64) : (th.put r v).tickets = th.tickets := by unfold Thread.put; split <;> rfl
@[simp] theorem Thread.put_run (th : Thread) (r : BitVec 5) (v : W64) : (th.put r v).run = th.run := by unfold Thread.put; split <;> rfl
@[simp] theorem Thread.put_wait (th : Thread) (r : BitVec 5) (v : W64) : (th.put r v).wait = th.wait := by unfold Thread.put; split <;> rfl
@[simp] theorem Thread.put_job (th : Thread) (r : BitVec 5) (v : W64) : (th.put r v).job = th.job := by unfold Thread.put; split <;> rfl
@[simp] theorem Thread.put_n (th : Thread) (r : BitVec 5) (v : W64) : (th.put r v).n = th.n := by unfold Thread.put; split <;> rfl
@[simp] theorem Thread.put_arrived (th : Thread) (r : BitVec 5) (v : W64) : (th.put r v).arrived = th.arrived := by unfold Thread.put; split <;> rfl
@[simp] theorem Thread.put_sampleFc (th : Thread) (r : BitVec 5) (v : W64) : (th.put r v).sampleFc = th.sampleFc := by unfold Thread.put; split <;> rfl

/-! `Thread.putH` -/
@[simp] theorem Thread.putH_x (th : Thread) (r : BitVec 3) (v : Header) : (th.putH r v).x = th.x := rfl
@[simp] theorem Thread.putH_pc (th : Thread) (r : BitVec 3) (v : Header) : (th.putH r v).pc = th.pc := rfl
@[simp] theorem Thread.putH_inTrap (th : Thread) (r : BitVec 3) (v : Header) : (th.putH r v).inTrap = th.inTrap := rfl
@[simp] theorem Thread.putH_trapPc (th : Thread) (r : BitVec 3) (v : Header) : (th.putH r v).trapPc = th.trapPc := rfl
@[simp] theorem Thread.putH_trapCause (th : Thread) (r : BitVec 3) (v : Header) : (th.putH r v).trapCause = th.trapCause := rfl
@[simp] theorem Thread.putH_trapInfo (th : Thread) (r : BitVec 3) (v : Header) : (th.putH r v).trapInfo = th.trapInfo := rfl
@[simp] theorem Thread.putH_trapBase (th : Thread) (r : BitVec 3) (v : Header) : (th.putH r v).trapBase = th.trapBase := rfl
@[simp] theorem Thread.putH_ltbase (th : Thread) (r : BitVec 3) (v : Header) : (th.putH r v).ltbase = th.ltbase := rfl
@[simp] theorem Thread.putH_safept (th : Thread) (r : BitVec 3) (v : Header) : (th.putH r v).safept = th.safept := rfl
@[simp] theorem Thread.putH_cdepth (th : Thread) (r : BitVec 3) (v : Header) : (th.putH r v).cdepth = th.cdepth := rfl
@[simp] theorem Thread.putH_grant (th : Thread) (r : BitVec 3) (v : Header) : (th.putH r v).grant = th.grant := rfl
@[simp] theorem Thread.putH_fstat (th : Thread) (r : BitVec 3) (v : Header) : (th.putH r v).fstat = th.fstat := rfl
@[simp] theorem Thread.putH_profile (th : Thread) (r : BitVec 3) (v : Header) : (th.putH r v).profile = th.profile := rfl
@[simp] theorem Thread.putH_note (th : Thread) (r : BitVec 3) (v : Header) : (th.putH r v).note = th.note := rfl
@[simp] theorem Thread.putH_qarm (th : Thread) (r : BitVec 3) (v : Header) : (th.putH r v).qarm = th.qarm := rfl
@[simp] theorem Thread.putH_tickets (th : Thread) (r : BitVec 3) (v : Header) : (th.putH r v).tickets = th.tickets := rfl
@[simp] theorem Thread.putH_run (th : Thread) (r : BitVec 3) (v : Header) : (th.putH r v).run = th.run := rfl
@[simp] theorem Thread.putH_wait (th : Thread) (r : BitVec 3) (v : Header) : (th.putH r v).wait = th.wait := rfl
@[simp] theorem Thread.putH_job (th : Thread) (r : BitVec 3) (v : Header) : (th.putH r v).job = th.job := rfl
@[simp] theorem Thread.putH_n (th : Thread) (r : BitVec 3) (v : Header) : (th.putH r v).n = th.n := rfl
@[simp] theorem Thread.putH_arrived (th : Thread) (r : BitVec 3) (v : Header) : (th.putH r v).arrived = th.arrived := rfl
@[simp] theorem Thread.putH_sampleFc (th : Thread) (r : BitVec 3) (v : Header) : (th.putH r v).sampleFc = th.sampleFc := rfl

/-! `Thread.flag` -/
@[simp] theorem Thread.flag_x (th : Thread) (f : Flags) : (th.flag f).x = th.x := rfl
@[simp] theorem Thread.flag_h (th : Thread) (f : Flags) : (th.flag f).h = th.h := rfl
@[simp] theorem Thread.flag_pc (th : Thread) (f : Flags) : (th.flag f).pc = th.pc := rfl
@[simp] theorem Thread.flag_inTrap (th : Thread) (f : Flags) : (th.flag f).inTrap = th.inTrap := rfl
@[simp] theorem Thread.flag_trapPc (th : Thread) (f : Flags) : (th.flag f).trapPc = th.trapPc := rfl
@[simp] theorem Thread.flag_trapCause (th : Thread) (f : Flags) : (th.flag f).trapCause = th.trapCause := rfl
@[simp] theorem Thread.flag_trapInfo (th : Thread) (f : Flags) : (th.flag f).trapInfo = th.trapInfo := rfl
@[simp] theorem Thread.flag_trapBase (th : Thread) (f : Flags) : (th.flag f).trapBase = th.trapBase := rfl
@[simp] theorem Thread.flag_ltbase (th : Thread) (f : Flags) : (th.flag f).ltbase = th.ltbase := rfl
@[simp] theorem Thread.flag_safept (th : Thread) (f : Flags) : (th.flag f).safept = th.safept := rfl
@[simp] theorem Thread.flag_cdepth (th : Thread) (f : Flags) : (th.flag f).cdepth = th.cdepth := rfl
@[simp] theorem Thread.flag_grant (th : Thread) (f : Flags) : (th.flag f).grant = th.grant := rfl
@[simp] theorem Thread.flag_profile (th : Thread) (f : Flags) : (th.flag f).profile = th.profile := rfl
@[simp] theorem Thread.flag_note (th : Thread) (f : Flags) : (th.flag f).note = th.note := rfl
@[simp] theorem Thread.flag_qarm (th : Thread) (f : Flags) : (th.flag f).qarm = th.qarm := rfl
@[simp] theorem Thread.flag_tickets (th : Thread) (f : Flags) : (th.flag f).tickets = th.tickets := rfl
@[simp] theorem Thread.flag_run (th : Thread) (f : Flags) : (th.flag f).run = th.run := rfl
@[simp] theorem Thread.flag_wait (th : Thread) (f : Flags) : (th.flag f).wait = th.wait := rfl
@[simp] theorem Thread.flag_job (th : Thread) (f : Flags) : (th.flag f).job = th.job := rfl
@[simp] theorem Thread.flag_n (th : Thread) (f : Flags) : (th.flag f).n = th.n := rfl
@[simp] theorem Thread.flag_arrived (th : Thread) (f : Flags) : (th.flag f).arrived = th.arrived := rfl
@[simp] theorem Thread.flag_sampleFc (th : Thread) (f : Flags) : (th.flag f).sampleFc = th.sampleFc := rfl

/-! `Thread.clearFlags` -/
@[simp] theorem Thread.clearFlags_x (th : Thread) (v : W64) : (th.clearFlags v).x = th.x := rfl
@[simp] theorem Thread.clearFlags_h (th : Thread) (v : W64) : (th.clearFlags v).h = th.h := rfl
@[simp] theorem Thread.clearFlags_pc (th : Thread) (v : W64) : (th.clearFlags v).pc = th.pc := rfl
@[simp] theorem Thread.clearFlags_inTrap (th : Thread) (v : W64) : (th.clearFlags v).inTrap = th.inTrap := rfl
@[simp] theorem Thread.clearFlags_trapPc (th : Thread) (v : W64) : (th.clearFlags v).trapPc = th.trapPc := rfl
@[simp] theorem Thread.clearFlags_trapCause (th : Thread) (v : W64) : (th.clearFlags v).trapCause = th.trapCause := rfl
@[simp] theorem Thread.clearFlags_trapInfo (th : Thread) (v : W64) : (th.clearFlags v).trapInfo = th.trapInfo := rfl
@[simp] theorem Thread.clearFlags_trapBase (th : Thread) (v : W64) : (th.clearFlags v).trapBase = th.trapBase := rfl
@[simp] theorem Thread.clearFlags_ltbase (th : Thread) (v : W64) : (th.clearFlags v).ltbase = th.ltbase := rfl
@[simp] theorem Thread.clearFlags_safept (th : Thread) (v : W64) : (th.clearFlags v).safept = th.safept := rfl
@[simp] theorem Thread.clearFlags_cdepth (th : Thread) (v : W64) : (th.clearFlags v).cdepth = th.cdepth := rfl
@[simp] theorem Thread.clearFlags_grant (th : Thread) (v : W64) : (th.clearFlags v).grant = th.grant := rfl
@[simp] theorem Thread.clearFlags_profile (th : Thread) (v : W64) : (th.clearFlags v).profile = th.profile := rfl
@[simp] theorem Thread.clearFlags_note (th : Thread) (v : W64) : (th.clearFlags v).note = th.note := rfl
@[simp] theorem Thread.clearFlags_qarm (th : Thread) (v : W64) : (th.clearFlags v).qarm = th.qarm := rfl
@[simp] theorem Thread.clearFlags_tickets (th : Thread) (v : W64) : (th.clearFlags v).tickets = th.tickets := rfl
@[simp] theorem Thread.clearFlags_run (th : Thread) (v : W64) : (th.clearFlags v).run = th.run := rfl
@[simp] theorem Thread.clearFlags_wait (th : Thread) (v : W64) : (th.clearFlags v).wait = th.wait := rfl
@[simp] theorem Thread.clearFlags_job (th : Thread) (v : W64) : (th.clearFlags v).job = th.job := rfl
@[simp] theorem Thread.clearFlags_n (th : Thread) (v : W64) : (th.clearFlags v).n = th.n := rfl
@[simp] theorem Thread.clearFlags_arrived (th : Thread) (v : W64) : (th.clearFlags v).arrived = th.arrived := rfl
@[simp] theorem Thread.clearFlags_sampleFc (th : Thread) (v : W64) : (th.clearFlags v).sampleFc = th.sampleFc := rfl

/-! `Thread.enterTrap` -/
@[simp] theorem Thread.enterTrap_x (th : Thread) (t : TrapReq) : (th.enterTrap t).x = th.x := rfl
@[simp] theorem Thread.enterTrap_h (th : Thread) (t : TrapReq) : (th.enterTrap t).h = th.h := rfl
@[simp] theorem Thread.enterTrap_trapBase (th : Thread) (t : TrapReq) : (th.enterTrap t).trapBase = th.trapBase := rfl
@[simp] theorem Thread.enterTrap_ltbase (th : Thread) (t : TrapReq) : (th.enterTrap t).ltbase = th.ltbase := rfl
@[simp] theorem Thread.enterTrap_safept (th : Thread) (t : TrapReq) : (th.enterTrap t).safept = th.safept := rfl
@[simp] theorem Thread.enterTrap_cdepth (th : Thread) (t : TrapReq) : (th.enterTrap t).cdepth = th.cdepth := rfl
@[simp] theorem Thread.enterTrap_grant (th : Thread) (t : TrapReq) : (th.enterTrap t).grant = th.grant := rfl
@[simp] theorem Thread.enterTrap_fstat (th : Thread) (t : TrapReq) : (th.enterTrap t).fstat = th.fstat := rfl
@[simp] theorem Thread.enterTrap_profile (th : Thread) (t : TrapReq) : (th.enterTrap t).profile = th.profile := rfl
@[simp] theorem Thread.enterTrap_note (th : Thread) (t : TrapReq) : (th.enterTrap t).note = th.note := rfl
@[simp] theorem Thread.enterTrap_qarm (th : Thread) (t : TrapReq) : (th.enterTrap t).qarm = th.qarm := rfl
@[simp] theorem Thread.enterTrap_tickets (th : Thread) (t : TrapReq) : (th.enterTrap t).tickets = th.tickets := rfl
@[simp] theorem Thread.enterTrap_run (th : Thread) (t : TrapReq) : (th.enterTrap t).run = th.run := rfl
@[simp] theorem Thread.enterTrap_wait (th : Thread) (t : TrapReq) : (th.enterTrap t).wait = th.wait := rfl
@[simp] theorem Thread.enterTrap_job (th : Thread) (t : TrapReq) : (th.enterTrap t).job = th.job := rfl
@[simp] theorem Thread.enterTrap_n (th : Thread) (t : TrapReq) : (th.enterTrap t).n = th.n := rfl
@[simp] theorem Thread.enterTrap_arrived (th : Thread) (t : TrapReq) : (th.enterTrap t).arrived = th.arrived := rfl
@[simp] theorem Thread.enterTrap_sampleFc (th : Thread) (t : TrapReq) : (th.enterTrap t).sampleFc = th.sampleFc := rfl

/-! `Thread.eret` -/
@[simp] theorem Thread.eret_x (th : Thread) : (th.eret).x = th.x := rfl
@[simp] theorem Thread.eret_h (th : Thread) : (th.eret).h = th.h := rfl
@[simp] theorem Thread.eret_trapPc (th : Thread) : (th.eret).trapPc = th.trapPc := rfl
@[simp] theorem Thread.eret_trapCause (th : Thread) : (th.eret).trapCause = th.trapCause := rfl
@[simp] theorem Thread.eret_trapInfo (th : Thread) : (th.eret).trapInfo = th.trapInfo := rfl
@[simp] theorem Thread.eret_trapBase (th : Thread) : (th.eret).trapBase = th.trapBase := rfl
@[simp] theorem Thread.eret_ltbase (th : Thread) : (th.eret).ltbase = th.ltbase := rfl
@[simp] theorem Thread.eret_safept (th : Thread) : (th.eret).safept = th.safept := rfl
@[simp] theorem Thread.eret_cdepth (th : Thread) : (th.eret).cdepth = th.cdepth := rfl
@[simp] theorem Thread.eret_grant (th : Thread) : (th.eret).grant = th.grant := rfl
@[simp] theorem Thread.eret_fstat (th : Thread) : (th.eret).fstat = th.fstat := rfl
@[simp] theorem Thread.eret_profile (th : Thread) : (th.eret).profile = th.profile := rfl
@[simp] theorem Thread.eret_note (th : Thread) : (th.eret).note = th.note := rfl
@[simp] theorem Thread.eret_qarm (th : Thread) : (th.eret).qarm = th.qarm := rfl
@[simp] theorem Thread.eret_tickets (th : Thread) : (th.eret).tickets = th.tickets := rfl
@[simp] theorem Thread.eret_run (th : Thread) : (th.eret).run = th.run := rfl
@[simp] theorem Thread.eret_wait (th : Thread) : (th.eret).wait = th.wait := rfl
@[simp] theorem Thread.eret_job (th : Thread) : (th.eret).job = th.job := rfl
@[simp] theorem Thread.eret_n (th : Thread) : (th.eret).n = th.n := rfl
@[simp] theorem Thread.eret_arrived (th : Thread) : (th.eret).arrived = th.arrived := rfl
@[simp] theorem Thread.eret_sampleFc (th : Thread) : (th.eret).sampleFc = th.sampleFc := rfl

/-! `Thread.deeper` -/
@[simp] theorem Thread.deeper_x (th : Thread) : (th.deeper).x = th.x := rfl
@[simp] theorem Thread.deeper_h (th : Thread) : (th.deeper).h = th.h := rfl
@[simp] theorem Thread.deeper_pc (th : Thread) : (th.deeper).pc = th.pc := rfl
@[simp] theorem Thread.deeper_inTrap (th : Thread) : (th.deeper).inTrap = th.inTrap := rfl
@[simp] theorem Thread.deeper_trapPc (th : Thread) : (th.deeper).trapPc = th.trapPc := rfl
@[simp] theorem Thread.deeper_trapCause (th : Thread) : (th.deeper).trapCause = th.trapCause := rfl
@[simp] theorem Thread.deeper_trapInfo (th : Thread) : (th.deeper).trapInfo = th.trapInfo := rfl
@[simp] theorem Thread.deeper_trapBase (th : Thread) : (th.deeper).trapBase = th.trapBase := rfl
@[simp] theorem Thread.deeper_ltbase (th : Thread) : (th.deeper).ltbase = th.ltbase := rfl
@[simp] theorem Thread.deeper_safept (th : Thread) : (th.deeper).safept = th.safept := rfl
@[simp] theorem Thread.deeper_grant (th : Thread) : (th.deeper).grant = th.grant := rfl
@[simp] theorem Thread.deeper_fstat (th : Thread) : (th.deeper).fstat = th.fstat := rfl
@[simp] theorem Thread.deeper_profile (th : Thread) : (th.deeper).profile = th.profile := rfl
@[simp] theorem Thread.deeper_note (th : Thread) : (th.deeper).note = th.note := rfl
@[simp] theorem Thread.deeper_qarm (th : Thread) : (th.deeper).qarm = th.qarm := rfl
@[simp] theorem Thread.deeper_tickets (th : Thread) : (th.deeper).tickets = th.tickets := rfl
@[simp] theorem Thread.deeper_run (th : Thread) : (th.deeper).run = th.run := rfl
@[simp] theorem Thread.deeper_wait (th : Thread) : (th.deeper).wait = th.wait := rfl
@[simp] theorem Thread.deeper_job (th : Thread) : (th.deeper).job = th.job := rfl
@[simp] theorem Thread.deeper_n (th : Thread) : (th.deeper).n = th.n := rfl
@[simp] theorem Thread.deeper_arrived (th : Thread) : (th.deeper).arrived = th.arrived := rfl
@[simp] theorem Thread.deeper_sampleFc (th : Thread) : (th.deeper).sampleFc = th.sampleFc := rfl

/-! `Thread.link` -/
@[simp] theorem Thread.link_h (th : Thread) (d : BitVec 5) : (th.link d).h = th.h := by unfold Thread.link; split <;> simp
@[simp] theorem Thread.link_pc (th : Thread) (d : BitVec 5) : (th.link d).pc = th.pc := by unfold Thread.link; split <;> simp
@[simp] theorem Thread.link_inTrap (th : Thread) (d : BitVec 5) : (th.link d).inTrap = th.inTrap := by unfold Thread.link; split <;> simp
@[simp] theorem Thread.link_trapPc (th : Thread) (d : BitVec 5) : (th.link d).trapPc = th.trapPc := by unfold Thread.link; split <;> simp
@[simp] theorem Thread.link_trapCause (th : Thread) (d : BitVec 5) : (th.link d).trapCause = th.trapCause := by unfold Thread.link; split <;> simp
@[simp] theorem Thread.link_trapInfo (th : Thread) (d : BitVec 5) : (th.link d).trapInfo = th.trapInfo := by unfold Thread.link; split <;> simp
@[simp] theorem Thread.link_trapBase (th : Thread) (d : BitVec 5) : (th.link d).trapBase = th.trapBase := by unfold Thread.link; split <;> simp
@[simp] theorem Thread.link_ltbase (th : Thread) (d : BitVec 5) : (th.link d).ltbase = th.ltbase := by unfold Thread.link; split <;> simp
@[simp] theorem Thread.link_safept (th : Thread) (d : BitVec 5) : (th.link d).safept = th.safept := by unfold Thread.link; split <;> simp
@[simp] theorem Thread.link_grant (th : Thread) (d : BitVec 5) : (th.link d).grant = th.grant := by unfold Thread.link; split <;> simp
@[simp] theorem Thread.link_fstat (th : Thread) (d : BitVec 5) : (th.link d).fstat = th.fstat := by unfold Thread.link; split <;> simp
@[simp] theorem Thread.link_profile (th : Thread) (d : BitVec 5) : (th.link d).profile = th.profile := by unfold Thread.link; split <;> simp
@[simp] theorem Thread.link_note (th : Thread) (d : BitVec 5) : (th.link d).note = th.note := by unfold Thread.link; split <;> simp
@[simp] theorem Thread.link_qarm (th : Thread) (d : BitVec 5) : (th.link d).qarm = th.qarm := by unfold Thread.link; split <;> simp
@[simp] theorem Thread.link_tickets (th : Thread) (d : BitVec 5) : (th.link d).tickets = th.tickets := by unfold Thread.link; split <;> simp
@[simp] theorem Thread.link_run (th : Thread) (d : BitVec 5) : (th.link d).run = th.run := by unfold Thread.link; split <;> simp
@[simp] theorem Thread.link_wait (th : Thread) (d : BitVec 5) : (th.link d).wait = th.wait := by unfold Thread.link; split <;> simp
@[simp] theorem Thread.link_job (th : Thread) (d : BitVec 5) : (th.link d).job = th.job := by unfold Thread.link; split <;> simp
@[simp] theorem Thread.link_n (th : Thread) (d : BitVec 5) : (th.link d).n = th.n := by unfold Thread.link; split <;> simp
@[simp] theorem Thread.link_arrived (th : Thread) (d : BitVec 5) : (th.link d).arrived = th.arrived := by unfold Thread.link; split <;> simp
@[simp] theorem Thread.link_sampleFc (th : Thread) (d : BitVec 5) : (th.link d).sampleFc = th.sampleFc := by unfold Thread.link; split <;> simp

end Sys2Proof.Machine
end

