-- ==== Sys2Proof/Laws/Tab.lean ====
section
/-! SUPPORT. The laws of tables: a read after a write, and the canonical form that every write keeps. -/

namespace Sys2Proof

theorem tget_filter_ne {α : Type} (d : α) (t : Tab α) (k j : Nat) (h : j ≠ k) :
    tget d (t.filter fun e => e.1 != k) j = tget d t j := by
  induction t with
  | nil => rfl
  | cons e r ih =>
    obtain ⟨k', v⟩ := e
    by_cases hk : k' = k
    · subst hk
      simp [tget, ih, Ne.symm h]
    · simp [hk, tget, ih]

theorem tget_filter_self {α : Type} (d : α) (t : Tab α) (k : Nat) :
    tget d (t.filter fun e => e.1 != k) k = d := by
  induction t with
  | nil => rfl
  | cons e r ih =>
    obtain ⟨k', v⟩ := e
    by_cases hk : k' = k
    · subst hk
      simpa using ih
    · simp [hk, tget, ih]

/-- A read of the key just written gives the value written. -/
@[simp] theorem tget_tset_same {α : Type} [DecidableEq α] (d : α) (t : Tab α) (k : Nat) (v : α) :
    tget d (tset d t k v) k = v := by
  induction t with
  | nil => by_cases hv : v = d <;> simp [tset, tget, hv]
  | cons e r ih =>
    obtain ⟨k', v'⟩ := e
    by_cases hk : k' < k
    · simp [tset, tget, hk, Nat.ne_of_lt hk, ih]
    · by_cases hv : v = d
      · simp only [tset, if_neg hk, if_pos hv]
        rw [tget_filter_self]; exact hv.symm
      · simp [tset, tget, hk, hv]

/-- A write leaves the entry of every other key alone. -/
theorem tget_tset_ne {α : Type} [DecidableEq α] (d : α) (t : Tab α) (k j : Nat) (v : α) (h : j ≠ k) :
    tget d (tset d t k v) j = tget d t j := by
  induction t with
  | nil => by_cases hv : v = d <;> simp [tset, tget, hv, Ne.symm h]
  | cons e r ih =>
    obtain ⟨k', v'⟩ := e
    by_cases hk : k' < k
    · simp [tset, tget, hk, ih]
    · by_cases hv : v = d
      · simp only [tset, if_neg hk, if_pos hv]
        exact tget_filter_ne d _ k j h
      · simp only [tset, if_neg hk, if_neg hv, tget, if_neg (Ne.symm h)]
        exact tget_filter_ne d _ k j h

theorem twfFrom_mono {α : Type} [DecidableEq α] (d : α) (lo lo' : Nat) (t : Tab α) (h : lo' ≤ lo)
    (w : twfFrom d lo t = true) : twfFrom d lo' t = true := by
  cases t with
  | nil => rfl
  | cons e r =>
    obtain ⟨k, v⟩ := e
    simp only [twfFrom, Bool.and_eq_true, decide_eq_true_eq] at w ⊢
    exact ⟨⟨Nat.le_trans h w.1.1, w.1.2⟩, w.2⟩

theorem filter_above {α : Type} [DecidableEq α] (d : α) (k lo : Nat) (t : Tab α) (h : k < lo)
    (w : twfFrom d lo t = true) : (t.filter fun e => e.1 != k) = t := by
  induction t generalizing lo with
  | nil => rfl
  | cons e r ih =>
    obtain ⟨k', v⟩ := e
    simp only [twfFrom, Bool.and_eq_true, decide_eq_true_eq] at w
    have : k' ≠ k := by omega
    simp only [List.filter_cons, bne_iff_ne, ne_eq, this, not_false_eq_true, if_true]
    rw [ih (k' + 1) (by omega) w.2]

theorem twfFrom_tset {α : Type} [DecidableEq α] (d : α) (t : Tab α) (k : Nat) (v : α) (lo : Nat)
    (hlo : lo ≤ k) (w : twfFrom d lo t = true) : twfFrom d lo (tset d t k v) = true := by
  induction t generalizing lo with
  | nil => by_cases hv : v = d <;> simp [tset, twfFrom, hv, hlo]
  | cons e r ih =>
    obtain ⟨k', v'⟩ := e
    have w0 := w
    simp only [twfFrom, Bool.and_eq_true, decide_eq_true_eq] at w
    by_cases hk : k' < k
    · simp only [tset, if_pos hk, twfFrom, Bool.and_eq_true, decide_eq_true_eq]
      exact ⟨w.1, ih (k' + 1) (by omega) w.2⟩
    · by_cases he : k' = k
      · subst he
        have hf : (((k', v') :: r).filter fun e => e.1 != k') = r := by
          simp only [List.filter_cons, bne_self_eq_false, Bool.false_eq_true, if_false]
          exact filter_above d k' (k' + 1) r (by omega) w.2
        by_cases hv : v = d
        · simp only [tset, if_neg hk, if_pos hv, hf]
          exact twfFrom_mono d (k' + 1) lo r (by omega) w.2
        · simp only [tset, if_neg hk, if_neg hv, hf, twfFrom, Bool.and_eq_true, decide_eq_true_eq]
          exact ⟨⟨hlo, hv⟩, w.2⟩
      · have hw' : twfFrom d (k + 1) ((k', v') :: r) = true := by
          simp only [twfFrom, Bool.and_eq_true, decide_eq_true_eq]
          exact ⟨⟨by omega, w.1.2⟩, w.2⟩
        have hf := filter_above d k (k + 1) _ (by omega) hw'
        by_cases hv : v = d
        · simp only [tset, if_neg hk, if_pos hv, hf]; exact w0
        · simp only [tset, if_neg hk, if_neg hv, hf]
          rw [twfFrom]
          simp only [Bool.and_eq_true, decide_eq_true_eq]
          exact ⟨⟨hlo, hv⟩, hw'⟩

/-- A write keeps the canonical form. -/
theorem twf_tset {α : Type} [DecidableEq α] (d : α) (t : Tab α) (k : Nat) (v : α)
    (w : twf d t = true) : twf d (tset d t k v) = true :=
  twfFrom_tset d t k v 0 (Nat.zero_le k) w

/-- A change keeps the canonical form. -/
theorem twf_tmod {α : Type} [DecidableEq α] (d : α) (t : Tab α) (k : Nat) (f : α → α)
    (w : twf d t = true) : twf d (tmod d t k f) = true := twf_tset d t k _ w

end Sys2Proof
end

