-- ==== Sys2Proof/Laws/Regs.lean ====
section
/-! SUPPORT. What reads of registers and of the tables of the state give after the operations that write them. -/

namespace Sys2Proof.Machine

/-! ### General and header registers -/

/-- x0 reads as zero. -/
@[simp] theorem Thread.get_zero (th : Thread) : th.get 0 = 0 := rfl

/-- A register reads what was written to it. -/
@[simp] theorem Thread.get_put_same (th : Thread) (r : BitVec 5) (v : W64) (h : r ≠ 0) : (th.put r v).get r = v := by
  rw [Thread.get, if_neg h]
  simp only [Thread.put, if_neg h, Vector.getElem_set_self]

/-- A write of one register leaves every other alone. -/
theorem Thread.get_put_ne (th : Thread) (r q : BitVec 5) (v : W64) (h : q ≠ r) : (th.put r v).get q = th.get q := by
  by_cases hr : r = 0
  · rw [Thread.put, if_pos hr]
  · have hn : r.toNat ≠ q.toNat := fun e => h (BitVec.eq_of_toNat_eq e.symm)
    simp only [Thread.get, Thread.put, if_neg hr, Vector.getElem_set_ne _ _ hn]

/-- A write of x0 changes nothing. -/
@[simp] theorem Thread.put_zero (th : Thread) (v : W64) : th.put 0 v = th := rfl

/-- A header register reads what was written to it. -/
@[simp] theorem Thread.getH_putH_same (th : Thread) (r : BitVec 3) (v : Header) : (th.putH r v).getH r = v := by
  simp [Thread.getH, Thread.putH]

/-- A write of one header register leaves every other alone. -/
theorem Thread.getH_putH_ne (th : Thread) (r q : BitVec 3) (v : Header) (h : q ≠ r) : (th.putH r v).getH q = th.getH q := by
  have hn : r.toNat ≠ q.toNat := fun e => h (BitVec.eq_of_toNat_eq e.symm)
  simp only [Thread.getH, Thread.putH, Vector.getElem_set_ne _ _ hn]

/-- The pc moves on by one word. -/
@[simp] theorem Thread.adv_pc (th : Thread) : th.adv.pc = th.pc + 4 := rfl
/-- General registers do not depend on the pc. -/
@[simp] theorem Thread.get_adv (th : Thread) (r : BitVec 5) : th.adv.get r = th.get r := rfl
@[simp] theorem Thread.get_skip (th : Thread) (n : Nat) (r : BitVec 5) : (th.skip n).get r = th.get r := rfl
@[simp] theorem Thread.get_jump (th : Thread) (v : W64) (r : BitVec 5) : (th.jump v).get r = th.get r := rfl
@[simp] theorem Thread.get_flag (th : Thread) (f : Flags) (r : BitVec 5) : (th.flag f).get r = th.get r := rfl
@[simp] theorem Thread.get_putH (th : Thread) (h : BitVec 3) (v : Header) (r : BitVec 5) : (th.putH h v).get r = th.get r := rfl
@[simp] theorem Thread.getH_adv (th : Thread) (r : BitVec 3) : th.adv.getH r = th.getH r := rfl

/-! ### Threads -/

/-- A thread reads as it was written. -/
@[simp] theorem State.thread_setThread_same (s : State) (k : Nat) (th : Thread) : (s.setThread k th).thread k = th := by
  simp [State.thread, State.setThread]

/-- A write of one thread leaves every other alone. -/
theorem State.thread_setThread_ne (s : State) (k j : Nat) (th : Thread) (h : j ≠ k) :
    (s.setThread k th).thread j = s.thread j := tget_tset_ne _ _ _ _ _ h

@[simp] theorem State.thread_modThread_same (s : State) (k : Nat) (f : Thread → Thread) :
    (s.modThread k f).thread k = f (s.thread k) := by simp [State.modThread]

theorem State.thread_modThread_ne (s : State) (k j : Nat) (f : Thread → Thread) (h : j ≠ k) :
    (s.modThread k f).thread j = s.thread j := s.thread_setThread_ne k j _ h

/-- The issuing thread reads as it was written. -/
@[simp] theorem State.me_setMe (s : State) (th : Thread) : (s.setMe th).me = th := by
  simp [State.me, State.setMe]

theorem State.thread_setMe_ne (s : State) (th : Thread) (j : Nat) (h : j ≠ s.cur) :
    (s.setMe th).thread j = s.thread j := s.thread_setThread_ne s.cur j th h

@[simp] theorem State.thread_modCtx (s : State) (a : Nat) (f : Ctx → Ctx) (k' : Nat) : (s.modCtx a f).thread k' = s.thread k' := rfl
@[simp] theorem State.thread_modQueue (s : State) (q : Nat) (f : Queue → Queue) (k' : Nat) : (s.modQueue q f).thread k' = s.thread k' := rfl
@[simp] theorem State.thread_modJob (s : State) (j : JobId) (f : Job → Job) (k' : Nat) : (s.modJob j f).thread k' = s.thread k' := rfl
@[simp] theorem State.thread_recordFault (s : State) (j : JobId) (f : FaultRec) (k' : Nat) : (s.recordFault j f).thread k' = s.thread k' := rfl
@[simp] theorem State.thread_setEvent (s : State) (e : Nat) (v : W64) (k' : Nat) : (s.setEvent e v).thread k' = s.thread k' := rfl
@[simp] theorem State.thread_signal (s : State) (e : Nat) (k' : Nat) : (s.signal e).thread k' = s.thread k' := rfl
@[simp] theorem State.thread_modFab (s : State) (f : Fabric → Fabric) (k' : Nat) : (s.modFab f).thread k' = s.thread k' := rfl
@[simp] theorem State.thread_setLaunch (s : State) (lk : Nat) (l : Option Launch) (k' : Nat) : (s.setLaunch lk l).thread k' = s.thread k' := rfl
@[simp] theorem State.thread_setElem (s : State) (k : Nat) (e : ElemSt) (k' : Nat) : (s.setElem k e).thread k' = s.thread k' := rfl
@[simp] theorem State.thread_setLink (s : State) (k : Nat) (l : LinkSt) (k' : Nat) : (s.setLink k l).thread k' = s.thread k' := rfl
@[simp] theorem State.thread_setRtr (s : State) (k : Nat) (r : RtSt) (k' : Nat) : (s.setRtr k r).thread k' = s.thread k' := rfl
@[simp] theorem State.thread_setPort (s : State) (k : Nat) (p : PortSt) (k' : Nat) : (s.setPort k p).thread k' = s.thread k' := rfl
@[simp] theorem State.thread_modPort (s : State) (k : Nat) (f : PortSt → PortSt) (k' : Nat) : (s.modPort k f).thread k' = s.thread k' := rfl
@[simp] theorem State.thread_setFifo (s : State) (k : Nat) (q : List Tok) (k' : Nat) : (s.setFifo k q).thread k' = s.thread k' := rfl
@[simp] theorem State.thread_modRing (s : State) (g : Nat) (f : RingSt → RingSt) (k' : Nat) : (s.modRing g f).thread k' = s.thread k' := rfl
@[simp] theorem State.thread_pass (s : State) (n : Nat) (k' : Nat) : (s.pass n).thread k' = s.thread k' := rfl

/-! ### The tables of the state -/

@[simp] theorem State.ctx_modCtx_same (s : State) (a : Nat) (f : Ctx → Ctx) : (s.modCtx a f).ctx a = f (s.ctx a) := by
  simp [State.ctx, State.modCtx, tmod]
theorem State.ctx_modCtx_ne (s : State) (a b : Nat) (f : Ctx → Ctx) (h : b ≠ a) : (s.modCtx a f).ctx b = s.ctx b :=
  tget_tset_ne _ _ _ _ _ h
@[simp] theorem State.queue_modQueue_same (s : State) (q : Nat) (f : Queue → Queue) :
    (s.modQueue q f).queue q = f (s.queue q) := by simp [State.queue, State.modQueue, tmod]
theorem State.queue_modQueue_ne (s : State) (q r : Nat) (f : Queue → Queue) (h : r ≠ q) :
    (s.modQueue q f).queue r = s.queue r := tget_tset_ne _ _ _ _ _ h
@[simp] theorem State.event_setEvent_same (s : State) (e : Nat) (v : W64) : (s.setEvent e v).event e = v := by
  simp [State.event, State.setEvent]
theorem State.event_setEvent_ne (s : State) (e d : Nat) (v : W64) (h : d ≠ e) : (s.setEvent e v).event d = s.event d :=
  tget_tset_ne _ _ _ _ _ h
@[simp] theorem State.launch_setLaunch_same (s : State) (lk : Nat) (l : Option Launch) : (s.setLaunch lk l).launch lk = l := by
  simp [State.launch, State.setLaunch, State.modFab]
theorem State.launch_setLaunch_ne (s : State) (lk k : Nat) (l : Option Launch) (h : k ≠ lk) :
    (s.setLaunch lk l).launch k = s.launch k := tget_tset_ne _ _ _ _ _ h
@[simp] theorem State.elem_setElem_same (s : State) (k : Nat) (e : ElemSt) : (s.setElem k e).elem k = some e := by
  simp [State.elem, State.setElem, State.modFab]
theorem State.elem_setElem_ne (s : State) (k j : Nat) (e : ElemSt) (h : j ≠ k) : (s.setElem k e).elem j = s.elem j :=
  tget_tset_ne _ _ _ _ _ h
@[simp] theorem State.link_setLink_same (s : State) (k : Nat) (l : LinkSt) : (s.setLink k l).link k = l := by
  simp [State.link, State.setLink, State.modFab]
theorem State.link_setLink_ne (s : State) (k j : Nat) (l : LinkSt) (h : j ≠ k) : (s.setLink k l).link j = s.link j :=
  tget_tset_ne _ _ _ _ _ h
@[simp] theorem State.port_setPort_same (s : State) (k : Nat) (p : PortSt) : (s.setPort k p).port k = p := by
  simp [State.port, State.setPort, State.modFab]
theorem State.port_setPort_ne (s : State) (k j : Nat) (p : PortSt) (h : j ≠ k) : (s.setPort k p).port j = s.port j :=
  tget_tset_ne _ _ _ _ _ h

end Sys2Proof.Machine
end

