-- ==== Sys2Proof/Laws/Memory.lean ====
section
/-! SUPPORT. Memory: a read after a write, what a write leaves alone, and the canonical form that every memory
operation keeps. -/

namespace Sys2Proof.Machine

/-- A value of `n` bytes has `n` bytes. -/
theorem length_bytesLE (n v : Nat) : (bytesLE n v).length = n := by
  induction n generalizing v with
  | zero => rfl
  | succ n ih => rw [bytesLE, List.length_cons, ih]

/-- The bytes of a value read back as it, modulo what they hold. -/
theorem ofBytesLE_bytesLE (n v : Nat) : ofBytesLE (bytesLE n v) = v % 256 ^ n := by
  induction n generalizing v with
  | zero => rw [Nat.pow_zero, Nat.mod_one]; rfl
  | succ n ih =>
    have h : (BitVec.ofNat 8 v).toNat = v % 256 := BitVec.toNat_ofNat v 8
    rw [bytesLE, ofBytesLE, ih, h, Nat.pow_succ, Nat.mul_comm (256 ^ n) 256, Nat.mod_mul]

/-- A write leaves every byte outside it alone. -/
theorem tget_writeMem_out (m : Tab Byte) (pa a : Nat) (bs : List Byte) (h : a < pa ∨ pa + bs.length ≤ a) :
    tget 0 (writeMem m pa bs) a = tget 0 m a := by
  induction bs generalizing m pa with
  | nil => rfl
  | cons b rest ih =>
    simp only [List.length_cons] at h
    rw [writeMem, ih _ _ (by omega), tget_tset_ne _ _ _ _ _ (by omega)]

/-- A byte of a write reads as it was written. -/
theorem tget_writeMem_in (m : Tab Byte) (pa i : Nat) (bs : List Byte) (h : i < bs.length) :
    tget 0 (writeMem m pa bs) (pa + i) = bs.getD i 0 := by
  induction bs generalizing m pa i with
  | nil => simp at h
  | cons b rest ih =>
    cases i with
    | zero => rw [writeMem, tget_writeMem_out _ _ _ _ (by omega)]; simp
    | succ i =>
      have := ih (tset 0 m pa b) (pa + 1) i (by simpa using h)
      rw [writeMem, show pa + (i + 1) = pa + 1 + i by omega, this]; simp

/-- The bytes just written are read. -/
theorem readMem_writeMem (m : Tab Byte) (pa : Nat) (bs : List Byte) : readMem (writeMem m pa bs) pa bs.length = bs := by
  suffices ∀ (n i : Nat), i + n = bs.length → readMem (writeMem m pa bs) (pa + i) n = bs.drop i by
    simpa using this bs.length 0 (by omega)
  intro n
  induction n with
  | zero => intro i h; simp [readMem, List.drop_eq_nil_of_le (show bs.length ≤ i by omega)]
  | succ n ih =>
    intro i h
    rw [readMem, tget_writeMem_in _ _ _ _ (by omega), show pa + i + 1 = pa + (i + 1) by omega, ih (i + 1) (by omega),
      List.getD_eq_getElem _ _ (show i < bs.length by omega), ← List.drop_eq_getElem_cons]

/-- A write of bytes keeps the canonical form. -/
theorem twf_writeMem (m : Tab Byte) (pa : Nat) (bs : List Byte) (w : twf 0 m = true) : twf 0 (writeMem m pa bs) = true := by
  induction bs generalizing m pa with
  | nil => exact w
  | cons b rest ih => exact ih _ _ (twf_tset _ _ _ _ w)

/-- A write to the image of a checkpoint keeps the canonical form. -/
theorem twf_mirror (r : Mirror) (m : Tab Byte) (pa : Nat) (bs : List Byte) (w : twf 0 m = true) :
    twf 0 (r.write m pa bs) = true := by
  induction bs generalizing m pa with
  | nil => exact w
  | cons b rest ih =>
    refine ih _ _ ?_
    split
    · split
      · exact twf_tset _ _ _ _ w
      · exact w
    · exact w

/-- A write at a physical address keeps the canonical form. -/
theorem wf_writePa (ms : MemSys) (pa : Nat) (bs : List Byte) (w : Memory.wf ms.mem = true) :
    Memory.wf (ms.writePa pa bs).mem = true := by
  simp only [MemSys.writePa, Memory.wf] at *
  split
  · exact twf_mirror _ _ _ _ (twf_writeMem _ _ _ w)
  · exact twf_writeMem _ _ _ w

/-- A write under a translation keeps the canonical form. -/
theorem wf_writeData (ms : MemSys) (pa : Nat) (bs : List Byte) (w : Memory.wf ms.mem = true) :
    Memory.wf (ms.writeData pa bs).mem = true := by
  simp only [MemSys.writeData]
  split
  · split
    · exact wf_writePa _ _ _ w
    · exact wf_writePa _ _ _ (wf_writePa _ _ _ w)
  · exact wf_writePa _ _ _ w

/-- Without a checkpoint, a write reaches only the bytes it names, where the page lies now, and those of the copy that a
move has made of them. -/
theorem writeData_out (ms : MemSys) (pa a : Nat) (bs : List Byte) (hm : ms.mirror = none)
    (h : a < ms.nowPa pa ∨ ms.nowPa pa + bs.length ≤ a)
    (hd : ∀ m d, ms.copyAt pa = some (m, d) → a < d ∨ d + bs.length ≤ a) :
    (ms.writeData pa bs).byte a = ms.byte a := by
  have out (ms1 : MemSys) (q : Nat) (h1 : ms1.mirror = none) (hq : a < q ∨ q + bs.length ≤ a) :
      (ms1.writePa q bs).byte a = ms1.byte a := by
    simp only [MemSys.byte, MemSys.writePa, h1]
    exact tget_writeMem_out _ _ _ _ hq
  simp only [MemSys.writeData]
  split
  · rename_i m d e
    split
    · exact out ms _ hm h
    · rw [out _ d (by simp only [MemSys.writePa, hm]) (hd m d e), out ms _ hm h]
  · exact out ms _ hm h

@[simp] theorem share_mem (ms : MemSys) (p : TlbPlace) (d a v l : Nat) : (ms.share p d a v l).mem = ms.mem := by
  unfold MemSys.share; split <;> rfl
@[simp] theorem count_mem (ms : MemSys) (p : TlbPlace) (a v : Nat) : (ms.count p a v).mem = ms.mem := by
  unfold MemSys.count; split <;> rfl

/-- A walk of a slice keeps the canonical form: it writes at most A and D of the leaf. -/
theorem wf_walkSlice (ms : MemSys) (die asid va : Nat) (k : AccessKind) (d : Bool) (w : Memory.wf ms.mem = true) :
    Memory.wf (ms.walkSlice die asid va k d).1.mem = true := by
  unfold MemSys.walkSlice
  split
  · exact w
  · split
    · exact w
    · dsimp only
      split
      · exact w
      · exact wf_writePa _ _ _ w

/-- A translation keeps the canonical form. -/
theorem wf_translate (ms : MemSys) (p : TlbPlace) (die asid va : Nat) (k : AccessKind) (d : Bool)
    (w : Memory.wf ms.mem = true) : Memory.wf (ms.translate p die asid va k d).1.mem = true := by
  unfold MemSys.translate
  dsimp only
  split
  · split
    · simpa using w
    · exact w
  · split
    · split
      · split <;> simpa using w
      · exact w
    · have h := wf_walkSlice ms die asid va k d w
      split
      · rename_i e; rw [e] at h; split <;> simpa using h
      · rename_i e; rw [e] at h; exact h

/-- The same, from what a translation answers. -/
theorem wf_translate_eq {ms ms' : MemSys} {p : TlbPlace} {die asid va : Nat} {k : AccessKind} {d : Bool}
    {r : Except XErr Nat} (e : ms.translate p die asid va k d = (ms', r)) (w : Memory.wf ms.mem = true) :
    Memory.wf ms'.mem = true := by
  have := wf_translate ms p die asid va k d w
  rwa [e] at this

/-- The parts of a range translated: the canonical form stays. -/
theorem wf_vparts (ms : MemSys) (p : TlbPlace) (die asid va n : Nat) (k : AccessKind) (fuel : Nat)
    (w : Memory.wf ms.mem = true) : Memory.wf (ms.vparts p die asid va n k fuel).1.mem = true := by
  induction fuel generalizing ms va n with
  | zero => exact w
  | succ fuel ih =>
    rw [MemSys.vparts]
    dsimp only
    split
    · exact w
    · split
      · exact w
      · split
        · exact w
        · split
          · rename_i e; exact wf_translate_eq e w
          · rename_i e; exact wf_translate_eq e w
          · rename_i ms1 pa e
            have h := ih ms1 (va + min n (65536 - va % 65536)) (n - min n (65536 - va % 65536)) (wf_translate_eq e w)
            split
            · rename_i e2; rw [e2] at h; exact h
            · rename_i e2; rw [e2] at h; exact h

/-- Bytes written to translated parts: the canonical form stays. -/
theorem wf_writeParts (ms : MemSys) (ps : List (Nat × Nat)) (bs : List Byte) (w : Memory.wf ms.mem = true) :
    Memory.wf (ms.writeParts ps bs).mem = true := by
  induction ps generalizing ms bs with
  | nil => exact w
  | cons p rest ih => exact ih _ _ (wf_writeData _ _ _ w)

/-- An open fault posted leaves memory alone. -/
@[simp] theorem post_mem (ms : MemSys) (die : Nat) (o : OpenFault) : (ms.post die o).1.mem = ms.mem := by
  unfold MemSys.post
  dsimp only
  split <;> rfl

end Sys2Proof.Machine
end

