-- ==== Sys2Proof/Laws/Access.lean ====
section
/-! SUPPORT. What the shared operations of instructions can do, said once for each: the checks before an instruction,
trap entry, translation, loads and stores, transfers of control, the start of a stream command. -/

namespace Sys2Proof.Machine

/-- An instruction whose encoding is assigned goes on to its meaning. -/
theorem checked_ok (i : Instr) (s : State) (k : Thread → Out) (h : encodingOk i = true) : checked i s k = k s.me :=
  if_pos h

/-- One whose encoding is not traps ILLEGAL. -/
theorem checked_bad (i : Instr) (s : State) (k : Thread → Out) (h : encodingOk i = false) : checked i s k = illegal s i :=
  if_neg (by rw [h]; decide)

/-- A privileged instruction in a context with privilege goes on to its meaning. -/
theorem privileged_ok (i : Instr) (s : State) (k : Thread → Out) (h : encodingOk i = true) (hp : s.priv = true) :
    privileged i s k = k s.me := by rw [privileged, checked_ok _ _ _ h, if_pos hp]

/-- One in a context without privilege traps PRIV. -/
theorem privileged_user (i : Instr) (s : State) (k : Thread → Out) (h : encodingOk i = true) (hp : s.priv = false) :
    privileged i s k = trapOut s { cause := .priv, info := trapWord i } := by
  rw [privileged, checked_ok _ _ _ h, hp]; rfl

/-- A trap outside a handler, with one installed, enters it. -/
theorem trapThread_enters (s : State) (k : Nat) (t : TrapReq) (h : (s.thread k).inTrap = false)
    (hb : (s.thread k).trapBase ≠ 0) : s.trapThread k t = s.setThread k ((s.thread k).enterTrap t) := by
  have hb' : ((s.thread k).trapBase == 0) = false := beq_eq_false_iff_ne.mpr hb
  simp only [State.trapThread, h, hb', Bool.or_self, Bool.false_eq_true, if_false]

/-- A trap in a handler, or without one, stops the thread, and ends its job when it has one. -/
theorem trapThread_ends (s : State) (k : Nat) (t : TrapReq)
    (h : (s.thread k).inTrap = true ∨ (s.thread k).trapBase = 0) :
    ∃ u, s.trapThread k t = u.setThread k { s.thread k with run := .stopped }
      ∧ (u = s ∨ ∃ j f, (s.thread k).job = some j ∧ u = s.recordFault j f) := by
  have hc : ((s.thread k).inTrap || (s.thread k).trapBase == 0) = true := by
    rcases h with h | h <;> simp [h]
  unfold State.trapThread
  simp only [hc, if_true]
  split
  · next j hj => exact ⟨_, rfl, .inr ⟨j, _, hj, rfl⟩⟩
  · exact ⟨s, rfl, .inl rfl⟩

/-- A translation that succeeds changes nothing beside the memory system and what is charged. -/
theorem translateMe_ok {s s' : State} {va : W64} {k : AccessKind} {d : Bool} {pa : Nat}
    (h : s.translateMe va k d = .ok s' pa) :
    s' = { s with ms := s'.ms, charges := s'.charges } ∧ s.ms.translate (.core s.ring) (s.ring / 4) s.asid va.toNat k d = (s'.ms, .ok pa) := by
  unfold State.translateMe at h
  dsimp only at h
  split at h
  · next ms pa' e => injection h with h1 h2; subst h1 h2; exact ⟨rfl, e⟩
  · cases h
  · cases h

/-- A data access that passes its checks is one at a canonical address whose translation succeeds and that no
watchpoint stops. -/
theorem dataPa_ok {s s' : State} {va : W64} {n : Nat} {k : AccessKind} {d rd wr : Bool} {pa : Nat}
    (h : s.dataPa va n k d rd wr = .ok s' pa) :
    highVa va = false ∧ s.translateMe va k d = .ok s' pa ∧ s.watchMe va.toNat n rd wr = none := by
  unfold State.dataPa at h
  split at h
  · cases h
  · next hv =>
    split at h
    · next s1 p1 e =>
      split at h
      · cases h
      · next w => injection h with h1 h2; subst h1 h2; exact ⟨by simpa using hv, e, w⟩
    · next r hr => exact absurd h (hr s' pa)

/-- A load outside the device window that succeeds reads its aligned bytes where its address is translated. -/
theorem load_ok {s s' : State} {va : W64} {n v : Nat} (hd : inDevice va = false) (h : s.load va n = .ok s' v) :
    va.toNat % n = 0 ∧ ∃ pa, s.dataPa va n .read false true false = .ok s' pa ∧ s'.ms.rangeBad pa n = false
      ∧ v = s'.ms.readPa pa n := by
  unfold State.load at h
  split at h
  · cases h
  · next ha =>
    rw [if_neg (by rw [hd]; decide)] at h
    refine ⟨by simpa using ha, ?_⟩
    split at h
    · next s1 pa e =>
      split at h
      · cases h
      · next hb => injection h with h1 h2; subst h1 h2; exact ⟨pa, e, by simpa using hb, rfl⟩
    · cases h
    · cases h

/-- A store outside the device window that succeeds writes its aligned bytes where its address is translated. -/
theorem store_ok {s s' : State} {va : W64} {bs : List Byte} (hd : inDevice va = false) (h : s.store va bs = .ok s' ()) :
    va.toNat % bs.length = 0 ∧ ∃ s1 pa, s.dataPa va bs.length .write true false true = .ok s1 pa
      ∧ s' = { s1 with ms := s1.ms.writeData pa bs } := by
  unfold State.store at h
  split at h
  · cases h
  · next ha =>
    rw [if_neg (by rw [hd]; decide)] at h
    refine ⟨by simpa using ha, ?_⟩
    split at h
    · next s1 pa e => injection h with h1; exact ⟨s1, pa, e, h1.symm⟩
    · cases h
    · cases h

/-- A transfer to an address that can be fetched goes there. -/
theorem transfer_ok {s s' : State} {target : W64} {pa : Nat} (f : Thread → Thread) (h : s.fetchable target = .ok s' pa) :
    transfer s target f = .next (s'.setMe ((f s'.me).jump target)) := by rw [transfer, h]; rfl

/-- A transfer to one that traps, traps. -/
theorem transfer_trap {s s' : State} {target : W64} {t : TrapReq} (f : Thread → Thread)
    (h : s.fetchable target = .trap s' t) : transfer s target f = trapOut s' t := by rw [transfer, h]; rfl

/-- The command at the head of its port that may start, in a launch that goes on, and that passes its checks: it leaves
the queue and acts, or waits while it cannot act. -/
theorem startCmd_starts {s : State} {p : PortId} {scop : Nat} {r : PRef} {c : Cmd} {rest : List Cmd}
    (f : State → PRef → Cmd → Option State) (hr : s.pref p = some r) (hq : (s.port r.key).q = c :: rest)
    (hc : c.scop = scop) (hm : s.mayStart r c = true) (hs : r.l.stopped = false) (hg : s.causeOf r c = 0) :
    startCmd scop p s f = match f (s.modPort r.key fun q => { q with q := rest }) r c with
      | some t => .next ((t.stirred r.lk).settle r.lk)
      | none => .next s := by
  have h0 : (c.scop != scop || !s.mayStart r c) = false := by simp [hc, hm]
  unfold startCmd
  simp only [hr, hq, h0, hs, hg, Bool.false_eq_true, if_false, bne_self_eq_false] <;> rfl

/-- One of another code, or that may not start, changes nothing. -/
theorem startCmd_waits {s : State} {p : PortId} {scop : Nat} {r : PRef} {c : Cmd} {rest : List Cmd}
    (f : State → PRef → Cmd → Option State) (hr : s.pref p = some r) (hq : (s.port r.key).q = c :: rest)
    (h : c.scop ≠ scop ∨ s.mayStart r c = false) : startCmd scop p s f = .next s := by
  have h0 : (c.scop != scop || !s.mayStart r c) = true := by rcases h with h | h <;> simp [h]
  unfold startCmd
  simp only [hr, hq, h0, if_true]

end Sys2Proof.Machine
end

