-- ==== Sys2Proof/Laws/Fabric.lean ====
section
/-! SUPPORT. What the operations of the fabric leave alone: the registers of every thread beside NOTE and the
thresholds of QNOTE, the contexts, the scratchpads and the boundary; and that they keep memory's form. -/

namespace Sys2Proof.Machine

/-- From `s` to `t` only the fabric, the jobs, the queues, the rings, NOTE, the charges and the memory system have
changed, and memory keeps its form. -/
structure Kept (s t : State) : Prop where
  regs : ∀ k, (t.thread k).regs = (s.thread k).regs
  mem : Memory.wf s.ms.mem = true → Memory.wf t.ms.mem = true
  ctxs : t.ctxs = s.ctxs
  scratch : t.scratch = s.scratch
  spGen : t.spGen = s.spGen
  bd : t.bd = s.bd
  clk : t.clk = s.clk
  sched : t.sched = s.sched
  samples : t.samples = s.samples
  cur : t.cur = s.cur

@[refl] theorem Kept.refl (s : State) : Kept s s := ⟨fun _ => rfl, id, rfl, rfl, rfl, rfl, rfl, rfl, rfl, rfl⟩

theorem Kept.trans {s t u : State} (h : Kept s t) (g : Kept t u) : Kept s u :=
  ⟨fun k => (g.regs k).trans (h.regs k), g.mem ∘ h.mem, g.ctxs.trans h.ctxs, g.scratch.trans h.scratch,
    g.spGen.trans h.spGen, g.bd.trans h.bd, g.clk.trans h.clk, g.sched.trans h.sched, g.samples.trans h.samples,
    g.cur.trans h.cur⟩

/-- A change of the fabric, the jobs, the rings or the exchange queues alone. -/
theorem Kept.of_parts (s : State) (fab : Fabric) (dp : Disp) (rings : Tab RingSt) (xq : Tab (List W64)) :
    Kept s { s with fab := fab, dp := dp, rings := rings, xq := xq } :=
  ⟨fun _ => rfl, id, rfl, rfl, rfl, rfl, rfl, rfl, rfl, rfl⟩

/-- A change of a thread that leaves its registers alone. -/
theorem kept_modThread (s : State) (k : Nat) (f : Thread → Thread) (h : (f (s.thread k)).regs = (s.thread k).regs) :
    Kept s (s.modThread k f) := by
  refine ⟨fun j => ?_, id, rfl, rfl, rfl, rfl, rfl, rfl, rfl, rfl⟩
  by_cases e : j = k
  · subst e; rw [State.thread_modThread_same]; exact h
  · rw [State.thread_modThread_ne _ _ _ _ e]

/-- A change of memory that keeps its form. -/
theorem kept_ms (s : State) (ms : MemSys) (h : Memory.wf s.ms.mem = true → Memory.wf ms.mem = true) :
    Kept s { s with ms := ms } := ⟨fun _ => rfl, h, rfl, rfl, rfl, rfl, rfl, rfl, rfl, rfl⟩

theorem kept_modFab (s : State) (f : Fabric → Fabric) : Kept s (s.modFab f) := Kept.of_parts s _ s.dp s.rings s.xq
theorem kept_setLaunch (s : State) (lk : Nat) (l : Option Launch) : Kept s (s.setLaunch lk l) := kept_modFab s _
theorem kept_modLaunch (s : State) (lk : Nat) (f : Launch → Launch) : Kept s (s.modLaunch lk f) := by
  unfold State.modLaunch; split
  · exact kept_setLaunch ..
  · rfl
theorem kept_setElem (s : State) (k : Nat) (e : ElemSt) : Kept s (s.setElem k e) := kept_modFab s _
theorem kept_setLink (s : State) (k : Nat) (l : LinkSt) : Kept s (s.setLink k l) := kept_modFab s _
theorem kept_setRtr (s : State) (k : Nat) (r : RtSt) : Kept s (s.setRtr k r) := kept_modFab s _
theorem kept_setPort (s : State) (k : Nat) (p : PortSt) : Kept s (s.setPort k p) := kept_modFab s _
theorem kept_modPort (s : State) (k : Nat) (f : PortSt → PortSt) : Kept s (s.modPort k f) := kept_setPort s _ _
theorem kept_setFifo (s : State) (k : Nat) (q : List Tok) : Kept s (s.setFifo k q) := kept_modFab s _
theorem kept_modQueue (s : State) (q : Nat) (f : Queue → Queue) : Kept s (s.modQueue q f) :=
  Kept.of_parts s s.fab _ s.rings s.xq
theorem kept_modJob (s : State) (j : JobId) (f : Job → Job) : Kept s (s.modJob j f) := kept_modQueue s _ _
theorem kept_recordFault (s : State) (j : JobId) (f : FaultRec) : Kept s (s.recordFault j f) := kept_modJob s _ _
theorem kept_setEvent (s : State) (e : Nat) (v : W64) : Kept s (s.setEvent e v) := Kept.of_parts s s.fab _ s.rings s.xq
theorem kept_signal (s : State) (e : Nat) : Kept s (s.signal e) := kept_setEvent s _ _
theorem kept_modRing (s : State) (g : Nat) (f : RingSt → RingSt) : Kept s (s.modRing g f) :=
  Kept.of_parts s s.fab s.dp _ s.xq
theorem kept_notify (s : State) (k b : Nat) : Kept s (s.notify k b) := kept_modThread s k _ rfl
theorem kept_noteQueue (s : State) (k q : Nat) : Kept s (s.noteQueue k q) := by
  unfold State.noteQueue; split
  · exact (kept_modThread s k _ rfl).trans (kept_notify _ _ _)
  · rfl
theorem kept_setQueue (s : State) (k : Nat) (q : List W64) : Kept s (s.setQueue k q) :=
  (Kept.of_parts s s.fab s.dp s.rings _).trans (kept_noteQueue _ _ _)

/-- A fold of steps that keep. -/
theorem kept_foldl {α : Type} (f : State → α → State) (h : ∀ s a, Kept s (f s a)) (l : List α) (s : State) :
    Kept s (l.foldl f s) := by
  induction l generalizing s with
  | nil => rfl
  | cons a r ih => exact (h s a).trans (ih _)

/-- Charges change nothing else. -/
theorem kept_charge (s : State) (cs : List Charge) : Kept s (s.charge cs) :=
  ⟨fun _ => rfl, id, rfl, rfl, rfl, rfl, rfl, rfl, rfl, rfl⟩

theorem kept_repeatMove (f : State → Option State) (h : ∀ s t, f s = some t → Kept s t) (n : Nat) (s : State) :
    Kept s (repeatMove f n s) := by
  induction n generalizing s with
  | zero => rfl
  | succ n ih =>
    rw [repeatMove]; split
    · rename_i e; exact (h _ _ e).trans (ih _)
    · rfl

/-! ### Overflow queues -/

theorem kept_setOvf (s : State) (key : Nat) (o : Overflow) : Kept s (s.setOvf key o) := kept_setLink ..

theorem kept_ovfOpen (s : State) (lk key : Nat) (o : Overflow) (va n : Nat) (k : AccessKind) :
    Kept s (s.ovfOpen lk key o va n k).1 := by
  unfold State.ovfOpen
  split
  · rfl
  · dsimp only
    have h := wf_vparts s.ms (.port (ovfRing lk * 2 ^ 40 + 2 ^ 36 + key)) (ovfRing lk / 4) o.cmd.asid (va / 32 * 32)
      (roundUp (va % 32 + n) 32) k 3
    split
    · rename_i e; rw [e] at h; exact (kept_ms s _ h).trans (kept_charge ..)
    · rename_i e
      rw [e] at h
      split
      · exact (kept_ms s _ h).trans (kept_charge ..)
      · exact (kept_ms s _ h).trans (kept_charge ..)

theorem kept_ovfWrite (s : State) (lk key : Nat) (w : LinkW) (o : Overflow) (i v : Nat) :
    Kept s (s.ovfWrite lk key w o i v).1 := by
  unfold State.ovfWrite
  dsimp only
  have h := kept_ovfOpen s lk key o (o.va w i) w.slot .write
  split
  · rename_i e; rw [e] at h; exact h
  · rename_i e; rw [e] at h; exact h.trans (kept_ms _ _ (wf_writeParts _ _ _))

theorem kept_ovfRead (s : State) (lk key : Nat) (w : LinkW) (o : Overflow) (i : Nat) :
    Kept s (s.ovfRead lk key w o i).1 := by
  unfold State.ovfRead
  dsimp only
  have h := kept_ovfOpen s lk key o (o.va w i) w.slot .read
  split
  · rename_i e; rw [e] at h; exact h
  · rename_i e; rw [e] at h; exact h

theorem kept_ovfStop (s : State) (lk key : Nat) (o : Overflow) (va : Nat) (k : AccessKind) (e : AErr) :
    Kept s (s.ovfStop lk key o va k e) := by
  have h := kept_setOvf s key { o with frozen := true, faultVa := va }
  unfold State.ovfStop
  dsimp only
  split
  all_goals first
    | exact h.trans (kept_ms _ _ fun w => by rw [post_mem]; exact w)
    | (split
       · exact h.trans (kept_recordFault ..)
       · exact h)

theorem kept_ovfPut (s t : State) (lk key : Nat) (w : LinkW) (h : s.ovfPut lk key w = some t) : Kept s t := by
  unfold State.ovfPut at h
  split at h
  · cases h
  · rename_i o _
    split at h
    · cases h
    · rename_i tk rest _
      split at h
      · cases h
      · split at h
        · cases h; exact kept_setOvf ..
        · have k := kept_ovfWrite s lk key w o o.tail tk.payload
          split at h
          · rename_i e; rw [e] at k; cases h; exact k.trans (kept_setOvf ..)
          · rename_i e; rw [e] at k; cases h; exact k.trans (kept_ovfStop ..)

theorem kept_ovfFetch (s t : State) (lk key : Nat) (w : LinkW) (own : Bool) (h : s.ovfFetch lk key w own = some t) :
    Kept s t := by
  unfold State.ovfFetch at h
  split at h
  · cases h
  · rename_i o _
    split at h
    · cases h
    · split at h
      · cases h; exact kept_setOvf ..
      · rw [Option.ite_none_left_eq_some] at h
        obtain ⟨-, h⟩ := h
        have k := kept_ovfRead s lk key w o o.head
        split at h
        · rename_i e; rw [e] at k; cases h; exact k.trans (kept_setOvf ..)
        · rename_i e; rw [e] at k; cases h; exact k.trans (kept_ovfStop ..)

theorem kept_ovfEnter (s : State) (lk key : Nat) (w : LinkW) (o : Overflow) (ts : List Tok) :
    Kept s (s.ovfEnter lk key w o ts) := by
  unfold State.ovfEnter
  split
  · exact kept_setOvf ..
  · exact (kept_setOvf ..).trans (kept_repeatMove _ (fun s t h => kept_ovfPut s t _ _ _ h) _ _)

/-! ### Links and their external ends -/

theorem kept_stamp (s : State) (lk : Nat) (l : Launch) (k key : Nat) (w : LinkW) (ts : List Tok) :
    Kept s (s.stamp lk l k key w ts) := by
  unfold State.stamp
  dsimp only
  split
  · rfl
  · exact (kept_setLink ..).trans (kept_modLaunch ..)

theorem kept_send (s : State) (lk k i : Nat) (w : LinkW) (ts : List Tok) : Kept s (s.send lk k i w ts) := by
  unfold State.send
  split
  · rfl
  · dsimp only
    refine Kept.trans ?_ (kept_stamp ..)
    split
    · split
      · exact kept_setLink ..
      · exact kept_ovfEnter ..
    · exact kept_setLink ..

theorem kept_popAt (s : State) (lk : Nat) (l : Launch) (k p i : Nat) : Kept s (s.popAt lk l k p i) := by
  unfold State.popAt; split
  · exact kept_setLink ..
  · rfl

theorem kept_sendOut (s : State) (lk : Nat) (l : Launch) (k p o : Nat) (ts : List Tok) :
    Kept s (s.sendOut lk l k p o ts) := by
  unfold State.sendOut; split
  · rfl
  · exact kept_foldl _ (fun a b => kept_send a ..) _ _

theorem kept_portFault (s : State) (lk : Nat) (f : FaultRec) : Kept s (s.portFault lk f) := by
  unfold State.portFault; split
  · exact kept_recordFault ..
  · rfl

theorem kept_moveOut (s t : State) (lk : Nat) (l : Launch) (k i : Nat) (w : LinkW) (h : s.moveOut lk l k i w = some t) :
    Kept s t := by
  unfold State.moveOut at h
  dsimp only at h
  split at h
  · cases h
  · have p := kept_setLink s (linkKey lk k i) ((s.link (linkKey lk k i)).pop w)
    repeat' split at h
    all_goals first
      | (cases h; done)
      | (cases h; exact p)
      | (cases h; exact p.trans (kept_setLaunch ..))
      | (cases h; exact p.trans (kept_setQueue ..))
      | (cases h; exact p.trans (kept_modPort ..))
      | (cases h; exact p.trans ((kept_modFab ..).trans (kept_portFault ..)))
      | (cases h; exact p.trans (kept_modFab ..))

theorem kept_admit (s : State) (lk : Nat) (ts : List Tok) : Kept s (s.countIn lk ts) := by
  unfold State.countIn; split
  · exact kept_modJob ..
  · rfl

theorem kept_markPort (s : State) (lk pk : Nat) (f : List Tok) : Kept s (s.markPort lk pk f) := by
  unfold State.markPort; split
  · rfl
  · exact (kept_setPort ..).trans (kept_setLaunch ..)

theorem kept_fillFifo (s : State) (lk n q : Nat) : Kept s (s.fillFifo lk n q) := by
  unfold State.fillFifo; dsimp only; split
  · rfl
  · split
    · rfl
    · exact (kept_setFifo ..).trans (kept_setPort ..)

theorem kept_arrive (s : State) (lk : Nat) (l : Launch) (k i : Nat) (w : LinkW) (h : Head) :
    Kept s (s.arrive lk l k i w h) := by
  unfold State.arrive
  refine Kept.trans ?_ (kept_send ..)
  split
  · exact kept_setPort ..
  · exact (kept_setPort ..).trans (kept_admit ..)

theorem kept_moveIn (s t : State) (lk : Nat) (l : Launch) (k i : Nat) (w : LinkW) (h : s.moveIn lk l k i w = some t) :
    Kept s t := by
  unfold State.moveIn at h
  dsimp only at h
  repeat' split at h
  all_goals first
    | (cases h; done)
    | (cases h; exact (kept_markPort ..).trans ((kept_modPort ..).trans (kept_send ..)))
    | (cases h; refine Kept.trans ?_ (kept_arrive ..); first
        | exact kept_modFab ..
        | exact (kept_fillFifo ..).trans (kept_setFifo ..)
        | exact kept_fillFifo ..)

theorem kept_moveOver (s t : State) (lk : Nat) (l : Launch) (k i : Nat) (w : LinkW)
    (h : s.moveOver lk l k i w = some t) : Kept s t := by
  unfold State.moveOver at h
  dsimp only at h
  rcases Option.or_eq_some_iff.mp h with h | ⟨-, h⟩
  · rcases Option.or_eq_some_iff.mp h with h | ⟨-, h⟩
    · exact kept_ovfPut s t _ _ _ h
    · exact kept_ovfFetch s t _ _ _ _ h
  · repeat' split at h
    all_goals first
      | (cases h; done)
      | (cases h; exact kept_setLink ..)

theorem kept_settleLink (s : State) (lk k i : Nat) (w : LinkW) : Kept s (s.settleLink lk k i w) := by
  have go : ∀ (f : State → Launch → Option State), (∀ s l t, f s l = some t → Kept s t) → ∀ n s,
      Kept s (repeatMove (fun s => match s.launch lk with
        | some l => f s l
        | none => none) n s) := by
    intro f hf n s
    refine kept_repeatMove _ (fun s t h => ?_) n s
    split at h
    · exact hf _ _ _ h
    · cases h
  unfold State.settleLink
  dsimp only
  have h1 : Kept s (if (s.link (linkKey lk k i)).ovf.isSome = true then
      repeatMove (fun s => match s.launch lk with
        | some l => s.moveOver lk l k i w
        | none => none) 512 s else s) := by
    split
    · exact go (fun s l => s.moveOver lk l k i w) (fun s l t h => kept_moveOver s t _ _ _ _ _ h) _ _
    · rfl
  split
  · exact h1.trans (go (fun s l => s.moveOut lk l k i w) (fun s l t h => kept_moveOut s t _ _ _ _ _ h) _ _)
  · split
    · exact h1.trans (go (fun s l => s.moveIn lk l k i w) (fun s l t h => kept_moveIn s t _ _ _ _ _ h) _ _)
    · exact h1

/-- The moves at the ends of a launch's links keep every thread's registers and memory's form. -/
theorem kept_settle (s : State) (lk : Nat) : Kept s (s.settle lk) := by
  unfold State.settle
  split
  · rfl
  · exact kept_foldl _ (fun a b => kept_settleLink ..) _ _

/-! ### Firings -/

theorem kept_progress (s : State) (lk : Nat) : Kept s (s.progress lk) := by
  unfold State.progress; split
  · exact kept_modJob ..
  · rfl
theorem kept_busy (s : State) (l : Launch) (j : Nat) : Kept s (s.busy l j) := kept_modRing ..
theorem kept_popAll (s : State) (x : Site) (take : Nat) : Kept s (s.popAll x take) :=
  kept_foldl _ (fun a b => by split; exact kept_popAt ..; rfl) _ _
theorem kept_commit (s : State) (x : Site) (e : ElemSt) (take : Nat) (a b : List Tok) :
    Kept s (s.commit x e take a b) := by
  unfold State.commit
  exact (kept_popAll ..).trans <| (kept_sendOut ..).trans <| (kept_sendOut ..).trans <| (kept_setElem ..).trans <|
    (kept_progress ..).trans <| (kept_busy ..).trans (kept_settle ..)
theorem kept_elemFault (s : State) (x : Site) (c : FaultClass) (d : W64) : Kept s (s.elemFault x c d) :=
  kept_recordFault ..
theorem kept_tried (s : State) (x : Site) (t : Try) : Kept s (s.tried x t) := by
  unfold State.tried; split
  · rfl
  · exact kept_elemFault ..
  · exact kept_commit ..

/-- A firing of an element keeps every thread's registers and memory's form. -/
theorem kept_fireElem (op : Nat) (f : Cfg → OpSt → Ins → Res) (id : ElemId) (s t : State)
    (h : fireElem op f id s = .next t) : Kept s t := by
  unfold fireElem at h
  dsimp only at h
  repeat' split at h
  all_goals first
    | (cases h; rfl)
    | (cases h; exact (kept_settle ..).trans (kept_tried ..))

end Sys2Proof.Machine
end

