-- ==== Sys2Proof/Tests/Scenes.lean ====
section
/-! SUPPORT. Small states for the tests, and the shape of their premises. -/

namespace Sys2Proof.Tests

-- One test after the other, so that their evaluations do not wait for each other in many threads.
set_option Elab.async false

open Sys2Proof Sys2Proof.Machine Sys2Proof.Claims

/-- The first launch slot of the first thread. -/
def lid : LaunchId := { ring := 0, slot := 0, ls := 0 }

/-- The thread of the scenes: running without a job, its pc at 0x10000000. -/
def thread0 : Thread := { pc := 0x10000000, run := .running }

/-- The page tables of `State.withFetchWord`, the page at 0x10000000 that may be read, written and fetched, and the word
of ADD at its start. -/
def pages : MemSys :=
  { mem := [(0x20000, 0x01), (0x20002, 0x04), (0x40008, 0xBF), (0x4000B, 0x10), (0x4000E, 0x10), (0x10000001, 0x80),
      (0x10000002, 0x29), (0x10000003, 0x06)]
    roots := [(0, 0x20001)], rootNow := [(0, 0x20001)] }

/-- A machine whose thread 0 is as given. -/
def scene (f : Thread → Thread) : State :=
  { ms := pages, threads := [(0, f thread0)], sched := [{ dt := 1, act := .issue 0 0 }] }

/-- A machine at the first instruction of thread 0. -/
def base : State := scene id

/-- It is what places an instruction after reset. -/
theorem test_base : State.reset.withFetchWord 32 0x06298000 = base := by decide +kernel

/-- The same with a register set. -/
def withX (r : BitVec 5) (v : W64) : State := scene fun th => th.put r v

/-- The context of the thread has privilege. -/
def privileged' (s : State) : State := s.modCtx 0 fun c => { c with priv := true }

/-- An address in the page of the code, away from it. -/
def data : W64 := 0x10001000

/-- Whether an access answers a value, with a property of it. -/
def okAnd {α : Type} (a : Acc α) (p : State → α → Bool) : Bool :=
  match a with
  | .ok s v => p s v
  | .trap _ _ => false
  | .post _ => false

/-- Whether an access traps so. -/
def trapsWith {α : Type} (a : Acc α) (t : TrapReq) : Bool :=
  match a with
  | .ok _ _ => false
  | .trap _ u => u == t
  | .post _ => false

/-- Whether an access faults and is posted. -/
def postsIt {α : Type} (a : Acc α) : Bool :=
  match a with
  | .ok _ _ => false
  | .trap _ _ => false
  | .post _ => true

/-- Whether a step answers a next state with a property. -/
def nextAnd (o : Out) (p : State → Bool) : Bool :=
  match o with
  | .next t => p t
  | .fault _ => false
  | .refused _ => false

/-- What `okAnd` says. -/
theorem of_okAnd {α : Type} {a : Acc α} {p : State → α → Bool} (h : okAnd a p = true) :
    ∃ s v, a = .ok s v ∧ p s v = true := by
  cases a with
  | ok s v => exact ⟨s, v, rfl, h⟩
  | trap s t => cases h
  | post s => cases h

/-- What a check of `Reaches` says. -/
theorem reaches_of {s : State} {va : W64} {n : Nat} {k : AccessKind} {d rd wr : Bool} {p : State → Nat → Bool}
    (h : va.toNat % n = 0 ∧ highVa va = false ∧ inDevice va = false ∧ s.watchMe va.toNat n rd wr = none)
    (h1 : okAnd (s.translateMe va k d) (fun s1 pa => !s1.ms.rangeBad pa n && p s1 pa) = true) :
    ∃ s1 pa, Reaches s va n k d rd wr s1 pa ∧ s1.ms.rangeBad pa n = false ∧ p s1 pa = true := by
  obtain ⟨s1, pa, e, q⟩ := of_okAnd h1
  simp only [Bool.and_eq_true, Bool.not_eq_true'] at q
  exact ⟨s1, pa, ⟨h.1, h.2.1, h.2.2.1, e, h.2.2.2⟩, q.1, q.2⟩

/-- What the answer of a step that goes on is. -/
theorem next_of {o : Out} (h : goesOn o = true) : ∃ t, o = .next t := by
  cases o with
  | next t => exact ⟨t, rfl⟩
  | fault f => cases h
  | refused r => cases h

/-- A property of every entry of a table, and of its default, holds of what is read. -/
theorem all_tget {α : Type} (p : α → Bool) (d : α) (hd : p d = true) :
    ∀ (t : Tab α), (t.all fun e => p e.2) = true → ∀ k, p (tget d t k) = true
  | [], _, _ => hd
  | (k', v) :: rest, h, k => by
    simp only [List.all_cons, Bool.and_eq_true] at h
    unfold tget
    split
    · exact h.1
    · exact all_tget p d hd rest h.2 k

/-- A check of the invariant. -/
theorem inv_of {s : State} (h : Memory.wf s.ms.mem = true ∧ (s.threads.all fun e => e.2.wf) = true) : Inv s :=
  ⟨h.1, all_tget Thread.wf {} (by decide) s.threads h.2⟩

end Sys2Proof.Tests
end

