-- ==== Sys2Proof/Tests/Scalar.lean ====
section
/-! SUPPORT. States and operands that meet the premises of the statements about the step and scalar instructions. -/

namespace Sys2Proof.Tests

-- One test after the other, so that their evaluations do not wait for each other in many threads.
set_option Elab.async false

open Sys2Proof Sys2Proof.Machine Sys2Proof.Claims

/-! ### Encodings and the step -/

theorem test_premise_encode :
    (encode (.add 1 2 3)).isSome = true ∧ (encode (.scl 1 2 (0x55 : BitVec 128))).isSome = true := by decide +kernel

theorem test_premise_checked_first :
    (encodeWord (.fence 7 0)).isSome = true ∧ encodingOk (.fence 7 0) = false ∧ (encodeWord .ill).isSome = true := by
  decide +kernel

/-- The state in which the first turn has begun. -/
def turned : State := { (({ base with sched := [] } : State).tick 1).stirs 0 with cur := 0 }

theorem test_premise_step :
    base.sched = [{ dt := 1, act := .issue 0 0 }] ∧ turned.ready turned.cur = true
    ∧ (∃ s1 pa, turned.fetchable turned.me.pc64 = .ok s1 pa ∧ (!s1.ms.rangeBad pa 4 && BitVec.ofNat 32 (valueAt s1 pa 4) == 0x06298000) = true)
    ∧ isScl 0x06298000 = false ∧ decodeWords [0x06298000] = .ok (.add 17 9 16, [])
    ∧ nextAnd (exec (.add 17 9 16) turned) (fun t => turned.admits (.thread 0) turned.wanted (turned.chargedBy t)) = true :=
  ⟨by decide +kernel, by decide +kernel, of_okAnd (by decide +kernel), by decide +kernel, by decide +kernel,
    by decide +kernel⟩

/-- SCL with its inline words at the pc. -/
def sclBase : State := State.reset.withFetchWord 160 0x44444444333333332222222211111101A6A00304

theorem test_premise_step_scl :
    ∃ s1 ws, ({ (({ sclBase with sched := [] } : State).tick 1).stirs 0 with cur := 0 } : State).fetchInstr = .ok s1 ws
      ∧ (match decodeWords ws with
        | .ok (.scl _ _ _, _) => true
        | _ => false) = true := of_okAnd (by decide +kernel)

/-- Without a prescribed turn, thread 0 comes first. -/
def free0 : State := { base with sched := [], turn := 0 }

theorem test_premise_step_round :
    free0.roundThread = some 0 ∧ free0.ready 0 = true ∧ free0.waits 0 = false
    ∧ (∃ s1 ws, ({ free0.pastThread 0 with cur := 0 } : State).fetchInstr = .ok s1 ws
      ∧ (decodeWords ws == .ok (.add 17 9 16, [])) = true) :=
  ⟨by decide +kernel, by decide +kernel, by decide +kernel, of_okAnd (by decide +kernel)⟩

theorem test_premise_step_event :
    (State.reset.sched.length = 0) ∧ (encodeWord .dispatchDecision).isNone = true ∧ (encodeWord .halt).isNone = false := by
  decide +kernel

theorem test_inv_base : Inv base := inv_of (by decide +kernel)

theorem test_premise_issue_keeps :
    Inv base ∧ (∃ t, exec (.add 17 9 16) base = .next t) ∧ (∃ t, step base = .next t)
    ∧ Inv free0 ∧ free0.roundThread.isSome = true ∧ ∃ t, step free0 = .next t :=
  ⟨inv_of (by decide +kernel), next_of (by decide +kernel), next_of (by decide +kernel), inv_of (by decide +kernel),
    by decide +kernel, next_of (by decide +kernel)⟩

/-! ### Registers, arithmetic and control transfer -/

theorem test_premise_field : (0 : BitVec 6).toNat + (32 * (1 : BitVec 1).toNat + (31 : BitVec 5).toNat + 1) ≤ 64
    ∧ 64 < (1 : BitVec 6).toNat + (32 * (1 : BitVec 1).toNat + (31 : BitVec 5).toNat + 1) := by decide

theorem test_premise_float : encodingOk (.fcmp 1 2 3 3) = true
    ∧ (∀ k : BitVec 4, k.toNat < 10 → encodingOk (.fcvt 1 2 k 0) = true) ∧ encodingOk (.fcvt 1 2 0 3) = true := by decide

/-- FP32 operands of each kind, at the ends of the ranges (06 R170). -/
theorem test_premise_conversions :
    valF32 0x7FC00000 = .nan ∧ valF32 0xFF800000 = .inf true
    ∧ (match valF32 0x5F000000 with
      | .fin neg m e _ => !neg && roundedInt .rne ((m : Int) * 2 ^ e.toNat) (2 ^ (-e).toNat) == 2 ^ 63
      | _ => false) = true
    ∧ (match valF32 0xBFC00000 with
      | .fin neg m e _ => neg && roundedInt .rz (-(m : Int) * 2 ^ e.toNat) (2 ^ (-e).toNat) == -1
          && roundedInt .rne (-(m : Int) * 2 ^ e.toNat) (2 ^ (-e).toNat) == -2
      | _ => false) = true
    ∧ decodeFloat fp16 0x7E00 = .nan ∧ decodeFloat bf16 0x7FC0 = .nan := by decide +kernel

/-- FCVT of 2^63 to a signed integer clamps with SAT (06 R170). -/
theorem test_fcvt_clamps :
    nextAnd (exec (.fcvt 1 2 0 0) (withX 2 0x5F000000)) (fun t => t.me.get 1 == 2 ^ 63 - 1 && t.me.fstat != 0) = true := by
  decide +kernel

theorem test_premise_frames :
    goesOn (exec (.exts 1 2 31 1 0) base) = true ∧ encodingOk (.exts 1 2 31 1 0) = true
    ∧ goesOn (exec (.fadd 1 2 3 0) base) = true := by decide +kernel

/-- Where a transfer may go. -/
theorem test_premise_transfer :
    (∃ s1 pa, base.fetchable 0x10000010 = .ok s1 pa ∧ true = true)
    ∧ (base.me.pc + 4 * (4 : BitVec 13).signExtend 56).setWidth 64 = (0x10000010 : W64)
    ∧ (base.me.pc + 4 * (4 : BitVec 26).signExtend 56).setWidth 64 = (0x10000010 : W64)
    ∧ reg (withX 5 0x10000010) 5 = 0x10000010
    ∧ (∃ s1 pa, (withX 5 0x10000010).fetchable 0x10000010 = .ok s1 pa ∧ true = true) :=
  ⟨of_okAnd (by decide +kernel), by decide +kernel, by decide +kernel, by decide +kernel, of_okAnd (by decide +kernel)⟩

/-- Returns at the depths 0, 1 and 2. -/
def depth (n : BitVec 16) : State := scene fun th => { th.put 1 0x10000010 with cdepth := n }

theorem test_premise_return : ∀ n ∈ [(0 : BitVec 16), 1, 2],
    ∃ s1 pa, (depth n).fetchable 0x10000010 = .ok s1 pa ∧ (s1.me.cdepth == n && s1.myJob.isNone) = true := by
  intro n h
  fin_cases h <;> exact of_okAnd (by decide +kernel)

/-- The same at depth 1 in a job whose block is at `cx`. -/
def depthIn (cx : Nat) : State :=
  { scene (fun th => { th.put 1 0x10000010 with cdepth := 1, job := some { queue := 0, seq := 0 }, n := 2 }) with
    dp := { queues := [(0, { jobs := [{ seq := 0, rcd := 0, cx := cx, phase := .started }] })] } }

/-- What the write of the safe-point word of `depthIn cx` finds: the word's place, or no translation. -/
def wordWrite (cx : Nat) (p : Option Nat → Bool) : Bool :=
  okAnd ((depthIn cx).fetchable 0x10000010) fun s1 _ =>
    s1.me.cdepth == 1 && s1.myJob.any (fun j => j.cx == cx) &&
    (match (s1.ms.translate (.core s1.ring) (s1.ring / 4) s1.asid ((cx + 0x0200 + 16) % 2 ^ 64) .write true).2 with
      | .ok pb => p (some pb)
      | .error _ => p none)

theorem test_premise_return_word :
    wordWrite 0x10002000 (fun o => o == some 0x10002210) = true ∧ wordWrite 0x20002000 (fun o => o.isNone) = true
    ∧ reg (depthIn 0x10002000) 1 = 0x10000010 := by decide +kernel

/-- The word of thread 2 after a return to depth 0, and one beside it. -/
theorem test_return_writes_word :
    nextAnd (exec (.jr 1) (depthIn 0x10002000)) (fun t =>
      t.me.safept == 1 && t.me.cdepth == 0 && t.ms.byte 0x10002210 == 1 && t.ms.byte 0x10002208 == 0) = true := by
  decide +kernel

theorem test_premise_bad_transfer :
    reg (withX 5 0x10000012) 5 = 0x10000012 ∧ (0x10000012 : W64).toNat % 4 ≠ 0
    ∧ (reg (withX 5 (2 ^ 56)) 5).toNat = 2 ^ 56 ∧ (reg (withX 5 65532) 5).toNat = 65532
    ∧ (reg (withX 5 0x00FFFF0000000000) 5).toNat = 0x00FFFF0000000000 := by decide +kernel

/-- The page of the code without the right to execute. -/
def noX : State :=
  let s := withX 5 0x10000010
  { s with ms := { s.ms with mem := writeMem s.ms.mem (placeTable + 8) (bytesLE 8 (placeCode + 2 ^ 52 + 0xB7)) } }

theorem test_premise_goes :
    GoesTo noX (.jr 5) 0x10000010 ∧ GoesTo noX (.j 4) 0x10000010 ∧ GoesTo noX (.beq 1 1 4) 0x10000010
    ∧ GoesTo noX (.beq 1 1 0) 0x10000000
    ∧ trapsWith (noX.translateMe 0x10000010 .fetch false) (trapAt .perm 0x10000010) = true
    ∧ GoesTo (withX 5 (2 ^ 56)) (.callr 1 5) (2 ^ 56) ∧ GoesTo (withX 5 0x00FFFF0000000000) (.jr 5) 0x00FFFF0000000000 :=
  ⟨⟨0, 5, 0, 0, 0, .inr (.inl ⟨.inl rfl, by decide +kernel, by decide⟩)⟩,
    ⟨0, 0, 0, 4, 0, .inl ⟨.inl rfl, by decide +kernel⟩⟩,
    ⟨0, 1, 1, 0, 4, .inr (.inr ⟨by decide +kernel, .inl ⟨rfl, rfl⟩⟩)⟩,
    ⟨0, 1, 1, 0, 0, .inr (.inr ⟨by decide +kernel, .inl ⟨rfl, rfl⟩⟩)⟩, by decide +kernel,
    ⟨1, 5, 0, 0, 0, .inr (.inl ⟨.inr rfl, by decide +kernel, by decide⟩)⟩,
    ⟨0, 5, 0, 0, 0, .inr (.inl ⟨.inl rfl, by decide +kernel, by decide⟩)⟩⟩

theorem test_premise_scalar_completes :
    (∃ s1 pa, (withX 5 0x10000010).translateMe 0x10000010 .fetch false = .ok s1 pa ∧ true = true)
    ∧ ((base.me.pc + 4 * (4 : BitVec 26).signExtend 56).setWidth 64 : W64) = 0x10000010
    ∧ reg (withX 5 0x10000010) 5 = 0x10000010 ∧ (0x10000010 : W64).toNat % 4 = 0
    ∧ 65536 ≤ (0x10000010 : W64).toNat ∧ (0x10000010 : W64).toNat < 0x00FFFF0000000000
    ∧ (withX 2 1).openTickets 0 = [] ∧ ((withX 2 1).live (slotOf (withX 2 1).cur 0)).isNone = true
    ∧ ((withX 2 1).me.get 3 ++ (withX 2 1).me.get 2).toNat % 256 = 1 :=
  ⟨of_okAnd (by decide +kernel), by decide +kernel, by decide +kernel, by decide, by decide, by decide, by decide +kernel,
    by decide +kernel, by decide +kernel⟩

/-- A link table whose first entry is a code entry and whose second is none. -/
def linked : State :=
  let s := withX 5 data
  { s with ms := s.ms.writePa data.toNat (bytesLE 8 0x10000011 ++ bytesLE 8 0) }

theorem test_premise_callt :
    (∃ s1 pa, Reaches linked data 8 .read false true false s1 pa ∧ s1.ms.rangeBad pa 8 = false
      ∧ (valueAt s1 pa 8 % 4 == 1 && okAnd (s1.fetchable (BitVec.ofNat 64 (valueAt s1 pa 8 % 2 ^ 56 / 4 * 4))) fun _ _ => true)
        = true)
    ∧ ∃ s1 pa, Reaches linked (data + 8) 8 .read false true false s1 pa ∧ s1.ms.rangeBad pa 8 = false
      ∧ (valueAt s1 pa 8 % 4 != 1) = true :=
  ⟨reaches_of (by decide +kernel) (by decide +kernel), reaches_of (by decide +kernel) (by decide +kernel)⟩

/-! ### Memory -/

theorem test_premise_load :
    (∃ s1 pa, Reaches base data 8 .read false true false s1 pa ∧ s1.ms.rangeBad pa 8 = false ∧ true = true)
    ∧ encodingOk (.ld 1 2 3 0 0) = true ∧ encodingOk (.lds 1 2 2 0 0) = true :=
  ⟨reaches_of (by decide +kernel) (by decide +kernel), by decide, by decide⟩

theorem test_premise_store :
    (∃ s1 pa, Reaches base data 8 .write true false true s1 pa ∧ s1.ms.rangeBad pa 8 = false ∧ true = true)
    ∧ (∃ s1 pa, Reaches base data 32 .write true false true s1 pa ∧ s1.ms.rangeBad pa 32 = false ∧ true = true)
    ∧ encodingOk (.st 1 2 3 2 0) = true :=
  ⟨reaches_of (by decide +kernel) (by decide +kernel), reaches_of (by decide +kernel) (by decide +kernel), by decide⟩

theorem test_premise_store_frame :
    copyOf base.ms data.toNat = none ∧ base.ms.mirror = none ∧ ¬ StoredAt base.ms data.toNat 8 0x10001008 := by
  refine ⟨by decide +kernel, by decide +kernel, ?_⟩
  have hi : ∀ a, imageOf base.ms a = none := fun a => rfl
  have hc : copyOf base.ms data.toNat = none := by decide +kernel
  have hn : base.ms.nowPa data.toNat = 0x10001000 := by decide +kernel
  rintro ⟨i, hlt, h | h | ⟨b, h, _⟩⟩
  · omega
  · rw [hi] at h; cases h
  · rw [hc] at h; cases h

theorem test_premise_translation :
    ∃ t pa, base.translateMe data .write true = .ok t pa ∧ (pa == 0x10001000) = true := of_okAnd (by decide +kernel)

theorem test_premise_atomic :
    ∃ s1 pa, Reaches base data 4 .atomic false true true s1 pa ∧ s1.ms.rangeBad pa 4 = false
      ∧ okAnd (s1.translateMe data .atomic true) (fun _ _ => true) = true :=
  reaches_of (by decide +kernel) (by decide +kernel)

/-- Memory holds 0: CAS finds it with x[1] = 0 and not with x[1] = 1. -/
theorem test_premise_cas :
    (∃ s1 pa, Reaches (withX 2 data) data 8 .atomic false true true s1 pa ∧ s1.ms.rangeBad pa 8 = false
      ∧ (valueAt s1 pa 8 == (reg (withX 2 data) 1).toNat && okAnd (s1.translateMe data .atomic true) fun _ _ => true) = true)
    ∧ ∃ s1 pa, Reaches (withX 1 1) data 8 .atomic false true false s1 pa ∧ s1.ms.rangeBad pa 8 = false
      ∧ (valueAt s1 pa 8 != (reg (withX 1 1) 1).toNat) = true :=
  ⟨reaches_of (by decide +kernel) (by decide +kernel), reaches_of (by decide +kernel) (by decide +kernel)⟩

/-- A running job 0 of queue 0 whose thread is thread 0. -/
def jid : JobId := { queue := 0, seq := 0 }

/-- The job, started, of one ring, in slot 0 of ring 0, with a watchpoint on 8 bytes. -/
def aJob : Job :=
  { seq := 0, rcd := BitVec.ofNat 1024 (2 ^ 170), phase := .started, check := .passed, segs := [{ ring := 0, slot := 0, base := 0, width := 24 }], order := 1
    watch := [some { addr := 0x10002000, len := 3, rd := true, wr := true }] }

/-- The scene with the thread in the job. -/
def jobScene (f : Thread → Thread) (g : Job → Job) : State :=
  { scene (fun th => f { th with job := some jid }) with dp := { queues := [(0, { jobs := [g aJob] })] } }

/-- The leaf of the page without rights to read and write, and a line with an uncorrectable error. -/
def harsh : State :=
  let s := jobScene id id
  { s with ms := { s.ms with mem := writeMem s.ms.mem (placeTable + 8) (bytesLE 8 (placeCode + 2 ^ 52 + 0xB9)) } }

/-- The same with the rights, and with the error at `data`. -/
def broken : State :=
  let s := jobScene id id
  { s with ms := { s.ms with ue := [(0x10001000 / 64, true)] } }

/-- The state after a translation that succeeds. -/
theorem test_premise_faults :
    data.toNat % 8 = 0 ∧ (data + 1).toNat % 8 ≠ 0 ∧ 2 ^ 56 ≤ (0x0100000000000000 : W64).toNat
    ∧ trapsWith (harsh.translateMe data .read false) (trapAt .perm data) = true
    ∧ trapsWith (harsh.translateMe data .write true) (trapAt .perm data) = true
    ∧ (∃ s1 pa, (jobScene id id).translateMe 0x10002000 .read false = .ok s1 pa ∧ true = true)
    ∧ (∃ s1 pa, (jobScene id id).translateMe 0x10002000 .write true = .ok s1 pa ∧ true = true)
    ∧ (jobScene id id).watchMe 0x10002000 8 true false = some 0 ∧ (jobScene id id).watchMe 0x10002000 8 false true = some 0
    ∧ (∃ s1 pa, broken.translateMe data .read false = .ok s1 pa ∧ s1.ms.rangeBad pa 8 = true)
    ∧ broken.watchMe data.toNat 8 true false = none :=
  ⟨by decide +kernel, by decide +kernel, by decide +kernel, by decide +kernel, by decide +kernel, of_okAnd (by decide +kernel),
    of_okAnd (by decide +kernel), by decide +kernel, by decide +kernel, of_okAnd (by decide +kernel), by decide +kernel⟩

/-- The scene's job with a mapped page but no rights for what follows: an address of the device window that no rule
opens, and one that nothing maps. -/
theorem test_premise_fault_kinds :
    encodingOk (.ld 1 2 3 0 0) = true ∧ encodingOk (.lds 1 2 2 0 0) = true ∧ encodingOk (.st 1 2 3 0 0) = true
    ∧ base.deviceRead 0x00FFFF0001800040 8 = none ∧ base.deviceRead 0x00FFFF0001800040 32 = none
    ∧ (0x00FFFF0001800040 : W64).toNat % 32 = 0 ∧ base.spPlace 0x00FFFF0000000000 8 = none
    ∧ postsIt ((jobScene id id).translateMe 0x20000000 .read false) = true
    ∧ postsIt ((jobScene id id).translateMe 0x20000000 .atomic true) = true
    ∧ trapsWith (harsh.translateMe data .atomic true) (trapAt .perm data) = true
    ∧ (∃ s1 pa, (jobScene id id).translateMe 0x10002000 .atomic true = .ok s1 pa ∧ true = true)
    ∧ (jobScene id id).watchMe 0x10002000 8 true true = some 0
    ∧ (∃ s1 pa, broken.translateMe data .atomic true = .ok s1 pa ∧ s1.ms.rangeBad pa 8 = true)
    ∧ broken.watchMe data.toNat 8 true true = none ∧ broken.watchMe data.toNat 32 true false = none :=
  ⟨by decide, by decide, by decide, by decide +kernel, by decide +kernel, by decide, by decide +kernel, by decide +kernel,
    by decide +kernel, by decide +kernel, of_okAnd (by decide +kernel), by decide +kernel, of_okAnd (by decide +kernel),
    by decide +kernel, by decide +kernel⟩

/-- An AMO on a watched doubleword traps WATCH with the number, and stores nothing (07 R178, R179). -/
theorem test_amo_watched :
    nextAnd (exec (.amoadd 5 1 2 0 3) (jobScene (fun th => { (th.put 1 0x10002000).put 2 1 with trapBase := 0x10000100 }) id))
      (fun t => t.me.inTrap && t.me.trapInfo == 0x10002000 && t.ms.byte 0x10002000 == 0 && t.me.get 5 == 0) = true := by
  decide +kernel

/-! ### Traps and system instructions -/

/-- A thread with a handler, outside it and in it. -/
def handler (inTrap : Bool) : State :=
  scene fun th => { th with trapBase := 0x10000100, trapPc := 0x10000004, inTrap := inTrap }

theorem test_premise_trap :
    (handler false).me.inTrap = false ∧ (handler false).me.trapBase ≠ 0 ∧ (handler true).me.inTrap = true
    ∧ ((handler false).ctx (handler false).asid).claimed = false
    ∧ (let s := (handler false).modCtx 0 fun c => { c with claimed := true }
       (s.ctx s.asid).claimed = true ∧ s.me.trapBase ≠ 0) := by decide +kernel

/-- TRAP 5 in a handler's absence or within it ends the job; elsewhere it enters the handler. -/
theorem test_trap_enters :
    (match exec (.trap 5) (handler false) with
      | .next t => t.me.pc == 0x10000100 && t.me.trapPc == 0x10000000 && t.me.trapCause == 0x520 && t.me.inTrap
      | _ => false) = true := by decide +kernel

theorem test_premise_double_fault :
    (jobScene id id).me.trapBase = 0 ∧ (jobScene id id).me.job = some jid ∧ (jobScene id id).job jid = some aJob
    ∧ aJob.phase = .started ∧ aJob.faults = []
    ∧ (jobScene (fun th => { th with trapBase := 4, inTrap := true }) id).me.inTrap = true := by decide +kernel

theorem test_premise_privilege : encodingOk (.ligbind 1 2 31) = true ∧ base.priv = false
    ∧ encodingOk (.tlbinv 1 2 0) = true ∧ (privileged' base).priv = true := by decide +kernel

theorem test_premise_csr : (0x08 : BitVec 8) ≠ 0x01 ∧ (0x08 : BitVec 8) ≠ 0x04 ∧ (0x08 : BitVec 8) ≠ 0x0D
    ∧ (0x08 : BitVec 8) ≠ 0x0E := by decide

theorem test_premise_tlbinv :
    (privileged' base).undrained 1 0 0 (privileged' base).clk.fs = false ∧
    (privileged' base).priv = true ∧ encodingOk (.tlbinv 1 0 1) = true
    ∧ (reg (privileged' (withX 1 65536)) 1).toNat = 65536 ∧ (reg (privileged' (withX 1 65535)) 1).toNat = 65535 := by
  decide +kernel

/-- A privileged thread with x[2] at `data`. -/
def savedAt : State := privileged' (withX 2 data)

/-- The same with an image of the thread at `data`, whose word at 0x248 is as given. -/
def imaged (w : W64) : State :=
  let s := savedAt
  let ms := s.ms.writePa data.toNat ((s.me.image 0x10000004).flatMap fun w => bytesLE 8 w.toNat)
  { s with ms := ms.writePa (data.toNat + 0x248) (bytesLE 8 w.toNat) }

theorem test_premise_context :
    savedAt.priv = true ∧ (reg savedAt 2).toNat % 64 = 0
    ∧ (∃ s1 u, savedAt.probe data 96 false = .ok s1 u
        ∧ okAnd (s1.storeWords data (savedAt.me.image (savedAt.me.pc.setWidth 64 + 4))) (fun _ _ => true) = true)
    ∧ (∃ s1 u, (imaged 0).probe data 96 true = .ok s1 u
        ∧ okAnd (s1.loadWords data 96) (fun _ ws => !imageBad ws && imageHeaderFault (imgHeaders ws).toList == none) = true)
    ∧ (∃ s1 u, (imaged 1).probe data 96 true = .ok s1 u ∧ okAnd (s1.loadWords data 96) (fun _ ws => imageBad ws) = true) :=
  ⟨by decide +kernel, by decide +kernel, of_okAnd (by decide +kernel), of_okAnd (by decide +kernel), of_okAnd (by decide +kernel)⟩

end Sys2Proof.Tests
end

