-- ==== Sys2Proof/Tests/Queues.lean ====
section
/-! SUPPORT. States and operands that meet the premises of the statements about ligature binding, headers, events,
barriers, queues, layout records, stream issue and launches. -/

namespace Sys2Proof.Tests

-- One test after the other, so that their evaluations do not wait for each other in many threads.
set_option Elab.async false

open Sys2Proof Sys2Proof.Machine Sys2Proof.Claims

/-! ### LIGBIND and headers -/

/-- The ligature of 10, "A ligature, worked": header and words. -/
def leakyq : List W64 :=
  [0x000908033147494C, 0, 0x0000000010008108, 0x0000000001016601, 0x0000000000008214, 0x0000000210001016,
    0x3E00000000000315, 0x0000000000038203, 0x0000000000002017, 0x0000000000000018]

/-- A privileged thread with words at `data`, which x[2] names. -/
def wordsAt (ws : List W64) : State :=
  let s := savedAt
  { s with ms := s.ms.writePa data.toNat (ws.flatMap fun w => bytesLE 8 w.toNat) }

/-- A launch of job `jid` with one forme image on the first stripe of ring 0. -/
def aLaunch (img : Nat) : Launch :=
  { job := jid, galley := 0, gid := 0, nformes := 1, b := 1, markint := 0, nodes := [0], chain := false, off := 0, p := 1
    win := [(0, 0)], segOf := [0], pipes := [{ forme := 0, n := 1, stripe := 0, p := 1, node := 0 }], formes := [(0, some img)] }

/-- A forme image whose column 1 holds an opcode. -/
def imgOp (ew : Nat) : Nat := 2 + ew * 2 ^ (8 * (0x40 + 16))

/-- The same with a running launch that configures opcode 0xE3. -/
def wordsBusy (ws : List W64) : State :=
  let s := wordsAt ws
  { s with dp := { s.dp with queues := [(0, { jobs := [aJob] })] }
           fab := { launches := [(0, some (aLaunch (imgOp 0x000900E3)))] } }

/-- The words at `data` read as a ligature image for index `n`. -/
def ligRead (s : State) (p : State → List Byte → Bool) : Bool :=
  okAnd (s.loadWords data 2) fun s1 hd =>
    let h := hd.flatMap fun w => bytesLE 8 w.toNat
    okAnd (s1.loadWords (data + 16) (ligWords h)) fun s2 rest => p s2 (h ++ rest.flatMap fun w => bytesLE 8 w.toNat)

theorem test_premise_ligbind :
    (wordsAt leakyq).priv = true ∧ (reg (wordsAt leakyq) 2) = data ∧ data.toNat % 8 = 0 ∧ reg (wordsAt leakyq) 0 = 0
    ∧ (wordsAt leakyq).ligBusy 0 0xE3 = false
    ∧ ligRead (wordsAt leakyq) (fun s2 img => ligCheck img 3 == 0 && !s2.ligBusy 0 0xE3) = true
    ∧ ligRead (wordsAt leakyq) (fun _ img => ligCheck img 4 != 0) = true
    ∧ ligRead (wordsBusy leakyq) (fun s2 img => ligCheck img 3 == 0 && s2.ligBusy 0 0xE3) = true
    ∧ (wordsBusy leakyq).ligBusy (wordsBusy leakyq).asid 0xE3 = true ∧ (wordsBusy leakyq).priv = true := by
  decide +kernel

/-- LIGBIND of the worked ligature answers 0, and 5 while a launch configures its opcode (10). -/
theorem test_ligbind :
    (match exec (.ligbind 5 2 3) (wordsAt leakyq) with
      | .next t => t.me.get 5 == 0 && (t.ligImage 0 0xE3).isSome
      | _ => false) = true
    ∧ (match exec (.ligbind 5 2 3) (wordsBusy leakyq) with
      | .next t => t.me.get 5 == 5
      | _ => false) = true := by decide +kernel

/-- The header of one line of `n` FP32 elements, in link form. -/
def lineHdr (fmt n : Nat) : Header := linkHdr { fmt := fmt, colsM1 := n - 1 }

/-- Its words in memory. -/
def hdrWords (h : Header) : List W64 := (List.range 4).map fun i => h.extractLsb' (64 * i) 64

theorem test_premise_hld :
    (∃ s1 pa, Reaches (wordsAt (hdrWords (lineHdr 1 8))) data 32 .read false true false s1 pa ∧ s1.ms.rangeBad pa 32 = false
      ∧ (checks1to7 (BitVec.ofNat 256 (valueAt s1 pa 32)) == 0) = true)
    ∧ (∃ s1 pa, Reaches (wordsAt [0xA6]) data 32 .read false true false s1 pa ∧ s1.ms.rangeBad pa 32 = false
      ∧ (checks1to7 (BitVec.ofNat 256 (valueAt s1 pa 32)) == 1) = true) :=
  ⟨reaches_of (by decide +kernel) (by decide +kernel), reaches_of (by decide +kernel) (by decide +kernel)⟩

/-- HSET of ROWS_M1, field 8, to 1 in the header register 1. -/
def hdrScene : State := scene fun th => (th.putH 1 (lineHdr 1 8)).put 3 1

theorem test_premise_hset :
    encodingOk (.hset 1 3 17) = true ∧ (headerField 17).isSome = true ∧ hdrScene.me.getH 1 ≠ 0
    ∧ encodingOk (.hget 4 1 0) = true ∧ (headerField 0).isSome = true ∧ encodingOk (.hget 4 1 35) = true
    ∧ (match headerField 17 with
      | some (lo, len) =>
        let old := (hdrScene.me.getH 1).toNat
        let v := (reg hdrScene 3).toNat
        v < 2 ^ len && checks1to7 (withCrc ((old % 2 ^ 224 - old / 2 ^ lo % 2 ^ len * 2 ^ lo) + v % 2 ^ len * 2 ^ lo)) == 0
      | none => false) = true := by decide +kernel

/-- HSET of the header register 1 with x[3]. -/
def hsetScene (h : Header) (x : W64) : State := scene fun th => (th.putH 1 h).put 3 x

/-- What HSET of a field finds: whether the value is bad, and the check that the header then fails. -/
def hsetFinds (h : Header) (f : BitVec 8) (x : W64) (p : Bool → Nat → Bool) : Bool :=
  match headerField f.toNat with
  | some (lo, len) =>
    let old := ((hsetScene h x).me.getH 1).toNat
    p (old == 0 || 2 ^ len ≤ x.toNat || (f == 32 && x.toNat % 2 ^ 12 != old % 2 ^ 12))
      (checks1to7 (withCrc ((old % 2 ^ 224 - old / 2 ^ lo % 2 ^ len * 2 ^ lo) + x.toNat % 2 ^ len * 2 ^ lo)))
  | none => false

theorem test_premise_hset_traps :
    hsetFinds 0 17 1 (fun b _ => b) = true ∧ hsetFinds (lineHdr 1 8) 17 (2 ^ 63) (fun b _ => b) = true
    ∧ hsetFinds (lineHdr 1 8) 32 0 (fun b _ => b) = true
    ∧ hsetFinds (lineHdr 1 8) 32 ((lineHdr 1 8).toNat % 2 ^ 64) (fun b k => !b && k == 0) = true
    ∧ hsetFinds (lineHdr 1 8) 2 15 (fun b k => !b && 4 ≤ k) = true
    ∧ encodingOk (.hset 1 3 32) = true ∧ encodingOk (.hset 1 3 2) = true := by decide +kernel

/-! ### Events, barriers, queues -/

/-- Event 65535 granted to every context, at 7; event 3 at its reset grant. -/
def evScene (e need : W64) : State :=
  let s := scene fun th => (th.put 1 e).put 2 need
  { s with dp := { s.dp with evgrant := [(65535, 2 ^ 17 + 2 ^ 16)], events := [(65535, 7)] } }

theorem test_premise_event :
    (evScene 65535 7).granted 65535 0 = true ∧ (evScene 65535 7).event 65535 = 7 ∧ (reg (evScene 65535 8) 2).toNat = 8
    ∧ (evScene 65534 7).granted 65534 0 = false ∧ (reg (evScene 65536 7) 1).toNat = 65536 := by decide +kernel

/-- Thread 0 of the job at a barrier with the mask in x[1]. -/
def barScene (mask : W64) (arrived : List (Nat × Nat)) (b : Bar) : State :=
  jobScene (fun th => { th.put 1 mask with arrived := arrived }) fun j =>
    { j with bars := tset {} [] 2 b }

theorem test_premise_bar :
    aJob.nrings = 1 ∧ (barScene 1 [] {}).me.job = some jid ∧ ((barScene 1 [] {}).myJob).isSome = true
    ∧ (reg (barScene 1 [] {}) 1).toNat % 65536 = 1 ∧ (barScene 1 [] {}).me.arrived.lookup 2 = none
    ∧ (reg (barScene 2 [] {}) 1).toNat / 2 ^ (barScene 2 [] {}).me.n % 2 ≠ 1
    ∧ (barScene 1 [(3, 1), (2, 0)] {}).me.arrived.lookup 2 = some 0
    ∧ (barScene 1 [(2, 0)] { gen := 1 }).me.arrived.lookup 2 = some 0 := by
  decide +kernel

/-- A job of two rings, so that the first arrival waits. -/
theorem test_premise_bar_waits :
    (let s := jobScene id fun j => { j with rcd := BitVec.ofNat 1024 (2 ^ 171) }
     s.myJob.any (fun j => 2 ^ j.nrings - 1 == 3 && (tget {} j.bars 2).arrived ||| 2 ^ s.me.n != 3)) = true := by
  decide +kernel

/-- Exchange queue `q` of thread 0 with `n` entries. -/
def queueScene (q n : Nat) (x : W64) : State := { withX 1 x with xq := tset [] [] (8 * 0 + q) (List.replicate n 9) }

theorem test_premise_queue :
    ((queueScene 3 255 0).queueOf 3).length = 255 ∧ ((queueScene 0 256 0).queueOf 0).length = 256
    ∧ (queueScene 4 0 0).queueOf 4 = [] ∧ (queueScene 7 2 0).queueOf 7 = [9, 9] := by decide +kernel

theorem test_premise_notify :
    min (reg (queueScene 0 256 300) 1).toNat 256 = 256 ∧ min (reg (queueScene 0 256 0) 1).toNat 256 = 0
    ∧ 256 - ((queueScene 0 0 300).queueOf 0).length = 256 ∧ (scene id).me.note = 0
    ∧ (scene fun th => { th with note := 0x8000 }).me.note ≠ 0 := by decide +kernel

/-! ### Layout records, streams, launches -/

/-- A privileged thread with x[1] and x[2]. -/
def two (x y : W64) : State := privileged' (scene fun th => (th.put 1 x).put 2 y)

/-- The same with layout record 1 registered and key handle 5 bound. -/
def laid (x y : W64) : State := (two x y).modCtx 0 fun c => { c with layouts := [(1, some { rcd := 0, key := 0 })], keys := [(5, 9)] }

/-- The words of a record of one tile of FP32 in 64 bytes at 0x10010000 (01 R33). -/
def layoutWords : List W64 := [0x1000000010010000, 1, 64, 0, 0, 0, 0, 0]

/-- What LRREG finds of words at `data`. -/
def lrFinds (ws : List W64) (p : Nat ⊕ Nat → Bool) : Bool :=
  okAnd ((wordsAt ws).loadWords data 8) fun s1 ws =>
    p (s1.register 0 (BitVec.ofNat 512 (packBits 64 (ws.map BitVec.toNat))) (s1.handleBusy 0)).2

theorem test_premise_layout :
    lrFinds layoutWords (fun r => r == .inl 1) = true ∧ lrFinds (List.replicate 8 0) (fun r => r.isRight) = true
    ∧ data.toNat % 8 = 0 ∧ (data + 4).toNat % 8 ≠ 0 ∧ (laid 5 1).priv = true ∧ (laid 5 1).asid = 0
    ∧ (((laid 5 1).ctx 0).layout 1).isSome = true ∧ ((laid 5 2).ctx 0).layout 2 = none
    ∧ (((laid 5 1).ctx 0).keySlot 5).isSome = true ∧ ((laid 65535 1).ctx 0).keySlot 65535 = none := by
  decide +kernel

/-- A thread with `n` outstanding commands and x[1]. -/
def issued (n : Nat) (x : W64) : State :=
  let s := withX 1 x
  { s with fab := { s.fab with outstanding := tset [] [] 0 ((List.range n).map (· + 1)) } }

theorem test_premise_issue :
    scopKnown 1 = true ∧ scopKnown 0x10 = true ∧ scopKnown 0 = false ∧ scopKnown 0x11 = false
    ∧ ((issued 63 0).openTickets 0).length = 63 ∧ ((issued 64 0).openTickets 0).length = 64
    ∧ 1 ∈ (issued 1 0).openTickets 0 ∧ reg (issued 1 0) 1 = 0 ∧ 1 ≤ (reg (issued 1 1) 1).toNat
    ∧ (∀ x ∈ (issued 0 0).openTickets 0, reg (issued 0 0) 1 ≠ 0 ∧ (reg (issued 0 0) 1).toNat < x) := by decide +kernel

/-- A link table at `data` whose entry 1 names a galley at `data` + 4096 of one leaf of one forme, and the thread in its
job: x[1] is the descriptor, x[2] the table. -/
def galleyScene (desc : W64) (job : Bool) : State :=
  let s := jobScene (fun th => { (th.put 1 desc).put 2 data with job := if job then some jid else none }) id
  let ms := s.ms.writePa (data.toNat + 8) (bytesLE 8 (data.toNat + 4096 + 2))
  { s with ms := ms.writePa (data.toNat + 4096) (bytesLE 16 (0x4C475847 + 2 ^ 32 + 2 ^ 40 + 2 ^ 64)) }

/-- What GLAUNCH reads with descriptor 0x01000001: entry 1, no offset, one stripe. -/
theorem test_premise_glaunch :
    (let s := galleyScene 0x01000001 true
     okAnd (s.load (data + 8) 8) fun s1 e => okAnd (s1.load data 8) fun s2 _ =>
      e % 4 == 2 && (s2.shown (slotOf 0 0)).isNone && (match s2.planLaunch (entryAddr e) 0 0 1 false with
        | .inr _ => true
        | .inl _ => false)) = true
    ∧ (let s := galleyScene 0x01000001 false
     okAnd (s.load (data + 8) 8) fun s1 e => okAnd (s1.load data 8) fun s2 _ =>
      e % 4 == 2 && (s2.shown (slotOf 0 0)).isNone && (match s2.planLaunch (entryAddr e) 0 0 1 false with
        | .inl c => c == 2
        | .inr _ => false)) = true
    ∧ (let s := galleyScene 0x01000001 true
     okAnd (({ s with fab := { s.fab with launches := [(0, some (aLaunch 2))] } } : State).load (data + 8) 8) fun s1 e =>
      okAnd (s1.load data 8) fun s2 _ => e % 4 == 2 && (s2.shown (slotOf 0 0)).isSome) = true
    ∧ (okAnd ((galleyScene 0x01000002 true).load (data + 16) 8) fun _ e => e % 4 != 2) = true := by
  decide +kernel

theorem test_premise_glaunch_bad :
    (0x0000000000200000 : W64).toNat / 2 ^ 21 % 8 ≠ 0 ∧ (0x0000000200000000 : W64).toNat / 2 ^ 33 ≠ 0
    ∧ (0x0000000100010000 : W64).getLsbD 32 = true ∧ (0x0000000100010000 : W64).toNat / 2 ^ 16 % 32 ≠ 0
    ∧ (data + 1).toNat % 8 ≠ 0 := by decide

/-- A launch in slot 0, as given. -/
def launched (f : Launch → Launch) : State :=
  let s := jobScene id id
  { s with fab := { launches := [(0, some (f (aLaunch (imgOp 0x00090040))))] } }

theorem test_premise_launch_control :
    base.shown (slotOf 0 0) = none ∧ (launched id).shown (slotOf 0 0) = some (0, 0) ∧ ((launched id).launch 0).isSome = true
    ∧ launchKey (slotOf 0 0) = 0 ∧ ((launched fun l => { l with ended := true }).launch 0).any (fun l => l.ended) = true
    ∧ (launched fun l => { l with ended := true }).shown (slotOf 0 0) = some (0, 0) := by decide +kernel

/-- A chained launch of thread 0 that has ended, seen in slot 0 of thread 1, of the same job. -/
def chained : State :=
  let s := jobScene id fun j => { j with segs := j.segs ++ [{ ring := 1, slot := 0, base := 0, width := 24 }] }
  let s1 := s.setThread 4 { s.me with n := 1 }
  { s1 with cur := 4, fab := { launches := [(0, some { aLaunch (imgOp 0x00090040) with
      chain := true, ended := true, win := [(0, 0), (1, 0)], segOf := [0, 1] })] } }

theorem test_premise_chained :
    chained.shown (slotOf 4 0) = some (0, 1) ∧ launchKey (slotOf 4 0) ≠ 0 ∧ (chained.launch 0).any (fun l => l.ended) = true := by
  decide +kernel

end Sys2Proof.Tests
end

