-- ==== Sys2Proof/Tests/Fabric.lean ====
section
/-! SUPPORT. Small fabrics, and what meets the premises of the statements about elements. -/

namespace Sys2Proof.Tests

-- One test after the other, so that their evaluations do not wait for each other in many threads.
set_option Elab.async false

open Sys2Proof Sys2Proof.Machine Sys2Proof.Claims

/-! ### Fabrics of one forme -/

/-- A link word from output 0 of column 15 to an input of a column, with 15 slots and no type (08 R214). -/
def linkIn (c i plane : Nat) : Nat := 15 + c * 2 ^ 8 + i * 2 ^ 12 + 15 * 2 ^ 14 + plane * 2 ^ 18 + 0x3F * 2 ^ 19 + 15 * 2 ^ 25

/-- A forme image with an element word at a column and link words. -/
def imgOf (c ew : Nat) (links : List Nat) (pool : Nat) : Nat :=
  2 ^ c + links.length * 2 ^ 16 + ew * 2 ^ (8 * (0x40 + 16 * c)) + pool * 2 ^ (8 * 0x340)
  + ((List.range links.length).zip links).foldl (fun a e => a + e.2 * 2 ^ (8 * (0x140 + 8 * e.1))) 0

/-- A machine with one launch of one forme whose links hold tokens: the running job, the launch, its bank active. -/
def fabOf (img : Nat) (elems : List (Nat × ElemSt)) (toks : List (List Tok)) : State :=
  { jobScene id id with
    rings := [(0, { active := [(0, 1)] })]
    fab := { launches := [(0, some (aLaunch img))]
             elems := elems.map fun e => (elemKey 0 0 e.1, some e.2)
             links := ((List.range toks.length).zip toks).foldl
               (fun t e => tset {} t (linkKey 0 0 e.1) { q := e.2.map fun k => { tok := k, at' := 0 } }) [] } }

/-- An element at column `c`, its inputs fed by links 0, 1, 2. -/
def elemScene (c ew pool : Nat) (st : OpSt) (toks : List (List Tok)) : State :=
  fabOf (imgOf c ew ((List.range toks.length).map fun i => linkIn c i 0) pool) [(c, { st := st })] toks

/-- The column of an opcode. -/
def colOf (op : Nat) : Fin 16 := if opMat op then 6 else if opAg op then 0 else 1

/-- The element of an opcode. -/
def eidOf (op : Nat) : ElemId := { launch := lid, stripe := 0, col := colOf op }

/-- An element word for an opcode: its inputs and output 0 enabled, one DATA token of state. -/
def ewOf (op : Nat) : Nat := op + needIn { op := op } * 2 ^ 16 + 1 * 2 ^ 19 + 1 * 2 ^ 32

/-- What stands at the inputs of an opcode: the headers of tiles of the formats it takes, or a control value. -/
def toksOf (op : Nat) : List (List Tok) :=
  let all := fun (n : Nat) => (List.replicate 3 [Tok.hdr (lineHdr n 8)])
  if op = 0x21 then [[.hdr (lineHdr 1 8)], [.hdr (lineHdr 1 8)], [.hdr (lineHdr 12 8)]]
  else if op = 0x47 then [[.hdr (lineHdr 1 8)], [.hdr (lineHdr 12 8)]]
  else if op = 0x46 then all 24
  else if op = 0x44 ∨ op = 0x64 then [[.ctl .data 5]]
  else if 0x39 ≤ op ∧ op ≤ 0x3D then List.replicate 3 [.hdr (lineHdr 1 64)]
  else if 0x11 ≤ op ∧ op ≤ 0x1C then all 8
  else all 1

/-- The element of an opcode at its first tile; its pool holds a header. -/
def opScene (op : Nat) : State := elemScene (colOf op).val (ewOf op) (lineHdr 1 8).toNat {} (toksOf op)

/-- A check of `Free`, of the opcode, and of what its step answers. -/
def freeAnd (s : State) (id : ElemId) (op : Nat) (p : Site → Ins → Bool) : Bool :=
  let s1 := moved s id.launch
  match s1.site id with
  | none => false
  | some x => s1.may x && x.e.owea.isEmpty && x.e.oweb.isEmpty && !heldBy x.cfg (s1.insOf x) && s1.roomOf x 0 && s1.roomOf x 1
    && x.cfg.op == op && x.cfg.inen < 8 && ((List.range 3).all fun k => headTag (s1.inHead x k) != some .err) && p x (s1.insOf x)

/-- What the check says. -/
theorem of_freeAnd {s : State} {id : ElemId} {op : Nat} {p : Site → Ins → Bool} (h : freeAnd s id op p = true) :
    ∃ x, Free (moved s id.launch) id x ∧ x.cfg.op = op ∧ p x ((moved s id.launch).insOf x) = true := by
  unfold freeAnd at h
  simp only at h
  split at h
  · cases h
  · rename_i x hx
    simp only [Bool.and_eq_true, Bool.not_eq_true', List.isEmpty_iff, beq_iff_eq, decide_eq_true_eq, List.all_eq_true,
      List.mem_range, bne_iff_ne] at h
    obtain ⟨⟨⟨⟨⟨⟨⟨⟨⟨h1, h2⟩, h3⟩, h4⟩, h5⟩, h6⟩, h7⟩, h8⟩, h9⟩, h10⟩ := h
    refine ⟨x, ⟨hx, h1, h2, h3, fun k => ?_, h4, h5, h6⟩, h7, h10⟩
    by_cases hk : k < 3
    · exact h9 k hk
    · have : x.cfg.inOn k = false := by
        have h' : x.cfg.inen / 2 ^ k = 0 := by
          apply Nat.div_eq_of_lt
          calc x.cfg.inen < 2 ^ 3 := h8
            _ ≤ 2 ^ k := Nat.pow_le_pow_right (by decide) (by omega)
        simp [Cfg.inOn, h']
      simp [State.inHead, this, headTag]

/-- Whether a step fires. -/
def fires (r : Res) : Bool :=
  match r with
  | .fire _ => true
  | .idle => false
  | .bad _ _ => false

/-- What a step that fires answers. -/
theorem of_fires {r : Res} (h : fires r = true) : ∃ f, r = .fire f := by
  cases r with
  | fire f => exact ⟨f, rfl⟩
  | idle => cases h
  | bad c d => cases h

/-- A check that an opcode's element fires by a step. -/
theorem fires_of {op : Nat} {f : Cfg → OpSt → Ins → Res}
    (h : freeAnd (opScene op) (eidOf op) op (fun x is => fires (f x.cfg x.e.st is)) = true) :
    ∃ x r, Free (moved (opScene op) lid) (eidOf op) x ∧ x.cfg.op = op
      ∧ f x.cfg x.e.st ((moved (opScene op) lid).insOf x) = .fire r := by
  obtain ⟨x, hf, ho, hp⟩ := of_freeAnd h
  obtain ⟨r, hr⟩ := of_fires hp
  exact ⟨x, r, hf, ho, hr⟩

/-- Every element operation fires somewhere. -/
theorem test_premise_elements : ∀ i op f, IsElemOp i (eidOf op) op f →
    ∃ x r, Free (moved (opScene op) lid) (eidOf op) x ∧ x.cfg.op = op
      ∧ f x.cfg x.e.st ((moved (opScene op) lid).insOf x) = .fire r := by
  intro i op f h
  simp only [IsElemOp, IsLaneOp, IsStreamOp, IsMatrixOp, or_assoc] at h
  casesm* _ ∨ _
  all_goals
    obtain ⟨-, ho, hf⟩ := h
    subst ho hf
    exact fires_of (by decide +kernel)

end Sys2Proof.Tests
end

