-- ==== Sys2Proof/Tests/Elements.lean ====
section
/-! SUPPORT. What meets the premises of the other statements about elements, AG elements, tags and routers. -/

namespace Sys2Proof.Tests

-- One test after the other, so that their evaluations do not wait for each other in many threads.
set_option Elab.async false

open Sys2Proof Sys2Proof.Machine Sys2Proof.Claims

/-! ### Elements -/

/-- Whether a step has nothing to do. -/
def idles (r : Res) : Bool :=
  match r with
  | .idle => true
  | .fire _ => false
  | .bad _ _ => false

theorem test_premise_element_idle :
    freeAnd (elemScene 1 (ewOf 0x01) 0 {} [[], []]) (eidOf 0x01) 0x01 (fun x is => idles (stepVadd x.cfg x.e.st is)) = true := by
  decide +kernel

theorem test_premise_element_bad :
    freeAnd (elemScene 1 (ewOf 0x01) 0 {} [[.hdr 0], [.hdr 0]]) (eidOf 0x01) 0x01 (fun x is =>
      !idles (stepVadd x.cfg x.e.st is) && !fires (stepVadd x.cfg x.e.st is)) = true := by
  decide +kernel

/-- An element that another launch slot would name; an opcode that is not the element's; a bank that is not active; an
ERR at input B. -/
theorem test_premise_element_held :
    ((moved base lid).site (eidOf 1)).isNone = true
    ∧ (let s := opScene 1
       ((moved s lid).site (eidOf 1)).any (fun x => x.cfg.op != 2) = true
       ∧ (let t : State := { s with rings := [] }
          ((moved t lid).site (eidOf 1)).any (fun x => !(moved t lid).may x) = true))
    ∧ (let s := elemScene 1 (ewOf 0x01) 0 {} [[], [.ctl .err 3]]
       ((moved s lid).site (eidOf 1)).any (fun x => (moved s lid).may x && headTag ((moved s lid).inHead x 1) == some .err
         && x.e.owea.isEmpty && x.e.oweb.isEmpty) = true) := by
  decide +kernel

/-- An element with opcode 0xE3 and the worked ligature bound to it. -/
def ligScene : State :=
  let s := elemScene 4 0x000900E3 0 {} [[.hdr (lineHdr 1 8)]]
  s.modCtx 0 fun c => { c with ligs := [(3, some { image := leakyq.flatMap (fun w => bytesLE 8 w.toNat), digest := [] })] }

/-- An element with VCONST whose pool holds a header of one FP32 element. -/
def constScene : State := elemScene 1 (0x43 + 1 * 2 ^ 19) ((lineHdr 1 1).toNat) {} []

theorem test_premise_ligature :
    freeAnd ligScene { launch := lid, stripe := 0, col := 4 } 0xE3 (fun x is =>
      opLig x.cfg.op && (match (moved ligScene lid).ligImage ((moved ligScene lid).lkAsid 0) x.cfg.op with
        | some img => fires (ligStep img x.cfg x.e.st is)
        | none => false)) = true := by decide +kernel

theorem test_premise_const :
    freeAnd constScene { launch := lid, stripe := 0, col := 1 } 0x43 (fun x is =>
      (x.l.blockLen x.k).isNone && !x.l.snapOn && !x.l.stopped && !((moved constScene lid).constEnv x).saving
      && (match stepVconst x.cfg x.e.st is with
        | .fire r => !hasMark (r.outa ++ r.owea)
        | _ => false)) = true := by decide +kernel

/-- The header of a tile in link form. -/
def tileHdr (f : Fmt) (o rows cols : Nat) : Header :=
  linkHdr { fmt := fmtCode f, order := o, rowsM1 := rows - 1, colsM1 := cols - 1 }

/-- An element with `k` tokens of a tile behind it on each input, and of the result. -/
def tileAt (f g : Fmt) (o rows cols k : Nat) : OpSt :=
  let x : TileIn := { hdr := tileHdr f o rows cols, got := k }
  { ina := some x, inb := some x, inc := some x
    outa := some { hdr := linkHdr (resultHdr (Hdr.ofBits (tileHdr f o rows cols)) g), cnt := k * perTok (fmtWidth f), sent := k }
    pos := k * perTok (fmtWidth f) }

/-- A DATA token at each input. -/
def dataHeads (d : Nat → BitVec 2048) : Ins :=
  { a := some { tok := .data (d 0) }, b := some { tok := .data (d 1) }, c := some { tok := .data (d 2) } }

/-- Such an element meets `AtToken` with any of its inputs. -/
theorem at_tile {f g : Fmt} {o rows cols k : Nat} {is : List Nat} (d : Nat → BitVec 2048)
    (h : (∀ i ∈ is, i = 0 ∨ i = 1 ∨ i = 2) ∧ k * perTok (fmtWidth f) < rows * cols
      ∧ (o < 2 ∧ (8 ≤ fmtWidth f ∨ (if o = 1 then cols else rows) = 1)) ∧ DenseHdr (tileHdr f o rows cols) f o rows cols) :
    AtToken is f g o rows cols k d (tileAt f g o rows cols k) (dataHeads d) where
  more := h.2.1
  lines := h.2.2.1
  inputs i hi := by
    refine ⟨_, 0, h.2.2.2, Nat.two_pow_pos _, ?_⟩
    obtain h | h | h := h.1 i hi <;> subst h <;> exact ⟨rfl, rfl⟩
  result := ⟨_, 0, h.2.2.2, rfl, 0, Nat.two_pow_pos _, rfl⟩
  pos := rfl
  rest := ⟨rfl, rfl, rfl⟩

/-- The premises hold within tiles of FP32, FP16, K8, K6, INT32, INT16, INT8 and UINT4 elements, at a later token where
the tile has one. -/
theorem test_premise_lanes (d : Nat → BitVec 2048) :
    AtToken [0, 1, 2] .fp32 .fp32 0 1 128 1 d (tileAt .fp32 .fp32 0 1 128 1) (dataHeads d)
    ∧ AtToken [0, 2] .fp16 .bf16 1 3 50 1 d (tileAt .fp16 .bf16 1 3 50 1) (dataHeads d)
    ∧ AtToken [0] .k8 .k8 0 2 200 1 d (tileAt .k8 .k8 0 2 200 1) (dataHeads d)
    ∧ AtToken [0, 1] .k6 .k6 1 256 1 0 d (tileAt .k6 .k6 1 256 1 0) (dataHeads d)
    ∧ AtToken [0, 1] .int32 .int32 0 1 64 0 d (tileAt .int32 .int32 0 1 64 0) (dataHeads d)
    ∧ AtToken [0, 1] .int16 .int16 0 2 100 1 d (tileAt .int16 .int16 0 2 100 1) (dataHeads d)
    ∧ AtToken [0] .int8 .int8 0 1 1 0 d (tileAt .int8 .int8 0 1 1 0) (dataHeads d)
    ∧ AtToken [0, 1] .uint4 .uint4 0 1 255 0 d (tileAt .uint4 .uint4 0 1 255 0) (dataHeads d) := by
  refine ⟨at_tile d ?_, at_tile d ?_, at_tile d ?_, at_tile d ?_, at_tile d ?_, at_tile d ?_, at_tile d ?_, at_tile d ?_⟩ <;>
    (unfold DenseHdr; decide +kernel)

theorem test_premise_lane_fields :
    isFloat .fp32 = true ∧ isFloat (({ ext := 3 } : Cfg).outFmt .fp16) = true
    ∧ fmtWidth (({ ext := 3 } : Cfg).outFmt .fp16) = 16 ∧ tileIns { mode := 1 } 3 = [0, 2] ∧ tileIns { mode := 2 } 3 = [0, 1]
    ∧ tileIns { mode := 1 } 2 = [0] ∧ tileIns {} 2 = [0, 1] ∧ tileIns {} 1 = [0] ∧ isInt .uint4 = true := by decide +kernel

theorem test_premise_fabric_frame :
    goesOn (exec (.vadd (eidOf 1)) (opScene 1)) = true ∧ ((opScene 1).fab.links.all fun e => e.2.ovf.isNone) = true := by
  decide +kernel

/-- An addition of two lines of two FP32 elements: 1.5 + 2.25 and 1.0 + (-1.0) (R238). -/
theorem test_vadd_lanes :
    (match stepVadd {} (tileAt .fp32 .fp32 0 1 2 0) (dataHeads fun i =>
        BitVec.ofNat 2048 (if i = 0 then 0x3FC00000 + 0x3F800000 * 2 ^ 32 else 0x40100000 + 0xBF800000 * 2 ^ 32)) with
      | .fire f => f.outa == [.data (BitVec.ofNat 2048 0x40700000)]
      | _ => false) = true := by decide +kernel

/-- VIMULH of -3 and a scalar 2^31 - 1 in INT32, and VNOT of its 65th element in a second token (R242). -/
theorem test_integer_lanes :
    (match stepVimulh { mode := 1, imm32 := 0x7FFFFFFF } (tileAt .int32 .int32 0 1 1 0) (dataHeads fun _ => 0xFFFFFFFD) with
      | .fire f => f.outa == [.data 0xFFFFFFFE] && f.take == 1
      | _ => false) = true
    ∧ (match stepVnot {} (tileAt .int32 .int32 0 1 65 1) (dataHeads fun _ => 0xF) with
      | .fire f => f.outa == [.data 0xFFFFFFF0]
      | _ => false) = true := by decide +kernel

/-! ### AG elements -/

/-- The AG element at column 0 with an opcode, a mode, tokens at its inputs and its port. -/
def agScene (op mode : Nat) (toks : List (List Tok)) (p : PortSt) : State :=
  let s := elemScene 0 (op + mode * 2 ^ 8 + needIn { op := op } * 2 ^ 16 + 1 * 2 ^ 19) 0 {} toks
  { s with fab := { s.fab with ports := tset {} [] (agPort 0 0 0) p } }

/-- A check of `AgFree`. -/
def agAnd (s : State) (op : Nat) (p : State → Site → Bool) : Bool :=
  let s1 := moved s lid
  match s1.site { launch := lid, stripe := 0, col := 0 } with
  | none => false
  | some x => x.cfg.op == op && s1.may x && !errAt (s1.headsOf x) && p s1 x

/-- What the check says. -/
theorem of_agAnd {s : State} {op : Nat} {p : State → Site → Bool} (h : agAnd s op p = true) :
    ∃ x, AgFree (moved s lid) { launch := lid, stripe := 0, col := 0 } op x ∧ p (moved s lid) x = true := by
  unfold agAnd at h
  simp only at h
  split at h
  · cases h
  · rename_i x hx
    simp only [Bool.and_eq_true, Bool.not_eq_true', beq_iff_eq] at h
    exact ⟨x, ⟨hx, h.1.1.1, h.1.1.2, h.1.2⟩, h.2⟩

/-- A command with a code, for the first thread. -/
def cmdOf (scop : Nat) : Cmd := { ticket := 1, bits := BitVec.ofNat 128 (scop + 0x0007000700070007 * 2 ^ 64) }

theorem test_premise_agld :
    agAnd (agScene 0x70 0 [] { reply := [(1, .data 5)] }) 0x70 (fun s1 x =>
      let p := s1.port x.port
      p.replyHead.isSome && s1.mayEmit x p p.replyHead && !x.l.owesMark p && headTag p.replyHead != some .mark
      && (s1.inHead x 0).isNone) = true
    ∧ agAnd (agScene 0x72 0 [[]] { reply := [(1, .data 5)] }) 0x72 (fun s1 x =>
      let p := s1.port x.port
      p.replyHead.isSome && s1.mayEmit x p p.replyHead && !x.l.owesMark p && headTag p.replyHead != some .mark
      && (s1.inHead x 0).isNone) = true
    ∧ agAnd (agScene 0x72 0 [[.ctl .data 7]] { cur := some { cmd := cmdOf 3 } }) 0x72 (fun s1 x =>
      let p := s1.port x.port
      s1.inHead x 0 == some { tok := .ctl .data 7 } && headTag p.replyHead != some .fsw && (match p.cur with
        | some c => c.cmd.scop == 3 && p.index.isNone && !c.loaded && c.freeze.isNone && !p.sealed && !p.atStop c
        | none => false)) = true := by decide +kernel

/-- A port whose store command stands. -/
def storing (scop : Nat) : PortSt := { cur := some { cmd := cmdOf scop } }

theorem test_premise_agst :
    agAnd (agScene 0x71 0 [[.hdr (lineHdr 1 8)]] (storing 2)) 0x71 (fun s1 x =>
      (s1.port x.port).reply.isEmpty && storeHead x.cfg (s1.inHead x 0)
      && (s1.inHead x 0).any (fun h => s1.storeTakes (s1.siteRef x) h)) = true
    ∧ agAnd (agScene 0x74 0 [[.hdr (lineHdr 1 8)]] (storing 9)) 0x74 (fun s1 x =>
      (s1.port x.port).reply.isEmpty && storeHead x.cfg (s1.inHead x 0)
      && (s1.inHead x 0).any (fun h => s1.storeTakes (s1.siteRef x) h)) = true
    ∧ agAnd (agScene 0x71 0 [[]] { reply := [(1, .ctl .data 0)] }) 0x71 (fun s1 x =>
      !(s1.port x.port).reply.isEmpty && s1.roomOf x 0 && s1.rateOk x.l (s1.port x.port)) = true
    ∧ agAnd (agScene 0x73 0 [[.hdr (lineHdr 1 8)], []] (storing 4)) 0x73 (fun s1 x =>
      !x.l.stopped && !(s1.port x.port).sealed && !tagHead (s1.inHead x 0) && !tagHead (s1.inHead x 1) && !headEot (s1.inHead x 0)
      && (s1.inHead x 0).any (fun h => s1.storeTakes (s1.siteRef x) h)) = true
    ∧ agAnd (agScene 0x73 0 [[.ctl .eot 0], [.ctl .data 9]] (storing 4)) 0x73 (fun s1 x =>
      headEot (s1.inHead x 0) && headVal (s1.inHead x 1) == some 9
      && (s1.inHead x 0).any (fun h => s1.storeTakes (s1.siteRef x) h)) = true := by decide +kernel

/-- A region of two slots of 256 bytes bound to the port. -/
def bound : SpBind := { cmd := cmdOf 6, spoff := 0, splen := 16, tsize := 8 }

/-- A port with the region, its buffer and an open tile. -/
def spadPort (q : List Tok) (t : Option TileIn) : PortSt := { spad := some { bound with q := q }, tile := t }

/-- A line of eight FP32 elements, open, its data all there. -/
def lineIn (got : Nat) : TileIn := { hdr := lineHdr 1 8, got := got }

/-- Whether a token at a port's tile raises nothing. -/
def spadGoes (p : PortSt) (h : Head) : Bool :=
  match spadTile p.tile h.tok with
  | .ok _ => true
  | .error _ => false

/-- A head that no switch, ERR or MARK is. -/
def plainHead (h : Head) : Bool := h.tok.tag != some .fsw && h.tok.tag != some .err && h.tok.tag != some .mark

theorem test_premise_agspad_fifo :
    agAnd (agScene 0x75 0 [[]] {}) 0x75 (fun s1 x => (s1.port x.port).spad.isNone) = true
    ∧ agAnd (agScene 0x75 0 [[]] (spadPort [.data 1] none)) 0x75 (fun s1 x =>
      x.cfg.mode == 0 && !x.cfg.sc && ((s1.port x.port).spad.any fun b => (headOf [] b.q).any fun h => h.tok.tag != some .mark)
      && s1.roomOf x 0 && s1.rateOk x.l (s1.port x.port)) = true
    ∧ agAnd (agScene 0x75 0 [[]] (spadPort [.ctl .mark 1] none)) 0x75 (fun s1 x =>
      ((s1.port x.port).spad.any fun b => (headOf [] b.q).any fun h => h.tok.tag == some .mark)
      && s1.roomOf x 0 && s1.rateOk x.l (s1.port x.port)) = true
    ∧ agAnd (agScene 0x75 0 [[.hdr (lineHdr 1 8)]] (spadPort [] none)) 0x75 (fun s1 x =>
      x.cfg.mode == 0 && !x.cfg.sc && (x.l.linkTo x.k x.c 0).any (fun (_, _, w) => w.plane == 0)
      && (s1.inHead x 0).any (fun h => plainHead h && spadGoes (s1.port x.port) h
        && ((s1.port x.port).spad.any fun b => (headOf [] b.q).isNone && fifoGran b.q + fifoGran h.toks ≤ b.splen))) = true
    ∧ agAnd (agScene 0x75 0 [[.data 3]] (spadPort [] none)) 0x75 (fun s1 x =>
      x.cfg.mode == 0 && !x.cfg.sc && (x.l.linkTo x.k x.c 0).any (fun (_, _, w) => w.plane == 0)
      && (s1.inHead x 0).any (fun h => plainHead h && !spadGoes (s1.port x.port) h
        && ((s1.port x.port).spad.any fun b => (headOf [] b.q).isNone && fifoGran b.q + fifoGran h.toks ≤ b.splen))) = true := by
  decide +kernel

/-- The same for an element with SC = 1 (08 R207), whose access waits for the token, or is none. -/
def scPad (mode : Nat) (toks : List Tok) (p : PortSt) : State :=
  let s := elemScene 0 (0x75 + mode * 2 ^ 8 + 1 * 2 ^ 16 + 1 * 2 ^ 19 + 2 ^ 37) 0 {} [toks]
  { s with fab := { s.fab with ports := tset {} [] (agPort 0 0 0) p } }

theorem test_premise_agspad :
    agAnd (scPad 0 [] (spadPort [.data 1] none)) 0x75 (fun s1 x => x.cfg.sc && s1.spadAccess x) = true
    ∧ agAnd (scPad 1 [.data 3] (spadPort [] (some (lineIn 0)))) 0x75 (fun s1 x =>
      x.cfg.sc && !s1.spadAccess x && x.cfg.mode == 1) = true
    ∧ agAnd (agScene 0x75 1 [[.data 3]] (spadPort [] (some (lineIn 0)))) 0x75 (fun s1 x =>
      x.cfg.mode == 1 && !x.cfg.sc && s1.inHead x 0 == some { tok := .data 3 }
      && (s1.port x.port).tile.any (fun t => t.got < t.n)) = true
    ∧ agAnd (agScene 0x75 1 [[eotTok 0 1]] (spadPort [] (some (lineIn 1)))) 0x75 (fun s1 x =>
      x.cfg.mode == 1 && !x.cfg.sc && ((s1.inHead x 0).any fun h => match h.tok with
        | .ctl .eot v => (s1.port x.port).tile.any fun t => t.got == t.n && eotFits t v
        | _ => false)) = true := by decide +kernel

/-- READ of slot 1, where a line of eight elements stands in memory form. -/
theorem test_premise_agspad_read :
    agAnd (let s := agScene 0x75 2 [[.ctl .data 1]] (spadPort [] none)
        match s.site { launch := lid, stripe := 0, col := 0 } with
        | some x => s.spPut (s.siteRef x) 256 (linkTile (lineHdr 1 8) 7).toMem
        | none => s) 0x75 (fun s1 x =>
      2 ≤ x.cfg.mode && !x.cfg.sc && x.e.owea.isEmpty && headVal (s1.inHead x 0) == some 1
      && (match s1.tileInSpad (s1.siteRef x) 256 256 0x3F false with
        | (_, .ok _) => true
        | (_, .error _) => false)) = true := by decide +kernel

/-! ### Tags and switches -/

/-- A scrolling launch of two formes on one stripe, whose column 1 holds VPASS in both. -/
def scrollScene (ew : Nat) (e : ElemSt) (toks : List (List Tok)) : State :=
  let img := imgOf 1 ew ((List.range toks.length).map fun i => linkIn 1 i 0) 0
  let s := fabOf img [(1, e)] toks
  { s with fab := { s.fab with launches := [(0, some { aLaunch img with
      nformes := 2, pipes := [{ forme := 0, n := 2, stripe := 0, p := 1, node := 0 }], formes := [(0, some img), (1, some img)] })] } }

theorem test_premise_tags :
    (let s := elemScene 1 (ewOf 0x01) 0 {} [[.ctl .eor 1], [.ctl .eor 2]]
     (s.site (eidOf 1)).any (fun x => (moved s lid).may x && alignedAt x.cfg ((moved s lid).insOf x) == some .eor
       && !errAt ((moved s lid).headsOf x) && (moved s lid).roomOf x 0 && (moved s lid).roomOf x 1
       && (opTag x.cfg x.e.st .eor).isSome && !opAg x.cfg.op) = true)
    ∧ (let s := elemScene 1 (ewOf 0x01) 0 {} [[], [.ctl .err 2]]
       (s.site (eidOf 1)).any (fun x => (moved s lid).lkActive x.lk && headTag ((moved s lid).inHead x 1) == some .err
         && headTag ((moved s lid).inHead x 0) != some .err) = true) := by decide +kernel

theorem test_premise_switch :
    (let s := scrollScene (ewOf 0x40) {} [[.ctl .fsw 0]]
     (s.site (eidOf 1)).any (fun x => (moved s lid).may x && x.p.scrolls && x.cfg.inen != 0 && !x.cfg.replies
       && !((moved s lid).port x.port).inTile x && x.e.owea.isEmpty && x.e.oweb.isEmpty && !opAg x.cfg.op
       && headTag ((moved s lid).inHead x 0) == some .fsw && ((List.range 3).filter x.cfg.inOn) == [0]
       && (moved s lid).roomOf x 0 && (moved s lid).roomOf x 1 && (opTag x.cfg x.e.st .fsw).isSome) = true)
    ∧ (let s := scrollScene (0x43 + 1 * 2 ^ 19) { st := { cnt2 := 1 } } []
       (s.site (eidOf 1)).any (fun x => (moved s lid).may x && x.p.scrolls && x.cfg.inen == 0 && !x.cfg.replies
         && !((moved s lid).port x.port).inTile x
         && (x.l.blockLen x.k).any (fun n => n ≤ x.e.st.cnt2) && ((moved s lid).behind x.lk x.l x.p x.j x.e.v true).isEmpty) = true)
    ∧ (let s0 := scrollScene (ewOf 0x40) { restore := true } [[]]
       let s : State := { s0 with fab := { s0.fab with recs := [(recKey 0 0 1, some ({}, {}))] } }
       (s.site (eidOf 1)).any (fun x => x.e.restore && (tget none s.fab.recs (recKey x.lk x.k x.c)).isSome) = true) := by
  decide +kernel

/-! ### Routers -/

/-- A launch with router 2 of a code, mode and limit, tokens at its inputs, and an element that imposes its forme. -/
def rtrScene (code mode limit : Nat) (st : RtSt) (toks : List (List Tok)) : State :=
  let img := imgOf 1 0x00090040 ((List.range toks.length).map fun i => linkIn 2 i 0 + 2 ^ 37) 0
    + (code + mode * 2 ^ 8 + limit * 2 ^ 16 + 7 * 2 ^ 24) * 2 ^ (8 * (0x2C0 + 16 * 2))
  let s := fabOf img [(1, {})] toks
  { s with fab := { s.fab with routers := tset {} [] (rtrKey 0 0 2) st } }

/-- Router 2. -/
def rid : RouterId := { launch := lid, forme := 0, rtr := 2 }

/-- A check that the router may act and no ERR stands at its inputs. -/
def rtrAnd (s : State) (code : Nat) (p : State → RSite → Bool) : Bool :=
  let s1 := moved s lid
  match s1.rsite rid code with
  | none => false
  | some x => (s1.rErr x (rIns x.w) (rOuts x.w)).isNone && p s1 x

/-- A unit of one control value. -/
def unitTok : Tok := .ctl .data 3

theorem test_premise_steer_merge :
    rtrAnd (rtrScene 1 0 0 {} [[unitTok], [.ctl .data 1]]) 1 (fun s1 x => x.st.open'.isNone && rUnit (s1.rHead x 0)
      && (headVal (s1.rHead x 1)).any (fun p => steerHolds (rMode x.w) p) && s1.rRoom x 1) = true
    ∧ rtrAnd (rtrScene 1 0 0 {} [[unitTok], [.ctl .data 0]]) 1 (fun s1 x =>
      (headVal (s1.rHead x 1)).any (fun p => !steerHolds (rMode x.w) p) && s1.rRoom x 0) = true
    ∧ rtrAnd (rtrScene 2 1 0 {} [[], [unitTok], [.ctl .data 1]]) 2 (fun s1 x => x.st.open'.isNone && rMode x.w == 1
      && !s1.rAligned x (rIns x.w) && (headVal (s1.rHead x 2)).any (fun p => p.getLsbD 0) && rUnit (s1.rHead x 1) && s1.rRoom x 0) = true
    ∧ rtrAnd (rtrScene 2 0 0 {} [[unitTok], [unitTok]]) 2 (fun s1 x => rMode x.w != 1 && rUnit (s1.rHead x 0)
      && rUnit (s1.rHead x 1) && s1.rRoom x 0 && x.st.last) = true
    ∧ rtrAnd (rtrScene 2 0 0 {} [[], [unitTok]]) 2 (fun s1 x => rUnit (s1.rHead x 1) && !rUnit (s1.rHead x 0)) = true := by
  decide +kernel

theorem test_premise_carry_join :
    rtrAnd (rtrScene 3 0 2 {} [[], [unitTok]]) 3 (fun s1 x => x.st.open'.isNone && rUnit (s1.rHead x 1) && s1.rRoom x 0) = true
    ∧ rtrAnd (rtrScene 3 0 2 { occ := 1 } [[unitTok], []]) 3 (fun s1 x => !rTag (s1.rHead x 1) && !rUnit (s1.rHead x 1)
      && rUnit (s1.rHead x 0) && x.st.occ < rLimit x.w && s1.rRoom x 0) = true
    ∧ rtrAnd (rtrScene 4 0 0 { ready := true } [[unitTok], []]) 4 (fun s1 x => x.st.ready && x.st.open'.isNone
      && rUnit (s1.rHead x 0) && s1.rRoom x 0) = true
    ∧ rtrAnd (rtrScene 4 1 0 {} [[], [unitTok]]) 4 (fun s1 x => !x.st.ready && x.st.open'.isNone
      && rUnit (s1.rHead x 1) && s1.rRoom x 1 && rMode x.w == 1) = true := by decide +kernel

theorem test_premise_fork_ordj :
    rtrAnd (rtrScene 5 0 0 {} [[unitTok]]) 5 (fun s1 x => x.st.open'.isNone && rMode x.w == 0 && rUnit (s1.rHead x 0)
      && s1.rRoom x 0 && s1.rRoom x 1) = true
    ∧ rtrAnd (rtrScene 5 1 0 {} [[unitTok]]) 5 (fun s1 x => rMode x.w != 0 && rUnit (s1.rHead x 0)
      && s1.rRoom x (if !x.st.last then 1 else 0)) = true
    ∧ (let s0 := rtrScene 6 0 0 {} [[unitTok], [unitTok]]
       let s := (s0.setLink (linkKey 0 0 0) { s0.link (linkKey 0 0 0) with stamps := [9] }).setLink (linkKey 0 0 1)
         { s0.link (linkKey 0 0 1) with stamps := [6, 7] }
       rtrAnd s 6 (fun s1 x => rUnit (s1.rHead x 0) && rUnit (s1.rHead x 1) && s1.rRoom x 0
         && (s1.rLink x 0).any (fun a => a.2.stamps == [9]) && (s1.rLink x 1).any (fun a => a.2.stamps == [6, 7])) = true)
    ∧ (let s0 := rtrScene 6 0 0 {} [[unitTok], [unitTok]]
       let s := (s0.setLink (linkKey 0 0 0) { s0.link (linkKey 0 0 0) with stamps := [4] }).setLink (linkKey 0 0 1)
         { s0.link (linkKey 0 0 1) with stamps := [5] }
       rtrAnd s 6 (fun s1 x => rUnit (s1.rHead x 0) && rUnit (s1.rHead x 1) && s1.rRoom x 0
         && (s1.rLink x 0).any (fun a => a.2.stamps == [4]) && (s1.rLink x 1).any (fun a => a.2.stamps == [5])) = true)
    ∧ (let s := rtrScene 1 0 0 {} [[.ctl .err 1], []]
       ((moved s lid).rsite rid 1).any (fun x => ((moved s lid).rErr x (rIns x.w) (rOuts x.w)).isSome) = true) := by
  decide +kernel

/-- A typed link, FP32 to itself, at input A of column 1. -/
def typedScene (toks : List Tok) (out : List Tok) : State :=
  let s := fabOf (imgOf 1 0x00090040 [15 + 1 * 2 ^ 8 + 15 * 2 ^ 14 + 1 * 2 ^ 19 + 15 * 2 ^ 25] 0) [(1, {})] [toks]
  s.setLink (linkKey 0 0 0) { s.link (linkKey 0 0 0) with stage := { out := out } }

/-- A check of the premises of the stage. -/
def stageAnd (s : State) (p : LinkW → LinkSt → Option Head → Bool) : Bool :=
  let s1 := moved s lid
  (s1.launch 0).any fun x => (x.img 0).any fun img =>
    let st := (s1.link (linkKey 0 0 0)).deliver
    (linkW (fLink img 0)).typed && 0 < fLinks img && s1.lkActive 0 && p (linkW (fLink img 0)) st (headOf [] (st.ready s1.clk.fc))

theorem test_premise_stage :
    stageAnd (typedScene [] [.data 1, .data 2]) (fun _ st _ => !st.stage.out.isEmpty) = true
    ∧ stageAnd (typedScene [.hdr (lineHdr 1 8)] []) (fun w st h => st.stage.out.isEmpty && h.any fun h =>
      match stageTake w st.stage h with
      | .ok _ => true
      | .error _ => false) = true
    ∧ stageAnd (typedScene [.hdr 0] []) (fun w st h => st.stage.out.isEmpty && h.any fun h =>
      match stageTake w st.stage h with
      | .ok _ => false
      | .error _ => true) = true
    ∧ (typedScene [] []).clk.fc % 64 = 0 ∧ (typedScene [] []).lkActive 0 = true := by decide +kernel

end Sys2Proof.Tests
end

