-- ==== Sys2Proof/Tests/Commands.lean ====
section
/-! SUPPORT. What meets the premises of the statements about stream commands and ports. -/

namespace Sys2Proof.Tests

-- One test after the other, so that their evaluations do not wait for each other in many threads.
set_option Elab.async false

open Sys2Proof Sys2Proof.Machine Sys2Proof.Claims

/-- A layout record of one tile of FP32 with 8,192 bytes at 0x10010000 (01 R33). -/
def aRecord : BitVec 512 := BitVec.ofNat 512 (0x1000000010010000 + 1 * 2 ^ 64 + 8192 * 2 ^ 128)

/-- A command of the first thread that has captured the record twice: code, port, FLAGS, [63:48] and [127:64]. -/
def cmdAt (scop port flags w3 hi : Nat) : Cmd :=
  { ticket := 1, bits := BitVec.ofNat 128 (scop + port * 2 ^ 8 + 1 * 2 ^ 16 + flags * 2 ^ 32 + w3 * 2 ^ 48 + hi * 2 ^ 64)
    lh := some (aRecord, 0), dlh := some (aRecord, 0) }

/-- A command without a layout record. -/
def cmdNo (scop port flags w3 hi : Nat) : Cmd :=
  { ticket := 1, bits := BitVec.ofNat 128 (scop + port * 2 ^ 8 + flags * 2 ^ 32 + w3 * 2 ^ 48 + hi * 2 ^ 64) }

/-- A nest of one stream element. -/
def nest1 : Nat := 0x0007000700070007

/-- The AG element of an opcode with a command at its port, event 65535 granted to it, and a state of the port. -/
def cmdScene (op mode : Nat) (c : Cmd) (p : PortSt) : State :=
  let s := agScene op mode [] { p with q := [c] }
  { s with dp := { s.dp with evgrant := [(65535, 2 ^ 17 + 2 ^ 16)], events := [(65535, 7)] } }

/-- The same with a command at the port of those that have none. -/
def noPortScene (c : Cmd) (p : PortSt) : State :=
  let s := fabOf (imgOf 1 0x00090040 [linkIn 1 0 0 + 2 ^ 34] 0) [(1, {})] [[]]
  { s with fab := { s.fab with ports := tset {} [] (noPort 0 0) { p with q := [c] } } }

/-- A check of `Starts`. -/
def startAnd (s : State) (port scop : Nat) (f : PRef → Cmd → List Cmd → Bool) : Bool :=
  match s.pref { launch := lid, port := port } with
  | none => false
  | some r => match (s.port r.key).q with
    | [] => false
    | c :: rest => c.scop == scop && s.mayStart r c && !r.l.stopped && s.causeOf r c == 0 && f r c rest

/-- What the check says. -/
theorem of_startAnd {s : State} {port scop : Nat} {f : PRef → Cmd → List Cmd → Bool} (h : startAnd s port scop f = true) :
    ∃ r c rest, Starts s { launch := lid, port := port } scop r c rest ∧ f r c rest = true := by
  unfold startAnd at h
  split at h
  · cases h
  · rename_i r hr
    split at h
    · cases h
    · rename_i c rest hq
      simp only [Bool.and_eq_true, Bool.not_eq_true', beq_iff_eq] at h
      exact ⟨r, c, rest, ⟨hr, hq, h.1.1.1.1, h.1.1.1.2, h.1.1.2, h.1.2⟩, h.2⟩

theorem test_premise_starts :
    startAnd (cmdScene 0x70 0 (cmdAt 1 0 0 0 nest1) {}) 0 1 (fun _ _ _ => true) = true
    ∧ startAnd (cmdScene 0x71 0 (cmdAt 2 0 0 0 nest1) {}) 0 2 (fun _ _ _ => true) = true
    ∧ startAnd (cmdScene 0x72 0 (cmdAt 3 0 0 0 1) {}) 0 3 (fun _ _ _ => true) = true
    ∧ startAnd (cmdScene 0x73 0 (cmdAt 4 0 0 0 1) {}) 0 4 (fun _ _ _ => true) = true
    ∧ startAnd (cmdScene 0x70 0 (cmdAt 5 0 0 0 nest1) {}) 0 5 (fun _ _ _ => true) = true
    ∧ startAnd (cmdScene 0x74 0 (cmdAt 9 0 0 0 nest1) {}) 0 9 (fun _ _ _ => true) = true
    ∧ startAnd (cmdScene 0x71 0 (cmdAt 10 0 0 0 nest1) {}) 0 10 (fun _ _ _ => true) = true
    ∧ startAnd (noPortScene (cmdAt 11 255 0x80 0 nest1) {}) 255 11 (fun _ _ _ => true) = true
    ∧ startAnd (cmdScene 0x75 1 (cmdNo 6 0 0 0 (16 + 8 * 2 ^ 16)) {}) 0 6 (fun _ _ _ => true) = true := by decide +kernel

/-- The record with TIER 1. -/
def hRecord : BitVec 512 := aRecord + BitVec.ofNat 512 (2 ^ 58)

/-- A queue whose record asks for tier H. -/
theorem test_premise_overflow_tier :
    (let s := noPortScene { cmdAt 7 255 0 0 0 with lh := some (hRecord, 0) } {}
     startAnd s 255 7 (fun r c rest => (c.lh.any fun e => lrTier e.1 == 1) && ((taken s r rest).ovfLink r c).any (fun w =>
       (taken s r rest).poolUsed r.g + roundUp (64 * (if w.plane = 1 then 8 else 256)) 4096 ≤ launchPool)) = true) := by
  decide +kernel

theorem test_premise_overflow :
    (let s := noPortScene (cmdAt 7 255 0 0 0) {}
     startAnd s 255 7 (fun r c rest => (c.lh.any fun e => lrTier e.1 != 1) && ((taken s r rest).ovfLink r c).any (fun w =>
       (taken s r rest).poolUsed r.g + roundUp (64 * (if w.plane = 1 then 8 else 256)) 4096 ≤ launchPool)) = true)
    ∧ (let s0 := noPortScene (cmdAt 7 255 0 0 0) {}
       let s : State := { s0 with fab := { s0.fab with launches := [(0, some
         { aLaunch (imgOf 1 0x00090040 [linkIn 1 0 0 + 2 ^ 34] 0) with sram := [(0, launchPool)] })] } }
       startAnd s 255 7 (fun r c rest => (c.lh.any fun e => lrTier e.1 != 1) && ((taken s r rest).ovfLink r c).any (fun w =>
         launchPool < (taken s r rest).poolUsed r.g + roundUp (64 * (if w.plane = 1 then 8 else 256)) 4096)) = true) := by
  decide +kernel

/-- A link from ring port 0, its peer link up or down. -/
def peerScene (up : Bool) : State :=
  let s := fabOf (imgOf 1 0x00090040 [linkIn 1 0 0 + 1 * 2 ^ 38] 0) [(1, {})] [[]]
  { s with fab := { s.fab with ports := tset {} [] (ringPort 0 0 48) { q := [cmdNo 8 48 0 2 5] } }
           bd := { s.bd with peers := [(2, { up := up })] } }

theorem test_premise_acts :
    startAnd (cmdScene 0x70 0 (cmdNo 12 0 0 0 0) {}) 0 12 (fun r _ rest =>
      ((taken (cmdScene 0x70 0 (cmdNo 12 0 0 0 0) {}) r rest).port r.key).settled) = true
    ∧ (let s := cmdScene 0x71 0 (cmdNo 12 0 0 0 0) { full := some (0, 0, 0) }
       startAnd s 0 12 (fun r _ rest => !((taken s r rest).port r.key).settled) = true)
    ∧ startAnd (cmdScene 0x70 0 (cmdNo 13 0 0 0 0) {}) 0 13 (fun r _ _ => !r.l.snapOn) = true
    ∧ (let s := cmdScene 0x70 0 (cmdNo 14 0 0 0 0) {}
       startAnd s 0 14 (fun r c rest => let q := (taken s r rest).port r.key
         !c.all && q.spad.isNone && q.peer.isNone && r.ag && (r.cfg.any fun g => g.replies) && !q.q.any Cmd.loads) = true)
    ∧ (let s := cmdScene 0x75 1 (cmdNo 14 0 0 0 0) { spad := some bound }
       startAnd s 0 14 (fun r c rest => let q := (taken s r rest).port r.key
         !c.all && (q.spad.any fun b => b.q.isEmpty) && q.tile.isNone) = true)
    ∧ (let s := cmdScene 0x70 0 (cmdNo 15 0 0 65535 7) {}
       startAnd s 0 15 (fun r c rest => c.fld 64 48 ≤ ((taken s r rest).event c.w3).toNat) = true)
    ∧ (let s := cmdScene 0x70 0 (cmdNo 15 0 0 65535 8) {}
       startAnd s 0 15 (fun r c rest => ((taken s r rest).event c.w3).toNat < c.fld 64 48) = true)
    ∧ (let s := cmdScene 0x70 0 (cmdNo 16 0 0 65535 0) {}
       startAnd s 0 16 (fun r c rest => let q := (taken s r rest).port r.key
         !c.all && q.trail.isEmpty && q.spad.isNone && q.peer.isNone) = true)
    ∧ startAnd (peerScene true) 48 8 (fun r c rest => ((taken (peerScene true) r rest).peer (c.fld 48 4)).up) = true := by
  decide +kernel

/-- A marker on a load port of a launch with snapshots, the launch without a marker under way. -/
theorem test_premise_mark :
    (let s := (cmdScene 0x70 0 (cmdNo 13 0 0 0 0) {}).modLaunch 0 fun l => { l with snapOn := true }
     startAnd s 0 13 (fun r _ rest => r.l.snapOn && (taken s r rest).isSource r
       && (((taken s r rest).request r.lk).launch r.lk).any fun l => l.mark == 1) = true) := by decide +kernel

/-- A channel for which the arbiters have nothing left in this period. -/
theorem test_premise_peer_waits :
    (let s : State := { peerScene true with charges := [{ res := 7, inst := 4, cls := 0, units := 43750 }] }
     startAnd s 48 8 (fun r c rest =>
       let s1 := taken s r rest
       let i := c.fld 48 4
       let n := (s1.peer i).free
       let t := ((s1.modLaunch r.lk fun l => { l with peered := l.peered || l.snapOn }).setChan i n
         (some { cls := s1.classOf r.l.job, dir := false, credit := Config.peerCredits })).tell i n (.ask 5 false)
       (s1.peer i).up && c.fld 64 16 == 5 && !s1.admits (.port r.key) s1.wanted (s1.chargedBy t)) = true) := by
  decide +kernel

/-- A fence, a wait, a close and a signal that stay; a link that is down. -/
theorem test_premise_command_waits :
    (let s := cmdScene 0x71 0 (cmdNo 12 0 0 0 0) { full := some (0, 0, 0) }
     startAnd s 0 12 (fun r _ rest => !((taken s r rest).port r.key).settled) = true)
    ∧ (let s := cmdScene 0x75 1 (cmdNo 14 0 0 0 0) { spad := some { bound with q := [.data 1] } }
       startAnd s 0 14 (fun r c rest => !c.all && (((taken s r rest).port r.key).spad.any fun b => !b.q.isEmpty)) = true)
    ∧ (let s := cmdScene 0x70 0 (cmdNo 16 0 0 65535 0) { trail := [{ cmd := cmdOf 1 }] }
       startAnd s 0 16 (fun r c rest => !c.all && !((taken s r rest).port r.key).trail.isEmpty) = true)
    ∧ startAnd (peerScene false) 48 8 (fun r c rest => !((taken (peerScene false) r rest).peer (c.fld 48 4)).up) = true := by
  decide +kernel

/-- A check of the premises about a command that stands at the head of a port's queue. -/
def headAnd (s : State) (f : PRef → Cmd → Bool) : Bool :=
  (s.pref { launch := lid, port := 0 }).any fun r => ((s.port r.key).q.head?).any fun c => f r c

/-- A command of another code; one behind a command at work; one after GSTOP; one with a reserved FLAGS bit. -/
theorem test_premise_refused :
    headAnd (cmdScene 0x70 0 (cmdAt 1 0 0 0 nest1) {}) (fun _ c => c.scop != 2) = true
    ∧ (let s := cmdScene 0x70 0 (cmdAt 1 0 0 0 nest1) { cur := some { cmd := cmdOf 1 } }
       headAnd s (fun r c => c.scop == 1 && !s.mayStart r c) = true)
    ∧ (let s0 := cmdScene 0x70 0 (cmdAt 1 0 0 0 nest1) {}
       let s := s0.modLaunch 0 fun l => { l with stopped := true }
       headAnd s (fun r c => c.scop == 1 && s.mayStart r c && r.l.stopped) = true)
    ∧ (let s := cmdScene 0x70 0 (cmdAt 1 0 0x8000 0 nest1) {}
       headAnd s (fun r c => c.scop == 1 && s.mayStart r c && !r.l.stopped && s.causeOf r c == 1) = true) := by decide +kernel

/-- A load whose record lies in the page of the scenes, at work. -/
def loading : State := cmdScene 0x70 0 (cmdNo 12 0 0 0 0) { cur := some { cmd := cmdAt 1 0 0 0 nest1 } }

theorem test_premise_ports :
    (let s := cmdScene 0x71 0 (cmdNo 12 0 0 0 0) { trail := [{ cmd := cmdOf 2 }] }
     (s.fab.ports.findSome? (fun e => (e.2.ending.find? fun c => c.cmd.thread == 0 && c.cmd.ticket == 1).map fun c => (e.1, c))).any
       (fun k => (s.launch (k.1 / 2 ^ 20)).any fun l => s.complete l (s.port k.1) k.2) = true)
    ∧ (let s := cmdScene 0x70 0 (cmdNo 12 0 0 0 0) { trail := [{ cmd := cmdOf 1 }], reply := [(1, .data 0)] }
     (s.fab.ports.findSome? (fun e => (e.2.ending.find? fun c => c.cmd.thread == 0 && c.cmd.ticket == 1).map fun c => (e.1, c))).any
       (fun k => (s.launch (k.1 / 2 ^ 20)).any fun l => !s.complete l (s.port k.1) k.2) = true)
    ∧ (loading.pref { launch := lid, port := 0 }).any (fun r => loading.lkActive r.lk && !r.scNode
      && (loading.port r.key).peer.isNone && decide ((loading.access r).served (.port r.key) ≠ loading)
      && loading.admits (.port r.key) loading.wanted (loading.chargedBy (loading.access r))) = true := by decide +kernel

/-- The same where the record lies in tier L, of which the class of the job has no share, and may not borrow. -/
def held : State :=
  { loading with
    ms := { loading.ms with reduced := false, mem := writeMem loading.ms.mem (placeTable + 8) (bytesLE 8 (2 ^ 48 + 2 ^ 53 + 0xBF)) }
    bd := { budgets := [(2, some 0x10000)] } }

/-- The same load at a port whose element has SC = 1: the node that the sequencing token comes to waits for the arbiters. -/
theorem test_premise_token_waits :
    (let s0 := elemScene 0 (0x70 + 1 * 2 ^ 19 + 2 ^ 37) 0 {} []
     let p : PortSt := { cur := some { cmd := cmdAt 1 0 0 0 nest1 } }
     let s : State := { s0 with ms := held.ms, bd := held.bd, fab := { s0.fab with ports := tset {} [] (agPort 0 0 0) p } }
     let ns := (s.scNodes (some 0)).filter fun x => s.scWaits x.2
     ns.length == 1 && (ns.all fun x => tget 0 s.fab.seqTok 0 ≤ x.1
       && !s.admits (.port x.2.key) s.wanted (s.chargedBy (s.scAccess x.2)))) = true := by decide +kernel

/-- A port without a command; one of an SC node; one of a launch that does not act. -/
theorem test_premise_ports_wait :
    (held.pref { launch := lid, port := 0 }).any (fun r => held.lkActive r.lk && !r.scNode && (held.port r.key).peer.isNone
      && !held.admits (.port r.key) held.wanted (held.chargedBy (held.access r))) = true
    ∧ (let s := agScene 0x70 0 [] {}
       (s.pref { launch := lid, port := 0 }).any (fun r => s.lkActive r.lk && !r.scNode && (s.port r.key).peer.isNone
         && decide (s.access r = s)) = true)
    ∧ (let s := scPad 0 [] {}
       (s.pref { launch := lid, port := 0 }).any (fun r => r.scNode) = true)
    ∧ (let s := (agScene 0x70 0 [] {}).modLaunch 0 fun l => { l with struck := true }
       (s.pref { launch := lid, port := 0 }).any (fun r => !s.lkActive r.lk) = true) := by decide +kernel

/-- A peer channel of a ring port on which a token has arrived. -/
def peered : State :=
  let s := peerScene true
  let b : PeerBind := { cmd := cmdNo 8 48 0 2 5, link := 2, grant := 5, dir := false, chan := 0 }
  { s with fab := { s.fab with ports := tset {} [] (ringPort 0 0 48) { peer := some b } }
           bd := { s.bd with peers := [(2, { up := true, chans := [(0, some { rx := [.hdr (lineHdr 1 8)], credit := 4 })] })] } }

theorem test_premise_peer_port :
    (peered.pref { launch := lid, port := 48 }).any (fun r => peered.lkActive r.lk && !r.scNode
      && ((peered.port r.key).peer.any fun b => !(peered.port r.key).sealed && decide ((peered.peerStep r b).served (.port r.key) ≠ peered)
        && peered.admits (.port r.key) peered.wanted (peered.chargedBy (peered.peerStep r b)))) = true := by
  decide +kernel

end Sys2Proof.Tests
end

