-- ==== Sys2Proof/Tests/Control.lean ====
section
/-! SUPPORT. What meets the premises of the statements about the imposer, translation, moves and jobs. -/

namespace Sys2Proof.Tests

-- One test after the other, so that their evaluations do not wait for each other in many threads.
set_option Elab.async false

open Sys2Proof Sys2Proof.Machine Sys2Proof.Claims

/-! ### The imposer -/

/-- A launch of one forme, which is in its cache or not. -/
def stageScene (img : Nat) (cached : Bool) : State :=
  let s := fabOf img [] []
  { s with fab := { s.fab with launches := [(0, some { aLaunch img with
      galley := 0x10010000, nodes := [0], formes := if cached then [(0, some img)] else [] })] } }

/-- The same with the image's page in tier L, as the dispatcher's slice translates it, and what class 0 has spent of the
bursts of that tier. -/
def fetchScene (spent : Nat) : State :=
  let s := stageScene 0 false
  let va := 0x10010000 + 1024
  let e : TlbEntry := { place := dispPlace 0 va, asid := 0, page := va / 65536, size := 16
                        leaf := BitVec.ofNat 64 (0x1000000000000 + 2 * 2 ^ 52 + 0xBF) }
  { s with
    ms := { s.ms with reduced := false, tlb := [e] }
    charges := [{ res := 2, inst := 0, cls := 0, units := spent }] }

/-- What FORME_FETCH of the first forme finds: the read answers, and whether the arbiters let it through. -/
def fetchAnd (s : State) (f : Bool → Bool) : Bool :=
  (s.launch 0).any fun l =>
    !l.ended && 0 < l.nformes && !s.cached 0 l 0
    && (match s.ms.vread (dispPlace (s.lkAsid 0) (l.formeVa 0)) 0 (s.lkAsid 0) (l.formeVa 0) 1024 with
      | (_, .ok _) => true
      | (_, .error _) => false)
    && f (s.admits (.forme 0 0) []
      (s.ms.readCharges (dispPlace (s.lkAsid 0) (l.formeVa 0)) 0 (s.lkAsid 0) (l.formeVa 0) 1024 (s.classOf l.job)))

theorem test_premise_forme :
    (let s := stageScene 0 true
     (s.launch 0).any (fun l => (l.pipeAt 0).any fun p => s.due 0 p 0 == some 0 && s.lkActive 0 && s.cached 0 l (p.formeAt 0)
       && (s.takeBad 0 l p 0 0).isNone) = true)
    ∧ (let s := stageScene (imgOf 1 0x0009003F [] 0) true
     (s.launch 0).any (fun l => (l.pipeAt 0).any fun p => s.due 0 p 0 == some 0 && s.lkActive 0 && s.cached 0 l (p.formeAt 0)
       && (s.takeOffence 0 l p 0).isSome) = true
     ∧ tget 0 s.fab.shadows (stripeKey 0 0) = 0 ∧ s.fab.elems.length = 0)
    ∧ (let s0 := stageScene 0 true
       let s : State := { s0 with fab := { s0.fab with shadows := [(0, 1)] } }
     (s.launch 0).any (fun l => (l.pipeAt 0).any fun p => (s.due 0 p 0).isNone) = true)
    ∧ (let s := stageScene 0 false
     (s.launch 0).any (fun l => !s.cached 0 l 0 && ((l.pipeAt 0).any fun p => s.due 0 p 0 == some 0)) = true)
    ∧ fetchAnd (stageScene 0 false) id = true ∧ fetchAnd (fetchScene 0) id = true ∧ fetchAnd (fetchScene 976562) not = true := by
  decide +kernel

/-- An element in column 1 that waits for the bad forme, which stands in the shadow behind one that runs. -/
theorem test_premise_forme_awaited :
    (let s := fabOf (imgOf 1 0x0009003F [] 0) [(1, { await := true, v := 1 })] []
     (s.elem (elemKey 0 0 1)).any fun e => e.await && e.v == 1) = true := by decide +kernel

/-- A scrolling launch whose port 0 has delivered a number of tokens of its block. -/
def blockScene (n : Nat) : State :=
  let s := scrollScene (0x70 + 1 * 2 ^ 19) {} []
  { s with fab := { s.fab with ports := tset {} [] (agPort 0 0 0) { block := n } } }

/-- A scrolling launch with a link from ring port 0, which has delivered a whole block. -/
def ringBlockScene : State :=
  let img := imgOf 1 0x00090040 [linkIn 1 0 0 + 1 * 2 ^ 38] 0
  let s := fabOf img [(1, {})] [[]]
  { s with fab := { s.fab with
      launches := [(0, some { aLaunch img with
        nformes := 2, pipes := [{ forme := 0, n := 2, stripe := 0, p := 1, node := 0 }], formes := [(0, some img), (1, some img)] })]
      ports := tset {} [] (ringPort 0 0 48) { block := 1 } } }

/-- What holds of a source port of a launch. -/
def sourceAnd (s : State) (port k : Nat) (f : State → Launch → Nat → PortSt → Bool) : Bool :=
  let s1 := s.settle 0
  s.shown lid == some (0, 0) && (s1.launch 0).any fun l => s1.lkActive 0 && (l.blockLen k).any fun b =>
    f s1 l b (s1.port (s1.portKey 0 l 0 port))

theorem test_premise_block :
    sourceAnd (blockScene 1) 0 0 (fun s1 l b p => s1.portBase l 0 == 0 && (l.blockTok b p).any (fun t => t == fswTok p.sweep)
      && headTag p.replyHead != some .mark) = true
    ∧ sourceAnd (blockScene 0) 0 0 (fun s1 l b p => s1.portBase l 0 == 0 && (l.blockTok b p).isNone) = true
    ∧ sourceAnd ringBlockScene 48 0 (fun s1 l b p => (l.blockTok b p).isSome && s1.rateOk l p
        && (l.links.find? fun e => e.2.2.xend == 1 && 48 + e.2.2.xnum == 48 && l.segOfForme e.1 == 0).any fun e =>
          e.1 == 0 && s1.room 0 e.1 e.2.1 e.2.2) = true := by decide +kernel

/-- A link from exchange queue 1, which holds the entries given; the launch stopped or not, the source ended or not. -/
def xqScene (es : List W64) (stopped eos : Bool) : State :=
  let img := imgOf 1 0x00090040 [linkIn 1 0 1 + 1 * 2 ^ 38 + 17 * 2 ^ 40] 0
  let s := fabOf img [(1, {})] [[]]
  { s with
    xq := if es.isEmpty then [] else [(1, es)]
    fab := { s.fab with
      launches := [(0, some { aLaunch img with stopped := stopped })]
      ports := if eos then tset {} [] (xqPort 0 0 1) { eos := true } else [] } }

/-- What holds of the source of that queue. -/
def xqAnd (s : State) (f : State → Launch → PortSt → List W64 → Bool) : Bool :=
  let s1 := s.settle 0
  s.shown lid == some (0, 0) && (s1.launch 0).any fun l => s1.lkActive 0
    && ((l.links.find? fun e => e.2.2.xend == 1 && e.2.2.xnum == 17 && l.segOfForme e.1 == 0).any fun e =>
      s1.room 0 e.1 e.2.1 e.2.2 && !l.owesMark (s1.port (xqPort 0 0 1))
      && f s1 l (s1.port (xqPort 0 0 1)) (s1.queueOf (xqKey (lkThread 0) 1)))

/-- The same in a scrolling launch, whose source has ended, with a block to end or not; and with no pipeline imposed. -/
def xqBlockScene (n : Nat) (imposed : Bool) : State :=
  let img := imgOf 1 0x00090040 [linkIn 1 0 1 + 1 * 2 ^ 38 + 17 * 2 ^ 40] 0
  let s := fabOf img [(1, {})] [[]]
  { s with fab := { s.fab with
      launches := [(0, some { aLaunch img with
        nformes := 2, formes := [(0, some img), (1, some img)]
        pipes := if imposed then [{ forme := 0, n := 2, stripe := 0, p := 1, node := 0 }] else [] })]
      ports := tset {} [] (xqPort 0 0 1) { eos := true, block := n } } }

theorem test_premise_xq_source :
    xqAnd (xqScene [9] false false) (fun _ l p q => !p.eos && !p.stopping && !l.stopped && !l.holding && l.xqTaken.isEmpty
      && q == [9] && (l.pipeFor 0).isSome) = true
    ∧ xqAnd (xqScene [9] true false) (fun _ l p _ => !p.eos && !p.stopping && l.stopped && (l.pipeFor 0).isSome) = true
    ∧ xqAnd (xqScene [9] true true) (fun _ l p _ => p.eos && (l.blockLen 0).isNone) = true
    ∧ xqAnd (xqScene [] false false) (fun _ l _ q => !l.stopped && l.xqTaken.isEmpty && q.isEmpty) = true
    ∧ xqAnd (xqBlockScene 1 true) (fun _ l p _ => p.eos && (l.blockLen 0).any fun b => (l.blockTok b p).isSome) = true
    ∧ xqAnd (xqBlockScene 0 true) (fun _ l p _ => p.eos && (l.blockLen 0).any fun b => (l.blockTok b p).isNone) = true
    ∧ xqAnd (xqBlockScene 0 false) (fun _ l _ _ => (l.pipeFor 0).isNone) = true := by
  decide +kernel

/-- A SEQ node of two leaves of one forme, at one of which it stands; its one element has had the EOS of its inputs,
or not. -/
def seqScene (eos leaf : Nat) : State :=
  let img := imgOf 1 (ewOf 0x40) [linkIn 1 0 0] 0
  let s := fabOf img [(1, { eos := eos })] [[]]
  { s with fab := { s.fab with launches := [(0, some { aLaunch img with
      nformes := 2, nodes := [0x201, 0, 0x100000000], formes := [(0, some img), (1, some img)], seq := tset 0 [] 0 leaf
      pipes := [{ forme := leaf, n := 1, stripe := 0, p := 1, node := 1 + leaf }] })] } }

/-- What holds of that node and the pipelines of its child. -/
def seqAnd (s : State) (f : State → Launch → List Nat → List Pipe → Bool) : Bool :=
  let s1 := s.settle 0
  (s1.launch 0).any fun l =>
    let ns := l.nodes.map BitVec.toNat
    let cur := (nodeKids ns 0).getD (tget 0 l.seq 0) 0
    let stop := (nodeEnd ns treeFuel cur).getD 0
    s1.lkActive 0 && nKind (ns.getD 0 0) == 1 && f s1 l ns (l.pipes.filter fun p => cur ≤ p.node && p.node < stop)

theorem test_premise_seq :
    seqAnd (seqScene 1 0) (fun s1 l ns mine => tget 0 l.seq 0 + 1 < (nodeKids ns 0).length && !mine.isEmpty
      && (mine.all fun p => s1.drained 0 l p && s1.childStored 0 l p) && !((s1.jobOf 0).any fun j => j.phase == .saving)
      && (imposeNode ns (tset 0 [] 0 1) treeFuel 0 0 l.win.length).isSome) = true
    ∧ seqAnd (seqScene 0 0) (fun s1 l _ mine => mine.any fun p => !s1.drained 0 l p) = true
    ∧ seqAnd (seqScene 1 1) (fun _ l ns _ => (nodeKids ns 0).length ≤ tget 0 l.seq 0 + 1) = true := by decide +kernel

theorem test_premise_launch_end :
    (let s := fabOf (imgOf 1 (ewOf 0x40) [linkIn 1 0 0] 0) [(1, { eos := 1 })] [[]]
     ((s.settle 0).launch 0).any (fun l => (s.settle 0).lkActive 0 && (s.settle 0).launchDone 0 l) = true)
    ∧ (let s := fabOf (imgOf 1 (ewOf 0x40) [linkIn 1 0 0] 0) [(1, {})] [[]]
     ((s.settle 0).launch 0).any (fun l => !(s.settle 0).launchDone 0 l) = true) := by decide +kernel

/-- A launch whose SC AGSPAD at column 0 holds a token of its FIFO, with the ring's banks as reset leaves them. -/
def scScene : State := { scPad 0 [] (spadPort [.data 1] none) with rings := [] }

/-- The same with the stripe's bank that of the launch. -/
def scBank : State := scPad 0 [] (spadPort [.data 1] none)

theorem test_premise_banks :
    (scScene.ringSt 0).advFc + (scScene.ringSt 0).slice = 64 ∧ scScene.clk.fc < 64
    ∧ (let s : State := { scScene with clk := { fc := 64 } }
       (s.ringSt 0).advFc + (s.ringSt 0).slice ≤ s.clk.fc)
    ∧ tget 0 (scScene.ringSt 0).active 0 = 0
    ∧ tget 0 ((opScene 1).ringSt 0).active 0 = 1 ∧ (opScene 1).fireable 0 0 0 = true
    ∧ ((base.scNodes none).filter fun x => base.scWaits x.2).length = 0 := by decide +kernel

/-- The active bank of stripe 0 has idled for 4 fc while the bank of thread 0 has work. -/
def idleScene : State :=
  { opScene 1 with clk := { fc := 4 }, rings := [(0, { active := [(0, 2)] })] }

theorem test_premise_idle_bank :
    tget 0 (idleScene.ringSt 0).idleFc 0 + 4 ≤ idleScene.clk.fc ∧ idleScene.fireable 0 1 0 = false
    ∧ idleScene.fireable 0 0 0 = true := by decide +kernel

/-- What holds of the nodes with an access waiting in the domain of ring 0. -/
def tokenAnd (s : State) (f : List (Nat × PRef) → Nat → Bool) : Bool :=
  let ns := (s.scNodes (some 0)).filter fun x => s.scWaits x.2
  ns.length == 1 && f ns (tget 0 s.fab.seqTok 0)

/-- The node is the next, or, where the token has passed them all, the first. -/
theorem test_premise_token_turn :
    tokenAnd scBank (fun ns a => ns.all fun x => a ≤ x.1) = true
    ∧ (let s : State := { scBank with fab := { scBank.fab with seqTok := [(0, 2 ^ 30)] } }
       tokenAnd s (fun ns a => ns.all fun x => x.1 < a)) = true
    ∧ tokenAnd scBank (fun ns _ => ns.all fun x =>
        let t := scBank.scAccess x.2
        scBank.admits (.port x.2.key) scBank.wanted (scBank.chargedBy t) && t != scBank && (missed scBank.ms t.ms).isEmpty)
      = true := by
  decide +kernel

/-! ### Translation faults and moves -/

/-- A fault that thread 0 waits on, open at die 0, posted or not. -/
def fault0 (posted : Bool) : OpenFault :=
  { fid := 3, asid := 0, granule := 0x1000, reason := .notValid, va := 0x10000000, agentCode := 0, ring := 0, slot := 0, col := 0,
    forme := 0, link := 0, kinds := [.read], waiters := [.thread 0], posted := posted }

/-- A machine with the fault, its queue of 4 KiB at 0x10100000. -/
def faultScene (posted : Bool) : State :=
  { base with ms := { pages with dies := [(0, { opens := [fault0 posted], xfq := { base := 0x10100010 } })] } }

/-- A usable translation of `data` in the slice of die 0 that holds it. -/
def cached' (n : Nat) : TlbEntry :=
  { place := .slice 0 (sliceOf 0 data.toNat), asid := 0, page := data.toNat / 65536, size := 16, leaf := BitVec.ofNat 64 n }

theorem test_premise_service :
    highVa data = false ∧ inDevice data = false ∧ base.ms.tlb.length = 0
    ∧ (∃ e, e ∈ ({ pages with tlb := [cached' 0xBF] } : MemSys).tlb
        ∧ e.holds (.slice 0 (sliceOf 0 data.toNat)) 0 data.toNat = true ∧ pteD e.leaf.toNat = true)
    ∧ (cached' 0x9F).holds (.slice 0 (sliceOf 0 data.toNat)) 0 data.toNat = true ∧ pteD (cached' 0x9F).leaf.toNat = false
    ∧ needsD .write = true
    ∧ ((faultScene false).ms.die 0).opens.find? (fun x => !x.posted) = some (fault0 false)
    ∧ (match (faultScene false).ms.drainTo { base := 0x10100010 } [bytesLE 32 (fault0 false).bits.toNat] (.xfq 0) with
      | (_, _, l) => l.isEmpty) = true
    ∧ (((faultScene true).ms.die 0).opens.all fun o => o.posted) = true
    ∧ ((faultScene true).ms.die 0).opens.find? (fun x => x.fid == 3) = some (fault0 true)
    ∧ ((faultScene true).ms.die 0).opens.find? (fun x => x.fid == 4) = none :=
  ⟨by decide +kernel, by decide +kernel, by decide +kernel, ⟨_, List.mem_singleton.2 rfl, by decide +kernel, by decide +kernel⟩,
    by decide +kernel, by decide +kernel, by decide, by decide +kernel, by decide +kernel, by decide +kernel, by decide +kernel,
    by decide +kernel⟩

/-- A queue that is disabled, and one of 64 entries that is full. -/
theorem test_premise_fault_queue :
    (let r : MRing := { base := 0x10100000 }
     r.base.getLsbD 4 = false)
    ∧ (let r : MRing := { base := 0x10100010, tail := 63, head := 0xFFFFFFFF }
     (r.tail.toNat + 2 ^ 32 - r.head.toNat) % 2 ^ 32 ≥ 2 ^ (r.base.toNat % 2 ^ 4 + 6)) := by decide +kernel

/-- The request that the page at 0x20000000 move to a tier. -/
def moveReq (tier : Nat) : MoveReq := { asid := 0, va := 0x20000000, dtier := tier, origin := .trvreq }

/-- A third-level table behind the second, with one 2 MiB page; a pool of frames of tier L with one entry; all memory
served. -/
def moveScene (tier : Nat) (ph : Option Move) : State :=
  let m1 := writeMem pages.mem (placeTable + 16) (bytesLE 8 (1 + 0x60000))
  let m2 := writeMem m1 0x60000 (bytesLE 8 (0x30000000 + 2 ^ 52 + 0xBF))
  let m3 := writeMem m2 0x70000 (bytesLE 8 0x1000000000000)
  { base with ms := { pages with
      mem := m3, reduced := false
      dies := [(0, { reqs := [moveReq tier], pools := (List.replicate 6 {}).set 3 { base := 0x70010, tail := 1 } })]
      moves := ph.toList } }

/-- A move of that page to tier L in a phase. -/
def aMove (ph : MovePhase) (f : Nat) : Move :=
  { asid := 0, va := 0x20000000, size := 16, src := 0x30000000, dst := 0x1000000000000, dtier := 2, frontier := f
    p0 := 0x30000000 + 2 ^ 52 + 0xBF, leafPa := 0x60000, phase := ph, origin := .trvreq, startFs := 0, advFs := 0 }

/-- The machine with that move. -/
def moving (ph : MovePhase) (f : Nat) : State := moveScene 2 (some (aMove ph f))

/-- The page. -/
def aPage : PageId := { asid := 0, va := 0x20000000 }

/-- The machine with the head of its requests taken. -/
def asked (s : State) : State := { s with ms := s.ms.modDie 0 fun y => { y with reqs := y.reqs.drop 1 } }

/-- The leaf of the page before its move. -/
def moveLeaf : Nat := 0x30000000 + 2 ^ 52 + 0xBF

/-- The request of a tier, with the leaf of its page changed by a number. -/
def moveScene' (tier more : Nat) : State :=
  let s := moveScene tier none
  { s with ms := { s.ms with mem := writeMem s.ms.mem 0x60000 (bytesLE 8 (moveLeaf + more)) } }

/-- What the walk of the page finds. -/
def walkAnd (s : State) (f : Walked → Bool) : Bool :=
  match s.ms.walk 0 0x20000000 with
  | .ok x => f x
  | .error _ => false

/-- A check that MOVE_START takes the request of die 0 for the page. -/
theorem takes_of {s : State} {r : MoveReq} (h : s.moveIn' aPage [.starting] = none ∧ s.ms.nextReq 0 = some r
    ∧ (r.asid = aPage.asid.toNat ∧ r.va / 65536 = aPage.va.toNat / 65536) ∧ (s.ms.die 0).lost = false
    ∧ (s.ms.moves.filter fun m => s.ms.moveDie m == 0).length < 64) : Takes s aPage 0 r where
  none' := h.1
  die := by decide
  next := h.2.1
  page := h.2.2.1
  here := h.2.2.2.1
  room := h.2.2.2.2
  first d hd := absurd hd (Nat.not_lt_zero d)

theorem test_premise_takes :
    Takes (moveScene 2 none) aPage 0 (moveReq 2) ∧ Takes (moveScene 1 none) aPage 0 (moveReq 1)
    ∧ Takes (moveScene' 2 64) aPage 0 (moveReq 2) ∧ Takes (moving .copying 3) aPage 0 (moveReq 2) :=
  ⟨takes_of (by decide +kernel), takes_of (by decide +kernel), takes_of (by decide +kernel), takes_of (by decide +kernel)⟩

/-- A request that may start, and each ground on which one may not. -/
theorem test_premise_move_start :
    (0x0200000020000000 : W64).toNat / 2 ^ 56 % 4 = 2 ∧ (0x20000000 : W64).toNat / 2 ^ 56 % 4 = 0
    ∧ walkAnd (asked (moveScene 2 none)) (fun x =>
        let s1 := asked (moveScene 2 none)
        let p0 := (s1.ms.die 0).pools.getD (poolIndex 2 x.size) {}
        s1.ms.homeOf x.leaf == 0 && s1.moveRefusal x 0 0x20000000 2 == 0
        && (takeFrame s1.ms s1.inSafe 2 x.size (p0.held + 1) p0).2.isSome) = true
    ∧ walkAnd (asked (moveScene 1 none)) (fun x => (asked (moveScene 1 none)).ms.homeOf x.leaf == 0 && !ptePin x.leaf
        && !(asked (moveScene 1 none)).inSafe (pteAddr x.leaf) && !pteSaddle x.leaf && x.size != 28 && pteTier x.leaf == 1) = true
    ∧ walkAnd (asked (moveScene' 2 64)) (fun x => ptePin x.leaf && (asked (moveScene' 2 64)).ms.homeOf x.leaf == 0) = true
    ∧ walkAnd (asked (moveScene' 2 (3 * 2 ^ 36))) (fun x => (asked (moveScene' 2 (3 * 2 ^ 36))).ms.homeOf x.leaf != 0) = true
    ∧ (match (asked (moveScene 2 none)).ms.walk 0 0x10000000 with
      | .ok x => x.size == 28 && !ptePin x.leaf && !pteSaddle x.leaf
      | .error _ => false) = true
    ∧ walkAnd (asked (moving .copying 3)) (fun x => !ptePin x.leaf
        && (asked (moving .copying 3)).ms.moves.any fun y => y.asid == 0 && y.va == 0x20000000) = true
    ∧ (match (asked (moveScene' 2 (2 ^ 64 - moveLeaf))).ms.walk 0 0x20000000 with
      | .ok _ => false
      | .error _ => true) = true := by
  decide +kernel

/-- A launch that holds a write which used the translation of the page. -/
def heldScene (ph : MovePhase) : State :=
  let s := moving ph 16
  { s with fab := { launches := [(0, some { aLaunch 0 with
      held := [{ ring := 0, pa := 0x30000000, va := 0x20000000, bytes := [1], iv := 0, thread := 0, ticket := 1 }] })] } }

/-- An uncorrectable error in the line at an address. -/
def spoiled (s : State) (a : Nat) : State := { s with ms := { s.ms with ue := [(a / 64, true)] } }

theorem test_premise_moves :
    (moving .starting 0).moveIn' aPage [.starting] = some (aMove .starting 0)
    ∧ leafCore ((moving .starting 0).ms.readPa 0x60000 8) = leafCore (aMove .starting 0).p0.toNat
    ∧ leafCore ((moving .starting 0).ms.readPa 0x60000 8) ≠ leafCore (0x30010000 + 2 ^ 52 + 0xBF)
    ∧ (moving .opening 0).moveIn' aPage [.opening] = some (aMove .opening 0)
    ∧ (moving .opening 0).undrained 0 0 0x20000000 0 = false
    ∧ (moving .releasing 16).moveIn' aPage [.releasing] = some (aMove .releasing 16)
    ∧ (moving .releasing 16).undrained 0 0 0x20000000 0 = false
    ∧ (heldScene .opening).undrained 0 0 0x20000000 0 = true ∧ (heldScene .releasing).undrained 0 0 0x20000000 0 = true
    ∧ (heldScene .undone).undrained 0 0 0x20000000 0 = true := by
  decide +kernel

/-- A copy of the last sub-block, let through or not, and a commit, each with an error at the source or destination or
without. -/
theorem test_premise_copies :
    (let s := moving .copying 15
     s.moveIn' aPage [.copying] = some (aMove .copying 15) ∧ (aMove .copying 15).frontier < (aMove .copying 15).blocks
     ∧ s.ms.rangeBad (0x30000000 + 4096 * 15) 4096 = false ∧ s.ms.rangeBad (0x1000000000000 + 4096 * 15) 4096 = false
     ∧ s.admits (.move 0 0x20000000) s.wanted (s.ms.copyCharges (aMove .copying 15)) = true
     ∧ (let t : State := { s with charges := [{ res := 3, inst := 0, cls := 31, units := 4882 }] }
        t.admits (.move 0 0x20000000) t.wanted (t.ms.copyCharges (aMove .copying 15)) = false)
     ∧ (spoiled s (0x30000000 + 4096 * 15)).ms.rangeBad (0x30000000 + 4096 * 15) 4096 = true
     ∧ (spoiled s (0x1000000000000 + 4096 * 15)).ms.rangeBad (0x1000000000000 + 4096 * 15) 4096 = true)
    ∧ (let s := moving .committing 16
     s.moveIn' aPage [.committing] = some (aMove .committing 16) ∧ s.ms.rangeBad 0x1000000000000 65536 = false
     ∧ (spoiled s 0x1000000000040).ms.rangeBad 0x1000000000000 65536 = true) := by
  decide +kernel

/-- TLBINV of that ASID while the write is held. -/
theorem test_premise_tlbinv_waits :
    (privileged' (heldScene .opening)).priv = true ∧ (reg (privileged' (heldScene .opening)) 1).toNat = 0
    ∧ (privileged' (heldScene .opening)).undrained 1 0 0 (privileged' (heldScene .opening)).clk.fs = true := by decide +kernel

/-- The leaf of the page names the move; TIME is at the limits of a move without progress. -/
def abortScene : State :=
  let s := moving .aborting 3
  { s with ms := { s.ms with mem := writeMem s.ms.mem 0x60000 (bytesLE 8 (moveLeaf + 2 ^ 54 + 2 * 2 ^ 55)) } }

theorem test_premise_move_abort :
    abortScene.moveIn' aPage [.aborting, .undone] = some (aMove .aborting 3)
    ∧ (moving .undone 3).moveIn' aPage [.aborting, .undone] = some (aMove .undone 3)
    ∧ (moving .undone 3).undrained 0 0 0x20000000 0 = false
    ∧ (pteSaddle (abortScene.ms.readPa 0x60000 8) && pteAddr (abortScene.ms.readPa 0x60000 8) == 0x30000000) = true
    ∧ (moving .copying 3).moveIn' aPage [.opening, .copying] = some (aMove .copying 3)
    ∧ (let lim := ((moving .copying 3).ms.die ((moving .copying 3).ms.moveDie (aMove .copying 3))).trvlim.toNat
       lim % 65536 = 10000 ∧ lim / 65536 % 65536 = 500 ∧ (aMove .copying 3).startFs + 10000 * 1000000000 ≤ 10 ^ 13) := by
  decide +kernel

theorem test_premise_periods :
    (let s : State := { base with clk := { fs := 10 ^ 11 } }
     (s.ms.die 0).aged < s.time / 100000 ∧ s.bd.periods < s.time / 50000)
    ∧ base.time / 100000 ≤ (base.ms.die 0).aged ∧ base.time / 50000 ≤ base.bd.periods
    ∧ (let s0 := opScene 1
       let s := s0.modLaunch 0 fun l => { l with rate := 4 + 16 * 2 ^ 16 + 2 ^ 32 }
       let t : State := { s with clk := { fc := 16 } }
       (t.pref { launch := lid, port := 0 }).any (fun r => r.l.rate.getLsbD 32 && (t.port r.key).win != t.rateWin r.l) = true) := by
  decide +kernel

end Sys2Proof.Tests
end

