-- ==== Sys2Proof/Tests/Jobs.lean ====
section
/-! SUPPORT. What meets the premises of the statements about jobs, snapshots and saves. -/

namespace Sys2Proof.Tests

-- One test after the other, so that their evaluations do not wait for each other in many threads.
set_option Elab.async false

open Sys2Proof Sys2Proof.Machine Sys2Proof.Claims

/-! ### Queues and dispatch -/

/-- 128 bytes of a record with a sequence number. -/
def push (n : Nat) : List Byte := bytesLE 128 n

/-- A machine at stage 3 with queue 0 as given. -/
def queued (q : Queue) : State := { base with dp := { queues := [(0, q)] }, bd := { stage := 3, cxlUp := 1 } }

theorem test_premise_enqueue :
    base.ownerOf 0 = 0 ∧ (base.queue 0).en = false
    ∧ (let s := queued { ctl := 1 }
       (s.queue 0).en = true ∧ s.shut 0 = false ∧ (push 0).length = 128 ∧ (jobRecord (push 0)).setWidth 32 = (s.queue 0).next
       ∧ (s.queue 0).occ ≠ 64 ∧ s.ownerOf 0 = 0 ∧ (jobRecord (push 1)).setWidth 32 ≠ (s.queue 0).next ∧ (push 0).tail.length ≠ 128)
    ∧ (let s := queued { ctl := 1, next := 64 }
       (jobRecord (push 64)).setWidth 32 = (s.queue 0).next ∧ (s.queue 0).occ = 64)
    ∧ base.ownerOf 0 ≠ 1 ∧ (queued {}).portUp 0 = true ∧ base.portUp 0 = false := by decide +kernel

/-- A queued job whose record takes one ring and one stripe, with the link table or kernel file at 0x10020000 and entry 1;
`more` are further bits of the record. -/
def waiting (more : Nat) : Job := { seq := 0, rcd := BitVec.ofNat 1024 (0x10020000 * 2 ^ 64 + 2 ^ 128 + 2 ^ 160 + 2 ^ 170 + more) }

/-- The queue of that job in a context with blocks; a link table lies at 0x10020000 (`table`), whose entry 0 names a
layout head of 2 entries and whose entry 1 names code. -/
def waitScene (j : Job) (table : Bool) : State :=
  let s := (queued { ctl := 1, jobs := [j] }).modCtx 0 fun c => { c with cxdesc := 2 ^ 63 }
  let m := writeMem s.ms.mem 0x10021000 (bytesLE 8 2)
  let m1 := writeMem (writeMem m 0x10022000 (bytesLE 8 0x10021003)) 0x10022008 (bytesLE 8 0x10000001)
  let m2 := writeMem (writeMem m1 0x10020000 (bytesLE 8 0x10021003)) 0x10020008 (bytesLE 8 0x10000001)
  { s with ms := { s.ms with mem := if table then m2 else m1 } }

/-- The job with a kernel file, at the loader. -/
def fileJob : Job := { waiting (2 ^ 38) with check := .loading }

/-- A machine whose context has published that file, with its link table at 0x10022000. -/
def published : State := (waitScene fileJob false).modCtx 0 fun c =>
  { c with published := [{ file := 0x10020000, fcrc := 0, table := 0x10022000 }] }

/-- A kernel file of three sections, .text with one HALT, .sym with its one symbol and .rel, which puts the symbol in
entry 1 of a link table of two (03 R72-R76), with its FCRC. -/
def kernelFile : List Byte :=
  let sect := fun (type align off size : Nat) => bytesLE 32 (type + align * 2 ^ 8 + off * 2 ^ 32 + size * 2 ^ 64 + size * 2 ^ 96)
  let head := bytesLE 64 (0x1A424F4B + 2 ^ 32 + 64 * 2 ^ 64 + 3 * 2 ^ 96 + 2 * 2 ^ 128)
  let body := sect 1 2 160 4 ++ sect 10 3 168 42 ++ sect 9 3 216 16
    ++ bytesLE 8 0xC0000002
    ++ bytesLE 8 1 ++ bytesLE 32 (40 + 2 ^ 32 + 2 ^ 56) ++ bytesLE 8 0x6D
    ++ bytesLE 16 (1 + 3 * 2 ^ 32 + 2 ^ 40)
  let crc := crc32c (8 * 232) (ofBytesLE (head ++ body))
  head.take 60 ++ bytesLE 4 crc ++ body

/-- A machine with that file for the job to load, and room for images from 0x10100000 on. -/
def loadScene : State :=
  let s := (waitScene fileJob false).modCtx 0 fun c => { c with imageNext := 0x10100000 }
  { s with ms := { s.ms with mem := writeMem s.ms.mem 0x10020000 kernelFile } }

/-- What the loader finds of the file of a scene. -/
def loads (s : State) (f : Kob → List Byte ⊕ (State × Nat) → Bool) : Bool :=
  (s.kob 0 fileJob.kernel).any fun k =>
    (((s.ctx 0).published.find? fun p => p.file == fileJob.kernel && p.fcrc == k.fcrc) == none)
    && f k ((s.touches 0 [(fileJob.kernel, k.len)]).loadKob 0 fileJob.kernel k)

theorem test_premise_job_check :
    ((waitScene (waiting 0) true).queue 0).head = some (waiting 0) ∧ (waiting 0).phase = .queued ∧ (waiting 0).check = .unchecked
    ∧ (waitScene (waiting 0) true).checkRecord 0 (waiting 0) = none
    ∧ (waitScene (waiting 0) false).checkRecord 0 (waiting 0) ≠ none
    ∧ ((waitScene fileJob false).queue 0).head = some fileJob ∧ fileJob.phase = .queued ∧ fileJob.check = .loading
    ∧ ((published.kob 0 fileJob.kernel).any fun k => k.fcrc == 0) = true
    ∧ ((published.ctx 0).published.find? fun p => p.file == fileJob.kernel && p.fcrc == 0).isSome = true
    ∧ (published.touches 0 [(fileJob.kernel, 64)]).checkTable 0 0x10022000 fileJob = none := by decide +kernel

/-- A file that is none, and the kernel file. -/
theorem test_premise_kernel_load :
    loads (waitScene fileJob false) (fun _ r => r.isLeft) = true
    ∧ loads loadScene (fun k r => k.len == 232 && match r with
      | .inr (s1, table) => s1.checkTable 0 table fileJob == none
      | .inl _ => false) = true := by decide +kernel

theorem test_premise_dispatch :
    (let s := waitScene (waiting 0) true
     (2 ≤ s.bd.stage ∧ s.bd.trained = false ∧ s.bd.quiet = false ∧ s.decisionDue = true) ∧ base.bd.stage < 2
     ∧ base.decisionDue = false
     ∧ s.job jid = some (waiting 0) ∧ (waiting 0).stage = .none
     ∧ ((((s.queue 0).jobs.filter fun y => y.unstarted && s.passed6 (s.queue 0).asid y).take
          (s.dp.dpol.toNat / 2 ^ 24 % 16)).any fun y => y.seq == (waiting 0).seq) = true ∧ (waiting 0).kfile = false)
    ∧ (let j := { waiting (2 ^ 184) with stage := .staging 0 }
       let s := waitScene j true
       s.job jid = some j ∧ s.clk.fs < 0 + j.stageTo * 10 ^ 11
       ∧ (let t : State := { s with clk := { fs := 10 ^ 11 } }
          t.job jid = some j ∧ 0 + j.stageTo * 10 ^ 11 ≤ t.clk.fs)) := by decide +kernel

/-- A job of one halted thread; a completed one. -/
def halted : State := jobScene (fun th => { th with run := .halted }) id

/-- A queue whose oldest job has completed, and whose retire records go to an address. -/
def retiring (rbase : W64) : State := queued { jobs := [{ aJob with phase := .completed }], rbase := rbase }

/-- What the write of that retire record answers, once the job's block and slots have been given back. -/
def retires (s : State) (f : Option (AErr × Nat) → Bool) : Bool :=
  match (s.queue 0).jobs with
  | [] => false
  | j :: _ =>
    let x := s.queue 0
    let va := (x.rbase.toNat + 32 * (j.seq.toNat % 2 ^ (x.fld 24 4 + 6))) % 2 ^ 56
    j.phase == .completed && !x.rhost
    && f ((released s 0 j).ms.vwrite (dispPlace x.asid va) 0 x.asid va (retireRecord j)).2

/-- The same job with its block still its own, in a queue whose retirements raise an interrupt; and one that retires to
the host. -/
def retiringBlock (ctl : Nat) (up : Bool) : State :=
  { base with dp := { queues := [(0, { ctl := BitVec.ofNat 64 ctl, rbase := 0x10100000
                                       jobs := [{ aJob with phase := .completed, block := some 0, cx := 0x10102000 }] })] }
              bd := { stage := 3, cxlUp := if up then 1 else 0 } }

theorem test_premise_completion :
    (halted.job jid).any (fun j => j.phase == .started && (j.threads.all fun k => (halted.thread k).run == .halted)) = true
    ∧ (halted.jobLaunches jid).length = 0
    ∧ ((jobScene id id).job jid).any (fun j => j.phase == .started
        && (j.threads.any fun k => ((jobScene id id).thread k).run != .halted)) = true
    ∧ (let s := jobScene id fun j => { j with phase := .containing, contained := true }
       (s.job jid).any (fun j => j.phase == .containing && j.contained) = true)
    ∧ ((jobScene id id).queue 0).jobs.head?.any (fun j => j.phase != .completed) = true
    ∧ retires (retiring 0x10100000) (fun e => e.isNone) = true
    ∧ retires (retiring 0) (fun e => e.isSome) = true
    ∧ retires (retiringBlock 4 true) (fun e => e.isNone) = true ∧ ((retiringBlock 4 true).queue 0).fld 2 1 = 1
    ∧ ((retiringBlock 2 true).queue 0).rhost = true ∧ (retiringBlock 2 true).portUp 0 = true
    ∧ ((retiringBlock 2 false).queue 0).rhost = true ∧ (retiringBlock 2 false).portUp 0 = false := by decide +kernel

/-! ### Markers, cuts, rollback -/

/-- A launch whose one forme has an image, with snapshots. -/
def snapScene (img : Nat) (f : Launch → Launch) : State :=
  let s := fabOf img [] []
  { s with fab := { s.fab with launches := [(0, some (f { aLaunch img with snapOn := true }))] } }

/-- A forme with a link from exchange queue 1, whose port has delivered a token; a marker is due at each. -/
def dueScene : State :=
  let s := snapScene (imgOf 1 0x00090040 [linkIn 1 0 1 + 1 * 2 ^ 38 + 17 * 2 ^ 40] 0) fun l => { l with markint := 1 }
  { s with fab := { s.fab with ports := tset {} [] (xqPort 0 0 1) { toks := 1 } } }

/-- A launch whose write-hold of ring 0 has reached its limit. -/
def fullScene : State := snapScene 0 fun l => { l with undo := List.replicate 8192 { key := 0, old := none, iv := 0 } }

/-- A launch that holds one write in tier L, of which its class has spent a number of bursts. -/
def heldL (n mark spent : Nat) : State :=
  let s := snapScene 0 fun l => { l with
    mark := mark, undo := List.replicate n { key := 0, old := none, iv := 0 }
    held := [{ ring := 0, pa := 2 ^ 48, va := 0x20000000, bytes := [1], iv := 0, thread := 0, ticket := 1 }] }
  { s with ms := { s.ms with reduced := false }, charges := [{ res := 2, inst := 0, cls := 0, units := spent }] }

/-- What the hold that is full finds, with what the arbiters say. -/
def fullAnd (s : State) (f : Bool → Bool) : Bool :=
  (s.launch 0).any fun l => s.lkActive 0 && l.holding && s.holdFull l
    && (let t := (((s.performHeld (s.classOf l.job) l.held).releaseEntries l.xqSent l.xqTaken).modLaunch 0
          fun l => { l with held := [], undo := [], xqSent := [], xqTaken := [], unprot := true }).settle 0
        f (s.admits (.commit 0) s.wanted (s.chargedBy t)))

/-- What the first cut finds, with what the arbiters say. -/
def cutAnd (s0 : State) (f : Bool → Bool) : Bool :=
  let s := s0.settle 0
  (s.launch 0).any fun l => s.lkActive 0 && l.snapOn && l.cut + 1 ≤ l.mark
    && ((l.sourceKeys 0).all fun k => l.cut + 1 ≤ (s.port k).mark)
    && !s.marking 0 l && !s.inTransit 0 (l.cut + 1) && (l.pipes.all fun p => s.cutPassed 0 l (l.cut + 1) p)
    && f (s.admits (.commit 0) s.wanted (s.chargedBy (acted 0 ((s.writeSnaps 0 l (l.cut + 1)).commitCut 0 l (l.cut + 1)))))

theorem test_premise_marker :
    (dueScene.launch 0).any (fun l => dueScene.lkActive 0 && l.snapOn && l.markint != 0
      && (l.sourceKeys 0).any fun k => l.b * l.markint * (l.scheds + 1) ≤ (dueScene.port k).toks) = true
    ∧ (let s := snapScene 0 id
       (s.launch 0).any (fun l => s.lkActive 0 && l.snapOn && !l.finalReq && !l.seqLeft && !s.marking 0 l
         && ((l.sourceKeys 0).all fun k => (s.port k).eos) && (s.constStates 0 l).all fun st => 1 ≤ st.cnt1) = true)
    ∧ fullAnd fullScene id = true ∧ fullAnd (heldL 8192 0 0) id = true ∧ fullAnd (heldL 8192 0 976562) not = true
    ∧ ((launched id).launch 0).any (fun l => !l.snapOn) = true := by decide +kernel

theorem test_premise_cut :
    cutAnd (snapScene 0 fun l => { l with mark := 1 }) id = true ∧ cutAnd (heldL 0 1 976562) not = true
    ∧ (let s := snapScene 0 fun l => { l with mark := 2 }
       ((s.settle 0).launch 0).any (fun l => l.mark != l.cut + 1) = true)
    ∧ ((snapScene 0 fun l => { l with struck := true, rollbacks := 2 }).launch 0).any (fun l =>
        l.struck && !l.ended && 3 ≤ l.rollbacks + 1) = true
    ∧ (let s := snapScene 0 fun l => { l with struck := true }
       (s.launch 0).any (fun l => l.struck && !l.ended && l.rollbacks + 1 < 3 && l.cut == 0 && (s.job l.job).any fun j =>
         j.phase != .saving && !j.preemptDue
         && (let s0 := (s.modLaunch 0 fun l => { l with struck := false, rollbacks := l.rollbacks + 1 }).modJob l.job
              fun j => { j with rollbacks := j.rollbacks + 1, quietFc := s.clk.fc }
            !((((s0.revert 0).restoreCut 0).settle 0).job l.job).any fun j => j.preemptDue)) = true) := by
  decide +kernel

/-! ### Saving -/

/-- A job whose save area of 1 MiB lies at 0x10100000, as given. -/
def saveScene (f : Job → Job) : State := jobScene id fun j => f { j with saveBase := 0x10100000, saveSize := 0x100000 }

/-- A job that is saving and has written its images, 64 fc ago. -/
def drained (size : Nat) : State :=
  { saveScene (fun j => { j with phase := .saving, imaged := true, saveSize := size }) with clk := { fc := 64, fs := 2 * 10 ^ 12 } }

/-- The job itself. -/
def drainedJob (size : Nat) : Job :=
  { aJob with saveBase := 0x10100000, saveSize := size, phase := .saving, imaged := true }

theorem test_premise_preemption :
    ((jobScene id fun j => { j with phase := .saved }).job jid).any (fun j => j.phase != .started) = true
    ∧ (let s := saveScene id
       (s.job jid).any (fun j => j.phase == .started && 4096 * j.segs.length ≤ j.saveSize
         && (s.jobLaunches jid).isEmpty
         && ((j.threads.foldl (fun (a : State) k => a.modThread k fun th => { th with wait := none })
            (s.modJob jid fun x => { x with phase := .saving, saveFs := s.clk.fs, imaged := false, preemptDue := false })).writeImages
              j 0).isSome) = true)
    ∧ ((drained 0).job jid = some (drainedJob 0) ∧ (drainedJob 0).quietFc + 64 ≤ (drained 0).clk.fc
       ∧ (drained 0).jobLaunches jid = [] ∧ (drainedJob 0).saveFs + 2 * 10 ^ 12 ≤ (drained 0).clk.fs) := by decide +kernel

/-- The job of a scene is the one given. -/
theorem job_of_scene (f : Thread → Thread) (g : Job → Job) (h : (g aJob).seq = 0) :
    (jobScene f g).job jid = some (g aJob) := by
  simp [jobScene, State.job, State.queue, jid, tget, Queue.job, h]

theorem drained_job (n : Nat) : (drained n).job jid = some (drainedJob n) := by
  simp [drained, saveScene, jobScene, State.job, State.queue, jid, tget, Queue.job, drainedJob, aJob]

theorem drained_takes (n : Nat) : (drained n).saveBytes (drainedJob n) = 4096 + Config.launchStateBytes 0 + 24 * 131072 := by
  have q : quota 67372036#64 0 = 4 := by decide
  simp [drained, saveScene, jobScene, scene, State.saveBytes, drainedJob, aJob, State.ringSt, tget, regionSize, q]

/-- What the job takes fits an area of that size, and not one of none. -/
theorem test_premise_save :
    (∃ n, (drained n).job jid = some (drainedJob n) ∧ (drained n).saveBytes (drainedJob n) ≤ (drainedJob n).saveSize)
    ∧ (drainedJob 0).saveSize < (drained 0).saveBytes (drainedJob 0) := by
  refine ⟨⟨_, drained_job _, Nat.le_of_eq (drained_takes _)⟩, ?_⟩
  rw [drained_takes]
  exact Nat.lt_of_lt_of_le (Nat.zero_lt_succ _) (Nat.le_add_left _ _)

/-! ### Stops -/

/-- A job whose thread waits at WFE, with nothing noted. -/
def stuck : State :=
  let s := jobScene id id
  let code := ((encode (.wfe 1)).getD []).flatMap fun w => bytesLE 4 w.toNat
  { s with ms := { s.ms with mem := writeMem s.ms.mem 0x10000000 code }, clk := { fc := 4096 } }

theorem test_premise_deadlock :
    (stuck.job jid).any (fun j => j.phase == .started && (j.threads.any fun k => (stuck.thread k).run != .halted) && !stuck.dp.dlcfg.getLsbD 20
      && (j.threads.all fun k => (stuck.thread k).run == .running && stuck.stuckAt k) && !j.threads.isEmpty && !stuck.faultOpen jid j
      && j.quietFc + stuck.dp.dlcfg.toNat % 2 ^ 20 ≤ stuck.clk.fc) = true
    ∧ (stuck.jobLaunches jid).length = 0
    ∧ (∀ ph ∈ [JobPhase.started, .saving], let s : State := { jobScene id (fun j => { j with phase := ph }) with clk := { fs := 10 ^ 15 } }
       (s.job jid).any (fun j => j.phase == ph && j.progressFs + s.watchdogMs jid j * 10 ^ 12 ≤ s.clk.fs) = true)
    ∧ ((jobScene id id).job jid).any (fun j => (jobScene id id).clk.fs < j.progressFs + (jobScene id id).watchdogMs jid j * 10 ^ 12
        && (jobScene id id).clk.fc < j.quietFc + (jobScene id id).dp.dlcfg.toNat % 2 ^ 20) = true
    ∧ (let s : State := { stuck with dp := { stuck.dp with dlcfg := 2 ^ 20 } }
       (s.job jid).isSome = true ∧ s.dp.dlcfg.getLsbD 20 = true)
    ∧ (((opScene 1).job jid).isSome = true ∧ ((opScene 1).jobLaunches jid).any (fun e => (opScene 1).launchActs e.1 e.2) = true)
    ∧ (let s := (launched fun l => { l with struck := true }).modJob jid fun j => { j with phase := .saving }
       (s.job jid).any (fun j => j.phase == .saving) = true ∧ (s.jobLaunches jid).any (fun e => e.2.struck) = true)
    ∧ (let s := jobScene id fun j => { j with phase := .containing }
       (s.job jid).any (fun j => j.phase == .containing && !j.contained) = true ∧ (s.jobLaunches jid).length = 0)
    ∧ ((jobScene id id).thread 0).job = some jid := by decide +kernel

end Sys2Proof.Tests
end

