-- ==== Sys2Proof/Tests/Outside.lean ====
section
/-! SUPPORT. What meets the premises of the statements about errors, resets, the boundary, checkpoints and keys. -/

namespace Sys2Proof.Tests

-- One test after the other, so that their evaluations do not wait for each other in many threads.
set_option Elab.async false

open Sys2Proof Sys2Proof.Machine Sys2Proof.Claims

/-- The events that keep the invariant go on from a state in which it holds. -/
theorem test_premise_events :
    Inv base ∧ SavedWf base ∧ (∃ t, exec .warmReset base = .next t) ∧ ∃ t, exec .dispatchDecision base = .next t := by
  refine ⟨inv_of (by decide +kernel), ?_, next_of (by decide +kernel), next_of (by decide +kernel)⟩
  intro id j v h
  exact absurd h (by rw [show base.jobs = [] from by decide +kernel]; exact List.not_mem_nil)

/-- A clock that has been stepped down, 1 ms ago or just now. -/
def hot (fs : Nat) : State := { base with bd := { heat := 1, heatFs := 10 ^ 12 }, clk := { mhz := 100, fs := fs } }

theorem test_premise_errors :
    base.launch 0 = none ∧ ((launched id).launch 0).isSome = true ∧ base.bd.heat = 0
    ∧ ((snapScene 0 id).launch 0).any (fun l => (snapScene 0 id).lkActive 0 && !l.ended && l.snapOn && !l.unprot && !l.peered) = true
    ∧ (let s := hot (2 * 10 ^ 12)
       50 < s.clk.mhz ∧ s.bd.heatFs + 10 ^ 12 ≤ s.clk.fs ∧ s.bd.heat ≠ 0)
    ∧ (let s := hot (10 ^ 12)
       s.bd.heat ≠ 0 ∧ s.clk.fs < s.bd.heatFs + 10 ^ 12) := by decide +kernel

theorem test_premise_service_stage :
    (let s := { jobScene id id with bd := { stage := 2 } }
     s.bd.stage = 2 ∧ (s.jobs.any fun e => e.2.startedOnce) = true)
    ∧ (let s := { base with bd := { stage := 2 } }
       s.bd.stage = 2 ∧ s.jobs.length = 0)
    ∧ base.bd.stage ≠ 2 ∧ base.jobs = []
    ∧ (let s := { base with clk := { mhz := 100 } }
       50 < s.clk.mhz)
    ∧ ((jobScene id id).thread 0).job = some jid := by decide +kernel

/-! ### The boundary -/

/-- A link that is up, with a grant of layout handle 1 of ASID 0 to link 0 for reads and writes, and that record. -/
def upScene : State :=
  let s := { (laid 0 0) with bd := { peers := [(0, { up := true })], grants := [(5, BitVec.ofNat 256 (7 + 2 ^ 32 + 2 ^ 48
    + 0x0007000700070007 * 2 ^ 80))] } }
  s.modCtx 0 fun c => { c with layouts := [(1, some { rcd := aRecord, key := 0 })] }

/-- 248 bytes of a flit, and the 8 of a CRC that differs by `d` from that of the bytes. -/
def flitOf (d : Nat) : List Byte :=
  List.replicate 248 0 ++ bytesLE 8 (((Config.flitCrc (List.replicate 248 0)).toNat + d) % 2 ^ 64)

theorem flit_crc (d : Nat) :
    (flitOf d).length = 256 ∧ ofBytesLE ((flitOf d).drop 248) = ((Config.flitCrc ((flitOf d).take 248)).toNat + d) % 2 ^ 64 := by
  have h : (List.replicate 248 (0 : Byte)).length = 248 := List.length_replicate
  refine ⟨?_, ?_⟩
  · rw [flitOf, List.length_append, h, length_bytesLE]
  · rw [flitOf, List.drop_left' h, List.take_left' h, ofBytesLE_bytesLE, show 256 ^ 8 = 2 ^ 64 from rfl, Nat.mod_mod]

/-- A machine whose link 0 is up and expects the flit of sequence number `n`. -/
def expects (n : Nat) : State := { base with bd := { peers := [(0, { up := true, rxSeq := n })] } }

/-- The sequence number of that flit. -/
def flitNo (bs : List Byte) : Nat := (Config.flitSeq (BitVec.ofNat 64 (ofBytesLE (bs.take 8)))).toNat

/-- The flit is in sequence, or out of it. -/
theorem test_premise_flit_order (bs : List Byte) :
    ((expects (flitNo bs)).peer 0).up = true ∧ ((expects (flitNo bs)).peer 0).rxSeq = flitNo bs
    ∧ ((expects (flitNo bs + 1)).peer 0).up = true ∧ flitNo bs ≠ ((expects (flitNo bs + 1)).peer 0).rxSeq := by
  refine ⟨rfl, rfl, rfl, ?_⟩
  show flitNo bs ≠ flitNo bs + 1
  omega

/-- A flit whose CRC holds, and one whose CRC does not. -/
theorem test_premise_flit :
    ofBytesLE ((flitOf 0).drop 248) = (Config.flitCrc ((flitOf 0).take 248)).toNat
    ∧ ofBytesLE ((flitOf 1).drop 248) ≠ (Config.flitCrc ((flitOf 1).take 248)).toNat := by
  have h := fun d => (Config.flitCrc ((flitOf d).take 248)).isLt
  have h0 := h 0
  have h1 := h 1
  rw [(flit_crc 0).2, (flit_crc 1).2]
  omega

theorem test_premise_peer :
    (base.peer 0).up = false ∧ (upScene.peer 0).up = true ∧ upScene.chan 0 3 = none ∧ upScene.grantOk 0 4 false = none
    ∧ (∀ dir ∈ [true, false], (upScene.grantOk 0 5 dir).any (fun lh =>
        let c := farCmd (upScene.grant 5) dir lh
        !c.nestBad && !c.beyond lh.1) = true)
    ∧ (let s := { upScene with clk := { fs := 10000000000 } }
       (s.peer 0).lastFs + 10000000000 ≤ s.clk.fs ∧ (s.peer 0).up = true)
    ∧ (let s := { upScene with bd := { upScene.bd with peers := [(0, { up := true, fails := 9 })] } }
       (s.peer 0).up = true ∧ (s.peer 0).replaysFailed = true)
    ∧ ((upScene.peer 0).replaysFailed = false ∧ upScene.clk.fs < (upScene.peer 0).lastFs + 10000000000)
    ∧ (base.ms.die (peerDie 0)).lost = false := by decide +kernel

/-- Bytes of tiers H and L; an address of neither; port 0 down and up. -/
theorem test_premise_cxl :
    ckptPos 0 = some 0 ∧ ckptPos 3 = some 3 ∧ ckptPos (0 + (bytesLE 4 7).length - 1) = some (0 + ((bytesLE 4 7).length - 1))
    ∧ ckptPos 0xBFFFFFFFFF = some 0xBFFFFFFFFF ∧ ckptPos 0x1000000000000 = some 0xC000000000
    ∧ ckptPos 0x5000000000000 = none ∧ base.portUp 0 = false
    ∧ ({ base with bd := { cxlUp := 1 } } : State).portUp 0 = true ∧ (base.ms.die 0).lost = false
    ∧ (let s : State := { base with bd := { cxlUp := 1, stage := 2 } }
       s.portUp 0 = true ∧ 2 ≤ s.bd.stage ∧ bytesLE 4 7 ≠ [] ∧ (s.ms.tierOf 0).isSome = true
       ∧ (s.ms.tierOf (0 + (bytesLE 4 7).length - 1)).isSome = true ∧ s.ms.tierOf 0xBFFFFFFFFF = none)
    ∧ base.bd.stage < 2 := by decide +kernel

/-! ### Checkpoints -/

/-- A machine whose checkpoint is in a phase, with an image begun at the safe tier of port 1, the device there of a
size. -/
def ckptScene (ph : CkptPhase) (size : Nat) : State :=
  { base with ms := { base.ms with
                mirror := some { ports := [1], offset := 0, base := 0x1000 }, tierX := [(1, size)], reduced := false }
              bd := { ckpt := { phase := ph }, safecfg := 2
                      safeHdr := some { area := 0, gen := 1, time := 0, quiesce := false, journal := {} } } }

/-- A granule of the next 64 KiB of the image. -/
def granule (s : State) (f : Bool → Bool → Bool) : Bool :=
  s.ms.mirror.any fun r => (List.range 16).all fun i =>
    let pa := r.pa (r.frontier + 4096 * i)
    f (s.ms.tierOf pa).isSome (s.ms.rangeBad pa 4096)

theorem test_premise_checkpoint :
    ([(1 : W64), 3].all fun v => !v.getLsbD 2 && v.getLsbD 0) = true ∧ base.bd.ckpt.runs = false
    ∧ (3 : W64).getLsbD 1 = true ∧ (1 : W64).getLsbD 1 = false ∧ (ckptScene .idle 0).safePorts = [1]
    ∧ (ckptScene .saving 0).bd.ckpt.phase = .saving ∧ (ckptScene .saving 0).jobs.length = 0
    ∧ (ckptScene .saving 0).safePorts = [1]
    ∧ (ckptScene .copying 0).bd.ckpt.phase = .copying
    ∧ granule (ckptScene .copying 0x100000000000) (fun there bad => there && !bad) = true
    ∧ granule (ckptScene .copying 0) (fun there _ => !there) = true
    ∧ ((ckptScene .copying 0).ms.mirror.any fun r => r.frontier + 65536 < ckptBytes) = true
    ∧ (ckptScene .flushing 0).bd.ckpt.phase = .flushing
    ∧ base.bd.safeHdr = none ∧ ((queued { ctl := 1 }).dp.queues.any fun e => e.2.en) = true
    ∧ (ckptScene .idle 0).bd.safeHdr.isSome = true ∧ (ckptScene .idle 0).bd.ckpt.runs = false
    ∧ (ckptScene .idle 0).dp.queues.length = 0
    ∧ ((ckptScene .idle 0).bd.safeHdr.any fun h => h.journal.queues.length == 0) = true := by decide +kernel

/-- The copy of a checkpoint at the first 64 KiB of tier L, with `line` waiting at the arbiters and the bursts of its
class there spent. -/
def copyScene (line : List Waiting) (spent : Nat) : State :=
  let s := ckptScene .copying 0x100000000000
  { s with ms := { s.ms with mirror := s.ms.mirror.map fun r => { r with frontier := 0xC000000000 } }
           bd := { s.bd with line := line }
           charges := [{ res := 2, inst := 0, cls := 31, units := spent }] }

/-- What the next step of the copy finds, with what the arbiters say. -/
def copyAnd (s : State) (f : Bool → Bool) : Bool :=
  s.ms.mirror.any fun r => !r.failed
    && granule s (fun there bad => there && !bad)
    && f (s.admits .ckpt s.wanted (((List.range 16).map fun i => r.frontier + 4096 * i).flatMap fun o =>
      s.ms.memCharges 0 (ckptPa o) 4096 31 ++ s.ms.memCharges 0 (r.pa o) 4096 31))

/-- One unit of the management path's arbiter. -/
def mgmtCharge : List Charge := [{ res := 6, inst := 0, cls := 31, units := 1 }]

theorem test_premise_copy :
    (copyScene [] 976562).bd.ckpt.phase = .copying ∧ copyAnd (copyScene [] 976562) not = true
    ∧ copyAnd (copyScene [] 0) id = true
    ∧ (let s := ckptScene .copying 0
       s.bd.ckpt.runs = true ∧ s.ms.mirror.any (fun r => !r.failed) = true
       ∧ (s.ms.mirror.map fun r => { r with failed := true }).any (fun r => r.failed) = true)
    ∧ base.safePorts = [] ∧ base.bd.ckpt.runs = false
    ∧ base.admits .mgmt base.wanted mgmtCharge = true
    ∧ (let s : State := { base with bd := { line := [{ who := .ckpt, cs := mgmtCharge }] } }
       s.admits .mgmt s.wanted mgmtCharge = false) := by decide +kernel

/-- An image of the safe tier to go back to. -/
theorem test_premise_restore :
    let s := ckptScene .idle 0x100000000000
    s.bd.safeHdr.any (fun h => h.area ≤ 1) = true ∧ s.bd.ckpt.runs = false ∧ (∀ e, e ∈ s.dp.queues → e.2.en = false)
    ∧ Memory.wf s.ms.mem = true ∧ s.safePorts ≠ [] ∧ s.safeOffset + safeShare s.safePorts.length ≤ 0x100000000000
    ∧ ckptPos 0 = some 0 ∧ ckptPos 0x2000000000000 = none ∧ s.jobs = [] := by decide +kernel

/-! ### Keys and the management path -/

/-- A wrapping key under which every block opens as the check value of key wrap: it is short, and so are its round
keys. -/
def shortKey : List Nat := List.replicate 8 0xF4

theorem short_decrypt (b : List Nat) : aesDecrypt (aesRoundKeys shortKey) b = List.replicate 8 0xA6 := by
  have h : (aesRoundKeys shortKey).getD 14 [] = [] := by decide +kernel
  have z : xorBytes b [] = [] := by simp [xorBytes]
  have e : aesDecrypt (aesRoundKeys shortKey) [] = List.replicate 8 0xA6 := by decide +kernel
  rw [← e]
  unfold aesDecrypt
  rw [h, z]
  rfl

theorem short_rounds (m : Nat) :
    ∀ n a r, 0 < n → (kwUnwrapRounds (aesRoundKeys shortKey) n m a r).1 = 0xA6A6A6A6A6A6A6A6
  | 1, a, r, _ => by
    simp only [kwUnwrapRounds, short_decrypt]
    decide
  | n + 2, a, r, _ => by
    rw [kwUnwrapRounds]
    exact short_rounds m (n + 1) _ _ (Nat.succ_pos n)

/-- A key of 88 bytes that unwraps, and one that does not. -/
theorem test_premise_unwrap :
    (∃ p, aesKeyUnwrap shortKey ((bytesLE 88 0).map BitVec.toNat) = some p) ∧ (bytesLE 88 0).length = 88
    ∧ aesKeyUnwrap shortKey (([] : List Byte).map BitVec.toNat) = none := by
  refine ⟨?_, by decide, rfl⟩
  have h : (chunks 8 (((bytesLE 88 0).map BitVec.toNat).length / 8) ((bytesLE 88 0).map BitVec.toNat)).map ofNatBytesBE
      = 0 :: List.replicate 10 0 := by decide +kernel
  unfold aesKeyUnwrap
  simp only [h]
  have e := short_rounds 10 60 0 (List.replicate 10 0) (by decide)
  rcases hk : kwUnwrapRounds (aesRoundKeys shortKey) (6 * (List.replicate 10 0).length) (List.replicate 10 0).length 0
    (List.replicate 10 0) with ⟨x, y⟩
  simp only [List.length_replicate] at hk
  rw [hk] at e
  subst e
  exact ⟨_, rfl⟩

theorem test_premise_keys :
    (let s := { base with bd := { kwks := [(2, some shortKey)] } }
     tget none s.bd.kwks 2 = some shortKey)
    ∧ (5 : BitVec 16) ≠ 0 ∧ (base.ctx 0).keySlot 5 = none ∧ ((laid 5 1).ctx 0).keySlot 5 ≠ none
    ∧ (base.measurement 1).isSome = true ∧ (base.measurement 16).isSome = true ∧ base.measurement 5 = none := by decide +kernel

theorem test_premise_management :
    (base.queue 0).en = false ∧ (base.queue 0).next = (base.queue 0).retired
    ∧ (let s := scene fun th => { th with profile := 1 }
       (s.thread 0).profile.getLsbD 0 = true ∧ (s.thread 0).run ≠ .idle
       ∧ (s.thread 0).sampleFc + (s.thread 0).profile.toNat / 65536 % 65536 * 1024 ≤ s.clk.fc)
    ∧ (base.thread 0).profile.getLsbD 0 = false
    ∧ (let s := scene fun th => { th with profile := 0x10001 }
       s.clk.fc < (s.thread 0).sampleFc + (s.thread 0).profile.toNat / 65536 % 65536 * 1024)
    ∧ (let s := scene fun th => { th with run := .agent }
       (s.thread 0).run = .agent)
    ∧ (base.thread 0).run ≠ .agent
    ∧ data ≠ 0 ∧ data.toNat % 8 = 0
    ∧ ((wordsAt leakyq).sysRead 0 data.toNat 16).any (fun hd =>
        (((wordsAt leakyq).sysRead 0 data.toNat (16 + 8 * ligWords hd)).any fun img => ligCheck img 3 == 0)
        && !((wordsAt leakyq).touches 0 [(data.toNat, 16 + 8 * ligWords hd)]).ligBusy 0 0xE3) = true := by
  decide +kernel

end Sys2Proof.Tests
end

