-- ==== Sys2Proof/Tests/Slice0.lean ====
section
/-! SUPPORT. The smoke test of well-formedness, and the decoding of a word of every instruction that has one, written
out field by field from 06 and 07. The other tests of this folder show what meets the premises of the statements. -/

namespace Sys2Proof.Tests

-- One test after the other, so that their evaluations do not wait for each other in many threads.
set_option Elab.async false

open Sys2Proof Sys2Proof.Machine Sys2Proof.Claims

/-! ### Terms that are not well formed, for each check -/

theorem test_wf_refuses_fields :
    [Instr.exts 1 2 31 1 1, .extz 1 2 0 1 32, .insf 1 2 31 0 33].map Instr.wf = [false, false, false] := by decide

theorem test_wf_refuses_float :
    [Instr.fcmp 1 2 3 4, .fcvt 1 2 10 0, .fcvt 1 2 6 1].map Instr.wf = [false, false, false] := by decide

theorem test_wf_refuses_memory :
    [Instr.ld 1 2 0 2 0, .lds 1 2 3 0 0, .lds 1 2 0 2 0, .st 1 2 0 1 0, .amoadd 1 2 3 0 1, .cas 1 2 3 0 1,
      .fence 7 0, .fence 0 3].map Instr.wf = List.replicate 8 false := by decide

theorem test_wf_refuses_system :
    [Instr.qpush 1 4, .qpop 1 3, .hget 1 0 19, .hget 1 0 36, .hset 0 1 1, .hset 0 1 18, .hset 0 1 35, .csrr 1 5, .csrr 1 0x0F,
      .csrw 1 0, .csrx 1 1 8, .tlbinv 0 0 3, .tlbinv 1 1 1, .tlbinv 1 0 2].map Instr.wf = List.replicate 14 false := by
  decide

theorem test_wf_refuses_places :
    (Instr.vadd { launch := lid, stripe := 24, col := 1 }).wf = false
    ∧ (Instr.steer { launch := lid, forme := 65536, rtr := 0 }).wf = false
    ∧ (Instr.routerConversion { launch := lid, forme := 0, link := 64 }).wf = false
    ∧ (Instr.routerConversion { launch := lid, forme := 65536, link := 0 }).wf = false
    ∧ (Instr.scLoad { launch := lid, port := 256 }).wf = false := by decide

theorem test_wf_refuses_boundary :
    (Instr.jobEnqueue 0 8192 0 [] true).wf = false ∧ (Instr.jobEnqueue 0 0 0 (List.replicate 129 0) true).wf = false
    ∧ (Instr.retire 8192).wf = false ∧ (Instr.save { queue := 8192, seq := 0 }).wf = false
    ∧ (Instr.hostCxlMemAccess (2 ^ 52) none).wf = false
    ∧ (Instr.hostCxlMemAccess 0 (some (List.replicate 65 0))).wf = false := by decide +kernel

theorem test_decode_plain :
    [decodeWords [0x00000000],
      decodeWords [0x12299C35],
      decodeWords [0x16299C35],
      decodeWords [0x1A299C35],
      decodeWords [0x1E299C35],
      decodeWords [0x2229002D],
      decodeWords [0x22290071],
      decodeWords [0x222900AA],
      decodeWords [0x26299C35],
      decodeWords [0x2A209C35],
      decodeWords [0x2E209C35]]
    = [.ok (.ill, []),
      .ok (.addi 0x11 9 0x9C35, []),
      .ok (.andi 0x11 9 0x9C35, []),
      .ok (.ori 0x11 9 0x9C35, []),
      .ok (.xori 0x11 9 0x9C35, []),
      .ok (.slli 0x11 9 0x2D, []),
      .ok (.srli 0x11 9 0x31, []),
      .ok (.srai 0x11 9 0x2A, []),
      .ok (.slti 0x11 9 0x9C35, []),
      .ok (.lui 0x11 0x9C35, []),
      .ok (.addpc 0x11 0x9C35, [])] := by
  decide +kernel

theorem test_decode_alu :
    [decodeWords [0x0629B000],
      decodeWords [0x0629B001],
      decodeWords [0x0629B002],
      decodeWords [0x0629B003],
      decodeWords [0x0629B004],
      decodeWords [0x0629B005],
      decodeWords [0x0629B006],
      decodeWords [0x0629B007],
      decodeWords [0x0629B008],
      decodeWords [0x0629B009],
      decodeWords [0x0629B00A],
      decodeWords [0x0629B00B],
      decodeWords [0x0629B00C],
      decodeWords [0x0629B00D]]
    = [.ok (.add 0x11 9 0x16, []),
      .ok (.sub 0x11 9 0x16, []),
      .ok (.and 0x11 9 0x16, []),
      .ok (.or 0x11 9 0x16, []),
      .ok (.xor 0x11 9 0x16, []),
      .ok (.sll 0x11 9 0x16, []),
      .ok (.srl 0x11 9 0x16, []),
      .ok (.sra 0x11 9 0x16, []),
      .ok (.slt 0x11 9 0x16, []),
      .ok (.sltu 0x11 9 0x16, []),
      .ok (.min 0x11 9 0x16, []),
      .ok (.max 0x11 9 0x16, []),
      .ok (.minu 0x11 9 0x16, []),
      .ok (.maxu 0x11 9 0x16, [])] := by
  decide +kernel

theorem test_decode_muldiv :
    [decodeWords [0x0A29B000],
      decodeWords [0x0A29B001],
      decodeWords [0x0A29B002],
      decodeWords [0x0A29B004],
      decodeWords [0x0A29B005],
      decodeWords [0x0A29B006],
      decodeWords [0x0A29B007]]
    = [.ok (.mul 0x11 9 0x16, []),
      .ok (.mulh 0x11 9 0x16, []),
      .ok (.mulhu 0x11 9 0x16, []),
      .ok (.div 0x11 9 0x16, []),
      .ok (.rem 0x11 9 0x16, []),
      .ok (.divu 0x11 9 0x16, []),
      .ok (.remu 0x11 9 0x16, [])] := by
  decide +kernel

theorem test_decode_bits :
    [decodeWords [0x0E290000],
      decodeWords [0x0E290001],
      decodeWords [0x0E290002],
      decodeWords [0x0E290003],
      decodeWords [0x0E291A2C],
      decodeWords [0x0E29182D],
      decodeWords [0x0E29194E],
      decodeWords [0x0E29B007]]
    = [.ok (.clz 0x11 9, []),
      .ok (.ctz 0x11 9, []),
      .ok (.popc 0x11 9, []),
      .ok (.bswp 0x11 9, []),
      .ok (.exts 0x11 9 3 1 5, []),
      .ok (.extz 0x11 9 3 0 5, []),
      .ok (.insf 0x11 9 3 0 0x29, []),
      .ok (.sel 0x11 9 0x16, [])] := by
  decide +kernel

theorem test_decode_fpu :
    [decodeWords [0x3229B020],
      decodeWords [0x3229B021],
      decodeWords [0x3229B022],
      decodeWords [0x3229B023],
      decodeWords [0x3229B024],
      decodeWords [0x3229B005],
      decodeWords [0x3229B006],
      decodeWords [0x3229B087],
      decodeWords [0x32290128]]
    = [.ok (.fadd 0x11 9 0x16 2, []),
      .ok (.fsub 0x11 9 0x16 2, []),
      .ok (.fmul 0x11 9 0x16 2, []),
      .ok (.fdiv 0x11 9 0x16 2, []),
      .ok (.fma 0x11 9 0x16 2, []),
      .ok (.fmin 0x11 9 0x16, []),
      .ok (.fmax 0x11 9 0x16, []),
      .ok (.fcmp 0x11 9 0x16 2, []),
      .ok (.fcvt 0x11 9 4 2, [])] := by
  decide +kernel

theorem test_decode_transfer :
    [decodeWords [0x413605B3],
      decodeWords [0x413625B3],
      decodeWords [0x413645B3],
      decodeWords [0x413665B3],
      decodeWords [0x413685B3],
      decodeWords [0x4136A5B3],
      decodeWords [0x4400A5B3],
      decodeWords [0x4800A5B3],
      decodeWords [0x4C090000],
      decodeWords [0x4E290001],
      decodeWords [0x52299C35]]
    = [.ok (.beq 9 0x16 0x5B3, []),
      .ok (.bne 9 0x16 0x5B3, []),
      .ok (.blt 9 0x16 0x5B3, []),
      .ok (.bge 9 0x16 0x5B3, []),
      .ok (.bltu 9 0x16 0x5B3, []),
      .ok (.bgeu 9 0x16 0x5B3, []),
      .ok (.j 0xA5B3, []),
      .ok (.call 0xA5B3, []),
      .ok (.jr 9, []),
      .ok (.callr 0x11 9, []),
      .ok (.callt 0x11 9 0x9C35, [])] := by
  decide +kernel

theorem test_decode_memory :
    [decodeWords [0x6229D5B3],
      decodeWords [0x662985B3],
      decodeWords [0x6A69A5B3],
      decodeWords [0x6C0905B3],
      decodeWords [0x6C2905B3],
      decodeWords [0x78000502]]
    = [.ok (.ld 0x11 9 3 1 0x5B3, []),
      .ok (.lds 0x11 9 2 0 0x5B3, []),
      .ok (.st 0x13 9 2 2 0x5B3, []),
      .ok (.prefR 9 0x5B3, []),
      .ok (.prefW 9 0x5B3, []),
      .ok (.fence 5 2, [])] := by
  decide +kernel

theorem test_decode_atomic :
    [decodeWords [0x7229B030],
      decodeWords [0x7229B031],
      decodeWords [0x7229B032],
      decodeWords [0x7229B033],
      decodeWords [0x7229B054],
      decodeWords [0x7229B035],
      decodeWords [0x7229B03E],
      decodeWords [0x7629B030]]
    = [.ok (.amoadd 0x11 9 0x16 1 2, []),
      .ok (.amoand 0x11 9 0x16 1 2, []),
      .ok (.amoor 0x11 9 0x16 1 2, []),
      .ok (.amoxor 0x11 9 0x16 1 2, []),
      .ok (.amomin 0x11 9 0x16 2 2, []),
      .ok (.amomax 0x11 9 0x16 1 2, []),
      .ok (.amoswap 0x11 9 0x16 1 3, []),
      .ok (.cas 0x11 9 0x16 1 2, [])] := by
  decide +kernel

theorem test_decode_sync :
    [decodeWords [0x80090000],
      decodeWords [0x82290001],
      decodeWords [0x82290002],
      decodeWords [0x82290003],
      decodeWords [0x84090B00],
      decodeWords [0x88090200],
      decodeWords [0x8A200501],
      decodeWords [0x8A200602],
      decodeWords [0x88090303],
      decodeWords [0x8E200000]]
    = [.ok (.evsig 9, []),
      .ok (.evwait 0x11 9, []),
      .ok (.evpoll 0x11 9, []),
      .ok (.evset 0x11 9, []),
      .ok (.bar 9 0xB, []),
      .ok (.qpush 9 2, []),
      .ok (.qpop 0x11 5, []),
      .ok (.qspace 0x11 6, []),
      .ok (.qnote 9 3, []),
      .ok (.wfe 0x11, [])] := by
  decide +kernel

theorem test_decode_records :
    [decodeWords [0x90C98B00],
      decodeWords [0x90C97301],
      decodeWords [0x92260502],
      decodeWords [0x90C90503],
      decodeWords [0x92260004],
      decodeWords [0x96290000],
      decodeWords [0x94090001],
      decodeWords [0x96290002]]
    = [.ok (.hld 6 9 0x8B, []),
      .ok (.hst 6 9 0x73, []),
      .ok (.hget 0x11 6 5, []),
      .ok (.hset 6 9 5, []),
      .ok (.hchk 0x11 6, []),
      .ok (.lrreg 0x11 9, []),
      .ok (.lrfree 9, []),
      .ok (.lrkey 0x11 9, [])] := by
  decide +kernel

theorem test_decode_streams :
    [decodeWords [0xA22A0300],
      decodeWords [0xA8090000],
      decodeWords [0xB2290200],
      decodeWords [0xB2200301],
      decodeWords [0xB2200302],
      decodeWords [0xB0000303],
      decodeWords [0xB0000304]]
    = [.ok (.scx 0x11 5 3, []),
      .ok (.scwait 9, []),
      .ok (.glaunch 0x11 9 2, []),
      .ok (.gwait 0x11 3, []),
      .ok (.gstat 0x11 3, []),
      .ok (.gmark 3, []),
      .ok (.gstop 3, [])] := by
  decide +kernel

theorem test_decode_system :
    [decodeWords [0xC2200B04],
      decodeWords [0xC0090D05],
      decodeWords [0xC2290D06],
      decodeWords [0xC0005A00],
      decodeWords [0xC0000001],
      decodeWords [0xC0000002],
      decodeWords [0xC000C303],
      decodeWords [0xC2290007],
      decodeWords [0xC0090008],
      decodeWords [0xC0090009],
      decodeWords [0xC2291D0A]]
    = [.ok (.csrr 0x11 0xB, []),
      .ok (.csrw 9 0xD, []),
      .ok (.csrx 0x11 9 0xD, []),
      .ok (.trap 0x5A, []),
      .ok (.eret, []),
      .ok (.halt, []),
      .ok (.brk 0xC3, []),
      .ok (.tlbinv 0x11 9 0, []),
      .ok (.ctxsave 9, []),
      .ok (.ctxld 9, []),
      .ok (.ligbind 0x11 9 0x1D, [])] := by
  decide +kernel

/-- SCL: its word, then the four words of the command, the first the lowest. -/
theorem test_decode_scl :
    decodeWords [0xA6A00304, 0x11111111, 0x22222222, 0x33333333, 0x44444444]
      = .ok (.scl 21 3 0x44444444333333332222222211111111, []) := by
  decide +kernel

theorem test_decode_refuses :
    (decodeWords [0x0629B00E]).isOk = false ∧ (decodeWords [0x0629B043]).isOk = false
    ∧ (decodeWords [0xFC000000]).isOk = false := by
  decide +kernel

end Sys2Proof.Tests
end

section
/-! PROOFS. The boundary of the module: checkpoints, keys, measurements, register writes, profiling and agents (07 R200,
R203, 03 R84, 17 R413-R427). What each of these steps does where it completes, and where it waits or changes nothing. -/

namespace Sys2Proof.Machine

/-! ### What is charged, and what the arbiters answer -/

theorem State.chargedBy_append {s t : State} {cs : List Charge} (h : t.charges = s.charges ++ cs) : s.chargedBy t = cs := by
  rw [State.chargedBy, h, List.drop_left]

theorem State.arbitrate_admitted {s t : State} {who : Asker} {waiting cs : List Charge} (hc : t.charges = s.charges ++ cs)
    (ha : s.admits who waiting cs = true) : s.arbitrate t who waiting = t.served who := by
  rw [State.arbitrate, State.chargedBy_append hc, if_pos ha]

theorem State.arbitrate_refused {s t : State} {who : Asker} {waiting cs : List Charge} (hc : t.charges = s.charges ++ cs)
    (ha : s.admits who waiting cs = false) : s.arbitrate t who waiting = s.waitsFor who cs := by
  rw [State.arbitrate, State.chargedBy_append hc, if_neg (by simp [ha])]

/-! ### Checkpoints -/

/-- The parts of 4 KiB that the next step of a checkpoint's copy takes, in the checkpoint's order (R420). -/
def Mirror.granules (r : Mirror) : List Nat := (List.range 16).map fun i => r.frontier + 4096 * i

/-- Whether the next step of the copy meets an error where it writes the image (R421). -/
def MemSys.imageBad (ms : MemSys) (r : Mirror) : Bool :=
  r.granules.any fun o => (ms.tierOf (r.pa o)).isNone || ms.rangeBad (r.pa o) 4096

/-- What the next step of the copy is charged. -/
def MemSys.blockCharges (ms : MemSys) (r : Mirror) : List Charge :=
  r.granules.flatMap fun o => ms.memCharges 0 (ckptPa o) 4096 31 ++ ms.memCharges 0 (r.pa o) 4096 31

theorem MemSys.imageBad_of_granule {ms : MemSys} {r : Mirror} {i : Nat} (hi : i < 16)
    (h : ms.tierOf (r.pa (r.frontier + 4096 * i)) = none ∨ ms.rangeBad (r.pa (r.frontier + 4096 * i)) 4096 = true) :
    ms.imageBad r = true :=
  List.any_eq_true.mpr ⟨_, List.mem_map_of_mem (List.mem_range.mpr hi), by simpa using h⟩

theorem MemSys.imageBad_eq_false {ms : MemSys} {r : Mirror}
    (h : ∀ o, o ∈ r.granules → (ms.tierOf (r.pa o)).isSome = true ∧ ms.rangeBad (r.pa o) 4096 = false) :
    ms.imageBad r = false := by
  refine List.any_eq_false.mpr fun o ho => ?_
  obtain ⟨htier, hrange⟩ := h o ho
  simp [hrange, Option.isSome_iff_ne_none.mp htier]

/-- A step of the copy that meets an error at the safe tier aborts the checkpoint (R421). -/
theorem execCheckpointBlockCopy_aborts {s : State} {r : Mirror} (hp : s.bd.ckpt.phase = .copying) (hm : s.ms.mirror = some r)
    (hb : r.failed = true ∨ ∃ i, i < 16 ∧ (s.ms.tierOf (r.pa (r.frontier + 4096 * i)) = none
      ∨ s.ms.rangeBad (r.pa (r.frontier + 4096 * i)) 4096 = true)) :
    execCheckpointBlockCopy s = .next (s.ckptEnd .aborted) := by
  have hbad : (r.failed || s.ms.imageBad r) = true := by
    rcases hb with hf | ⟨i, hi, hg⟩
    · simp [hf]
    · simp [MemSys.imageBad_of_granule hi hg]
  unfold execCheckpointBlockCopy
  simp only [hp, hm]
  exact if_pos hbad

/-- A step of the copy that the arbiters do not let through waits (R116, log 125). -/
theorem execCheckpointBlockCopy_waits {s : State} {r : Mirror} (hp : s.bd.ckpt.phase = .copying)
    (hm : s.ms.mirror = some r) (hf : r.failed = false)
    (hg : ∀ o, o ∈ r.granules → (s.ms.tierOf (r.pa o)).isSome = true ∧ s.ms.rangeBad (r.pa o) 4096 = false)
    (ha : s.admits .ckpt s.wanted (s.ms.blockCharges r) = false) :
    execCheckpointBlockCopy s = .next (s.waitsFor .ckpt (s.ms.blockCharges r)) := by
  have hbad : ¬ (r.failed || s.ms.imageBad r) = true := by simp [hf, MemSys.imageBad_eq_false hg]
  unfold execCheckpointBlockCopy
  simp only [hp, hm]
  refine (if_neg hbad).trans (congrArg _ (State.arbitrate_refused ?_ ha))
  split <;> rfl

/-- GO while a checkpoint runs has no effect (R420). -/
theorem State.ckptGo_runs {s : State} (q : Bool) (h : s.bd.ckpt.runs = true) : s.ckptGo q = s := if_pos h

/-- GO without a safe tier aborts (R420). -/
theorem State.ckptGo_noSafe {s : State} (h : s.bd.ckpt.runs = false) (hs : s.safePorts = []) :
    s.ckptGo false = s.ckptEnd .aborted := by
  simp [State.ckptGo, State.ckptCopy, h, hs]

/-- A write of CKPTCTL with GO and without RESTORE. -/
theorem State.writeCkpt_go {s : State} {v : W64} (hr : v.getLsbD 2 = false) (hg : v.getLsbD 0 = true) :
    s.writeCkpt v = s.ckptGo (v.getLsbD 1) := by
  rw [State.writeCkpt, hr, hg]; rfl

theorem execCheckpointFlush_fails {s : State} (h : s.bd.ckpt.phase = .flushing) :
    execCheckpointFlush false s = .next (s.ckptEnd .aborted) := by
  simp [execCheckpointFlush, h]

/-- RESTORE does nothing without an image, and while a queue is enabled (R422, log 88). -/
theorem State.restoreImage_waits {s : State} (h : s.bd.safeHdr = none ∨ ∃ e, e ∈ s.dp.queues ∧ e.2.en = true) :
    s.restoreImage = s := by
  unfold State.restoreImage
  split
  · rfl
  · next hdr hs =>
    rcases h with h | h
    · rw [h] at hs; cases hs
    · have hen : (s.dp.queues.any fun e => e.2.en) = true := List.any_eq_true.mpr h
      simp [hen]

/-! ### Keys and measurements -/

theorem execKeyLoad_refused {s : State} {n kslot : Nat} {wrapped : List Byte} {kwk : List Nat}
    (hk : tget none s.bd.kwks n = some kwk) (hu : aesKeyUnwrap kwk (wrapped.map BitVec.toNat) = none) :
    execKeyLoad n kslot wrapped s = .next s := by
  simp [execKeyLoad, hk, hu]

/-- A handle that names a slot is bound. -/
theorem Ctx.keySlot_ne_none {c : Ctx} {h : Nat} (hk : c.keySlot h ≠ none) : tget 0 c.keys h ≠ 0 := by
  intro hz
  simp [Ctx.keySlot, hz] at hk

theorem execKeyBind_bound {s : State} {asid h : BitVec 16} (kslot : Nat) (hk : (s.ctx asid.toNat).keySlot h.toNat ≠ none) :
    execKeyBind asid h kslot s = .next s := by
  have hb : (tget 0 (s.ctx asid.toNat).keys h.toNat != 0) = true := bne_iff_ne.mpr (Ctx.keySlot_ne_none hk)
  simp [execKeyBind, hb]

theorem execGetMeasurements_some {s : State} {m : Nat} {bs : List Byte} (h : s.measurement m = some bs) :
    execGetMeasurements m s = .next { s with
      free := s.free + 1, bd := { s.bd with report := some (m, bs), signature := Config.sm2Sign s.free bs } } := by
  rw [execGetMeasurements, h]

theorem execGetMeasurements_none {s : State} {m : Nat} (h : s.measurement m = none) : execGetMeasurements m s = .next s := by
  rw [execGetMeasurements, h]

/-! ### Register writes -/

/-- A request of system software that is admitted leaves the line of the arbiters (R116). -/
theorem State.managed_admitted {s : State} {f : State → State} (hf : ∀ t, (f t).charges = t.charges)
    (ha : s.admits .mgmt s.wanted [{ res := 6, inst := 0, cls := 31, units := 1 }] = true) :
    s.managed f = (f (s.charge [{ res := 6, inst := 0, cls := 31, units := 1 }])).served .mgmt :=
  State.arbitrate_admitted (hf _) ha

/-- One that is not waits. -/
theorem State.managed_refused {s : State} {f : State → State} (hf : ∀ t, (f t).charges = t.charges)
    (ha : s.admits .mgmt s.wanted [{ res := 6, inst := 0, cls := 31, units := 1 }] = false) :
    s.managed f = s.waitsFor .mgmt [{ res := 6, inst := 0, cls := 31, units := 1 }] :=
  State.arbitrate_refused (hf _) ha

/-- TPOL stands at offset 0xC00000 of management space (R356, R415). -/
theorem State.writeMgmt_tpol (s : State) (v : W64) :
    s.writeMgmt 0xC00000 v = { s with ms := { s.ms with tpol := writeTpol s.ms.tpol v } } := by
  simp [State.writeMgmt]

/-- A write through another function than 0, or while port 0 is down, changes nothing (R413, R96, log 84). -/
theorem execRegisterWrite_otherFunction {s : State} {f : Nat} (q off : Nat) (v : W64) (h : f ≠ 0 ∨ s.portUp 0 = false) :
    execRegisterWrite (.queuePage f q off) v s = .next s := by
  rcases h with h | h
  · simp [execRegisterWrite, State.writeQueuePage, h]
  · simp [execRegisterWrite, h]

/-- QNEXT of an empty queue that is disabled sets the next record and the count of retired ones (R98, log 84). -/
theorem execRegisterWrite_qnext {s : State} {q : Nat} (v : W64) (hq : q < 8192) (hup : s.portUp 0 = true)
    (hen : (s.queue q).en = false) (hempty : (s.queue q).next = (s.queue q).retired) :
    execRegisterWrite (.queuePage 0 q 0x88) v s
      = .next (s.modQueue q fun x => { x with next := v.setWidth 32, retired := v.setWidth 32 }) := by
  have hq' : ¬ 8192 ≤ q := Nat.not_le.mpr hq
  simp [execRegisterWrite, State.writeQueuePage, hup, hq', hen, hempty]

/-! ### Profiling and debugging -/

/-- PERIOD of PROFILE, by its bits (R200). -/
theorem fieldN_period (v : W64) : fieldN 64 v 16 16 = v.toNat / 65536 % 65536 := by
  simp [fieldN, Nat.shiftRight_eq_div_pow]

theorem execProfileSample_samples (s : State) (g : Fin 16) (b : Fin 4) :
    let k := 4 * g.val + b.val
    (s.thread k).profile.getLsbD 0 = true → (s.thread k).run ≠ .idle →
    (s.thread k).sampleFc + (s.thread k).profile.toNat / 65536 % 65536 * 1024 ≤ s.clk.fc →
    execProfileSample g b s = .next (({ s with samples := s.samples ++ [(k, (s.thread k).pc)] } : State).setThread k
      { s.thread k with sampleFc := s.clk.fc }) := by
  intro k he hr hp
  exact if_pos (by simp only [fieldN_period, bne_iff_ne, Bool.and_eq_true, decide_eq_true_eq]; exact ⟨⟨he, hr⟩, hp⟩)

theorem execProfileSample_waits (s : State) (g : Fin 16) (b : Fin 4) :
    let k := 4 * g.val + b.val
    (s.thread k).profile.getLsbD 0 = false
      ∨ s.clk.fc < (s.thread k).sampleFc + (s.thread k).profile.toNat / 65536 % 65536 * 1024 →
    execProfileSample g b s = .next s := by
  intro k h
  refine if_neg ?_
  simp only [fieldN_period, Bool.and_eq_true, decide_eq_true_eq]
  rintro ⟨⟨he, -⟩, hp⟩
  rcases h with h | h
  · exact Bool.false_ne_true (h.symm.trans he)
  · exact Nat.not_le.mpr h hp

theorem execDebugAgentResume_agent (s : State) (g : Fin 16) (b : Fin 4) (pc : BitVec 56) :
    let k := 4 * g.val + b.val
    (s.thread k).run = .agent → execDebugAgentResume g b pc s
      = .next (s.modThread k fun th => { th with run := .running, pc := pc &&& ~~~3 }) :=
  fun h => if_pos (beq_iff_eq.mpr h)

theorem execDebugAgentResume_other (s : State) (g : Fin 16) (b : Fin 4) (pc : BitVec 56) :
    let k := 4 * g.val + b.val
    (s.thread k).run ≠ .agent → execDebugAgentResume g b pc s = .next s :=
  fun h => if_neg fun e => h (beq_iff_eq.mp e)

/-! ### Ligatures through the management path -/

/-- The entry that an image is bound as: its own bytes with their digest (R291). -/
def ligEntryOf (img : List Byte) : LigEntry :=
  let bytes := img.take (16 + 8 * ligWords img)
  { image := bytes, digest := sm3 (bytes.map BitVec.toNat) }

/-- Binding an image that passes its checks, where no running launch uses the opcode: the set of the context alone
changes (R206, R291). -/
theorem State.bindLig_bound {s : State} {asid n : Nat} {img : List Byte} (hc : ligCheck img n = 0)
    (hb : s.ligBusy asid (0xE0 + n) = false) :
    s.bindLig asid n (some img) = (s.modCtx asid fun c => { c with ligs := tset none c.ligs n (some (ligEntryOf img)) }, 0) := by
  simp [State.bindLig, ligEntryOf, hc, hb]

/-- The same through the management path: the result code is kept too (R84, log 109). -/
theorem State.bindPath_bound {s : State} {asid n : Nat} {img : List Byte} (hc : ligCheck img n = 0)
    (hb : s.ligBusy asid (0xE0 + n) = false) :
    s.bindPath asid n (some img)
      = (s.modCtx asid fun c => { c with ligs := tset none c.ligs n (some (ligEntryOf img)) }).modCtx asid fun c =>
          { c with ligResult := some 0 } := by
  rw [State.bindPath, State.bindLig_bound hc hb]

@[simp] theorem State.ctx_touches (s : State) (asid a : Nat) (rs : List (Nat × Nat)) :
    (s.touches asid rs).ctx a = s.ctx a := rfl

/-- A bind through the management path of an image that can be read (R84). -/
theorem execManagementPathLigatureBind_read {s : State} {asid : BitVec 16} (n : BitVec 5) {addr : W64} {hd img : List Byte}
    (h0 : addr ≠ 0) (h8 : addr.toNat % 8 = 0) (hhd : s.sysRead asid.toNat addr.toNat 16 = some hd)
    (himg : s.sysRead asid.toNat addr.toNat (16 + 8 * ligWords hd) = some img) :
    execManagementPathLigatureBind asid n addr s
      = .next ((s.touches asid.toNat [(addr.toNat, 16 + 8 * ligWords hd)]).bindPath asid.toNat n.toNat (some img)) := by
  have hn : addr.toNat ≠ 0 := fun h => h0 (BitVec.eq_of_toNat_eq h)
  simp [execManagementPathLigatureBind, hn, h8, hhd, himg]

/-- R420-R422, R416, R426, R427: where checkpoints, keys and measurements wait or change nothing. -/
theorem checkpointWaits : Claims.CheckpointWaits := by
  intro s r n kslot m wrapped kwk asid h
  refine ⟨execCheckpointBlockCopy_aborts, fun v hr hg => ⟨fun hrun => ?_, fun hrun hq hs => ?_⟩,
    execCheckpointBlockCopy_waits, execCheckpointFlush_fails, rfl, fun hw => ?_, execKeyLoad_refused,
    execKeyBind_bound kslot, execGetMeasurements_none⟩
  · exact congrArg _ ((State.writeCkpt_go hr hg).trans (State.ckptGo_runs _ hrun))
  · exact congrArg _ ((State.writeCkpt_go hr hg).trans (hq ▸ State.ckptGo_noSafe hrun hs))
  · exact congrArg _ (State.restoreImage_waits hw)

/-- R6, R99, R200: where register writes, profiling and agents wait or change nothing. -/
theorem agentsWait : Claims.AgentsWait := by
  intro s q off f v g b pc
  refine ⟨execRegisterWrite_otherFunction q off v, fun ha => ?_, execProfileSample_waits s g b,
    execDebugAgentResume_other s g b pc⟩
  exact congrArg _ (State.managed_refused (fun t => by rw [State.writeMgmt_tpol]) ha)

/-- Settles O60: each clause is what one step of the boundary does where it waits or changes nothing. -/
theorem checkpointResults : Obligations.CheckpointResults := ⟨checkpointWaits, agentsWait⟩

/-- Settles O59: each clause is what one step of the boundary does where it completes. -/
theorem agentsComplete : Obligations.AgentsComplete := by
  intro s m q v addr g b asid n claim pc hd img
  refine ⟨fun bs => execGetMeasurements_some, execRegisterWrite_qnext v, fun ha => ?_, execProfileSample_samples s g b,
    ⟨_, rfl, ?_, fun a ha => State.ctx_modCtx_ne _ _ _ _ ha⟩, execDebugAgentResume_agent s g b pc,
    fun h0 h8 hhd himg hc hb => ?_⟩
  · have hm := State.managed_admitted (f := fun t => t.writeMgmt 0xC00000 v) (fun t => by rw [State.writeMgmt_tpol]) ha
    simp only [State.writeMgmt_tpol] at hm
    exact ⟨_, congrArg Host.Outcome.next hm, rfl, rfl, rfl⟩
  · rw [State.ctx_modCtx_same]
  · have hbind := (execManagementPathLigatureBind_read n h0 h8 hhd himg).trans (congrArg _ (State.bindPath_bound hc hb))
    refine ⟨_, ligEntryOf img, hbind, rfl, ?_, ?_, fun a ha => ?_⟩
    · simp
    · simp
    · rw [State.ctx_modCtx_ne _ _ _ _ ha, State.ctx_modCtx_ne _ _ _ _ ha, State.ctx_touches]

end Sys2Proof.Machine
end

section
/-! PROOFS. No state stops the machine: every instruction, every step of the part and every move that the machine makes of
itself answers a next state, and so does every step (00 R12, 06 R145). One lemma for each shared operation, one for each
meaning that branches on what it finds, then the case split over the instructions. -/

namespace Sys2Proof.Machine

/-! ### Outcomes that are a next state -/

/-- An outcome is a next state: the machine neither faults nor refuses. -/
def GoesOn (o : Out) : Prop := ∃ t, o = .next t

theorem goesOn_next (t : State) : GoesOn (.next t) := ⟨t, rfl⟩

theorem goesOn_ite {c : Prop} [Decidable c] {a b : Out} (ha : GoesOn a) (hb : GoesOn b) : GoesOn (if c then a else b) := by
  split
  · exact ha
  · exact hb

theorem goesOn_ite_next {c : Prop} [Decidable c] (a b : State) : GoesOn (if c then .next a else .next b) :=
  goesOn_ite (goesOn_next a) (goesOn_next b)

/-! ### The shared operations of instructions -/

theorem goesOn_checked {i : Instr} {s : State} {k : Thread → Out} (h : ∀ th, GoesOn (k th)) : GoesOn (checked i s k) :=
  goesOn_ite (h _) (goesOn_next _)

theorem goesOn_privileged {i : Instr} {s : State} {k : Thread → Out} (h : ∀ th, GoesOn (k th)) :
    GoesOn (privileged i s k) :=
  goesOn_checked fun th => goesOn_ite (h th) (goesOn_next _)

theorem goesOn_andThen {α : Type} {a : Acc α} {k : State → α → Out} (h : ∀ s v, GoesOn (k s v)) : GoesOn (a.andThen k) := by
  cases a with
  | ok s v => exact h s v
  | trap s t => exact goesOn_next _
  | post s => exact goesOn_next _

theorem goesOn_transfer (s : State) (target : W64) (f : Thread → Thread) : GoesOn (transfer s target f) :=
  goesOn_andThen fun _ _ => goesOn_next _

theorem goesOn_alu (i : Instr) (s : State) (d a b : BitVec 5) (f : W64 → W64 → W64) : GoesOn (alu i s d a b f) :=
  goesOn_checked fun _ => goesOn_next _

theorem goesOn_alu1 (i : Instr) (s : State) (d a : BitVec 5) (f : W64 → W64) : GoesOn (alu1 i s d a f) :=
  goesOn_checked fun _ => goesOn_next _

theorem goesOn_fpu (i : Instr) (s : State) (d : BitVec 5) (f : Thread → Nat × Flags) : GoesOn (fpu i s d f) :=
  goesOn_checked fun _ => goesOn_next _

theorem goesOn_loadReg (i : Instr) (s : State) (d a : BitVec 5) (z : BitVec 2) (o : BitVec 12) (f : Nat → W64) :
    GoesOn (loadReg i s d a z o f) :=
  goesOn_checked fun _ => goesOn_andThen fun _ _ => goesOn_next _

theorem goesOn_amo (i : Instr) (s : State) (d a b : BitVec 5) (z : BitVec 2) (f : Nat → Nat → Nat → Nat) :
    GoesOn (amo i s d a b z f) :=
  goesOn_checked fun _ => goesOn_andThen fun _ _ => goesOn_next _

theorem goesOn_branch (i : Instr) (s : State) (a b : BitVec 5) (o : BitVec 13) (c : W64 → W64 → Bool) :
    GoesOn (branch i s a b o c) :=
  goesOn_checked fun _ => goesOn_ite (goesOn_transfer _ _ _) (goesOn_next _)

theorem goesOn_jumpTo {s : State} {t : W64} {k : Out} (h : GoesOn k) : GoesOn (jumpTo s t k) := goesOn_ite (goesOn_next _) h

theorem goesOn_onEvent {i : Instr} {a : BitVec 5} {s : State} {f : Nat → Thread → Out} (h : ∀ e th, GoesOn (f e th)) :
    GoesOn (onEvent i a s f) :=
  goesOn_checked fun _ => goesOn_ite (goesOn_next _) (goesOn_ite (h _ _) (goesOn_next _))

theorem goesOn_issueStream (i : Instr) (d : BitVec 5) (ls : Nat) (bits : BitVec 128) (n : Nat) (s : State) :
    GoesOn (issueStream i d ls bits n s) :=
  goesOn_ite (goesOn_next _) (goesOn_ite_next _ _)

/-! ### The shared operations of the fabric -/

theorem goesOn_fireElem (op : Nat) (f : Cfg → OpSt → Ins → Res) (id : ElemId) (s : State) : GoesOn (fireElem op f id s) := by
  unfold fireElem
  split
  · exact goesOn_next _
  · exact goesOn_ite_next _ _

theorem goesOn_agSite (op : Nat) (id : ElemId) (s : State) (f : State → Site → State) : GoesOn (agSite op id s f) := by
  simp only [agSite]
  split
  · exact goesOn_next _
  · exact goesOn_ite_next _ _

theorem goesOn_route (s : State) (id : RouterId) (code : Nat) (ins outs : RSite → List Nat)
    (f : State → RSite → Option State) : GoesOn (s.route id code ins outs f) := by
  simp only [State.route]
  repeat' split
  all_goals exact goesOn_next _

theorem goesOn_startCmd (scop : Nat) (p : PortId) (s : State) (f : State → PRef → Cmd → Option State) :
    GoesOn (startCmd scop p s f) := by
  unfold startCmd
  split
  · exact goesOn_next _
  · split
    · exact goesOn_next _
    · refine goesOn_ite (goesOn_next _) (goesOn_ite (goesOn_next _) (goesOn_ite (goesOn_next _) ?_))
      split <;> exact goesOn_next _

theorem goesOn_startAccess (scop : Nat) (p : PortId) (s : State) : GoesOn (startAccess scop p s) := goesOn_startCmd ..

theorem goesOn_acted (s : State) (lk : Nat) (s1 : State) : GoesOn (s.acted lk s1) := goesOn_ite_next _ _

/-! ### Instructions of threads -/

theorem goesOn_execHget (d : BitVec 5) (h : BitVec 3) (f : BitVec 8) (s : State) : GoesOn (execHget d h f s) :=
  goesOn_checked fun th => by
    split <;> exact goesOn_next _

theorem goesOn_execHset (h : BitVec 3) (a : BitVec 5) (f : BitVec 8) (s : State) : GoesOn (execHset h a f s) :=
  goesOn_checked fun th => by
    dsimp only
    split
    · exact goesOn_next _
    · exact goesOn_ite (goesOn_next _) (goesOn_ite_next _ _)

theorem goesOn_execHalt (s : State) : GoesOn (execHalt s) :=
  goesOn_checked fun th => by
    dsimp only
    split <;> exact goesOn_next _

theorem goesOn_execCtxld (a : BitVec 5) (s : State) : GoesOn (execCtxld a s) :=
  goesOn_privileged fun _ => goesOn_ite (goesOn_next _) <| goesOn_andThen fun _ _ => goesOn_andThen fun _ _ =>
    goesOn_ite (goesOn_next _) <| by
      split <;> exact goesOn_next _

theorem goesOn_execBar (a : BitVec 5) (i : BitVec 4) (s : State) : GoesOn (execBar a i s) :=
  goesOn_checked fun th => by
    dsimp only
    split
    · split
      · exact goesOn_ite_next _ _
      · exact goesOn_ite (goesOn_next _) (goesOn_ite_next _ _)
    · exact goesOn_ite_next _ _

theorem goesOn_execQpop (d : BitVec 5) (q : BitVec 3) (s : State) : GoesOn (execQpop d q s) :=
  goesOn_checked fun th => by
    dsimp only
    split <;> exact goesOn_next _

theorem goesOn_execLrreg (d a : BitVec 5) (s : State) : GoesOn (execLrreg d a s) :=
  goesOn_checked fun _ => goesOn_ite (goesOn_next _) <| goesOn_andThen fun s1 ws => by
    dsimp only
    split <;> exact goesOn_next _

theorem goesOn_execLrfree (a : BitVec 5) (s : State) : GoesOn (execLrfree a s) :=
  goesOn_checked fun th => by
    dsimp only
    split <;> exact goesOn_next _

theorem goesOn_execLrkey (d a : BitVec 5) (s : State) : GoesOn (execLrkey d a s) :=
  goesOn_privileged fun th => by
    dsimp only
    split
    · exact goesOn_next _
    · exact goesOn_ite (goesOn_next _) (goesOn_ite_next _ _)

theorem goesOn_execGwait (d : BitVec 5) (ls : BitVec 2) (s : State) : GoesOn (execGwait d ls s) :=
  goesOn_checked fun th => by
    dsimp only
    split
    · exact goesOn_next _
    · split
      · exact goesOn_next _
      · exact goesOn_ite_next _ _

theorem goesOn_execGmark (ls : BitVec 2) (s : State) : GoesOn (execGmark ls s) :=
  goesOn_checked fun th => by
    split <;> exact goesOn_next _

theorem goesOn_execGstop (ls : BitVec 2) (s : State) : GoesOn (execGstop ls s) :=
  goesOn_checked fun th => by
    split <;> exact goesOn_next _

theorem goesOn_execGlaunch (d a : BitVec 5) (ls : BitVec 2) (s : State) : GoesOn (execGlaunch d a ls s) :=
  goesOn_checked fun _ => goesOn_ite (goesOn_next _) <| goesOn_ite (goesOn_next _) <| goesOn_andThen fun _ _ =>
    goesOn_ite (goesOn_next _) <| goesOn_andThen fun _ _ => goesOn_ite (goesOn_next _) <| by
      split <;> exact goesOn_next _

/-! ### Steps of the fabric -/

theorem goesOn_execLigature (e : ElemId) (s : State) : GoesOn (execLigature e s) := by
  simp only [execLigature]
  split
  · exact goesOn_next _
  · split
    · exact goesOn_next _
    · exact goesOn_ite_next _ _

theorem goesOn_execVconst (e : ElemId) (s : State) : GoesOn (execVconst e s) := by
  simp only [execVconst]
  split
  · exact goesOn_next _
  · refine goesOn_ite ?_ (goesOn_next _)
    split
    · exact goesOn_ite (goesOn_next _) (goesOn_ite_next _ _)
    · exact goesOn_next _

theorem goesOn_execOrdjIdleStamp (l : LaunchId) (seg : Fin 16) (s : State) : GoesOn (execOrdjIdleStamp l seg s) := by
  simp only [execOrdjIdleStamp]
  split
  · exact goesOn_ite_next _ _
  · exact goesOn_next _

theorem goesOn_execRouterConversion (id : LinkId) (s : State) : GoesOn (execRouterConversion id s) := by
  simp only [execRouterConversion]
  split
  · exact goesOn_next _
  · split
    · exact goesOn_next _
    · refine goesOn_ite (goesOn_next _) (goesOn_ite (goesOn_next _) ?_)
      split
      · exact goesOn_next _
      · split
        · exact goesOn_next _
        · exact goesOn_next _

theorem goesOn_execAlignedTag (e : ElemId) (s : State) : GoesOn (execAlignedTag e s) := by
  simp only [execAlignedTag]
  split
  · exact goesOn_next _
  · split
    · exact goesOn_next _
    · refine goesOn_ite (goesOn_next _) ?_
      split <;> exact goesOn_next _

theorem goesOn_execErrToken (e : ElemId) (s : State) : GoesOn (execErrToken e s) := by
  simp only [execErrToken]
  split
  · exact goesOn_next _
  · split
    · exact goesOn_next _
    · exact goesOn_ite_next _ _

theorem goesOn_execFormeSwitch (e : ElemId) (s : State) : GoesOn (execFormeSwitch e s) := by
  simp only [execFormeSwitch]
  split
  · exact goesOn_next _
  · refine goesOn_ite (goesOn_next _) (goesOn_ite ?_ (goesOn_ite (goesOn_next _) ?_))
    · split
      · exact goesOn_ite_next _ _
      · exact goesOn_next _
    · split
      · exact goesOn_next _
      · exact goesOn_next _

theorem goesOn_execStateRestore (e : ElemId) (s : State) : GoesOn (execStateRestore e s) := by
  simp only [execStateRestore]
  split
  · exact goesOn_next _
  · split
    · exact goesOn_next _
    · exact goesOn_next _

theorem goesOn_execFormeFetch (l : LaunchId) (k : Nat) (s : State) : GoesOn (execFormeFetch l k s) := by
  simp only [execFormeFetch]
  split
  · exact goesOn_next _
  · refine goesOn_ite (goesOn_next _) ?_
    split <;> exact goesOn_next _

theorem goesOn_execShadowStage (id : LaunchId) (j : Nat) (s : State) : GoesOn (execShadowStage id j s) := by
  simp only [execShadowStage]
  split
  · exact goesOn_next _
  · split
    · exact goesOn_next _
    · split
      · exact goesOn_next _
      · refine goesOn_ite (goesOn_next _) ?_
        split <;> exact goesOn_next _

theorem goesOn_execSweepBlockEnd (id : PortId) (s : State) : GoesOn (execSweepBlockEnd id s) := by
  simp only [execSweepBlockEnd]
  repeat' split
  all_goals exact goesOn_next _

theorem goesOn_execXqSourceEmit (id : LaunchId) (q : Fin 4) (s : State) : GoesOn (execXqSourceEmit id q s) := by
  simp only [execXqSourceEmit]
  repeat' split
  all_goals exact goesOn_next _

theorem goesOn_execSeqChildImpose (id : LaunchId) (node : Nat) (s : State) : GoesOn (execSeqChildImpose id node s) := by
  simp only [execSeqChildImpose]
  split
  · exact goesOn_next _
  · refine goesOn_ite (goesOn_next _) ?_
    split <;> exact goesOn_next _

theorem goesOn_execLaunchEnd (id : LaunchId) (s : State) : GoesOn (execLaunchEnd id s) := by
  simp only [execLaunchEnd]
  split
  · exact goesOn_next _
  · exact goesOn_ite_next _ _

theorem goesOn_execScTokenVisit (dom : Option (Fin 16)) (s : State) : GoesOn (execScTokenVisit dom s) := by
  simp only [execScTokenVisit]
  split
  · exact goesOn_next _
  · exact goesOn_ite (goesOn_next _) (goesOn_ite (goesOn_next _) (goesOn_ite_next _ _))

/-! ### Steps of ports -/

theorem goesOn_execCommandComplete (ring : Fin 16) (slot : Fin 4) (ticket : Nat) (s : State) :
    GoesOn (execCommandComplete ring slot ticket s) := by
  simp only [execCommandComplete]
  split
  · exact goesOn_next _
  · split
    · exact goesOn_next _
    · exact goesOn_ite_next _ _

theorem goesOn_execPortAccess (p : PortId) (s : State) : GoesOn (execPortAccess p s) := by
  simp only [execPortAccess]
  split
  · exact goesOn_next _
  · exact goesOn_ite (goesOn_ite (goesOn_acted _ _ _) (goesOn_next _)) (goesOn_next _)

theorem goesOn_execPeerOpen (link : Fin 16) (n : Nat) (g : BitVec 16) (dir : Bool) (s : State) :
    GoesOn (execPeerOpen link n g dir s) := by
  refine goesOn_ite (goesOn_next _) ?_
  split
  · exact goesOn_next _
  · exact goesOn_ite_next _ _

theorem goesOn_execRateWindow (p : PortId) (s : State) : GoesOn (execRateWindow p s) := by
  simp only [execRateWindow]
  split
  · exact goesOn_next _
  · exact goesOn_ite_next _ _

/-! ### Translation faults and moves -/

theorem goesOn_execXfqPost (die : Fin 4) (s : State) : GoesOn (execXfqPost die s) := by
  unfold execXfqPost
  extract_lets d
  split
  · exact goesOn_next _
  · generalize s.ms.drainTo _ _ _ = drained
    obtain ⟨ms, r, rest⟩ := drained
    exact goesOn_ite_next _ _

theorem goesOn_execMoveStart (pg : PageId) (s : State) : GoesOn (execMoveStart pg s) := by
  simp only [execMoveStart]
  split
  · exact goesOn_next _
  · split
    · exact goesOn_next _
    · exact goesOn_next _

theorem goesOn_execMoveOpened (pg : PageId) (s : State) : GoesOn (execMoveOpened pg s) := by
  unfold execMoveOpened
  split
  · exact goesOn_ite_next _ _
  · exact goesOn_next _

theorem goesOn_execCopyStep (pg : PageId) (s : State) : GoesOn (execCopyStep pg s) := by
  unfold execCopyStep
  split
  · exact goesOn_next _
  · exact goesOn_ite (goesOn_next _) (goesOn_ite (goesOn_next _) (goesOn_ite_next _ _))

theorem goesOn_execMoveCommit (pg : PageId) (s : State) : GoesOn (execMoveCommit pg s) := by
  unfold execMoveCommit
  split
  · exact goesOn_next _
  · exact goesOn_ite (goesOn_next _) (goesOn_ite_next _ _)

theorem goesOn_execMoveRelease (pg : PageId) (s : State) : GoesOn (execMoveRelease pg s) := by
  unfold execMoveRelease
  split
  · exact goesOn_next _
  · exact goesOn_ite_next _ _

theorem goesOn_execMoveAbort (pg : PageId) (s : State) : GoesOn (execMoveAbort pg s) := by
  unfold execMoveAbort
  split
  · exact goesOn_next _
  · exact goesOn_ite (goesOn_next _) (goesOn_ite_next _ _)

theorem goesOn_execMovemaxExpiry (pg : PageId) (s : State) : GoesOn (execMovemaxExpiry pg s) := by
  unfold execMovemaxExpiry
  split
  · exact goesOn_next _
  · exact goesOn_ite_next _ _

theorem goesOn_execStarveExpiry (pg : PageId) (s : State) : GoesOn (execStarveExpiry pg s) := by
  unfold execStarveExpiry
  split
  · exact goesOn_next _
  · exact goesOn_ite_next _ _

/-! ### Jobs -/

theorem goesOn_execRetire (q : Nat) (s : State) : GoesOn (execRetire q s) := by
  unfold execRetire
  dsimp only
  split
  · exact goesOn_next _
  · refine goesOn_ite (goesOn_next _) (goesOn_ite (goesOn_next _) ?_)
    split <;> exact goesOn_next _

theorem goesOn_execJobComplete (id : JobId) (s : State) : GoesOn (execJobComplete id s) := by
  unfold execJobComplete
  split
  · exact goesOn_next _
  · split
    · exact goesOn_ite_next _ _
    · exact goesOn_ite_next _ _
    · exact goesOn_next _

theorem goesOn_execContainment (id : JobId) (s : State) : GoesOn (execContainment id s) := by
  unfold execContainment
  split
  · exact goesOn_next _
  · exact goesOn_ite_next _ _

theorem goesOn_execDeadlock (id : JobId) (s : State) : GoesOn (execDeadlock id s) := by
  unfold execDeadlock
  split
  · exact goesOn_next _
  · exact goesOn_ite_next _ _

theorem goesOn_execWatchdog (id : JobId) (s : State) : GoesOn (execWatchdog id s) := by
  unfold execWatchdog
  split
  · exact goesOn_next _
  · refine goesOn_ite ?_ (goesOn_next _)
    split <;> exact goesOn_next _

theorem goesOn_execJobCheck (q : Nat) (s : State) : GoesOn (execJobCheck q s) := by
  simp only [execJobCheck]
  split
  · exact goesOn_next _
  · refine goesOn_ite (goesOn_next _) ?_
    split <;> exact goesOn_next _

theorem goesOn_execKernelLoad (q : Nat) (s : State) : GoesOn (execKernelLoad q s) := by
  simp only [execKernelLoad]
  repeat' split
  all_goals exact goesOn_next _

theorem goesOn_execStagingBegin (id : JobId) (s : State) : GoesOn (execStagingBegin id s) := by
  simp only [execStagingBegin]
  split
  · exact goesOn_next _
  · exact goesOn_ite_next _ _

theorem goesOn_execStagingTimeout (id : JobId) (s : State) : GoesOn (execStagingTimeout id s) := by
  unfold execStagingTimeout
  split
  · exact goesOn_next _
  · split
    · exact goesOn_ite_next _ _
    · exact goesOn_next _

theorem goesOn_execSave (id : JobId) (s : State) : GoesOn (execSave id s) := by
  unfold execSave
  split
  · exact goesOn_next _
  · exact goesOn_ite_next _ _

theorem goesOn_execSaveTimeout (id : JobId) (s : State) : GoesOn (execSaveTimeout id s) := by
  unfold execSaveTimeout
  split
  · exact goesOn_next _
  · exact goesOn_ite_next _ _

/-! ### Markers, cuts and errors -/

theorem goesOn_execMarker (id : LaunchId) (s : State) : GoesOn (execMarker id s) := by
  simp only [execMarker]
  split
  · exact goesOn_next _
  · exact goesOn_ite_next _ _

theorem goesOn_execFinalMarker (id : LaunchId) (s : State) : GoesOn (execFinalMarker id s) := by
  simp only [execFinalMarker]
  split
  · exact goesOn_next _
  · exact goesOn_ite_next _ _

theorem goesOn_execCutComplete (id : LaunchId) (s : State) : GoesOn (execCutComplete id s) := by
  simp only [execCutComplete]
  split
  · exact goesOn_next _
  · exact goesOn_ite_next _ _

theorem goesOn_execWriteHoldFull (id : LaunchId) (s : State) : GoesOn (execWriteHoldFull id s) := by
  simp only [execWriteHoldFull]
  split
  · exact goesOn_next _
  · exact goesOn_ite_next _ _

theorem goesOn_execRollback (id : LaunchId) (s : State) : GoesOn (execRollback id s) := by
  simp only [execRollback]
  split
  · exact goesOn_next _
  · exact goesOn_ite (goesOn_next _) (goesOn_ite_next _ _)

theorem goesOn_execSoftError (st : Storage) (s : State) : GoesOn (execSoftError st s) := by
  unfold execSoftError
  repeat' split
  all_goals exact goesOn_next _

/-! ### The boundary -/

theorem goesOn_execCheckpointBlockCopy (s : State) : GoesOn (execCheckpointBlockCopy s) := by
  unfold execCheckpointBlockCopy
  split
  · exact goesOn_ite_next _ _
  · exact goesOn_next _

theorem goesOn_execRegisterWrite (dst : RegDest) (v : W64) (s : State) : GoesOn (execRegisterWrite dst v s) := by
  cases dst <;> exact goesOn_next _

theorem goesOn_execHostCxlMemAccess (pa : Nat) (wdata : Option (List Byte)) (s : State) :
    GoesOn (execHostCxlMemAccess pa wdata s) := by
  cases wdata with
  | none => exact goesOn_next _
  | some bs => exact goesOn_ite_next _ _

theorem goesOn_execKeyLoad (session kslot : Nat) (wrapped : List Byte) (s : State) :
    GoesOn (execKeyLoad session kslot wrapped s) := by
  unfold execKeyLoad
  split
  · exact goesOn_next _
  · refine goesOn_ite (goesOn_next _) ?_
    split <;> exact goesOn_next _

theorem goesOn_execGetMeasurements (index : Nat) (s : State) : GoesOn (execGetMeasurements index s) := by
  unfold execGetMeasurements
  split <;> exact goesOn_next _

theorem goesOn_execManagementPathLigatureBind (asid : BitVec 16) (n : BitVec 5) (addr : W64) (s : State) :
    GoesOn (execManagementPathLigatureBind asid n addr s) := by
  refine goesOn_ite (goesOn_next _) (goesOn_ite (goesOn_next _) ?_)
  split
  · exact goesOn_next _
  · dsimp only
    split <;> exact goesOn_next _

/-! ### Every instruction -/

/-- Every instruction and every step of the part answers a next state. The arms stand by the shape of the meanings: those
that write their thread, those that make accesses, transfers, element operations, routers, stream commands, and the steps
of the machine. -/
theorem goesOn_exec (i : Instr) (s : State) : GoesOn (exec i s) := by
  unfold exec
  cases i with
  | ill => exact goesOn_next _
  | add | sub | and | or | xor | sll | srl | sra | slt | sltu | min | max | minu | maxu | mul | mulh | mulhu | div | rem
  | divu | remu | insf => exact goesOn_alu ..
  | clz | ctz | popc | bswp | exts | extz | addi | andi | ori | xori | slli | srli | srai | slti => exact goesOn_alu1 ..
  | fadd | fsub | fmul | fdiv | fma | fmin | fmax | fcmp | fcvt => exact goesOn_fpu ..
  | sel | lui | addpc | prefR | prefW | fence | qspace | qnote | hchk | gstat | csrr | csrw | csrx | trap =>
    exact goesOn_checked fun _ => goesOn_next _
  | beq | bne | blt | bge | bltu | bgeu => exact goesOn_branch ..
  | j | call => exact goesOn_checked fun _ => goesOn_transfer _ _ _
  | jr => exact goesOn_checked fun _ => goesOn_jumpTo (goesOn_andThen fun _ _ => goesOn_next _)
  | callr => exact goesOn_checked fun _ => goesOn_jumpTo (goesOn_transfer _ _ _)
  | callt => exact goesOn_checked fun _ => goesOn_andThen fun _ _ => goesOn_ite (goesOn_next _) (goesOn_transfer _ _ _)
  | ld | lds => exact goesOn_loadReg ..
  | amoadd | amoand | amoor | amoxor | amomin | amomax | amoswap => exact goesOn_amo ..
  | st | cas | hst =>
    exact goesOn_checked fun _ => goesOn_andThen fun _ _ => goesOn_next _
  | hld => exact goesOn_checked fun _ => goesOn_andThen fun _ _ => goesOn_ite_next _ _
  | evsig | evpoll | evset => exact goesOn_onEvent fun _ _ => goesOn_next _
  | evwait => exact goesOn_onEvent fun _ _ => goesOn_ite_next _ _
  | qpush | wfe | scwait | eret | brk => exact goesOn_checked fun _ => goesOn_ite_next _ _
  | bar => exact goesOn_execBar ..
  | qpop => exact goesOn_execQpop ..
  | hget => exact goesOn_execHget ..
  | hset => exact goesOn_execHset ..
  | lrreg => exact goesOn_execLrreg ..
  | lrfree => exact goesOn_execLrfree ..
  | lrkey => exact goesOn_execLrkey ..
  | scx | scl => exact goesOn_checked fun _ => goesOn_issueStream ..
  | glaunch => exact goesOn_execGlaunch ..
  | gwait => exact goesOn_execGwait ..
  | gmark => exact goesOn_execGmark ..
  | gstop => exact goesOn_execGstop ..
  | halt => exact goesOn_execHalt s
  | tlbinv => exact goesOn_privileged fun _ => goesOn_ite (goesOn_next _) (goesOn_ite_next _ _)
  | ctxsave =>
    exact goesOn_privileged fun _ => goesOn_ite (goesOn_next _) <| goesOn_andThen fun _ _ => goesOn_andThen fun _ _ =>
      goesOn_next _
  | ctxld => exact goesOn_execCtxld ..
  | ligbind =>
    exact goesOn_privileged fun _ => goesOn_ite (goesOn_next _) <| goesOn_ite (goesOn_next _) <|
      goesOn_andThen fun _ _ => goesOn_andThen fun _ _ => goesOn_next _
  | vadd | vsub | vmul | vfma | vmin | vmax | vabs | vneg | vdiv | vsqrt | vrcpe | vrsqe | vexp2 | vlog2 | vtanh | vsigm
  | viadd | visub | vimul | vimulh | vshl | vshr | vsar | vand | vor | vxor | vnot | vabsd | vcmp | vsel | vclamp | vcvt
  | vresc | vqnt | vhdr | vperm | vrot | vbcast | vpack | vunpk | vpass | vbuf | vcnt | vrep | vxtr | vmerge | vsplit
  | vtake | vstate | vred | vscan | vacc | vlrec | vchunk | vseg | mma | mmag | mlatb | mout | mzero | mouter | mtrn
  | mdot => exact goesOn_fireElem ..
  | vconst => exact goesOn_execVconst ..
  | agld | agst | aggat | agsct | agred | agspad => exact goesOn_agSite ..
  | ligature => exact goesOn_execLigature ..
  | steer | merge | carry | join | fork | ordj => exact goesOn_route ..
  | ordjIdleStamp => exact goesOn_execOrdjIdleStamp ..
  | routerConversion => exact goesOn_execRouterConversion ..
  | alignedTag => exact goesOn_execAlignedTag ..
  | errToken => exact goesOn_execErrToken ..
  | formeSwitch => exact goesOn_execFormeSwitch ..
  | stateRestore => exact goesOn_execStateRestore ..
  | shadowStage => exact goesOn_execShadowStage ..
  | formeFetch => exact goesOn_execFormeFetch ..
  | sweepBlockEnd => exact goesOn_execSweepBlockEnd ..
  | seqChildImpose => exact goesOn_execSeqChildImpose ..
  | launchEnd => exact goesOn_execLaunchEnd ..
  | contextCounterAdvance => exact goesOn_ite_next _ _
  | bankReselect => exact goesOn_ite (goesOn_next _) (goesOn_ite (goesOn_next _) (goesOn_ite_next _ _))
  | scTokenVisit => exact goesOn_execScTokenVisit ..
  | xqSourceEmit => exact goesOn_execXqSourceEmit ..
  | scLoad | scStore | scGather | scScatter | scCopy | scReduce | scFill | scStage => exact goesOn_startAccess ..
  | scSpad | scOverflow | scPeer | scFence | scMark | scClose | scWaitev | scSigev => exact goesOn_startCmd ..
  | commandComplete => exact goesOn_execCommandComplete ..
  | portAccess => exact goesOn_execPortAccess ..
  | rateWindow => exact goesOn_execRateWindow ..
  | peerOpen => exact goesOn_execPeerOpen ..
  | flitReceive => exact goesOn_ite (goesOn_next _) (goesOn_ite (goesOn_ite_next _ _) (goesOn_next _))
  | walk => exact goesOn_ite (goesOn_next _) (goesOn_ite_next _ _)
  | xfqPost => exact goesOn_execXfqPost ..
  | moveStart => exact goesOn_execMoveStart ..
  | moveOpened => exact goesOn_execMoveOpened ..
  | copyStep => exact goesOn_execCopyStep ..
  | moveCommit => exact goesOn_execMoveCommit ..
  | moveRelease => exact goesOn_execMoveRelease ..
  | moveAbort => exact goesOn_execMoveAbort ..
  | movemaxExpiry => exact goesOn_execMovemaxExpiry ..
  | starveExpiry => exact goesOn_execStarveExpiry ..
  | jobEnqueue =>
    exact goesOn_ite (goesOn_next _) <| goesOn_ite (goesOn_next _) <| goesOn_ite (goesOn_next _) <|
      goesOn_ite (goesOn_next _) (goesOn_ite_next _ _)
  | jobCheck => exact goesOn_execJobCheck ..
  | kernelLoad => exact goesOn_execKernelLoad ..
  | stagingBegin => exact goesOn_execStagingBegin ..
  | stagingTimeout => exact goesOn_execStagingTimeout ..
  | jobComplete => exact goesOn_execJobComplete ..
  | retire => exact goesOn_execRetire ..
  | deadlock => exact goesOn_execDeadlock ..
  | watchdog => exact goesOn_execWatchdog ..
  | save => exact goesOn_execSave ..
  | saveTimeout => exact goesOn_execSaveTimeout ..
  | containment => exact goesOn_execContainment ..
  | marker => exact goesOn_execMarker ..
  | finalMarker => exact goesOn_execFinalMarker ..
  | cutComplete => exact goesOn_execCutComplete ..
  | writeHoldFull => exact goesOn_execWriteHoldFull ..
  | softError => exact goesOn_execSoftError ..
  | rollback => exact goesOn_execRollback ..
  | checkpointQuiesce => exact goesOn_ite (goesOn_next _) (goesOn_ite_next _ _)
  | checkpointBlockCopy => exact goesOn_execCheckpointBlockCopy s
  | checkpointFlush => exact goesOn_ite (goesOn_next _) (goesOn_ite_next _ _)
  | fullService => exact goesOn_ite (goesOn_next _) (goesOn_ite_next _ _)
  | cxlLinkTraining => exact goesOn_ite_next _ _
  | hostCxlMemAccess => exact goesOn_execHostCxlMemAccess ..
  | registerWrite => exact goesOn_execRegisterWrite ..
  | keyLoad => exact goesOn_execKeyLoad ..
  | getMeasurements => exact goesOn_execGetMeasurements ..
  | managementPathLigatureBind => exact goesOn_execManagementPathLigatureBind ..
  | traverseRequest | agingPeriod | budgetPeriod | cancel | dispatchDecision | linkLost | linkRetrain | cxlSurpriseRemoval
  | keyBind | profileSample | debugAgentResume => exact goesOn_ite_next _ _
  | xfrespRetry | xfrespDecline | nextJobPrefetch | preemption | correctableError | warmReset | dieLoss | coldReset
  | thermalStepDown | thermalTrip | lossOfPower | checkpoint | checkpointRestore | keyUnbind | keyExchange
  | debugAgentClaim => exact goesOn_next _

/-! ### What the machine does of itself -/

theorem goesOn_execOp (op : Nat) (e : ElemId) (s : State) : GoesOn (execOp op e s) := by
  refine goesOn_ite (goesOn_execLigature e s) ?_
  split
  case h_50 => exact goesOn_execVconst e s
  case h_65 | h_66 | h_67 | h_68 | h_69 | h_70 => exact goesOn_agSite ..
  case h_71 => exact goesOn_next _
  all_goals exact goesOn_fireElem ..

theorem goesOn_startOf (n : Nat) (p : PortId) (s : State) : GoesOn (startOf n p s) := by
  unfold startOf
  split
  case h_1 | h_2 | h_3 | h_4 | h_5 | h_9 | h_10 | h_11 => exact goesOn_startAccess ..
  case h_17 => exact goesOn_next _
  all_goals exact goesOn_startCmd ..

/-- Moves that answer a next state from every state. -/
def AllGoOn (fs : List Move1) : Prop := ∀ f ∈ fs, ∀ s, GoesOn (f s)

theorem allGoOn_nil : AllGoOn [] := List.forall_mem_nil _

theorem allGoOn_cons {f : Move1} {fs : List Move1} (h : ∀ s, GoesOn (f s)) (hs : AllGoOn fs) : AllGoOn (f :: fs) :=
  List.forall_mem_cons.mpr ⟨h, hs⟩

theorem allGoOn_append {fs gs : List Move1} (hf : AllGoOn fs) (hg : AllGoOn gs) : AllGoOn (fs ++ gs) :=
  List.forall_mem_append.mpr ⟨hf, hg⟩

theorem allGoOn_map {α : Type} {l : List α} {f : α → Move1} (h : ∀ a s, GoesOn (f a s)) : AllGoOn (l.map f) :=
  List.forall_mem_map.mpr fun a _ => h a

theorem allGoOn_flatMap {α : Type} {l : List α} {f : α → List Move1} (h : ∀ a, AllGoOn (f a)) : AllGoOn (l.flatMap f) := by
  intro m hm
  obtain ⟨a, -, ha⟩ := List.mem_flatMap.mp hm
  exact h a m ha

theorem allGoOn_ite {c : Prop} [Decidable c] {fs gs : List Move1} (hf : AllGoOn fs) (hg : AllGoOn gs) :
    AllGoOn (if c then fs else gs) := by
  split
  · exact hf
  · exact hg

theorem allGoOn_elemMoves (s : State) (lk : Nat) (l : Launch) : AllGoOn (s.elemMoves lk l) := by
  refine allGoOn_flatMap fun j => allGoOn_flatMap fun c => ?_
  dsimp only
  split
  · next x _ =>
    exact allGoOn_cons (goesOn_execStateRestore _) <| allGoOn_cons (goesOn_execErrToken _) <|
      allGoOn_cons (goesOn_execAlignedTag _) <| allGoOn_cons (goesOn_execFormeSwitch _) <|
      allGoOn_cons (goesOn_execOp _ _) allGoOn_nil
  · exact allGoOn_nil

theorem allGoOn_routeMoves (lk : Nat) (l : Launch) : AllGoOn (Launch.routeMoves lk l) := by
  refine allGoOn_append (allGoOn_flatMap fun k => allGoOn_flatMap fun r => ?_)
    (allGoOn_map fun _ => goesOn_execRouterConversion _)
  dsimp only
  split
  · split
    · exact allGoOn_nil
    · exact allGoOn_cons (goesOn_exec (.steer _)) <| allGoOn_cons (goesOn_exec (.merge _)) <|
        allGoOn_cons (goesOn_exec (.carry _)) <| allGoOn_cons (goesOn_exec (.join _)) <|
        allGoOn_cons (goesOn_exec (.fork _)) <| allGoOn_cons (goesOn_exec (.ordj _)) allGoOn_nil
  · exact allGoOn_nil

theorem allGoOn_portMoves (s : State) (lk : Nat) (l : Launch) : AllGoOn (s.portMoves lk l) := by
  unfold State.portMoves
  split
  · exact allGoOn_nil
  · refine allGoOn_flatMap fun k => ?_
    dsimp only
    split
    · refine allGoOn_ite allGoOn_nil (allGoOn_flatMap fun q => allGoOn_ite allGoOn_nil (allGoOn_append ?_ ?_))
      · split
        · exact allGoOn_cons (goesOn_startOf _ _) allGoOn_nil
        · exact allGoOn_nil
      · exact allGoOn_cons (goesOn_execRateWindow _) <| allGoOn_cons (goesOn_execPortAccess _) <|
          allGoOn_cons (goesOn_execSweepBlockEnd _) allGoOn_nil
    · exact allGoOn_nil

theorem allGoOn_launchMoves (s : State) (lk : Nat) (l : Launch) : AllGoOn (s.launchMoves lk l) :=
  allGoOn_append (allGoOn_append (allGoOn_append (allGoOn_append (allGoOn_append
    (allGoOn_map fun _ => goesOn_execFormeFetch _ _)
    (allGoOn_map fun _ => goesOn_execShadowStage _ _))
    (allGoOn_flatMap fun _ => allGoOn_map fun _ => goesOn_execXqSourceEmit _ _))
    (allGoOn_map fun _ => goesOn_execSeqChildImpose _ _))
    (allGoOn_map fun _ => goesOn_execOrdjIdleStamp _ _)) <|
  allGoOn_cons (goesOn_execMarker _) <| allGoOn_cons (goesOn_execFinalMarker _) <|
  allGoOn_cons (goesOn_execCutComplete _) <| allGoOn_cons (goesOn_execWriteHoldFull _) <|
  allGoOn_cons (goesOn_execRollback _) allGoOn_nil

theorem allGoOn_fabricMoves (s : State) : AllGoOn s.fabricMoves := by
  refine allGoOn_append (allGoOn_append (allGoOn_append
    (allGoOn_flatMap fun e => ?_)
    (allGoOn_flatMap fun _ => allGoOn_map fun _ => goesOn_execCommandComplete _ _ _))
    (allGoOn_ite allGoOn_nil <| allGoOn_cons (goesOn_execScTokenVisit _) <|
      allGoOn_map fun _ => goesOn_execScTokenVisit _))
    (allGoOn_map fun _ => goesOn_execLaunchEnd _)
  obtain ⟨lk, _ | l⟩ := e
  · exact allGoOn_nil
  · exact allGoOn_ite allGoOn_nil <| allGoOn_append (allGoOn_append (allGoOn_append
      (allGoOn_launchMoves s lk l) (allGoOn_routeMoves lk l)) (allGoOn_elemMoves s lk l)) (allGoOn_portMoves s lk l)

theorem allGoOn_dispatchMoves (s : State) : AllGoOn s.dispatchMoves :=
  allGoOn_append (allGoOn_append (allGoOn_append
    (allGoOn_flatMap fun _ => allGoOn_cons (goesOn_execJobCheck _) <| allGoOn_cons (goesOn_execKernelLoad _) allGoOn_nil)
    (allGoOn_cons (goesOn_exec .dispatchDecision) allGoOn_nil))
    (allGoOn_flatMap fun _ =>
      allGoOn_cons (goesOn_execStagingBegin _) <| allGoOn_cons (goesOn_execStagingTimeout _) <|
      allGoOn_cons (goesOn_execDeadlock _) <| allGoOn_cons (goesOn_execWatchdog _) <|
      allGoOn_cons (goesOn_execContainment _) <| allGoOn_cons (goesOn_execSave _) <|
      allGoOn_cons (goesOn_execSaveTimeout _) <| allGoOn_cons (goesOn_execJobComplete _) allGoOn_nil))
    (allGoOn_map fun _ => goesOn_execRetire _)

theorem allGoOn_serviceMoves (s : State) : AllGoOn s.serviceMoves :=
  allGoOn_append (allGoOn_append (allGoOn_append (allGoOn_append (allGoOn_append (allGoOn_append (allGoOn_append
    (allGoOn_flatMap fun _ => allGoOn_cons (goesOn_execXfqPost _) <| allGoOn_cons (goesOn_exec (.agingPeriod _)) allGoOn_nil)
    (allGoOn_flatMap fun _ =>
      allGoOn_cons (goesOn_execMoveStart _) <| allGoOn_cons (goesOn_execMoveOpened _) <|
      allGoOn_cons (goesOn_execCopyStep _) <| allGoOn_cons (goesOn_execMoveCommit _) <|
      allGoOn_cons (goesOn_execMoveRelease _) <| allGoOn_cons (goesOn_execMoveAbort _) <|
      allGoOn_cons (goesOn_execMovemaxExpiry _) <| allGoOn_cons (goesOn_execStarveExpiry _) allGoOn_nil))
    (allGoOn_map fun _ => goesOn_exec (.contextCounterAdvance _)))
    (allGoOn_flatMap fun _ => allGoOn_map fun _ => goesOn_exec (.bankReselect _ _)))
    (allGoOn_map fun _ => goesOn_exec (.profileSample _ _)))
    (allGoOn_cons (goesOn_exec .budgetPeriod) <| allGoOn_cons (goesOn_exec .checkpointQuiesce) <|
      allGoOn_cons goesOn_execCheckpointBlockCopy allGoOn_nil))
    (allGoOn_ite (allGoOn_cons (goesOn_exec .fullService) allGoOn_nil) allGoOn_nil))
    (allGoOn_map fun _ => goesOn_exec (.linkLost _))

/-- Every move that the machine makes of itself answers a next state. -/
theorem allGoOn_moves (s : State) : AllGoOn s.moves :=
  allGoOn_append (allGoOn_append (allGoOn_fabricMoves s) (allGoOn_dispatchMoves s)) (allGoOn_serviceMoves s)

/-! ### A step -/

theorem goesOn_gate {s : State} {k : Nat} {waiting : List Charge} {o : Out} (h : GoesOn o) : GoesOn (s.gate k waiting o) := by
  obtain ⟨t, rfl⟩ := h
  exact goesOn_next _

/-- The issue of a thread: its instruction is executed, or its fetch or its decoding traps. -/
theorem goesOn_issue (s : State) (k : Nat) : GoesOn (issue s k) := by
  refine goesOn_ite (goesOn_gate (goesOn_andThen fun s1 ws => ?_)) (goesOn_next _)
  split
  · exact goesOn_exec _ _
  · exact goesOn_next _

/-- Settles O7: a step is an issue, an event, a move of the machine, or the passing of time. -/
theorem everyStepGoesOn : Obligations.EveryStepGoesOn := by
  intro s
  unfold step
  split
  · dsimp only
    split
    · exact goesOn_issue _ _
    · exact goesOn_ite (goesOn_exec _ _) (goesOn_next _)
  · split
    · exact goesOn_issue _ _
    · dsimp only
      split
      · next f hf => exact allGoOn_moves s f (List.mem_of_getElem? hf) _
      · exact goesOn_next _

end Sys2Proof.Machine
end

section
/-! PROOFS. CALLT (03 R81, R88): the load of a link-table entry, the transfer to the address that a code entry names, and
what a call leaves in its thread. -/

namespace Sys2Proof.Machine

/-! ### Loads by their premises -/

/-- A misaligned load traps ALIGN with its address (07 R178). -/
theorem State.load_misaligned {s : State} {va : W64} {n : Nat} (h : va.toNat % n ≠ 0) :
    s.load va n = .trap s (trapAt .align va) := if_pos (bne_iff_ne.mpr h)

/-- An access that nothing stops is performed at the address to which its own is translated. -/
theorem State.dataPa_reaches {s s1 : State} {va : W64} {n pa : Nat} {k : AccessKind} {d rd wr : Bool}
    (h : Claims.Reaches s va n k d rd wr s1 pa) : s.dataPa va n k d rd wr = .ok s1 pa := by
  obtain ⟨-, hhigh, -, htrans, hwatch⟩ := h
  simp [State.dataPa, hhigh, htrans, hwatch]

/-- A load that nothing stops, of bytes without an error, reads them. -/
theorem State.load_reaches {s s1 : State} {va : W64} {n pa : Nat} (h : Claims.Reaches s va n .read false true false s1 pa)
    (hb : s1.ms.rangeBad pa n = false) : s.load va n = .ok s1 (Claims.valueAt s1 pa n) := by
  have hpa := State.dataPa_reaches h
  obtain ⟨halign, -, hdev, -, -⟩ := h
  simp [State.load, halign, hdev, hpa, hb, Claims.valueAt, MemSys.readPa]

/-! ### What a call leaves in its thread -/

/-- A call with d ≠ 0 writes pc + 4 in x[d]. -/
theorem Thread.get_link_same (th : Thread) {d : BitVec 5} (h : d ≠ 0) : (th.link d).get d = th.pc.setWidth 64 + 4 := by
  rw [Thread.link, if_neg h]
  exact Thread.get_put_same th d _ h

theorem Thread.get_link_ne (th : Thread) {d r : BitVec 5} (h : r ≠ d) : (th.link d).get r = th.get r := by
  unfold Thread.link
  split
  · rfl
  · exact Thread.get_put_ne th d r _ h

/-- A call with d ≠ 0 counts one call more, up to 65,535 (R88). -/
theorem Thread.link_cdepth (th : Thread) (d : BitVec 5) :
    (th.link d).cdepth = if d = 0 ∨ th.cdepth = 65535 then th.cdepth else th.cdepth + 1 := by
  by_cases hd : d = 0
  · simp [Thread.link, hd]
  · simp only [Thread.link, Thread.deeper, Thread.put, hd, if_false, false_or]

/-- Clearing bits [1:0] leaves a multiple of 4 alone. -/
theorem and_not_three_of_aligned {v : BitVec 56} (h : v.toNat % 4 = 0) : v &&& ~~~3 = v := by
  have hlow : v = (v >>> 2) <<< 2 := by
    apply BitVec.eq_of_toNat_eq
    simp only [BitVec.toNat_shiftLeft, BitVec.toNat_ushiftRight, Nat.shiftRight_eq_div_pow, Nat.shiftLeft_eq]
    omega
  rw [hlow, show (~~~3 : BitVec 56) = BitVec.allOnes 56 <<< 2 by decide, ← BitVec.shiftLeft_and_distrib, BitVec.and_allOnes]

/-- A jump to an aligned address goes there. -/
theorem Thread.jump_pc_aligned (th : Thread) {t : W64} (h : t.toNat % 4 = 0) : (th.jump t).pc = t.setWidth 56 :=
  and_not_three_of_aligned (by rw [BitVec.toNat_setWidth]; omega)

/-! ### Link-table entries -/

/-- The address that an entry names: ADDR with bits [1:0] clear (R79). -/
def entryTarget (e : Nat) : W64 := BitVec.ofNat 64 (e % 2 ^ 56 / 4 * 4)

theorem entryTarget_aligned (e : Nat) : (entryTarget e).toNat % 4 = 0 := by
  rw [entryTarget, BitVec.toNat_ofNat]; omega

theorem entryTarget_eq (e : Nat) : BitVec.ofNat 64 (e / 4 % 2 ^ 54 * 4) = entryTarget e := by
  rw [entryTarget, show e / 4 % 2 ^ 54 = e % 2 ^ 56 / 4 by omega]

/-! ### CALLT -/

/-- CALLT once its entry has been asked for. -/
theorem execCallt_eq (d a : BitVec 5) (i : BitVec 16) (s : State) :
    execCallt d a i s = (s.load (s.me.get a + 8 * i.setWidth 64) 8).andThen fun s1 e =>
      if e % 4 = 1 then transfer s1 (entryTarget e) fun th => th.link d
      else trapOut s1 (trapAt .illegal (s.me.get a + 8 * i.setWidth 64)) := by
  rw [execCallt, checked_ok _ _ _ rfl]
  simp only [zx, BitVec.mul_comm _ (8 : W64), entryTarget_eq, bne_iff_ne, ite_not, trapAt]

theorem execCallt_misaligned {s : State} {d a : BitVec 5} {i : BitVec 16}
    (h : (s.me.get a + 8 * i.setWidth 64).toNat % 8 ≠ 0) :
    execCallt d a i s = trapOut s (trapAt .align (s.me.get a + 8 * i.setWidth 64)) := by
  rw [execCallt_eq, State.load_misaligned h, Acc.andThen]

theorem execCallt_code {s s1 s2 : State} {d a : BitVec 5} {i : BitVec 16} {e pb : Nat}
    (hload : s.load (s.me.get a + 8 * i.setWidth 64) 8 = .ok s1 e) (he : e % 4 = 1)
    (hfetch : s1.fetchable (entryTarget e) = .ok s2 pb) :
    execCallt d a i s = .next (s2.setMe ((s2.me.link d).jump (entryTarget e))) := by
  rw [execCallt_eq, hload, Acc.andThen, if_pos he, transfer_ok _ hfetch]

theorem execCallt_other {s s1 : State} {d a : BitVec 5} {i : BitVec 16} {e : Nat}
    (hload : s.load (s.me.get a + 8 * i.setWidth 64) 8 = .ok s1 e) (he : e % 4 ≠ 1) :
    execCallt d a i s = trapOut s1 (trapAt .illegal (s.me.get a + 8 * i.setWidth 64)) := by
  rw [execCallt_eq, hload, Acc.andThen, if_neg he]

/-- Settles O19: an entry is misaligned, names code, or is of another kind; a call in code leaves its link. -/
theorem calltResults : Obligations.CalltResults := by
  intro s s1 s2 d a i pa pb ea
  refine ⟨fun hmis => execCallt_misaligned hmis, ?_⟩
  intro e dest hreach hbad
  have hload : s.load ea 8 = .ok s1 e := State.load_reaches hreach hbad
  refine ⟨fun hcode hfetch => ⟨_, execCallt_code hload hcode hfetch, ?_⟩, fun hother => execCallt_other hload hother⟩
  rw [State.me_setMe]
  exact ⟨Thread.jump_pc_aligned _ (entryTarget_aligned e), Thread.get_link_same s2.me, fun r => Thread.get_link_ne s2.me,
    Thread.link_cdepth s2.me d, rfl⟩

end Sys2Proof.Machine
end

section
/-! PROOFS. Queues and jobs (03 R84, 04 R99-R114): what each step of the dispatcher does with a record, from its push to its
retirement, where it goes on and where it is refused or waits. -/

namespace Sys2Proof.Machine

/-! ### Acceptance and cancellation (R99, R106) -/

/-- A push that names no window, by another function than the owner, or over port 0 while it is down. -/
theorem execJobEnqueue_ignored {s : State} {func q off : Nat} (bytes : List Byte) (full : Bool)
    (h : 8192 ≤ q ∨ 128 ≤ off ∨ s.ownerOf q ≠ func ∨ s.portUp 0 = false) :
    execJobEnqueue func q off bytes full s = .next s :=
  if_pos (by simpa [or_assoc] using h)

section
variable {s : State} {q off : Nat} {bytes : List Byte} {full : Bool}
  (hq : q < 8192) (hoff : off < 128) (hup : s.portUp 0 = true)
include hq hoff hup

/-- A push by the owner, over port 0 that is up, reaches the queue. -/
theorem push_arrives : ¬ (8192 ≤ q || 128 ≤ off || s.ownerOf q != s.ownerOf q || !s.portUp 0) = true := by
  simp [hup, hq, hoff]

theorem execJobEnqueue_off (h : (s.queue q).en = false ∨ s.shut q = true) :
    execJobEnqueue (s.ownerOf q) q off bytes full s
      = .next (s.modQueue q fun x => { x with rej := { x.rej with off := satInc x.rej.off } }) :=
  (if_neg (push_arrives hq hoff hup)).trans (if_pos (by simpa using h))

variable (hen : (s.queue q).en = true) (hshut : s.shut q = false)
include hen hshut

theorem execJobEnqueue_form (h : ¬ (off = 0 ∧ bytes.length = 128 ∧ full = true)) :
    execJobEnqueue (s.ownerOf q) q off bytes full s
      = .next (s.modQueue q fun x => { x with rej := { x.rej with form := satInc x.rej.form } }) := by
  have hbad : (off != 0 || bytes.length != 128 || !full) = true := by
    rw [← Bool.not_eq_false]
    simpa [and_assoc] using h
  exact (if_neg (push_arrives hq hoff hup)).trans ((if_neg (by simp [hen, hshut])).trans (if_pos hbad))

variable (hform : off = 0 ∧ bytes.length = 128 ∧ full = true)
include hform

theorem execJobEnqueue_seq (h : (jobRecord bytes).setWidth 32 ≠ (s.queue q).next) :
    execJobEnqueue (s.ownerOf q) q off bytes full s
      = .next (s.modQueue q fun x => { x with rej := { x.rej with seq := satInc x.rej.seq } }) := by
  obtain ⟨h0, hlen, hfull⟩ := hform
  exact (if_neg (push_arrives hq hoff hup)).trans ((if_neg (by simp [hen, hshut])).trans
    ((if_neg (by simp [h0, hlen, hfull])).trans (if_pos (bne_iff_ne.mpr h))))

variable (hseq : (jobRecord bytes).setWidth 32 = (s.queue q).next)
include hseq

/-- A whole record in its turn: it joins the queue unless 64 jobs wait. -/
theorem execJobEnqueue_inTurn : execJobEnqueue (s.ownerOf q) q off bytes full s
    = if (s.queue q).occ = 64 then
        .next (s.modQueue q fun x => { x with rej := { x.rej with full := satInc x.rej.full } })
      else .next (s.modQueue q fun x => { x with
        next := x.next + 1
        jobs := x.jobs ++ [{ seq := (jobRecord bytes).setWidth 32, rcd := jobRecord bytes }] }) := by
  obtain ⟨h0, hlen, hfull⟩ := hform
  exact (if_neg (push_arrives hq hoff hup)).trans ((if_neg (by simp [hen, hshut])).trans
    ((if_neg (by simp [h0, hlen, hfull])).trans (if_neg (by simp [hseq]))))

end

theorem execCancel_function0 {s : State} {q : Nat} (hq : q < 8192) (hup : s.portUp 0 = true) :
    execCancel 0 q s = .next (s.cancel q) := if_pos (by simp [hq, hup])

theorem execCancel_ignored {s : State} {f : Nat} (q : Nat) (h : f ≠ 0 ∨ s.portUp 0 = false) : execCancel f q s = .next s :=
  if_neg (by rcases h with h | h <;> simp [h])

/-! ### The checks of a record and the loader (R84, R105) -/

section
variable {s : State} {q : Nat} {j : Job} (hhead : (s.queue q).head = some j) (hphase : j.phase = .queued)
include hhead hphase

theorem execJobCheck_refused {n a : Nat} {c : FaultClass} (hcheck : j.check = .unchecked)
    (hr : s.checkRecord (s.queue q).asid j = some (n, c, a)) :
    execJobCheck q s = .next ((s.touches (s.queue q).asid (s.checkReadsOf (s.queue q).asid j)).refuseJob
      { queue := q, seq := j.seq } n c a) := by
  simp [execJobCheck, hhead, hphase, hcheck, hr]

theorem execJobCheck_passed (hcheck : j.check = .unchecked) (hr : s.checkRecord (s.queue q).asid j = none) :
    execJobCheck q s = .next ((s.touches (s.queue q).asid (s.checkReadsOf (s.queue q).asid j)).modJob
      { queue := q, seq := j.seq } fun y => { y with
        check := if j.kfile then .loading else .passed, table := if j.kfile then 0 else j.kernel }) := by
  simp [execJobCheck, hhead, hphase, hcheck, hr]

end

/-- What the context of `asid` has published of a kernel file: the same place, the same FCRC (R84). -/
def State.publishedOf (s : State) (asid : Nat) (j : Job) (k : Kob) : Option Published :=
  (s.ctx asid).published.find? fun p => p.file == j.kernel && p.fcrc == k.fcrc

/-- The machine after a link table has passed its checks: the job is ready for its start. -/
def State.tableReady (s : State) (asid : Nat) (id : JobId) (j : Job) (table : Nat) : State :=
  (s.touches asid (s.tableReads asid table j)).modJob id fun y => { y with check := .passed, table := table }

section
variable {s : State} {q : Nat} {j : Job} {k : Kob} (hhead : (s.queue q).head = some j) (hphase : j.phase = .queued)
  (hcheck : j.check = .loading) (hk : s.kob (s.queue q).asid j.kernel = some k)
include hhead hphase hcheck hk

/-- A file that the context has published is not loaded again. -/
theorem execKernelLoad_published {p : Published} (hp : s.publishedOf (s.queue q).asid j k = some p)
    (ht : (s.touches (s.queue q).asid [(j.kernel, k.len)]).checkTable (s.queue q).asid p.table j = none) :
    execKernelLoad q s = .next ((s.touches (s.queue q).asid [(j.kernel, k.len)]).tableReady (s.queue q).asid
      { queue := q, seq := j.seq } j p.table) := by
  unfold State.publishedOf at hp
  simp only [execKernelLoad, hhead, hphase, hcheck, hk, hp, ht]
  rfl

/-- One that it has not is loaded, and its link table checked. -/
theorem execKernelLoad_loaded (hp : s.publishedOf (s.queue q).asid j k = none) {s1 : State} {table : Nat}
    (hl : (s.touches (s.queue q).asid [(j.kernel, k.len)]).loadKob (s.queue q).asid j.kernel k = .inr (s1, table))
    (ht : s1.checkTable (s.queue q).asid table j = none) :
    execKernelLoad q s = .next (s1.tableReady (s.queue q).asid { queue := q, seq := j.seq } j table) := by
  unfold State.publishedOf at hp
  simp only [execKernelLoad, hhead, hphase, hcheck, hk, hp, hl, ht]
  rfl

/-- A file that the loader refuses ends the job with the refusal record (R94). -/
theorem execKernelLoad_refused (hp : s.publishedOf (s.queue q).asid j k = none) {record : List Byte}
    (hl : (s.touches (s.queue q).asid [(j.kernel, k.len)]).loadKob (s.queue q).asid j.kernel k = .inl record) :
    execKernelLoad q s = .next (((s.touches (s.queue q).asid [(j.kernel, k.len)]).modJob { queue := q, seq := j.seq }
      fun y => { y with refusal := record }).endUnstarted { queue := q, seq := j.seq } .refused 0 []) := by
  unfold State.publishedOf at hp
  simp only [execKernelLoad, hhead, hphase, hcheck, hk, hp, hl]
  rfl

end

/-! ### Decisions and staging (R109, R112, R113) -/

theorem execDispatchDecision_waits {s : State}
    (h : s.bd.stage < 2 ∨ s.bd.trained = true ∨ s.bd.quiet = true ∨ s.decisionDue = false) :
    execDispatchDecision s = .next s := if_pos (by simpa [or_assoc] using h)

theorem execDispatchDecision_due {s : State} (hstage : 2 ≤ s.bd.stage) (htrained : s.bd.trained = false)
    (hquiet : s.bd.quiet = false) (hdue : s.decisionDue = true) : execDispatchDecision s = .next s.decide' :=
  if_neg (by simpa [htrained, hquiet, hdue] using Nat.lt_of_succ_le hstage)

/-- STAGEAHEAD of DPOL, by its bits (R110). -/
theorem fieldN_stageAhead (v : W64) : fieldN 64 v 24 4 = v.toNat / 2 ^ 24 % 16 := by
  simp [fieldN, Nat.shiftRight_eq_div_pow]

/-- Whether a job is among the first unstarted ones that have passed checks 1-6 (R112). -/
def State.amongFirst (s : State) (q : Nat) (j : Job) : Bool :=
  (((s.queue q).jobs.filter fun y => y.unstarted && s.passed6 (s.queue q).asid y).take
    (s.dp.dpol.toNat / 2 ^ 24 % 16)).any fun y => y.seq == j.seq

/-- The memory system after staging has asked for the moves of a job's working set (R112). -/
def State.stagingAsked (s : State) (id : JobId) (j : Job) : MemSys :=
  (s.stagingSet (s.queue id.queue).asid j).foldl (fun (m : MemSys) e => if e.2 = 0 then m
      else m.askMoves (s.queue id.queue).asid (lrLow e.1).toNat (lrEnd e.1).toNat e.2 .staging (stagingTag id) j.bclass
        (((lrEnd e.1).toNat - (lrLow e.1).toNat) / 65536 + 2))
    (s.touches (s.queue id.queue).asid (if j.workset = 0 then [] else [(j.workset, 8 * j.wscount)])).ms

theorem execStagingBegin_begins {s : State} {id : JobId} {j : Job} (hj : s.job id = some j) (hstage : j.stage = .none)
    (hfirst : s.amongFirst id.queue j = true) (hload : j.kfile = false ∨ j.check = .passed) :
    execStagingBegin id s = .next (({ s with ms := s.stagingAsked id j } : State).modJob id fun y =>
      { y with stage := .staging s.clk.fs }) := by
  have hcond : (j.stage == .none && s.amongFirst id.queue j && (!j.kfile || j.check == .passed)) = true := by
    rcases hload with h | h <;> simp [hstage, hfirst, h]
  simp only [execStagingBegin, hj, fieldN_stageAhead]
  exact if_pos hcond

section
variable {s : State} {id : JobId} {j : Job} {since : Nat} (hj : s.job id = some j) (hstage : j.stage = .staging since)
include hj hstage

theorem execStagingTimeout_waits (h : s.clk.fs < since + j.stageTo * 10 ^ 11) : execStagingTimeout id s = .next s := by
  simp only [execStagingTimeout, hj, hstage]
  exact if_neg (Nat.not_le.mpr h)

theorem execStagingTimeout_ends (h : since + j.stageTo * 10 ^ 11 ≤ s.clk.fs) :
    execStagingTimeout id s = .next (s.modJob id fun y => { y with stage := .done }) := by
  simp only [execStagingTimeout, hj, hstage]
  exact if_pos h

end

/-! ### Completion (R103) -/

section
variable {s : State} {id : JobId} {j : Job} (hj : s.job id = some j)
include hj

theorem execJobComplete_waits (hphase : j.phase = .started)
    (h : (∃ k, k ∈ j.threads ∧ (s.thread k).run ≠ .halted) ∨ (∃ e, e ∈ s.jobLaunches id ∧ e.2.ended = false)) :
    execJobComplete id s = .next s := by
  simp only [execJobComplete, hj, hphase]
  refine if_neg ?_
  simp only [Bool.and_eq_true, List.all_eq_true, beq_iff_eq]
  rintro ⟨hhalted, hended⟩
  rcases h with ⟨k, hk, hrun⟩ | ⟨e, he, hlive⟩
  · exact hrun (hhalted k hk)
  · exact Bool.false_ne_true (hlive.symm.trans (hended e he))

theorem execJobComplete_started (hphase : j.phase = .started) (hhalted : ∀ k, k ∈ j.threads → (s.thread k).run = .halted)
    (hended : ∀ e, e ∈ s.jobLaunches id → e.2.ended = true) : execJobComplete id s = .next (s.finishJob id) := by
  simp only [execJobComplete, hj, hphase]
  refine if_pos ?_
  simp only [Bool.and_eq_true, List.all_eq_true, beq_iff_eq]
  exact ⟨hhalted, hended⟩

theorem execJobComplete_contained (hphase : j.phase = .containing) (hc : j.contained = true) :
    execJobComplete id s = .next (s.finishJob id) := by
  simp only [execJobComplete, hj, hphase]
  exact if_pos hc

end

/-! ### Retirement (R103, R104) -/

/-- Where the retire record of a sequence number is written in a queue's ring (R103). -/
def Queue.retireVa (x : Queue) (seq : W32) : Nat :=
  (x.rbase.toNat + 32 * (seq.toNat % 2 ^ (x.fld 24 4 + 6))) % 2 ^ 56

/-- The write of a retire record in a queue's ring in memory. -/
def MemSys.writeRetire (ms : MemSys) (x : Queue) (j : Job) : MemSys × Option (AErr × Nat) :=
  ms.vwrite (dispPlace x.asid (x.retireVa j.seq)) 0 x.asid (x.retireVa j.seq) (retireRecord j)

/-- A retire record sent to the host. -/
def State.hostRetire (u : State) (x : Queue) (j : Job) : State :=
  { u with bd := { u.bd with hostOut := u.bd.hostOut ++ [(x.retireVa j.seq, retireRecord j)] } }

/-- The machine `u` once the oldest record of queue `q` is gone from it, with the message of RIRQ. -/
def State.oldestGone (u : State) (q : Nat) (rirq : Nat) : State :=
  let v := u.modQueue q fun y => { y with jobs := y.jobs.drop 1, retired := y.retired + 1 }
  if rirq = 1 then { v with ms := { v.ms with msix := v.ms.msix ++ [v.queueMsg q] } } else v

/-- What RETIRE answers for a completed record of queue `q`, where `u` is the machine with its job released: the record is
written and gone, or, where translation refuses the write, the machine stays as `s`. -/
def State.retireFrom (s u : State) (q : Nat) (j : Job) : Out :=
  let x := s.queue q
  if x.rhost then
    .next ((u.hostRetire x j).oldestGone q (x.fld 2 1))
  else
    match u.ms.writeRetire x j with
    | (ms, none) => .next (({ u with ms := ms } : State).oldestGone q (x.fld 2 1))
    | (_, some _) => .next s

theorem State.retireFrom_host {s u : State} {q : Nat} {j : Job} (hhost : (s.queue q).rhost = true) :
    s.retireFrom u q j = .next ((u.hostRetire (s.queue q) j).oldestGone q ((s.queue q).fld 2 1)) :=
  if_pos hhost

section
variable {s u : State} {q : Nat} {j : Job} {ms : MemSys} (hhost : (s.queue q).rhost = false)
include hhost

theorem State.retireFrom_memory (hw : u.ms.writeRetire (s.queue q) j = (ms, none)) :
    s.retireFrom u q j = .next (({ u with ms := ms } : State).oldestGone q ((s.queue q).fld 2 1)) := by
  simp only [State.retireFrom, hhost, hw]
  rfl

theorem State.retireFrom_refused {e : AErr × Nat} (hw : u.ms.writeRetire (s.queue q) j = (ms, some e)) :
    s.retireFrom u q j = .next s := by
  simp only [State.retireFrom, hhost, hw]
  rfl

end

section
variable {s : State} {q : Nat} {j : Job} {rest : List Job} (hjobs : (s.queue q).jobs = j :: rest)
include hjobs

/-- A record stays whose job has not completed, or whose retire record is for a host while port 0 is down. -/
theorem execRetire_waits (h : j.phase ≠ .completed ∨ (s.queue q).rhost = true ∧ s.portUp 0 = false) :
    execRetire q s = .next s := by
  have hcond : (j.phase != .completed || ((s.queue q).rhost && !s.portUp 0)) = true := by
    rcases h with h | ⟨hhost, hdown⟩
    · simp [h]
    · simp [hhost, hdown]
  simp only [execRetire, hjobs]
  exact if_pos hcond

/-- The record of a completed job retires from the machine in which the job has been released. -/
theorem execRetire_completed (hphase : j.phase = .completed) (hup : (s.queue q).rhost = false ∨ s.portUp 0 = true) :
    execRetire q s = s.retireFrom (Claims.released s q j) q j := by
  have hcond : ¬ (j.phase != .completed || ((s.queue q).rhost && !s.portUp 0)) = true := by
    rcases hup with h | h <;> simp [hphase, h]
  unfold execRetire
  extract_lets x done
  split
  · next hnil => cases hjobs.symm.trans hnil
  · next j' rest' hcons =>
    obtain ⟨rfl, -⟩ := List.cons.inj (hjobs.symm.trans hcons)
    refine (if_neg hcond).trans ?_
    extract_lets id va s1 s2
    have hs : Claims.released s q j = s2 := by
      refine congrArg (State.releaseJob · id) ?_
      subst s1
      cases j.block
      · exact if_neg Bool.false_ne_true
      · exact if_pos rfl
    rw [hs]
    rfl

end

/-! ### The obligations -/

/-- R99: where a record is rejected. -/
theorem enqueueResults : Claims.EnqueueResults := by
  intro s func q off bytes full x r rej form i
  refine ⟨fun hq hoff hown hup => ?_, execJobEnqueue_ignored bytes full⟩
  subst hown
  refine ⟨execJobEnqueue_off hq hoff hup, fun hen hshut => ⟨execJobEnqueue_form hq hoff hup hen hshut,
    execJobEnqueue_seq hq hoff hup hen hshut, fun hform hseq hfull => ?_⟩⟩
  exact (execJobEnqueue_inTurn hq hoff hup hen hshut hform hseq).trans (if_pos hfull)

/-- R105, R84, R106: where a record is refused. -/
theorem jobCheckResults : Claims.JobCheckResults := by
  intro s q j x id
  refine ⟨fun hhead hphase => ⟨fun hcheck n c a => execJobCheck_refused hhead hphase hcheck, ?_⟩,
    fun f => execCancel_ignored q⟩
  exact fun hcheck k hk hp record => execKernelLoad_refused hhead hphase hcheck hk hp

/-- R109, R112, R424: where no job starts, and staging goes on. -/
theorem dispatchResults : Claims.DispatchResults := fun _ _ _ =>
  ⟨execDispatchDecision_waits, fun hj _ => execStagingTimeout_waits hj⟩

/-- R103: where a job does not complete or retire. -/
theorem completionResults : Claims.CompletionResults := by
  intro s id q j rest
  refine ⟨execJobComplete_waits, fun hjobs hphase => execRetire_waits hjobs (.inl hphase),
    fun hjobs hhost hdown => execRetire_waits hjobs (.inr ⟨hhost, hdown⟩), fun hjobs hhost ms e hw => ?_⟩
  by_cases hphase : j.phase = .completed
  · exact (execRetire_completed hjobs hphase (.inl hhost)).trans (State.retireFrom_refused hhost hw)
  · exact execRetire_waits hjobs (.inl hphase)

/-- Settles O51: what each step of the dispatcher does where a record is rejected or refused, or a job waits. -/
theorem jobResults : Obligations.JobResults := ⟨enqueueResults, jobCheckResults, dispatchResults, completionResults⟩

/-- R99, R105, R84, R106: where a record is accepted, checked and loaded. -/
theorem recordsComplete : Claims.RecordsComplete := by
  intro s q j bytes x id rcd
  refine ⟨fun hq hup hen hshut hlen hseq hocc => ?_, execJobCheck_passed, fun hhead hphase hcheck k hk => ⟨?_, ?_⟩,
    execCancel_function0⟩
  · exact (execJobEnqueue_inTurn hq (by decide) hup hen hshut ⟨rfl, hlen, rfl⟩ hseq).trans (if_neg hocc)
  · exact fun p hp => execKernelLoad_published hhead hphase hcheck hk hp
  · exact fun hp s1 table hl => execKernelLoad_loaded hhead hphase hcheck hk hp hl

/-- R109, R112-R114, R103, R104: where a job is staged, completes and retires. -/
theorem runsComplete : Claims.RunsComplete := by
  intro s id q j rest g
  refine ⟨execDispatchDecision_due, rfl, execStagingBegin_begins, fun hj since => execStagingTimeout_ends hj,
    execJobComplete_started, execJobComplete_contained, fun hjobs hphase => ⟨fun hhost ms hw => ?_, fun hhost hup => ?_⟩⟩
  · exact (execRetire_completed hjobs hphase (.inl hhost)).trans (State.retireFrom_memory hhost hw)
  · exact (execRetire_completed hjobs hphase (.inr hup)).trans (State.retireFrom_host hhost)

/-- Settles O52: what each step of the dispatcher does where a record or a job goes on. -/
theorem jobsComplete : Obligations.JobsComplete := ⟨recordsComplete, runsComplete⟩

end Sys2Proof.Machine
end

section
/-! PROOFS. The imposer, sources, the controller tree, banks and the sequencing token (05 R129-R142, 07 R185, 08 R229, 13 R377,
15 R406): what each of their steps does where it completes, and where it waits or faults. -/

namespace Sys2Proof.Machine

/-! ### What the operations of the fabric leave alone -/

@[simp] theorem State.stirred_fab (s : State) (lk : Nat) : (s.stirred lk).fab = s.fab := by
  unfold State.stirred; split <;> rfl

@[simp] theorem State.launch_stirred (s : State) (lk k : Nat) : (s.stirred lk).launch k = s.launch k :=
  congrArg (fun f : Fabric => tget none f.launches k) (s.stirred_fab lk)

theorem State.modLaunch_of_some {s : State} {lk : Nat} {l : Launch} (h : s.launch lk = some l) (f : Launch → Launch) :
    s.modLaunch lk f = s.setLaunch lk (some (f l)) := by rw [State.modLaunch, h]

@[simp] theorem State.modLaunch_shadows (s : State) (lk : Nat) (f : Launch → Launch) :
    (s.modLaunch lk f).fab.shadows = s.fab.shadows := by
  unfold State.modLaunch; split <;> rfl

/-! ### Formes and shadows (05 R134, 08 R229) -/

/-- Whether a stripe takes virtual forme `v` as it is staged: as its first, or for an element that waits for it (R134). -/
def State.takesAtOnce (s : State) (lk j v : Nat) : Bool :=
  tget 0 s.fab.shadows (stripeKey lk j) = 0 || (List.range 16).any fun c => match s.elem (elemKey lk j c) with
    | some e => e.await && e.v == v
    | none => false

/-- A stripe none of whose elements has left the wait for a forme finds the forme's own offence. -/
theorem State.takeBad_eq_takeOffence {s : State} {lk j v : Nat} (l : Launch) (p : Pipe)
    (h : ∀ c e, c < 16 → s.elem (elemKey lk j c) = some e → e.v = v → e.await = true) :
    s.takeBad lk l p j v = s.takeOffence lk l p v := by
  refine if_neg (Bool.eq_false_iff.mp (List.any_eq_false.mpr fun c hc => ?_))
  cases he : s.elem (elemKey lk j c) with
  | none => simp
  | some e => simpa using h c e (List.mem_range.mp hc) he

theorem State.takesAtOnce_of {s : State} {lk j v : Nat} (h : tget 0 s.fab.shadows (stripeKey lk j) = 0
      ∨ ∃ c e, c < 16 ∧ s.elem (elemKey lk j c) = some e ∧ e.await = true ∧ e.v = v) :
    s.takesAtOnce lk j v = true := by
  refine Bool.or_eq_true_iff.mpr (h.imp decide_eq_true ?_)
  rintro ⟨c, e, hc, he, hawait, hv⟩
  exact List.any_eq_true.mpr ⟨c, List.mem_range.mpr hc, by simp [he, hawait, hv]⟩

section
variable {s : State} {id : LaunchId} {j v : Nat} {l : Launch} {p : Pipe}
  (hl : s.launch (launchKey id) = some l) (hp : l.pipeAt j = some p)
include hl hp

theorem execShadowStage_notDue (hd : s.due (launchKey id) p j = none) : execShadowStage id j s = .next s := by
  simp only [execShadowStage, hl, hp, hd]

variable (hd : s.due (launchKey id) p j = some v)
include hd

theorem execShadowStage_notCached (hc : s.cached (launchKey id) l (p.formeAt v) = false) :
    execShadowStage id j s = .next s := by
  simp only [execShadowStage, hl, hp, hd]
  exact if_pos (by simp [hc])

variable (ha : s.lkActive (launchKey id) = true) (hc : s.cached (launchKey id) l (p.formeAt v) = true)
include ha hc

/-- A forme with an offence faults as the stripe takes it. -/
theorem execShadowStage_refused {bad : FaultClass × Nat} (hnow : s.takesAtOnce (launchKey id) j v = true)
    (hb : s.takeBad (launchKey id) l p j v = some bad) :
    execShadowStage id j s = .next (s.refuseForme (launchKey id) l p j v bad) := by
  have hsel : (if s.takesAtOnce (launchKey id) j v then s.takeBad (launchKey id) l p j v else none) = some bad := by
    rw [if_pos hnow, hb]
  simp only [execShadowStage, hl, hp, hd]
  refine (if_neg (by simp [ha, hc])).trans ?_
  split
  · next _ h => rw [Option.some.inj (hsel.symm.trans h)]
  · next h => cases hsel.symm.trans h

/-- A forme without an offence is in the stripe's shadow. -/
theorem execShadowStage_staged (hb : s.takeBad (launchKey id) l p j v = none) :
    ∃ t, execShadowStage id j s = .next t ∧ tget 0 t.fab.shadows (stripeKey (launchKey id) j) = v + 1 := by
  simp only [execShadowStage, hl, hp, hd, hb, ite_self]
  refine ⟨_, if_neg (by simp [ha, hc]), ?_⟩
  rw [State.stirred_fab]
  refine List.foldlRecOn (motive := fun a : State => tget 0 a.fab.shadows (stripeKey (launchKey id) j) = v + 1) _ _ ?_
    fun a hstaged c _ => ?_
  · rw [State.modLaunch_shadows]
    exact tget_tset_same ..
  · split
    · split <;> exact hstaged
    · split
      · rw [State.modLaunch_shadows]; exact hstaged
      · exact hstaged

end

/-- Room for a forme is made by formes that leave the cache, none of them the forme itself. -/
theorem State.makeRoom_eq (s : State) (lk k : Nat) (win : List (Nat × Nat)) :
    ∃ es, (lk, k) ∉ es ∧ s.makeRoom lk k win = s.modFab fun f => { f with evicted := f.evicted ++ es } := by
  refine List.foldlRecOn (motive := fun a : State =>
    ∃ es, (lk, k) ∉ es ∧ a = s.modFab fun f => { f with evicted := f.evicted ++ es }) _ _ ⟨[], by simp [State.modFab]⟩ ?_
  rintro a ⟨es, hes, rfl⟩ g -
  dsimp only
  split
  · exact ⟨es, hes, rfl⟩
  · split
    · next e he =>
      have hne : e ≠ (lk, k) := by
        rcases Option.or_eq_some_iff.mp he with he | ⟨-, he⟩
        · have hfound := List.find?_some he
          simp only [Bool.and_eq_true, bne_iff_ne] at hfound
          exact hfound.1
        · simpa only [bne_iff_ne] using List.find?_some he
      refine ⟨es ++ [e], by simp [hes, hne.symm], ?_⟩
      simp [State.modFab]
    · exact ⟨es, hes, rfl⟩

/-- What the imposer's read of a forme image answers. -/
def State.formeRead (s : State) (lk : Nat) (l : Launch) (k : Nat) : MemSys × Except (AErr × Nat) (List Byte) :=
  s.ms.vread (dispPlace (s.lkAsid lk) (l.formeVa k)) 0 (s.lkAsid lk) (l.formeVa k) 1024

/-- What that read is charged. -/
def State.formeCharges (s : State) (lk : Nat) (l : Launch) (k : Nat) : List Charge :=
  s.ms.readCharges (dispPlace (s.lkAsid lk) (l.formeVa k)) 0 (s.lkAsid lk) (l.formeVa k) 1024 (s.classOf l.job)

/-- The machine with the bytes read in the imposer's cache as forme `k`. -/
def State.formeFetched (s : State) (lk : Nat) (l : Launch) (k : Nat) (ms : MemSys) (bs : List Byte) : State :=
  (((({ s with ms := ms } : State).charge (s.formeCharges lk l k)).setLaunch lk
    (some { l with formes := tset none l.formes k (some (ofBytesLE bs)) })).modFab fun f =>
      { f with evicted := f.evicted.filter fun e => e != (lk, k) }).makeRoom lk k l.win

section
variable (s : State) (lk : Nat) (l : Launch) (k : Nat) (ms : MemSys) (bs : List Byte)

theorem State.formeFetched_charges : (s.formeFetched lk l k ms bs).charges = s.charges ++ s.formeCharges lk l k := by
  obtain ⟨es, -, h⟩ := State.makeRoom_eq _ lk k l.win
  exact congrArg State.charges h

theorem State.formeFetched_ms : (s.formeFetched lk l k ms bs).ms = ms := by
  obtain ⟨es, -, h⟩ := State.makeRoom_eq _ lk k l.win
  exact congrArg State.ms h

theorem State.formeFetched_launch : (s.formeFetched lk l k ms bs).launch lk
    = some { l with formes := tset none l.formes k (some (ofBytesLE bs)) } := by
  obtain ⟨es, -, h⟩ := State.makeRoom_eq _ lk k l.win
  exact (congrArg (State.launch · lk) h).trans (State.launch_setLaunch_same ..)

theorem State.formeFetched_keeps : (s.formeFetched lk l k ms bs).fab.evicted.contains (lk, k) = false := by
  obtain ⟨es, hes, h⟩ := State.makeRoom_eq _ lk k l.win
  rw [State.formeFetched, h]
  simp [State.modFab, hes]

end

theorem execFormeFetch_cached {s : State} {id : LaunchId} {k : Nat} {l : Launch} (hl : s.launch (launchKey id) = some l)
    (hc : s.cached (launchKey id) l k = true) : execFormeFetch id k s = .next s := by
  simp only [execFormeFetch, hl]
  exact if_pos (by simp [hc])

theorem execFormeFetch_reads {s : State} {id : LaunchId} {k : Nat} {l : Launch} {ms : MemSys} {bs : List Byte}
    (hl : s.launch (launchKey id) = some l) (hended : l.ended = false) (hk : k < l.nformes)
    (hc : s.cached (launchKey id) l k = false) (hr : s.formeRead (launchKey id) l k = (ms, .ok bs)) :
    execFormeFetch id k s
      = .next (s.arbitrate (s.formeFetched (launchKey id) l k ms bs) (.forme (launchKey id) k) []) := by
  unfold State.formeRead at hr
  simp only [execFormeFetch, hl]
  refine (if_neg (by simp [hended, hk, hc])).trans ?_
  simp only [hr]
  rfl

/-- R134, R229: where a forme due faults or is not staged, and where a forme is not fetched. -/
theorem formeResults : Claims.FormeResults := by
  intro s id j v k l p lk hl
  refine ⟨fun hp hd ha hc hnow hwait cls off hbad => ?_, execShadowStage_notDue hl,
    fun hp hd => execShadowStage_notCached hl hp hd, execFormeFetch_cached hl, fun ms bs hended hk hc hr hadm => ?_⟩
  · exact execShadowStage_refused (bad := (cls, off)) hl hp hd ha hc (State.takesAtOnce_of hnow)
      ((State.takeBad_eq_takeOffence l p hwait).trans hbad)
  · exact (execFormeFetch_reads hl hended hk hc hr).trans
      (congrArg _ (State.arbitrate_refused (State.formeFetched_charges ..) hadm))

/-- R134, R229: where a forme is staged and fetched. -/
theorem formesComplete : Claims.FormesComplete := by
  intro s id j v k l p lk hl
  refine ⟨fun hp hd ha hc hbad => execShadowStage_staged hl hp hd ha hc hbad, fun ms bs hended hk hc hr hadm => ?_⟩
  refine ⟨(s.formeFetched lk l k ms bs).served (.forme lk k), _, (execFormeFetch_reads hl hended hk hc hr).trans
    (congrArg _ (State.arbitrate_admitted (State.formeFetched_charges ..) hadm)), State.formeFetched_ms ..,
    State.formeFetched_launch .., tget_tset_same .., ?_⟩
  simpa [State.cached, Launch.img, State.served] using State.formeFetched_keeps s lk l k ms bs

/-! ### Sources (05 R132, 07 R185, 14 R384) -/

/-- What ends a block is the FSW of the port's sweep, or the marker that the port owes. -/
theorem Launch.blockTok_eq_some {l : Launch} {b : Nat} {p : PortSt} {t : Tok} (h : l.blockTok b p = some t) :
    t = fswTok p.sweep ∨ t = markTok l.mark := by
  unfold Launch.blockTok at h
  repeat' split at h
  all_goals cases h
  · exact .inr rfl
  · exact .inl rfl

theorem State.endBlock_eq (s : State) (lk pk : Nat) (t : Tok) (fifo : List Tok) : s.endBlock lk pk t fifo
    = if t.tag = some .mark then s.markPort lk pk fifo else s.modPort pk PortSt.nextBlock := by
  simp only [State.endBlock, beq_iff_eq]

section
variable {s : State} {id : PortId} {lk n b : Nat} {l : Launch} (hs : s.shown id.launch = some (lk, n))
  (hl : (s.settle lk).launch lk = some l) (ha : (s.settle lk).lkActive lk = true)
include hs hl ha

section
variable (hport : id.port < 48) (hlen : l.blockLen ((s.settle lk).portBase l n + id.port / 2) = some b)
include hport hlen

theorem execSweepBlockEnd_open
    (ht : l.blockTok b ((s.settle lk).port ((s.settle lk).portKey lk l n id.port)) = none) :
    execSweepBlockEnd id s = .next s := by
  simp only [execSweepBlockEnd, hs, hl]
  refine (if_neg (by simp [ha])).trans ((if_pos hport).trans ?_)
  simp only [hlen, Option.bind_some, ht]

/-- An AG port that feeds its element puts the token first among its replies. -/
theorem execSweepBlockEnd_reply {t : Tok}
    (ht : l.blockTok b ((s.settle lk).port ((s.settle lk).portKey lk l n id.port)) = some t)
    (hhead : headTag ((s.settle lk).port ((s.settle lk).portKey lk l n id.port)).replyHead ≠ some .mark) :
    execSweepBlockEnd id s = .next (((s.settle lk).endBlock lk ((s.settle lk).portKey lk l n id.port) t []).modPort
      ((s.settle lk).portKey lk l n id.port) fun p => { p with reply := (noTicket, t) :: p.reply }) := by
  simp only [execSweepBlockEnd, hs, hl]
  refine (if_neg (by simp [ha])).trans ((if_pos hport).trans ?_)
  simp only [hlen, Option.bind_some, ht]
  exact if_neg (by simpa using hhead)

end

/-- A ring port sends the token into its link, under its rate. -/
theorem execSweepBlockEnd_link {k i : Nat} {w : LinkW} {t : Tok} (hport : 48 ≤ id.port)
    (hf : (l.links.find? fun e => e.2.2.xend == 1 && 48 + e.2.2.xnum == id.port && l.segOfForme e.1 == n) = some (k, i, w))
    (hlen : l.blockLen k = some b)
    (ht : l.blockTok b ((s.settle lk).port ((s.settle lk).portKey lk l n id.port)) = some t)
    (hroom : (s.settle lk).room lk k i w = true)
    (hrate : (s.settle lk).rateOk l ((s.settle lk).port ((s.settle lk).portKey lk l n id.port)) = true) :
    execSweepBlockEnd id s = .next (((((s.settle lk).endBlock lk ((s.settle lk).portKey lk l n id.port) t
      ((s.settle lk).fifo (fifoKey lk n id.port))).modPort ((s.settle lk).portKey lk l n id.port)
        fun q => (s.settle lk).rated l q 1).send lk k i w [t]).settle lk) := by
  simp only [execSweepBlockEnd, hs, hl]
  refine (if_neg (by simp [ha])).trans ((if_neg (Nat.not_lt.mpr hport)).trans ?_)
  simp only [hf, hlen, Option.bind_some, ht]
  exact if_pos (by simp [hroom, hrate])

end

section
variable {s : State} {id : LaunchId} {q : Fin 4} {lk n k i : Nat} {l : Launch} {w : LinkW} (hs : s.shown id = some (lk, n))
  (hl : (s.settle lk).launch lk = some l)
  (hf : (l.links.find? fun e => e.2.2.xend == 1 && e.2.2.xnum == 16 + q.val && l.segOfForme e.1 == n) = some (k, i, w))
include hs hl hf

theorem execXqSourceEmit_notImposed (hp : l.pipeFor k = none) : execXqSourceEmit id q s = .next s := by
  simp only [execXqSourceEmit, hs, hl, hf]
  exact if_pos (by simp [hp])

section
variable (howes : l.owesMark ((s.settle lk).port (xqPort lk n q.val)) = false)
include howes

theorem execXqSourceEmit_ended
    (hends : ((s.settle lk).port (xqPort lk n q.val)).eos = true ∨ ((s.settle lk).port (xqPort lk n q.val)).stopping = true)
    (ht : ∀ b, l.blockLen k = some b → l.blockTok b ((s.settle lk).port (xqPort lk n q.val)) = none) :
    execXqSourceEmit id q s = .next s := by
  simp only [execXqSourceEmit, hs, hl, hf]
  refine ite_eq_left_iff.mpr fun _ => (if_neg (by simp [howes])).trans ((if_pos (by simpa using hends)).trans ?_)
  cases hlen : l.blockLen k with
  | none => rfl
  | some b => simp only [Option.bind_some, ht b hlen]

theorem execXqSourceEmit_empty (hstopped : l.stopped = false)
    (heos : ((s.settle lk).port (xqPort lk n q.val)).eos = false)
    (hstopping : ((s.settle lk).port (xqPort lk n q.val)).stopping = false)
    (hempty : (s.settle lk).queueOf (xqKey (lkThread (launchKey id)) q.val) = []) : execXqSourceEmit id q s = .next s := by
  simp only [execXqSourceEmit, hs, hl, hf]
  refine ite_eq_left_iff.mpr fun _ => (if_neg (by simp [howes])).trans
    ((if_neg (by simp [heos, hstopping])).trans ((if_neg (by simp [hstopped])).trans ?_))
  simp only [hempty, List.getElem?_nil]

variable (ha : (s.settle lk).lkActive lk = true) (hroom : (s.settle lk).room lk k i w = true)
  (himposed : (l.pipeFor k).isSome = true)
include ha hroom himposed

/-- What ends the block of a queue whose source has ended goes into the link. -/
theorem execXqSourceEmit_ends {b : Nat} {t : Tok}
    (hends : ((s.settle lk).port (xqPort lk n q.val)).eos = true ∨ ((s.settle lk).port (xqPort lk n q.val)).stopping = true)
    (hlen : l.blockLen k = some b) (ht : l.blockTok b ((s.settle lk).port (xqPort lk n q.val)) = some t) :
    execXqSourceEmit id q s = .next
      ((((s.settle lk).endBlock lk (xqPort lk n q.val) t []).send lk k i w [t]).settle lk) := by
  simp only [execXqSourceEmit, hs, hl, hf]
  refine (if_neg (by simp [ha, hroom, Option.isSome_iff_ne_none.mp himposed])).trans ((if_neg (by simp [howes])).trans
    ((if_pos (by simpa using hends)).trans ?_))
  simp only [hlen, Option.bind_some, ht]

variable (heos : ((s.settle lk).port (xqPort lk n q.val)).eos = false)
  (hstopping : ((s.settle lk).port (xqPort lk n q.val)).stopping = false)
include heos hstopping

/-- After GSTOP the source emits EOS (07 R194). -/
theorem execXqSourceEmit_eos (hstopped : l.stopped = true) : execXqSourceEmit id q s
    = .next ((((s.settle lk).setPort (xqPort lk n q.val)
        ((s.settle lk).delivered l k ((s.settle lk).port (xqPort lk n q.val)) [eosTok])).send lk k i w [eosTok]).settle lk) := by
  simp only [execXqSourceEmit, hs, hl, hf]
  exact (if_neg (by simp [ha, hroom, Option.isSome_iff_ne_none.mp himposed])).trans ((if_neg (by simp [howes])).trans
    ((if_neg (by simp [heos, hstopping])).trans (if_pos hstopped)))

/-- The oldest entry goes into the link, and, where the launch holds nothing back, out of the queue. -/
theorem execXqSourceEmit_sends {v : W64} {rest : List W64} (hstopped : l.stopped = false) (hholding : l.holding = false)
    (htaken : l.xqTaken = []) (hq : (s.settle lk).queueOf (xqKey (lkThread (launchKey id)) q.val) = v :: rest) :
    execXqSourceEmit id q s = .next (((((s.settle lk).setQueue (xqKey (lkThread (launchKey id)) q.val) rest).send lk k i w
      [.ctl .data v]).stirred lk).settle lk) := by
  simp only [execXqSourceEmit, hs, hl, hf]
  refine (if_neg (by simp [ha, hroom, Option.isSome_iff_ne_none.mp himposed])).trans ((if_neg (by simp [howes])).trans
    ((if_neg (by simp [heos, hstopping])).trans ((if_neg (by simp [hstopped])).trans ?_)))
  simp [hq, htaken, hholding]

end

end

/-- R132, R185, R194: where sources emit nothing, and EOS after GSTOP. -/
theorem sourceResults : Claims.SourceResults := by
  intro s id la q lk n l
  constructor
  · intro hs hl ha hport s1 b hlen
    exact execSweepBlockEnd_open hs hl ha hport hlen
  · intro hs hl ha s1 pk qk k i w hf
    refine ⟨execXqSourceEmit_notImposed hs hl hf, fun howes => ⟨?_, execXqSourceEmit_ended hs hl hf howes, ?_⟩⟩
    · exact execXqSourceEmit_eos hs hl hf howes ha
    · exact fun hstopped heos hstopping _ => execXqSourceEmit_empty hs hl hf howes hstopped heos hstopping

/-- R132, R185: where sources end their blocks, and an entry of an outbound queue enters the fabric. -/
theorem sourcesComplete : Claims.SourcesComplete := by
  intro s id la q lk n l s1 ended hl ha
  have hended (pk : Nat) (t : Tok) (fifo : List Tok) : s1.endBlock lk pk t fifo = ended pk t fifo :=
    s1.endBlock_eq lk pk t fifo
  refine ⟨?_, ?_, ?_⟩
  · intro hs hport pk b t hlen ht hhead
    exact ⟨Launch.blockTok_eq_some ht, hended pk t [] ▸ execSweepBlockEnd_reply hs hl ha hport hlen ht hhead⟩
  · intro hs hport pk k i w b t hf hlen ht hroom hrate
    exact hended pk t _ ▸ execSweepBlockEnd_link hs hl ha hport hf hlen ht hroom hrate
  · intro hs pk qk k i w v rest hf hroom himposed howes
    refine ⟨fun heos hstopping hstopped hholding htaken hq => ?_, fun hends b t hlen ht => ?_⟩
    · exact execXqSourceEmit_sends hs hl hf howes ha hroom himposed heos hstopping hstopped hholding htaken hq
    · exact hended pk t [] ▸ execXqSourceEmit_ends hs hl hf howes ha hroom himposed hends hlen ht

/-! ### The controller tree (05 R129, 15 R406) -/

/-- The child of SEQ node `node` that is imposed. -/
def Launch.childNow (l : Launch) (node : Nat) : Nat :=
  (nodeKids (l.nodes.map BitVec.toNat) node).getD (tget 0 l.seq node) 0

/-- The node after the subtree of that child. -/
def Launch.childEnd (l : Launch) (node : Nat) : Nat :=
  (nodeEnd (l.nodes.map BitVec.toNat) treeFuel (l.childNow node)).getD 0

/-- The pipelines of that child. -/
def Launch.childPipes (l : Launch) (node : Nat) : List Pipe :=
  l.pipes.filter fun p => l.childNow node ≤ p.node && p.node < l.childEnd node

/-- The children of the SEQ nodes once `node` has gone on to its next: those below it begin anew. -/
def Launch.nextSeq (l : Launch) (node : Nat) : Tab Nat :=
  tset 0 (l.seq.filter fun e => !(l.childNow node ≤ e.1 && e.1 < l.childEnd node)) node (tget 0 l.seq node + 1)

/-- The launch with the pipelines `ps` imposed: those beside the child that has drained stay as they are. -/
def Launch.reimposed (l : Launch) (node : Nat) (ps : List Pipe) : Launch :=
  { l with
    seq := l.nextSeq node
    pipes := ps.map fun p => match l.pipes.find? fun q => q.node == p.node && !(l.childPipes node).contains q with
      | some q => q
      | none => { p with mark0 := l.mark } }

/-- The machine with the next child of `node` imposed: the stripes of the last one are given up, and the source ports of the
pipelines that are new begin at the launch's marker. -/
def State.imposeChild (s : State) (lk : Nat) (l : Launch) (node : Nat) (ps : List Pipe) : State :=
  let l1 := l.reimposed node ps
  let js := (l.childPipes node).flatMap fun p => (List.range p.p).map fun i => p.stripe + i
  let fresh := l1.pipes.filter fun p => !(l.pipes.contains p)
  ((fresh.flatMap fun p => l1.sourcePorts lk (s.galleyOf lk l).img p).foldl (fun (a : State) k =>
    a.modPort k fun p => { p with mark := l.mark })
    ((s.vacate lk js).modLaunch lk fun x => { l1 with flags := x.flags })).stirred lk

/-- Whether a SEQ node keeps its child: its launch may not act or its job is being saved, no child is left, or the pipelines of
its child have not drained with their stores performed (R129). -/
def State.keepsChild (s : State) (lk : Nat) (l : Launch) (node : Nat) : Bool :=
  !s.lkActive lk || ((s.jobOf lk).any fun j => j.phase == .saving) || nKind ((l.nodes.map BitVec.toNat).getD node 0) != 1
    || (nodeKids (l.nodes.map BitVec.toNat) node).length ≤ tget 0 l.seq node + 1 || (l.childPipes node).isEmpty
    || !((l.childPipes node).all fun p => s.drained lk l p && s.childStored lk l p)

theorem State.keepsChild_of_busy {s : State} {lk node : Nat} {l : Launch} {p : Pipe} (hp : p ∈ l.pipes)
    (hfrom : l.childNow node ≤ p.node) (hto : p.node < l.childEnd node)
    (h : s.drained lk l p = false ∨ s.childStored lk l p = false) : s.keepsChild lk l node = true := by
  have hmine : p ∈ l.childPipes node := List.mem_filter.mpr ⟨hp, by simp [hfrom, hto]⟩
  have hall : ((l.childPipes node).all fun p => s.drained lk l p && s.childStored lk l p) = false :=
    List.all_eq_false.mpr ⟨p, hmine, by rcases h with h | h <;> simp [h]⟩
  rw [State.keepsChild, hall]
  exact Bool.or_true _

theorem State.keepsChild_of_last {s : State} {lk node : Nat} {l : Launch}
    (h : (nodeKids (l.nodes.map BitVec.toNat) node).length ≤ tget 0 l.seq node + 1) : s.keepsChild lk l node = true := by
  simp [State.keepsChild, h]

theorem State.keepsChild_eq_false {s : State} {lk node : Nat} {l : Launch} (ha : s.lkActive lk = true)
    (hsave : ((s.jobOf lk).any fun j => j.phase == .saving) = false) (hkind : nKind ((l.nodes.map BitVec.toNat).getD node 0) = 1)
    (hleft : tget 0 l.seq node + 1 < (nodeKids (l.nodes.map BitVec.toNat) node).length) (hne : l.childPipes node ≠ [])
    (hdone : ∀ p, p ∈ l.childPipes node → s.drained lk l p = true ∧ s.childStored lk l p = true) :
    s.keepsChild lk l node = false := by
  have hall : ((l.childPipes node).all fun p => s.drained lk l p && s.childStored lk l p) = true :=
    List.all_eq_true.mpr fun p hp => by simp [hdone p hp]
  rw [State.keepsChild, ha, hsave, hkind, hall, List.isEmpty_eq_false_iff.mpr hne, decide_eq_false (Nat.not_le.mpr hleft)]
  rfl

/-- Stripes given up leave their launch, with the flags of their elements. -/
theorem State.vacate_launch {s : State} {lk : Nat} {l : Launch} (hl : s.launch lk = some l) (js : List Nat) :
    ∃ flags, (s.vacate lk js).launch lk = some { l with flags := flags } :=
  ⟨_, (congrArg (State.launch · lk) (State.modLaunch_of_some hl _)).trans (State.launch_setLaunch_same ..)⟩

/-- The imposition of a child leaves the launch so imposed, with the flags it has by then. -/
theorem State.imposeChild_launch {s : State} {lk : Nat} {l : Launch} (hl : s.launch lk = some l) (node : Nat) (ps : List Pipe) :
    ∃ flags, (s.imposeChild lk l node ps).launch lk = some { l.reimposed node ps with flags := flags } := by
  obtain ⟨flags, hvacated⟩ := State.vacate_launch hl
    ((l.childPipes node).flatMap fun p => (List.range p.p).map fun i => p.stripe + i)
  refine ⟨flags, ?_⟩
  rw [State.imposeChild, State.launch_stirred]
  refine List.foldlRecOn (motive := fun a : State =>
    a.launch lk = some { l.reimposed node ps with flags := flags }) _ _ ?_ fun a ha k _ => ha
  rw [State.modLaunch_of_some hvacated, State.launch_setLaunch_same]

/-- Every node for which a pipeline is to be imposed has one. -/
theorem Launch.reimposed_covers (l : Launch) (node : Nat) {ps : List Pipe} {p : Pipe} (hp : p ∈ ps) :
    ∃ q, q ∈ (l.reimposed node ps).pipes ∧ q.node = p.node := by
  refine ⟨_, List.mem_map_of_mem hp, ?_⟩
  split
  · next q hq =>
    have hnode := List.find?_some hq
    simp only [Bool.and_eq_true, beq_iff_eq] at hnode
    exact hnode.1
  · rfl

section
variable {s : State} {id : LaunchId} {node : Nat} {l : Launch}
  (hl : (s.settle (launchKey id)).launch (launchKey id) = some l)
include hl

theorem execSeqChildImpose_keeps (h : (s.settle (launchKey id)).keepsChild (launchKey id) l node = true) :
    execSeqChildImpose id node s = .next s := by
  simp only [execSeqChildImpose, hl]
  exact if_pos h

theorem execSeqChildImpose_goesOn {ps : List Pipe} (h : (s.settle (launchKey id)).keepsChild (launchKey id) l node = false)
    (hps : imposeNode (l.nodes.map BitVec.toNat) (l.nextSeq node) treeFuel 0 0 l.win.length = some ps) :
    execSeqChildImpose id node s = .next ((s.settle (launchKey id)).imposeChild (launchKey id) l node ps) := by
  simp only [execSeqChildImpose, hl]
  refine (if_neg (Bool.eq_false_iff.mp h)).trans ?_
  split
  · next hnone => cases hps.symm.trans hnone
  · next ps' hsome =>
    cases hps.symm.trans hsome
    rfl

theorem execLaunchEnd_waits (h : (s.settle (launchKey id)).launchDone (launchKey id) l = false) :
    execLaunchEnd id s = .next s := by
  simp only [execLaunchEnd, hl]
  exact if_neg (by simp [h])

end

/-- Where the flag word of a launch lies in its context (R261). -/
def State.flagWordVa (s : State) (lk : Nat) (l : Launch) : Nat :=
  (match s.job l.job with
    | some j => j.cx
    | none => 0) + 0x280 + 8 * (4 * (s.thread (lkThread lk)).n + lk % 4)

theorem execLaunchEnd_ends {s : State} {id : LaunchId} {l : Launch}
    (hl : (s.settle (launchKey id)).launch (launchKey id) = some l)
    (ha : (s.settle (launchKey id)).lkActive (launchKey id) = true)
    (hdone : (s.settle (launchKey id)).launchDone (launchKey id) l = true) :
    execLaunchEnd id s = .next (((((s.settle (launchKey id)).sysWrite ((s.settle (launchKey id)).lkAsid (launchKey id))
      ((s.settle (launchKey id)).flagWordVa (launchKey id) l)
      (bytesLE 8 (flagWord ((s.settle (launchKey id)).launchFlags (launchKey id) l)))).endLaunch (launchKey id)).notify
        (lkThread (launchKey id)) (8 + launchKey id % 4)).progress (launchKey id)) := by
  simp only [execLaunchEnd, hl]
  exact if_pos (by simp [ha, hdone])

/-- R129, R406: where a SEQ node keeps its child, and a launch does not end. -/
theorem treeResults : Claims.TreeResults := by
  intro s id node l lk s1 ns cur stop hl
  refine ⟨?_, fun hlast => execSeqChildImpose_keeps hl (State.keepsChild_of_last hlast), execLaunchEnd_waits hl⟩
  rintro ⟨p, hp, hfrom, hto, hbusy⟩
  exact execSeqChildImpose_keeps hl (State.keepsChild_of_busy hp hfrom hto hbusy)

/-- R129, R406, R138: where a SEQ node goes on to its next child, and a launch ends. -/
theorem treeCompletes : Claims.TreeCompletes := by
  intro s id node l ps lk s1 ns c cur stop mine seq hl ha
  refine ⟨fun hkind hleft hne hdone hsave hps => ?_, execLaunchEnd_ends hl ha⟩
  have hgoes : s1.keepsChild lk l node = false := State.keepsChild_eq_false ha hsave hkind hleft hne hdone
  obtain ⟨flags, hm⟩ := State.imposeChild_launch hl node ps
  exact ⟨_, _, execSeqChildImpose_goesOn hl hgoes hps, hm, tget_tset_same .., fun p hp => l.reimposed_covers node hp⟩

/-! ### Banks (05 R142) -/

@[simp] theorem State.ringSt_modRing_same (s : State) (g : Nat) (f : RingSt → RingSt) :
    (s.modRing g f).ringSt g = f (s.ringSt g) := by
  simp [State.ringSt, State.modRing, tmod]

/-- A stripe that chooses its bank anew has the first, from the context counter on, with something to do. -/
theorem State.reselect_active (s : State) (g i : Nat) :
    tget 0 ((s.reselect g i).ringSt g).active i = s.pickBank g i (s.ringSt g).cc := by
  rw [State.reselect, State.ringSt_modRing_same]
  exact tget_tset_same ..

theorem execContextCounterAdvance_waits {s : State} {g : Fin 16}
    (h : s.clk.fc < (s.ringSt g.val).advFc + (s.ringSt g.val).slice) : execContextCounterAdvance g s = .next s := if_pos h

theorem execContextCounterAdvance_due {s : State} {g : Fin 16}
    (h : (s.ringSt g.val).advFc + (s.ringSt g.val).slice ≤ s.clk.fc) : execContextCounterAdvance g s
      = .next ((List.range 24).foldl (fun (a : State) i => a.reselect g.val i)
          (s.modRing g.val fun r => { r with cc := (r.cc + 1) % 4, advFc := s.clk.fc })) := if_neg (Nat.not_lt.mpr h)

section
variable {s : State} {g : Fin 16} {i : Fin 24}

theorem execBankReselect_unbanked (h : tget 0 (s.ringSt g.val).active i.val = 0) :
    execBankReselect g i s = .next (s.reselect g.val i.val) := if_pos h

variable (h : tget 0 (s.ringSt g.val).active i.val ≠ 0)
include h

theorem execBankReselect_keeps (hf : s.fireable g.val (tget 0 (s.ringSt g.val).active i.val - 1) i.val = true) :
    execBankReselect g i s = .next (s.modRing g.val fun r => { r with idleFc := tset 0 r.idleFc i.val s.clk.fc }) :=
  (if_neg h).trans (if_pos hf)

theorem execBankReselect_idle (hidle : tget 0 (s.ringSt g.val).idleFc i.val + 4 ≤ s.clk.fc)
    (hf : s.fireable g.val (tget 0 (s.ringSt g.val).active i.val - 1) i.val = false)
    {b : Nat} (hb : b < 4) (hother : b + 1 ≠ tget 0 (s.ringSt g.val).active i.val)
    (hwork : s.fireable g.val b i.val = true) : execBankReselect g i s = .next (s.reselect g.val i.val) := by
  have hany : ((List.range 4).any fun b => b + 1 != tget 0 (s.ringSt g.val).active i.val && s.fireable g.val b i.val) = true :=
    List.any_eq_true.mpr ⟨b, List.mem_range.mpr hb, by simp [hother, hwork]⟩
  exact (if_neg h).trans ((if_neg (by simp [hf])).trans (if_pos (by simp only [hidle, hany, decide_true, Bool.and_self])))

end

/-! ### The sequencing token (13 R377) -/

/-- The nodes of a domain that have an access waiting. -/
def State.scWaiting (s : State) (d : Option Nat) : List (Nat × PRef) := (s.scNodes d).filter fun x => s.scWaits x.2

/-- The node that the token of a domain goes to: the next one, or the first again. -/
def State.scNext (s : State) (d : Option Nat) : Option (Nat × PRef) :=
  ((s.scWaiting d).find? fun x => tget 0 s.fab.seqTok (d.getD 16) < x.1 + 1).or (s.scWaiting d).head?

theorem State.scNext_of_split {s : State} {d : Option Nat} {key : Nat} {n : PRef} {pre rest : List (Nat × PRef)}
    (hsplit : s.scWaiting d = pre ++ (key, n) :: rest)
    (h : (pre = [] ∧ ∀ x, x ∈ s.scWaiting d → x.1 < tget 0 s.fab.seqTok (d.getD 16))
      ∨ ((∀ x, x ∈ pre → x.1 < tget 0 s.fab.seqTok (d.getD 16)) ∧ tget 0 s.fab.seqTok (d.getD 16) ≤ key)) :
    s.scNext d = some (key, n) := by
  unfold State.scNext
  rcases h with ⟨rfl, hpast⟩ | ⟨hpre, hkey⟩
  · have hnone : ((s.scWaiting d).find? fun x => tget 0 s.fab.seqTok (d.getD 16) < x.1 + 1) = none :=
      List.find?_eq_none.mpr fun x hx => by simpa using hpast x hx
    rw [hnone, Option.none_or, hsplit]
    rfl
  · have hnext : ((s.scWaiting d).find? fun x => tget 0 s.fab.seqTok (d.getD 16) < x.1 + 1) = some (key, n) :=
      List.find?_eq_some_iff_append.mpr ⟨by simpa using Nat.lt_succ_of_le hkey, pre, rest, hsplit,
        fun x hx => by simpa using hpre x hx⟩
    rw [hnext, Option.some_or]

section
variable {s : State} {dom : Option (Fin 16)}

theorem execScTokenVisit_stays (h : s.scWaiting (dom.map Fin.val) = []) : execScTokenVisit dom s = .next s := by
  unfold State.scWaiting at h
  simp only [execScTokenVisit, h, List.find?_nil, List.head?_nil, Option.or_none]

variable {key : Nat} {n : PRef} (hnext : s.scNext (dom.map Fin.val) = some (key, n))
include hnext

theorem execScTokenVisit_waits
    (hadm : s.admits (.port n.key) s.wanted (s.chargedBy (s.scAccess n)) = false) :
    execScTokenVisit dom s = .next (s.waitsFor (.port n.key) (s.chargedBy (s.scAccess n))) := by
  unfold State.scNext State.scWaiting at hnext
  simp only [execScTokenVisit, hnext]
  exact if_pos (by simp [hadm])

theorem execScTokenVisit_performs
    (hadm : s.admits (.port n.key) s.wanted (s.chargedBy (s.scAccess n)) = true) (hacts : s.scAccess n ≠ s)
    (hhit : missed s.ms (s.scAccess n).ms = []) :
    execScTokenVisit dom s = .next ((Claims.acted n.lk
      ((s.modFab fun f => { f with seqTok := tset 0 f.seqTok ((dom.map Fin.val).getD 16) (key + 1) }).scAccess n)).served
        (.port n.key)) := by
  unfold State.scNext State.scWaiting at hnext
  simp only [execScTokenVisit, hnext]
  exact (if_neg (by simp [hadm])).trans ((if_neg hacts).trans (if_neg (by simp [hhit])))

end

/-- R142, R377: where the context counter, a bank and the sequencing token stay. -/
theorem bankResults : Claims.BankResults := fun _ _ _ _ =>
  ⟨execContextCounterAdvance_waits, execBankReselect_keeps, State.reselect_active .., execScTokenVisit_stays⟩

/-- R142, R377: where the context counter advances, a bank is chosen and the sequencing token moves. -/
theorem banksComplete : Claims.BanksComplete := by
  intro s g i dom r a at' nodes
  refine ⟨execContextCounterAdvance_due, ?_, ?_⟩
  · rintro (hnone | ⟨hidle, hf, b, hb, hother, hwork⟩)
    · exact execBankReselect_unbanked hnone
    · by_cases h : a = 0
      · exact execBankReselect_unbanked h
      · exact execBankReselect_idle h hidle hf hb hother hwork
  · intro key n rest pre hsplit h s1 t
    have hnext := State.scNext_of_split hsplit h
    exact ⟨execScTokenVisit_performs hnext, execScTokenVisit_waits hnext⟩

/-! ### The obligations -/

/-- Settles O43: where the imposer, sources, the tree and the banks wait or fault. -/
theorem imposerResults : Obligations.ImposerResults := ⟨formeResults, sourceResults, treeResults, bankResults⟩

/-- Settles O44: what the imposer, sources, the tree and the banks do where they run. -/
theorem imposerCompletes : Obligations.ImposerCompletes := ⟨formesComplete, sourcesComplete, treeCompletes, banksComplete⟩

end Sys2Proof.Machine
end

section
/-! PROOFS. The accesses of a thread to memory (07 R177-R181): what a load, a store and an atomic do where nothing stops
them, and the faults of each in the order of R178, said once for an access and carried over to the instructions. -/

namespace Sys2Proof.Machine

open Claims

/-! ### Addresses -/

/-- An address below the device window has no bit above bit 55, and lies outside the window. -/
theorem memoryVa {va : W64} (h : va.toNat < 0x00FFFF0000000000) : highVa va = false ∧ inDevice va = false := by
  have hhigh : va.toNat / 2 ^ 56 = 0 := by omega
  have hlow : ¬ deviceBase ≤ va.toNat := by rw [deviceBase]; omega
  exact ⟨bne_eq_false_iff_eq.mpr hhigh, by simp [inDevice, hlow]⟩

/-- An address beyond 56 bits is no address of the device window. -/
theorem highVa_of_beyond {va : W64} (h : 2 ^ 56 ≤ va.toNat) : highVa va = true ∧ inDevice va = false := by
  have hhigh : highVa va = true := bne_iff_ne.mpr (by omega)
  exact ⟨hhigh, by rw [inDevice, hhigh, Bool.not_true, Bool.and_false]⟩

theorem inDevice_of_window {va : W64} (h : 0x00FFFF0000000000 ≤ va.toNat) (hv : va.toNat < 2 ^ 56) : inDevice va = true := by
  have hhigh : highVa va = false := bne_eq_false_iff_eq.mpr (by omega)
  simp [inDevice, hhigh, deviceBase, h]

/-! ### Checks of an access in memory -/

/-- A translation that traps charges its walk and changes nothing else. -/
theorem translateMe_trap {s s1 : State} {va : W64} {k : AccessKind} {d : Bool} {t : TrapReq}
    (h : s.translateMe va k d = .trap s1 t) : s1 = { s with charges := s1.charges } := by
  unfold State.translateMe at h
  dsimp only at h
  split at h
  · cases h
  · injection h with hs; subst hs; rfl
  · cases h

theorem watchHit_no_access (ws : List (Option Watch)) (va n : Nat) : watchHit ws va n false false = none := by
  rw [watchHit, List.findSome?_eq_none_iff]
  rintro ⟨i, _ | w⟩ -
  · rfl
  · simp

/-- An access that neither reads nor writes matches no watchpoint. -/
theorem State.watchMe_no_access (s : State) (va n : Nat) : s.watchMe va n false false = none := by
  unfold State.watchMe
  split
  · exact watchHit_no_access _ _ _
  · rfl

section
variable {s : State} {va : W64} {n : Nat} {k : AccessKind} {d rd wr : Bool}

theorem State.dataPa_high (h : highVa va = true) : s.dataPa va n k d rd wr = .trap s (trapAt .xlate va) := if_pos h

variable (h : highVa va = false)
include h

theorem State.dataPa_trap {s1 : State} {t : TrapReq} (ht : s.translateMe va k d = .trap s1 t) :
    s.dataPa va n k d rd wr = .trap s1 t := by simp [State.dataPa, h, ht]

theorem State.dataPa_post {s1 : State} (ht : s.translateMe va k d = .post s1) :
    s.dataPa va n k d rd wr = .post s1 := by simp [State.dataPa, h, ht]

theorem State.dataPa_watch {s1 : State} {pa w : Nat} (ht : s.translateMe va k d = .ok s1 pa)
    (hw : s.watchMe va.toNat n rd wr = some w) :
    s.dataPa va n k d rd wr = .trap s1 { trapAt .watch va with detail := w } := by simp [State.dataPa, h, ht, hw]

theorem State.dataPa_passes {s1 : State} {pa : Nat} (ht : s.translateMe va k d = .ok s1 pa)
    (hw : s.watchMe va.toNat n rd wr = none) : s.dataPa va n k d rd wr = .ok s1 pa := by simp [State.dataPa, h, ht, hw]

end

/-! ### Atomics that nothing stops (R179, R180) -/

theorem readPa_eq_valueAt (s : State) (pa n : Nat) : s.ms.readPa pa n = valueAt s pa n := rfl

section
variable {s s1 : State} {va : W64} {n pa : Nat} {always : Bool} {f : Nat → Option Nat}

/-- An atomic whose operation gives a new value reads and writes; the writing has a translation of its own, with D. -/
theorem State.atomic_writes {s2 : State} {pb v : Nat} (hr : Reaches s va n .atomic false true true s1 pa)
    (hb : s1.ms.rangeBad pa n = false) (hf : f (valueAt s1 pa n) = some v)
    (ht : s1.translateMe va .atomic true = .ok s2 pb) :
    s.atomic va n always f = .ok (stored s2 pb (bytesLE n v)) (valueAt s1 pa n) := by
  obtain ⟨halign, hhigh, hdev, htrans, hwatch⟩ := hr
  have hfirst : s.dataPa va n .atomic false false false = .ok s1 pa :=
    State.dataPa_passes hhigh htrans (s.watchMe_no_access _ _)
  have hsecond : s1.dataPa va n .atomic true false false = .ok s2 pb :=
    State.dataPa_passes hhigh ht (s1.watchMe_no_access _ _)
  have hf' : f (s1.ms.readPa pa n) = some v := hf
  simp [State.atomic, halign, hdev, hfirst, hb, hf', hwatch, hsecond, stored, ← readPa_eq_valueAt]

/-- A CAS whose compare fails is a read. -/
theorem State.atomic_reads (hr : Reaches s va n .atomic false true false s1 pa) (hb : s1.ms.rangeBad pa n = false)
    (hf : f (valueAt s1 pa n) = none) : s.atomic va n false f = .ok s1 (valueAt s1 pa n) := by
  obtain ⟨halign, hhigh, hdev, htrans, hwatch⟩ := hr
  have hfirst : s.dataPa va n .atomic false false false = .ok s1 pa :=
    State.dataPa_passes hhigh htrans (s.watchMe_no_access _ _)
  have hf' : f (s1.ms.readPa pa n) = none := hf
  simp [State.atomic, halign, hdev, hfirst, hb, hf', hwatch, ← readPa_eq_valueAt]

end

/-! ### Loads and atomics into registers -/

theorem loadReg_performs {i : Instr} {s s1 : State} {d a : BitVec 5} {z : BitVec 2} {o : BitVec 12} {pa : Nat}
    (f : Nat → W64) (hi : encodingOk i = true)
    (hr : Reaches s (reg s a + o.signExtend 64) (2 ^ z.toNat) .read false true false s1 pa)
    (hb : s1.ms.rangeBad pa (2 ^ z.toNat) = false) :
    loadReg i s d a z o f = .next (wrote s1 d (f (valueAt s1 pa (2 ^ z.toNat)))) := by
  have hload : s.load (eaF s.me a o) (sizeBytes z) = .ok s1 (valueAt s1 pa (2 ^ z.toNat)) := State.load_reaches hr hb
  rw [loadReg, checked_ok _ _ _ hi, hload]
  rfl

theorem amo_eq {i : Instr} {s : State} {d a b : BitVec 5} {z : BitVec 2} (f : Nat → Nat → Nat → Nat)
    (hi : encodingOk i = true) : amo i s d a b z f
    = (s.atomic (reg s a) (2 ^ z.toNat) true fun old =>
        some (f (8 * 2 ^ z.toNat) old ((reg s b).toNat % 2 ^ (8 * 2 ^ z.toNat)))).andThen
      fun s1 old => .next (wrote s1 d (ofSigned (signedN (8 * 2 ^ z.toNat) old))) := by
  rw [amo, checked_ok _ _ _ hi]
  rfl

theorem amo_performs {i : Instr} {s s1 s2 : State} {d a b : BitVec 5} {z : BitVec 2} {pa pb : Nat}
    (f : Nat → Nat → Nat → Nat) (hi : encodingOk i = true)
    (hr : Reaches s (reg s a) (2 ^ z.toNat) .atomic false true true s1 pa)
    (hb : s1.ms.rangeBad pa (2 ^ z.toNat) = false) (ht : s1.translateMe (reg s a) .atomic true = .ok s2 pb) :
    amo i s d a b z f = .next (wrote (stored s2 pb (bytesLE (2 ^ z.toNat)
        (f (8 * 2 ^ z.toNat) (valueAt s1 pa (2 ^ z.toNat)) ((reg s b).toNat % 2 ^ (8 * 2 ^ z.toNat))))) d
      (ofSigned (signedN (8 * 2 ^ z.toNat) (valueAt s1 pa (2 ^ z.toNat))))) := by
  have hatomic := State.atomic_writes (always := true) (f := fun old =>
    some (f (8 * 2 ^ z.toNat) old ((reg s b).toNat % 2 ^ (8 * 2 ^ z.toNat)))) hr hb rfl ht
  rw [amo_eq f hi, hatomic]
  rfl

theorem loadsRead : LoadsRead := by
  intro s s1 d a z q o pa n ea hr hb
  exact ⟨fun he => loadReg_performs _ he hr hb, fun he => loadReg_performs _ he hr hb⟩

theorem hintsPass : HintsPass := by
  intro s a o c k
  refine ⟨rfl, rfl, fun hc hk => ?_⟩
  have he : encodingOk (.fence c k) = true := by
    simp only [encodingOk, Instr.wf, Bool.and_eq_true, decide_eq_true_eq]
    omega
  exact checked_ok _ _ _ he

/-- The instructions of R179. -/
def IsAmo (i : Instr) (d a b : BitVec 5) (q z : BitVec 2) : Prop :=
  i = .amoadd d a b q z ∨ i = .amoand d a b q z ∨ i = .amoor d a b q z ∨ i = .amoxor d a b q z
    ∨ i = .amomin d a b q z ∨ i = .amomax d a b q z ∨ i = .amoswap d a b q z

theorem IsAmo.encodingOk {i : Instr} {d a b : BitVec 5} {q z : BitVec 2} (h : IsAmo i d a b q z) (hz : 2 ≤ z.toNat) :
    encodingOk i = true := by
  have he : atomicSize z = true := decide_eq_true hz
  rcases h with rfl | rfl | rfl | rfl | rfl | rfl | rfl <;> exact he

/-- What an AMO makes of the old value and the operand, at the width of its size. -/
def amoFn (i : Instr) (w old v : Nat) : Nat :=
  match i with
  | .amoadd _ _ _ _ _ => (old + v) % 2 ^ w
  | .amoand _ _ _ _ _ => old &&& v
  | .amoor _ _ _ _ _ => old ||| v
  | .amoxor _ _ _ _ _ => old ^^^ v
  | .amomin _ _ _ _ _ => if signedN w old ≤ signedN w v then old else v
  | .amomax _ _ _ _ _ => if signedN w v ≤ signedN w old then old else v
  | _ => v

theorem IsAmo.exec_eq {i : Instr} {d a b : BitVec 5} {q z : BitVec 2} (h : IsAmo i d a b q z) (s : State) :
    exec i s = amo i s d a b z (amoFn i) := by
  rcases h with rfl | rfl | rfl | rfl | rfl | rfl | rfl <;> rfl

theorem amoResults : AmoResults := by
  intro s s1 s2 d a b q z pa pb n w old v done hz hr hb ht
  have performs {i : Instr} (h : IsAmo i d a b q z) : exec i s = done (amoFn i w old v) :=
    (h.exec_eq s).trans (amo_performs _ (h.encodingOk hz) hr hb ht)
  refine ⟨?_, ?_, ?_, ?_, ?_, ?_, ?_⟩
  all_goals exact performs (by simp [IsAmo])

/-- CAS as an atomic that writes where its compare holds. -/
theorem execCas_eq {s : State} {d a b : BitVec 5} {q z : BitVec 2} (hz : 2 ≤ z.toNat) : exec (.cas d a b q z) s
    = (s.atomic (reg s a) (2 ^ z.toNat) false fun old =>
        if old == (reg s d).toNat % 2 ^ (8 * 2 ^ z.toNat) then some ((reg s b).toNat % 2 ^ (8 * 2 ^ z.toNat)) else none).andThen
      fun s1 old => .next (wrote s1 d (ofSigned (signedN (8 * 2 ^ z.toNat) old))) := by
  have he : encodingOk (.cas d a b q z) = true := decide_eq_true hz
  change execCas d a b q z s = _
  rw [execCas, checked_ok _ _ _ he]
  rfl

theorem casResults : CasResults := by
  intro s s1 d a b q z pa n w old hz hb
  constructor
  · intro heq hr s2 pb ht
    exact (execCas_eq hz).trans (by rw [State.atomic_writes hr hb (if_pos (beq_iff_eq.mpr heq)) ht]; rfl)
  · intro hne hr
    exact (execCas_eq hz).trans (by rw [State.atomic_reads hr hb (if_neg (mt beq_iff_eq.mp hne))]; rfl)

/-- Settles O23: a load, a hint, an AMO and a CAS, each from its access. -/
theorem loadResults : Obligations.LoadResults := ⟨loadsRead, hintsPass, amoResults, casResults⟩

/-! ### The faults of an access (R178) -/

/-- The faults of an access of `n` bytes at `va`, as `Claims.FaultsAt` says them of an instruction: each is what the access
answers, with the state in which the trap is taken. -/
structure Acc.Faults {α : Type} (acc : Acc α) (s : State) (va : W64) (n : Nat) (k : AccessKind) (setD rd : Bool)
    (wr : State → Nat → Bool) : Prop where
  misaligned : va.toNat % n ≠ 0 → acc = .trap s (trapAt .align va)
  beyond : va.toNat % n = 0 → highVa va = true → inDevice va = false → acc = .trap s (trapAt .xlate va)
  refused : va.toNat % n = 0 → highVa va = false → inDevice va = false →
    ∀ s1 t, s.translateMe va k setD = .trap s1 t → acc = .trap s1 t
  posted : va.toNat % n = 0 → highVa va = false → inDevice va = false →
    ∀ s1, s.translateMe va k setD = .post s1 → acc = .post s1
  watched : va.toNat % n = 0 → highVa va = false → inDevice va = false →
    ∀ s1 pa, s.translateMe va k setD = .ok s1 pa → ∀ w, s.watchMe va.toNat n rd (wr s1 pa) = some w →
      acc = .trap s1 { trapAt .watch va with detail := w }
  bad : rd = true → va.toNat % n = 0 → highVa va = false → inDevice va = false →
    ∀ s1 pa, s.translateMe va k setD = .ok s1 pa → s.watchMe va.toNat n rd (wr s1 pa) = none →
      s1.ms.rangeBad pa n = true → acc = .trap s1 (trapAt .dataUe va)

/-- An instruction that begins with an access takes the faults of it. -/
theorem Acc.Faults.of_instruction {α : Type} {acc : Acc α} {s : State} {va : W64} {n : Nat} {k : AccessKind} {setD rd : Bool}
    {wr : State → Nat → Bool} {i : Instr} {f : State → α → Out} (h : acc.Faults s va n k setD rd wr)
    (hi : exec i s = acc.andThen f) : FaultsAt s i va n k setD rd wr := by
  refine ⟨fun hmis => ?_, fun halign hbeyond => ?_, fun halign hlow => ?_⟩
  · rw [hi, h.misaligned hmis]; rfl
  · obtain ⟨hhigh, hdev⟩ := highVa_of_beyond hbeyond
    rw [hi, h.beyond halign hhigh hdev]; rfl
  · obtain ⟨hhigh, hdev⟩ := memoryVa hlow
    refine ⟨fun s1 ht => ⟨translateMe_trap ht, ?_⟩, fun s1 ht => ?_, fun s1 pa ht => ⟨fun w hw => ?_, fun hrd hw hb => ?_⟩⟩
    · rw [hi, h.refused halign hhigh hdev s1 _ ht]; rfl
    · rw [hi, h.posted halign hhigh hdev s1 ht]; rfl
    · rw [hi, h.watched halign hhigh hdev s1 pa ht w hw]; rfl
    · rw [hi, h.bad hrd halign hhigh hdev s1 pa ht hw hb]; rfl

theorem State.load_faults (s : State) (va : W64) (n : Nat) :
    (s.load va n).Faults s va n .read false true fun _ _ => false where
  misaligned := State.load_misaligned
  beyond halign hhigh hdev := by simp [State.load, halign, hdev, State.dataPa_high hhigh]
  refused halign hhigh hdev s1 t ht := by simp [State.load, halign, hdev, State.dataPa_trap hhigh ht]
  posted halign hhigh hdev s1 ht := by simp [State.load, halign, hdev, State.dataPa_post hhigh ht]
  watched halign hhigh hdev s1 pa ht w hw := by simp [State.load, halign, hdev, State.dataPa_watch hhigh ht hw]
  bad _ halign hhigh hdev s1 pa ht hw hb := by simp [State.load, halign, hdev, State.dataPa_passes hhigh ht hw, hb]

theorem State.store_faults (s : State) (va : W64) {n : Nat} {bs : List Byte} (hn : bs.length = n) :
    (s.store va bs).Faults s va n .write true false fun _ _ => true where
  misaligned hmis := if_pos (bne_iff_ne.mpr (hn ▸ hmis))
  beyond halign hhigh hdev := by simp [State.store, hn, halign, hdev, State.dataPa_high hhigh]
  refused halign hhigh hdev s1 t ht := by simp [State.store, hn, halign, hdev, State.dataPa_trap hhigh ht]
  posted halign hhigh hdev s1 ht := by simp [State.store, hn, halign, hdev, State.dataPa_post hhigh ht]
  watched halign hhigh hdev s1 pa ht w hw := by simp [State.store, hn, halign, hdev, State.dataPa_watch hhigh ht hw]
  bad hrd := nomatch hrd

/-- An atomic reads, and for watchpoints writes where it is an AMO or its operation gives a new value (12 R362). -/
theorem State.atomic_faults (s : State) (va : W64) (n : Nat) (always : Bool) (f : Nat → Option Nat) :
    (s.atomic va n always f).Faults s va n .atomic false true
      fun s1 pa => always || (!s1.ms.rangeBad pa n && (f (valueAt s1 pa n)).isSome) where
  misaligned hmis := if_pos (bne_iff_ne.mpr hmis)
  beyond halign hhigh hdev := by simp [State.atomic, halign, hdev, State.dataPa_high hhigh]
  refused halign hhigh hdev s1 t ht := by simp [State.atomic, halign, hdev, State.dataPa_trap hhigh ht]
  posted halign hhigh hdev s1 ht := by simp [State.atomic, halign, hdev, State.dataPa_post hhigh ht]
  watched halign hhigh hdev s1 pa ht w hw := by
    have hfirst := State.dataPa_passes hhigh ht (s.watchMe_no_access va.toNat n)
    simp only [← readPa_eq_valueAt] at hw
    simp [State.atomic, halign, hdev, hfirst, hw]
  bad _ halign hhigh hdev s1 pa ht hw hb := by
    have hfirst := State.dataPa_passes hhigh ht (s.watchMe_no_access va.toNat n)
    simp only [hb, Bool.not_true, Bool.false_and, Bool.or_false] at hw
    simp [State.atomic, halign, hdev, hfirst, hw, hb]

/-! ### The device window -/

section
variable {s : State} {va : W64} {n : Nat}

/-- A load in the device window where no rule lets it read. -/
theorem State.load_closed (halign : va.toNat % n = 0) (hdev : inDevice va = true) (hr : s.deviceRead va.toNat n = none) :
    s.load va n = .trap s (trapAt .perm va) := by simp [State.load, halign, hdev, hr]

/-- A store in the device window outside the thread's part of the scratchpad. -/
theorem State.store_closed {bs : List Byte} (hn : bs.length = n) (halign : va.toNat % n = 0) (hdev : inDevice va = true)
    (h : 0x00FFFF0001800000 ≤ va.toNat ∨ s.spPlace va.toNat n = none) : s.store va bs = .trap s (trapAt .perm va) := by
  have hbase : deviceBase + 24 * 0x100000 = 0x00FFFF0001800000 := rfl
  rcases h with h | h
  · simp [State.store, hn, halign, hdev, hbase, Nat.not_lt.mpr h]
  · simp [State.store, hn, halign, hdev, h]

theorem State.atomic_closed {always : Bool} {f : Nat → Option Nat} (halign : va.toNat % n = 0) (hdev : inDevice va = true) :
    s.atomic va n always f = .trap s (trapAt .perm va) := by simp [State.atomic, halign, hdev]

end

/-! ### The instructions as accesses -/

section
variable {s : State} {d a : BitVec 5} {z q : BitVec 2} {o : BitVec 12}

theorem execLd_eq (he : encodingOk (.ld d a z q o) = true) : exec (.ld d a z q o) s
    = (s.load (reg s a + o.signExtend 64) (2 ^ z.toNat)).andThen fun s1 v => .next (wrote s1 d (BitVec.ofNat 64 v)) := by
  change execLd d a z q o s = _
  rw [execLd, loadReg, checked_ok _ _ _ he]
  rfl

theorem execLds_eq (he : encodingOk (.lds d a z q o) = true) : exec (.lds d a z q o) s
    = (s.load (reg s a + o.signExtend 64) (2 ^ z.toNat)).andThen fun s1 v =>
        .next (wrote s1 d (ofSigned (signedN (8 * 2 ^ z.toNat) v))) := by
  change execLds d a z q o s = _
  rw [execLds, loadReg, checked_ok _ _ _ he]
  rfl

theorem execSt_eq (he : encodingOk (.st d a z q o) = true) : exec (.st d a z q o) s
    = (s.store (reg s a + o.signExtend 64) (bytesLE (2 ^ z.toNat) (reg s d).toNat)).andThen fun s1 _ => .next (passed s1) := by
  change execSt d a z q o s = _
  rw [execSt, checked_ok _ _ _ he]
  rfl

end

/-- HLD once its header has been asked for. -/
theorem execHld_eq (s : State) (h : BitVec 3) (a : BitVec 5) (g : BitVec 8) : exec (.hld h a g) s
    = (s.load (reg s a + 32 * g.signExtend 64) 32).andThen fun s1 v =>
        let hd : Header := BitVec.ofNat 256 v
        if checks1to7 hd = 0 then .next (s1.setMe (s1.me.putH h hd).adv)
        else trapOut s1 (headerTrap (checks1to7 hd) hd) := by
  change execHld h a g s = _
  rw [execHld, checked_ok _ _ _ rfl]
  simp only [eaG, sx, BitVec.mul_comm _ (32 : W64), bne_iff_ne, ite_not]
  rfl

theorem execHst_eq (s : State) (h : BitVec 3) (a : BitVec 5) (g : BitVec 8) : exec (.hst h a g) s
    = (s.store (reg s a + 32 * g.signExtend 64) (bytesLE 32 (s.me.getH h).toNat)).andThen fun s1 _ => .next (passed s1) := by
  change execHst h a g s = _
  rw [execHst, checked_ok _ _ _ rfl]
  simp only [eaG, sx, BitVec.mul_comm _ (32 : W64)]
  rfl

/-- An access that traps at PERM makes the instruction that begins with it trap. -/
theorem exec_traps_perm {α : Type} {acc : Acc α} {s : State} {va : W64} {i : Instr} {f : State → α → Out}
    (hi : exec i s = acc.andThen f) (h : acc = .trap s (trapAt .perm va)) : exec i s = .next (trapped s .perm 0 va va) := by
  rw [hi, h]; rfl

theorem plainFaults : PlainFaults := by
  intro s d a z q o h g m ea eg et no yes closed
  have hlen := length_bytesLE (2 ^ z.toNat) (reg s d).toNat
  have hlenH := length_bytesLE 32 (s.me.getH h).toNat
  have window {va : W64} {n : Nat} : closed va n → va.toNat % n = 0 ∧ inDevice va = true :=
    fun ⟨halign, hlo, hhi⟩ => ⟨halign, inDevice_of_window hlo hhi⟩
  refine ⟨fun he => ⟨?_, fun hc hr => ?_⟩, fun he => ⟨?_, fun hc hr => ?_⟩, fun he => ⟨?_, fun hc hr => ?_⟩, ?_, fun hc hr => ?_,
    ?_, fun hc hr => ?_, ?_⟩
  · exact (s.load_faults _ _).of_instruction (execLd_eq he)
  · exact exec_traps_perm (execLd_eq he) (State.load_closed (window hc).1 (window hc).2 hr)
  · exact (s.load_faults _ _).of_instruction (execLds_eq he)
  · exact exec_traps_perm (execLds_eq he) (State.load_closed (window hc).1 (window hc).2 hr)
  · exact (s.store_faults _ hlen).of_instruction (execSt_eq he)
  · exact exec_traps_perm (execSt_eq he) (State.store_closed hlen (window hc).1 (window hc).2 hr)
  · exact (s.load_faults _ _).of_instruction (execHld_eq s h a g)
  · exact exec_traps_perm (execHld_eq s h a g) (State.load_closed (window hc).1 (window hc).2 hr)
  · exact (s.store_faults _ hlenH).of_instruction (execHst_eq s h a g)
  · exact exec_traps_perm (execHst_eq s h a g) (State.store_closed hlenH (window hc).1 (window hc).2 hr)
  · exact (s.load_faults _ _).of_instruction (execCallt_eq d a m s)

/-- An AMO begins with an atomic that always writes. -/
theorem IsAmo.exec_atomic {i : Instr} {d a b : BitVec 5} {q z : BitVec 2} (h : IsAmo i d a b q z) (hz : 2 ≤ z.toNat)
    (s : State) : ∃ f k, exec i s = (s.atomic (reg s a) (2 ^ z.toNat) true f).andThen k := by
  rw [h.exec_eq s, amo_eq _ (h.encodingOk hz)]
  exact ⟨_, _, rfl⟩

theorem atomicFaults : AtomicFaults := by
  intro s d a b q z i n va holds amo hz
  refine ⟨fun h => ?_, ?_, fun h halign hlo hhi => ?_⟩
  · obtain ⟨f, k, he⟩ := IsAmo.exec_atomic h hz s
    exact (s.atomic_faults va n true f).of_instruction he
  · have hf := s.atomic_faults va n false fun old =>
      if old == (reg s d).toNat % 2 ^ (8 * n) then some ((reg s b).toNat % 2 ^ (8 * n)) else none
    have hwr : (fun s1 pa => false || (!s1.ms.rangeBad pa n && (if valueAt s1 pa n == (reg s d).toNat % 2 ^ (8 * n) then
        some ((reg s b).toNat % 2 ^ (8 * n)) else none).isSome)) = holds := by
      funext s1 pa
      by_cases hv : valueAt s1 pa n = (reg s d).toNat % 2 ^ (8 * n) <;> simp [holds, hv]
    exact (hwr ▸ hf).of_instruction (execCas_eq hz)
  · have hdev : inDevice va = true := inDevice_of_window hlo hhi
    rcases h with h | rfl
    · obtain ⟨f, k, he⟩ := IsAmo.exec_atomic h hz s
      exact exec_traps_perm he (State.atomic_closed halign hdev)
    · exact exec_traps_perm (execCas_eq hz) (State.atomic_closed halign hdev)

/-- Taking a trap changes the thread and its job alone. -/
theorem State.trap_keeps (s : State) (t : TrapReq) :
    (s.trap t).ms = s.ms ∧ (s.trap t).fab = s.fab ∧ (s.trap t).scratch = s.scratch := by
  unfold State.trap State.trapThread
  dsimp only
  split
  · split <;> exact ⟨rfl, rfl, rfl⟩
  · exact ⟨rfl, rfl, rfl⟩

/-- Settles O24: the faults of a load, a store and an atomic, carried over to the instructions that begin with one. -/
theorem accessFaults : Obligations.AccessFaults := ⟨plainFaults, atomicFaults, fun s _ _ _ _ => s.trap_keeps _⟩

end Sys2Proof.Machine
end

section
/-! PROOFS. Traps and control registers (06 R147, 07 R174, R197-R203): trap entry and the fault that ends a job, ERET and
HALT, privileged instructions without privilege, and reading and writing the control and status registers. -/

namespace Sys2Proof.Machine

open Claims

/-! ### Trap entry (R201) -/

theorem trapRegisters : TrapRegisters := fun s r hout hbase => trapThread_enters s s.cur r hout hbase

theorem trapInstructions : TrapInstructions := by
  intro s c entered hout hbase
  have enters (cause : Cause) {detail : Nat} (hd : detail < 256) :
      s.trap { cause := cause, detail := detail } = entered cause.code detail := by
    rw [trapRegisters s _ hout hbase]
    simp only [Nat.mod_eq_of_lt hd, entered]
  refine ⟨?_, ?_, fun hclaimed => ?_, fun hclaimed => ?_⟩
  · exact congrArg Host.Outcome.next (enters .soft c.isLt)
  · exact congrArg Host.Outcome.next (enters .illegal (by decide))
  · change execBrk c s = _
    rw [execBrk, checked_ok _ _ _ rfl, hclaimed]
    exact congrArg Host.Outcome.next (enters .break c.isLt)
  · change execBrk c s = _
    rw [execBrk, checked_ok _ _ _ rfl, hclaimed]
    rfl

/-! ### The fault that ends a job (R199, R201) -/

/-- A change of a job that keeps its number, where the job is. -/
theorem State.job_modJob_same {s : State} {id : JobId} {j : Job} {f : Job → Job} (hf : ∀ x, (f x).seq = x.seq)
    (hj : s.job id = some j) : (s.modJob id f).job id = some (f j) := by
  have hseq : (fun x : Job => (if x.seq == id.seq then f x else x).seq == id.seq) = fun x => x.seq == id.seq := by
    funext x
    split
    · rw [hf]
    · rfl
  rw [State.job, Queue.job] at hj
  have hfound := List.find?_some hj
  simp only [State.job, State.modJob, State.queue_modQueue_same, Queue.job, List.find?_map, Function.comp_def, hseq, hj,
    Option.map_some, hfound, if_true]

@[simp] theorem Job.record_seq (j : Job) (f : FaultRec) : (j.record f).seq = j.seq := by
  unfold Job.record
  split <;> rfl

/-- The first fault of a started job contains it with the fault's class (14 R391). -/
theorem Job.record_first {j : Job} (f : FaultRec) (hp : j.phase = .started) (hf : j.faults = []) :
    (j.record f).phase = .containing ∧ (j.record f).status = statusOf f.cls ∧ (j.record f).errClass = f.cls.code := by
  simp [Job.record, hp, hf, addFault]

/-- No trap is a time-out or a deadlock. -/
theorem Cause.statusOf_cls (c : Cause) : statusOf c.cls = .error := by cases c <;> rfl

/-- The fault that a trap of the issuing thread records when it ends the thread's job. -/
def State.trapFault (s : State) (t : TrapReq) : FaultRec :=
  { cls := t.cause.cls, site := 0, ring := s.cur / 4, slot := s.cur % 4, detail := t.info, addr := t.va }

theorem State.trap_ends_job {s : State} {id : JobId} (t : TrapReq) (h : s.me.inTrap = true ∨ s.me.trapBase = 0)
    (hj : s.me.job = some id) : s.trap t = (s.recordFault id (s.trapFault t)).setMe { s.me with run := .stopped } := by
  have hends : ((s.thread s.cur).inTrap || (s.thread s.cur).trapBase == 0) = true := by
    rw [State.me] at h
    rcases h with h | h <;> simp [h]
  unfold State.trap State.trapThread
  dsimp only
  rw [if_pos hends]
  split
  · next k hk =>
    obtain rfl : k = id := Option.some.inj (hk.symm.trans hj)
    rfl
  · next hk => exact absurd (hk.symm.trans hj) nofun

theorem doubleFaultEndsJob : DoubleFaultEndsJob := by
  intro s r id j hends hid hj hp hf
  rw [State.trap_ends_job r hends hid]
  obtain ⟨hphase, hstatus, hclass⟩ := j.record_first { s.trapFault r with time := s.time, fc := s.clk.fc } hp hf
  refine ⟨State.me_setMe (s.recordFault id _) _, ⟨_, State.job_modJob_same (fun x => x.record_seq _) hj, hphase, ?_, hclass⟩, rfl,
    fun i hi => State.thread_setMe_ne (s.recordFault id _) _ i hi⟩
  exact hstatus.trans r.cause.statusOf_cls

/-! ### ERET and HALT (R203) -/

theorem eretHalt : EretHalt := by
  intro s
  refine ⟨fun hin => ?_, fun hout => ?_, ?_⟩
  · change execEret s = _
    rw [execEret, checked_ok _ _ _ rfl, hin]
    rfl
  · change execEret s = _
    rw [execEret, checked_ok _ _ _ rfl, hout]
    rfl
  · change ∃ t, execHalt s = .next t ∧ _
    rw [execHalt, checked_ok _ _ _ rfl]
    dsimp only
    have hme := s.me_setMe { s.me with run := .halted }
    have hothers := s.thread_setMe_ne { s.me with run := .halted }
    split
    · exact ⟨_, rfl, hme, rfl, rfl, hothers⟩
    · exact ⟨_, rfl, hme, rfl, rfl, hothers⟩

/-- Settles O25: trap entry, its use by TRAP, BRK and ILL, the fault that ends a job, ERET and HALT. -/
theorem trapEntry : Obligations.TrapEntry := ⟨trapInstructions, trapRegisters, doubleFaultEndsJob, eretHalt⟩

/-! ### Privilege (R174) -/

/-- Settles O26: each of the five makes the check of privilege behind that of its encoding. -/
theorem privilege : Obligations.Privilege := by
  intro s i d a n k hi he hp
  rcases hi with rfl | rfl | rfl | rfl | rfl
  · change execLrkey d a s = _
    rw [execLrkey, privileged_user _ _ _ he hp]
    rfl
  · change execTlbinv d a k s = _
    rw [execTlbinv, privileged_user _ _ _ he hp]
    rfl
  · change execCtxsave a s = _
    rw [execCtxsave, privileged_user _ _ _ he hp]
    rfl
  · change execCtxld a s = _
    rw [execCtxld, privileged_user _ _ _ he hp]
    rfl
  · change execLigbind d a n s = _
    rw [execLigbind, privileged_user _ _ _ he hp]
    rfl

/-! ### Control and status registers (R197, R198) -/

theorem execCsrr_eq (s : State) (d : BitVec 5) {c : BitVec 8} (hc : csrListed c = true) :
    exec (.csrr d c) s = .next (wrote s d (s.csr c.toNat)) := by
  have he : encodingOk (.csrr d c) = true := hc
  change execCsrr d c s = _
  rw [execCsrr, checked_ok _ _ _ he]
  rfl

theorem execCsrw_eq (s : State) (a : BitVec 5) {c : BitVec 8} (hc : csrWritable c = true) :
    exec (.csrw a c) s = .next (s.setMe (s.me.writeCsr c.toNat (reg s a)).adv) := by
  have he : encodingOk (.csrw a c) = true := hc
  change execCsrw a c s = _
  rw [execCsrw, checked_ok _ _ _ he]
  rfl

theorem execCsrx_eq (s : State) (d a : BitVec 5) {c : BitVec 8} (hc : csrWritable c = true) :
    exec (.csrx d a c) s = .next (s.setMe ((s.me.writeCsr c.toNat (reg s a)).put d (s.csr c.toNat)).adv) := by
  have he : encodingOk (.csrx d a c) = true := hc
  change execCsrx d a c s = _
  rw [execCsrx, checked_ok _ _ _ he]
  rfl

/-- The SNAPSHOT bit of CTX_STATUS, of the thread's job where it has one. -/
theorem State.ctxStatus_eq (s : State) : s.ctxStatus = BitVec.ofNat 64 ((if s.priv then 1 else 0)
    + (if s.me.inTrap then 2 else 0) + (if (s.myJob.map fun j => j.rcd.getLsbD 35) = some true then 4 else 0)
    + s.asid * 2 ^ 8 + s.slot * 2 ^ 24) := by
  unfold State.ctxStatus
  cases s.myJob <;> simp

theorem csrReads : CsrReads := by
  intro s d st
  refine ⟨(execCsrr_eq s d rfl).trans ?_, execCsrr_eq s d rfl, execCsrr_eq s d rfl, execCsrr_eq s d rfl, execCsrr_eq s d rfl,
    execCsrr_eq s d rfl, execCsrr_eq s d rfl, execCsrr_eq s d rfl, execCsrr_eq s d rfl, execCsrr_eq s d rfl,
    execCsrr_eq s d rfl, execCsrr_eq s d rfl⟩
  exact congrArg (fun v => Host.Outcome.next (wrote s d v)) s.ctxStatus_eq

/-- PERIOD in its place, and as a field. -/
theorem period_toNat (v : W64) : (v &&& 0xFFFF0000).toNat = fieldN 64 v 16 16 * 2 ^ 16 := by
  have hmask : (0xFFFF0000 : W64).toNat = (2 ^ 16 - 1) <<< 16 := by decide
  rw [BitVec.toNat_and, hmask, fieldN]
  apply Nat.eq_of_testBit_eq
  intro i
  rw [Nat.testBit_and, Nat.testBit_shiftLeft, Nat.testBit_two_pow_sub_one, Nat.testBit_mul_two_pow, Nat.testBit_mod_two_pow,
    Nat.testBit_shiftRight]
  by_cases hi : 16 ≤ i
  · simp [hi, Bool.and_comm]
  · simp [hi]

theorem fieldN_period_eq_zero (v : W64) : fieldN 64 v 16 16 = 0 ↔ v &&& 0xFFFF0000 = 0 := by
  have h := period_toNat v
  rw [← BitVec.toNat_inj, h, show (0 : W64).toNat = 0 from rfl]
  omega

theorem profileWrite_eq (old v : W64) : profileWrite old v
    = (v &&& 1) ||| (if v &&& 0xFFFF0000 = 0 then old &&& 0xFFFF0000 else v &&& 0xFFFF0000) := by
  simp only [profileWrite, fieldN_period_eq_zero]

theorem csrWritable_eq_false {c : BitVec 8} (h1 : c ≠ 0x01) (h4 : c ≠ 0x04) (hd : c ≠ 0x0D) (he : c ≠ 0x0E) :
    csrWritable c = false := by
  have hne {n : Nat} (hn : n < 2 ^ 8) (h : c ≠ BitVec.ofNat 8 n) : (c.toNat == n) = false :=
    beq_eq_false_iff_ne.mpr fun hc => h (by rw [← hc, BitVec.ofNat_toNat, BitVec.setWidth_eq])
  rw [csrWritable, hne (by decide) h1, hne (by decide) h4, hne (by decide) hd, hne (by decide) he]
  rfl

theorem csrWrites : CsrWrites := by
  intro s d a c v th addr prof
  have hprof : profileWrite s.me.profile v = prof := profileWrite_eq _ _
  refine ⟨⟨execCsrw_eq s a rfl, execCsrw_eq s a rfl, execCsrw_eq s a rfl, ?_⟩,
    ⟨execCsrx_eq s d a rfl, execCsrx_eq s d a rfl, execCsrx_eq s d a rfl, ?_⟩, fun h1 h4 hd he => ?_⟩
  · rw [← hprof]; exact execCsrw_eq s a rfl
  · rw [← hprof]; exact execCsrx_eq s d a rfl
  · have hbad := csrWritable_eq_false h1 h4 hd he
    have hw : encodingOk (.csrw a c) = false := hbad
    have hx : encodingOk (.csrx d a c) = false := hbad
    constructor
    · change execCsrw a c s = _
      rw [execCsrw, checked_bad _ _ _ hw]
      rfl
    · change execCsrx d a c s = _
      rw [execCsrx, checked_bad _ _ _ hx]
      rfl

/-- Settles O27: each register read, each writable one written, and the others trapped. -/
theorem csrResults : Obligations.CsrResults := ⟨csrReads, csrWrites⟩

end Sys2Proof.Machine
end

section
/-! PROOFS. TLBINV, the images of threads and LIGBIND (07 R204-R206, 10 R291, 12 R333). -/

namespace Sys2Proof.Machine

open Claims

/-! ### TLBINV (R204) -/

@[simp] theorem MemSys.takeRoot_tlb (ms : MemSys) (kind asid : Nat) : (ms.takeRoot kind asid).tlb = ms.tlb := by
  unfold MemSys.takeRoot
  split <;> rfl

/-- The root of an ASID takes effect with kind 1, and beside it a TLBINV changes the translations alone. -/
theorem MemSys.takeRoot_invalidate (ms : MemSys) (kind asid va : Nat) : (ms.invalidate kind asid va).takeRoot kind asid
    = { ms with tlb := (ms.invalidate kind asid va).tlb
                rootNow := if kind = 1 then tset 0 ms.rootNow asid (tget 0 ms.roots asid) else ms.rootNow } := by
  unfold MemSys.takeRoot
  split <;> rfl

/-- Whether TLBINV of a kind names a translation: by ASID and page, by ASID, or every one. -/
def TlbEntry.Named (e : TlbEntry) (kind asid va : Nat) : Prop :=
  match kind with
  | 0 => e.asid = asid ∧ e.page = va / 2 ^ e.size
  | 1 => e.asid = asid
  | _ => True

theorem TlbEntry.dropped_iff (e : TlbEntry) (kind asid va : Nat) : e.dropped kind asid va = true ↔ e.Named kind asid va := by
  match kind with
  | 0 => simp [TlbEntry.dropped, TlbEntry.Named]
  | 1 => simp [TlbEntry.dropped, TlbEntry.Named]
  | n + 2 => simp [TlbEntry.dropped, TlbEntry.Named]

/-- The translations that stay are those that the kind does not name. -/
theorem MemSys.mem_invalidate (ms : MemSys) (kind asid va : Nat) (e : TlbEntry) :
    e ∈ (ms.invalidate kind asid va).tlb ↔ e ∈ ms.tlb ∧ ¬ e.Named kind asid va := by
  simp [MemSys.invalidate, ← TlbEntry.dropped_iff]

theorem execTlbinv_eq {s : State} {d a : BitVec 5} {k : BitVec 2} (hp : s.priv = true)
    (he : encodingOk (.tlbinv d a k) = true) : exec (.tlbinv d a k) s =
      if 65536 ≤ (reg s d).toNat then illegal s (.tlbinv d a k)
      else if s.undrained k.toNat (reg s d).toNat (reg s a).toNat s.clk.fs then
        .next { s with ms := s.ms.invalidate k.toNat (reg s d).toNat (reg s a).toNat }
      else .next (passed { s with
        ms := (s.ms.invalidate k.toNat (reg s d).toNat (reg s a).toNat).takeRoot k.toNat (reg s d).toNat }) := by
  change execTlbinv d a k s = _
  rw [execTlbinv, privileged_ok _ _ _ he hp]
  rfl

theorem tlbinvResults : TlbinvResults := by
  intro s d a k hp he
  refine ⟨fun hbig => ?_, fun hasid => ?_⟩
  · rw [execTlbinv_eq hp he, if_pos hbig]
    rfl
  · rw [execTlbinv_eq hp he, if_neg (by omega)]
    have hstay := s.ms.mem_invalidate k.toNat (reg s d).toNat (reg s a).toNat
    cases hheld : s.undrained k.toNat (reg s d).toNat (reg s a).toNat s.clk.fs with
    | true => exact ⟨_, if_pos rfl, nofun, fun _ => rfl, hstay⟩
    | false =>
      rw [← MemSys.takeRoot_tlb _ k.toNat (reg s d).toNat] at hstay
      refine ⟨_, if_neg nofun, fun _ => ?_, nofun, hstay⟩
      rw [MemSys.takeRoot_invalidate]
      rfl

/-! ### The image of a thread (R205) -/

section
variable (th : Thread) (pc : W64)

theorem Thread.image_length : (th.image pc).length = 96 := by simp [Thread.image]

/-- The general registers, from offset 8 on. -/
theorem Thread.image_x {i : Nat} (h0 : i ≠ 0) (hi : i < 32) : (th.image pc).getD i 0 = th.x[i] := by
  obtain ⟨m, rfl⟩ := Nat.exists_eq_succ_of_ne_zero h0
  unfold Thread.image
  rw [List.getD_append _ _ _ _ (by simp; omega), List.getD_append _ _ _ _ (by simp; omega),
    List.getD_append _ _ _ _ (by simp; omega), List.getD_append_right _ _ _ _ (by simp)]
  simp [List.getD_eq_getElem?_getD, show m < 31 by omega, hi]

/-- The header registers, four words each, from offset 0x100 on. -/
theorem Thread.image_h {i k : Nat} (hi : i < 8) (hk : k < 4) :
    (th.image pc).getD ((0x100 + 8 * k + 32 * i) / 8) 0 = th.h[i].extractLsb' (64 * k) 64 := by
  have hindex : (0x100 + 8 * k + 32 * i) / 8 = 32 + (4 * i + k) := by omega
  have hreg : (4 * i + k) / 4 = i := by omega
  have hword : (4 * i + k) % 4 = k := by omega
  unfold Thread.image
  rw [hindex, List.getD_append _ _ _ _ (by simp; omega), List.getD_append _ _ _ _ (by simp; omega),
    List.getD_append_right _ _ _ _ (by simp)]
  simp [List.getD_eq_getElem?_getD, show 4 * i + k < 32 by omega, hreg, hword, hi]

/-- The words behind the thread's registers are zero. -/
theorem Thread.image_reserved {i : Nat} (hi : i < 23) : (th.image pc).getD (73 + i) 0 = 0 := by
  unfold Thread.image
  rw [List.getD_append_right _ _ _ _ (by simp), List.getD_replicate _ (by simpa using hi)]

end

/-- A header register from its four words. -/
theorem append_words (h : Header) : h.extractLsb' 192 64 ++ h.extractLsb' 128 64 ++ h.extractLsb' 64 64
    ++ h.extractLsb' 0 64 = h := by
  have hhigh : h.extractLsb' 192 64 ++ h.extractLsb' 128 64 = h.extractLsb' 128 128 :=
    BitVec.extractLsb'_append_extractLsb'_eq_extractLsb' rfl
  have hmid : h.extractLsb' 128 128 ++ h.extractLsb' 64 64 = h.extractLsb' 64 192 :=
    BitVec.extractLsb'_append_extractLsb'_eq_extractLsb' rfl
  rw [hhigh, hmid]
  exact BitVec.extractLsb'_append_extractLsb' (w := 192) (len := 64)

/-- The ticket counter behind NOTE in one word. -/
theorem ofNat_note_tickets (n : BitVec 16) (t : BitVec 48) :
    BitVec.ofNat 64 (n.toNat + t.toNat * 65536) = (t ++ n : BitVec 64) := by
  apply BitVec.eq_of_toNat_eq
  rw [BitVec.toNat_append, ← Nat.shiftLeft_add_eq_or_of_lt n.isLt, BitVec.toNat_ofNat, Nat.shiftLeft_eq]
  omega

theorem imageLayout : ImageLayout := by
  intro th pc w
  refine ⟨th.image_length pc, rfl, fun i hi => ?_, fun i => ?_, rfl, rfl, rfl, rfl, rfl, rfl, rfl, ?_, rfl, fun i hi => ?_⟩
  · change (th.image pc).getD (8 * i.val / 8) 0 = _
    rw [Nat.mul_div_cancel_left i.val (by decide)]
    exact th.image_x pc (fun h => hi (Fin.ext h)) i.isLt
  · have word {k : Nat} (hk : k < 4) : w (0x100 + 8 * k + 32 * i.val) = th.h[i.val].extractLsb' (64 * k) 64 :=
      th.image_h pc i.isLt hk
    rw [← append_words th.h[i.val], ← word (k := 3) (by decide), ← word (k := 2) (by decide), ← word (k := 1) (by decide),
      ← word (k := 0) (by decide)]
  · exact ofNat_note_tickets th.note th.tickets
  · have hz := th.image_reserved pc hi
    rwa [show 73 + i = (0x248 + 8 * i) / 8 by omega] at hz

/-! ### CTXSAVE and CTXLD (R205) -/

theorem imageBad_of_reserved {ws : List W64} (h : (ws.getD 71 0).toNat / 2 ^ 13 % 8 ≠ 0) : imageBad ws = true := by
  have hw : (imgWord ws 71).toNat / 2 ^ 13 % 8 != 0 := bne_iff_ne.mpr h
  simp only [imageBad, hw, Bool.or_true, Bool.true_or]

theorem execCtxsave_eq {s : State} {a : BitVec 5} (hp : s.priv = true) (ha : (reg s a).toNat % 64 = 0) :
    exec (.ctxsave a) s = (s.probe (reg s a) 96 false).andThen fun s1 _ =>
      (s1.storeWords (reg s a) (s.me.image (s.me.pc.setWidth 64 + 4))).andThen fun s2 _ => .next (passed s2) := by
  change execCtxsave a s = _
  rw [execCtxsave, privileged_ok _ _ _ rfl hp]
  exact if_neg (by simp [ha])

theorem execCtxld_eq {s : State} {a : BitVec 5} (hp : s.priv = true) (ha : (reg s a).toNat % 64 = 0) :
    exec (.ctxld a) s = (s.probe (reg s a) 96 true).andThen fun s1 _ => (s1.loadWords (reg s a) 96).andThen fun s2 ws =>
      if imageBad ws then illegal s2 (.ctxld a)
      else match imageHeaderFault (imgHeaders ws).toList with
        | some t => trapOut s2 t
        | none => .next (s2.setMe (s2.me.install ws)) := by
  change execCtxld a s = _
  rw [execCtxld, privileged_ok _ _ _ rfl hp]
  exact if_neg (by simp [ha])

/-- The ticket counter and NOTE taken from one word. -/
theorem append_tickets_note (v : W64) : (v.extractLsb' 16 48 ++ v.setWidth 16 : BitVec 64) = v := by
  rw [BitVec.setWidth_eq_extractLsb' (by decide)]
  exact BitVec.extractLsb'_append_extractLsb' (w := 48) (len := 16)

theorem Thread.install_x (th : Thread) (ws : List W64) {i : Nat} (hi : i < 32) (h0 : i ≠ 0) :
    (th.install ws).x[i] = ws.getD i 0 := by
  simp [Thread.install, imgWord, h0]

@[simp] theorem Thread.install_safept (th : Thread) (ws : List W64) : (th.install ws).safept = th.safept := by
  simp only [Thread.install]
@[simp] theorem Thread.install_grant (th : Thread) (ws : List W64) : (th.install ws).grant = th.grant := by
  simp only [Thread.install]
@[simp] theorem Thread.install_ltbase (th : Thread) (ws : List W64) : (th.install ws).ltbase = th.ltbase := by
  simp only [Thread.install]

theorem contextResults : ContextResults := by
  intro s s1 s2 a ws hp ha
  refine ⟨fun hprobe hstore => ?_, fun hprobe hload => ⟨fun hok hhdr => ?_, fun hbad => ?_, imageBad_of_reserved⟩⟩
  · rw [execCtxsave_eq hp ha, hprobe, Acc.andThen, hstore, Acc.andThen]
  · rw [execCtxld_eq hp ha, hprobe, Acc.andThen, hload, Acc.andThen, hok, hhdr]
    refine ⟨_, rfl, ?_, ?_⟩
    · rw [SameOutside, State.me_setMe]
    · rw [State.me_setMe]
      refine ⟨rfl, fun i hi => ?_, rfl, rfl, rfl, rfl, rfl, rfl, ?_, rfl, Thread.install_safept _ _, Thread.install_grant _ _,
        Thread.install_ltbase _ _⟩
      · exact s2.me.install_x ws i.isLt fun h => hi (Fin.ext h)
      · exact append_tickets_note (ws.getD 71 0)
  · rw [execCtxld_eq hp ha, hprobe, Acc.andThen, hload, Acc.andThen, hbad]
    rfl

/-- Settles O28: TLBINV by what it drops, the image word by word, and what CTXSAVE and CTXLD do with it. -/
theorem systemResults : Obligations.SystemResults := ⟨tlbinvResults, imageLayout, contextResults⟩

/-! ### LIGBIND (R206, R291) -/

/-- A clearing of a binding whose opcode no running launch configures. -/
theorem State.bindLig_cleared {s : State} {asid n : Nat} (hb : s.ligBusy asid (0xE0 + n) = false) :
    s.bindLig asid n none = (s.modCtx asid fun c => { c with ligs := tset none c.ligs n none }, 0) := by
  simp [State.bindLig, hb]

/-- An image that fails a check is refused with the check's number. -/
theorem State.bindLig_refused {s : State} {asid n : Nat} {img : List Byte} (hc : ligCheck img n ≠ 0) :
    s.bindLig asid n (some img) = (s, ligCheck img n) := by
  simp [State.bindLig, hc]

/-- BUSY: a running launch configures the opcode. -/
theorem State.bindLig_busy {s : State} {asid n : Nat} {img : Option (List Byte)} (hc : ∀ b, img = some b → ligCheck b n = 0)
    (hb : s.ligBusy asid (0xE0 + n) = true) : s.bindLig asid n img = (s, 5) := by
  cases img with
  | none => simp [State.bindLig, hb]
  | some b => simp [State.bindLig, hc b rfl, hb]

/-- The machine after an operation that answers a number in x[d]. -/
def answered (d : BitVec 5) (r : State × Nat) : Out := .next (wrote r.1 d (BitVec.ofNat 64 r.2))

theorem execLigbind_none {s : State} {d a n : BitVec 5} (hp : s.priv = true) (ha : reg s a = 0) :
    exec (.ligbind d a n) s = answered d (s.bindLig s.asid n.toNat none) := by
  have hget : s.me.get a = 0 := ha
  change execLigbind d a n s = _
  rw [execLigbind, privileged_ok _ _ _ rfl hp]
  dsimp only
  rw [hget]
  rfl

theorem execLigbind_image {s s1 s2 : State} {d a n : BitVec 5} {hd rest : List W64} (hp : s.priv = true)
    (ha : (reg s a).toNat % 8 = 0) (h0 : reg s a ≠ 0) (hhd : s.loadWords (reg s a) 2 = .ok s1 hd)
    (hrest : s1.loadWords (reg s a + 16) (ligWords (hd.flatMap fun w => bytesLE 8 w.toNat)) = .ok s2 rest) :
    exec (.ligbind d a n) s = answered d (s2.bindLig s.asid n.toNat
      (some ((hd.flatMap fun w => bytesLE 8 w.toNat) ++ rest.flatMap fun w => bytesLE 8 w.toNat))) := by
  have haligned : ((s.me.get a).toNat % 8 != 0) = false := bne_eq_false_iff_eq.mpr ha
  change execLigbind d a n s = _
  rw [execLigbind, privileged_ok _ _ _ rfl hp]
  dsimp only
  rw [haligned, if_neg nofun, if_neg h0, hhd, Acc.andThen, hrest]
  rfl

/-- Settles O29: the result code of a binding, and of its clearing, in x[d]. -/
theorem ligbindResults : Obligations.LigbindResults := by
  intro s s1 s2 d a n hd rest hp
  refine ⟨fun h0 hfree => ?_, fun h0 hbusy => ?_, fun ha h0 hhd hrest => ⟨fun hc => ?_, fun hc hbusy => ?_, fun hc hfree => ?_⟩⟩
  · rw [execLigbind_none hp h0, State.bindLig_cleared hfree]
    rfl
  · rw [execLigbind_none hp h0, State.bindLig_busy (by simp) hbusy]
    rfl
  · rw [execLigbind_image hp ha h0 hhd hrest, State.bindLig_refused hc]
    rfl
  · rw [execLigbind_image hp ha h0 hhd hrest, State.bindLig_busy (fun b hb => Option.some.inj hb ▸ hc) hbusy]
    rfl
  · refine ⟨ligEntryOf _, rfl, ?_⟩
    rw [execLigbind_image hp ha h0 hhd hrest, State.bindLig_bound hc hfree]
    rfl

end Sys2Proof.Machine
end

section
/-! PROOFS. The header registers (07 R187-R189). -/

namespace Sys2Proof.Machine

open Claims

theorem hf_eq (h : Header) (lo len : Nat) : hf h lo len = h.toNat / 2 ^ lo % 2 ^ len := by
  rw [hf, fieldN, Nat.shiftRight_eq_div_pow]

/-- The CRC leaves the low bits of a header alone. -/
theorem withCrc_low (v : Nat) {len : Nat} (hlen : len ≤ 224) : (withCrc v).toNat % 2 ^ len = v % 2 ^ len := by
  have h224 : 2 ^ len ∣ 2 ^ 224 := Nat.pow_dvd_pow 2 hlen
  have h256 : 2 ^ len ∣ 2 ^ 256 := Nat.pow_dvd_pow 2 (by omega)
  rw [withCrc, BitVec.toNat_ofNat, Nat.mod_mod_of_dvd _ h256, Nat.add_mod, Nat.mod_mod_of_dvd _ h224,
    Nat.mod_eq_zero_of_dvd (h224.mul_left _), Nat.add_zero, Nat.mod_mod]

/-- MAGIC and HVER after HSET of word 0 are those of the value. -/
theorem hf_setField_word0 (h : Header) (v : Nat) : hf (setField h 0 64 v) 0 12 = v % 2 ^ 12 := by
  rw [hf_eq, setField]
  simp only [hf_eq, Nat.pow_zero, Nat.div_one, Nat.mul_one]
  rw [withCrc_low _ (by decide)]
  omega

/-- What HSET refuses before any check of the header: an empty register, a value beyond the field, another MAGIC or HVER in
word 0. -/
def HsetBad (old : Header) (f : BitVec 8) (len v : Nat) : Prop :=
  old = 0 ∨ 2 ^ len ≤ v ∨ (f = 32 ∧ v % 2 ^ 12 ≠ old.toNat % 2 ^ 12)

section
variable {s : State} {h : BitVec 3} {a : BitVec 5} {f : BitVec 8} {lo len : Nat} (hfield : headerField f.toNat = some (lo, len))
include hfield

theorem hsetBad_iff (old : Header) (v : Nat) : (decide (old = 0) || decide (2 ^ len ≤ v)
    || (decide (f = 32) && hf (setField old lo len v) 0 12 != hf old 0 12)) = true ↔ HsetBad old f len v := by
  simp only [HsetBad, Bool.or_eq_true, Bool.and_eq_true, decide_eq_true_eq, bne_iff_ne, or_assoc]
  by_cases h32 : f = 32
  · subst h32
    obtain ⟨rfl, rfl⟩ : 0 = lo ∧ 64 = len := Prod.mk.inj (Option.some.inj hfield)
    rw [hf_setField_word0, hf_eq, Nat.pow_zero, Nat.div_one]
  · simp only [h32, false_and]

variable (he : encodingOk (.hset h a f) = true)
include he

theorem execHset_bad (hbad : HsetBad (s.me.getH h) f len (reg s a).toNat) :
    exec (.hset h a f) s = illegal s (.hset h a f) := by
  change execHset h a f s = _
  rw [execHset, checked_ok _ _ _ he]
  dsimp only
  rw [hfield]
  exact if_pos ((hsetBad_iff hfield _ _).mpr hbad)

/-- HSET of a value that fits: the header with the field replaced is checked, and installed when it passes. -/
theorem execHset_fits (hfits : ¬ HsetBad (s.me.getH h) f len (reg s a).toNat) :
    exec (.hset h a f) s =
      let new := setField (s.me.getH h) lo len (reg s a).toNat
      if checks1to7 new = 0 then .next (s.setMe (s.me.putH h new).adv) else trapOut s (headerTrap (checks1to7 new) new) := by
  change execHset h a f s = _
  rw [execHset, checked_ok _ _ _ he]
  dsimp only
  rw [hfield]
  refine (if_neg (mt (hsetBad_iff hfield _ _).mp hfits)).trans ?_
  simp only [bne_iff_ne, ite_not]
  rfl

end

theorem setField_eq (h : Header) (lo len v : Nat) : setField h lo len v
    = withCrc ((h.toNat % 2 ^ 224 - h.toNat / 2 ^ lo % 2 ^ len * 2 ^ lo) + v % 2 ^ len * 2 ^ lo) := by
  rw [setField, hf_eq]

theorem trapOut_headerTrap (s : State) (c : Nat) (h : Header) : trapOut s (headerTrap c h)
    = .next (trapped s (if c ≤ 3 then .hdrCrc else .combo) c (detailWord c 4 h) 0) := rfl

/-- HLD of a header that its load has read. -/
theorem execHld_loaded {s s1 : State} {h : BitVec 3} {a : BitVec 5} {g : BitVec 8} {v : Nat}
    (hload : s.load (reg s a + 32 * g.signExtend 64) 32 = .ok s1 v) : exec (.hld h a g) s =
      if checks1to7 (BitVec.ofNat 256 v) = 0 then .next (s1.setMe (s1.me.putH h (BitVec.ofNat 256 v)).adv)
      else trapOut s1 (headerTrap (checks1to7 (BitVec.ofNat 256 v)) (BitVec.ofNat 256 v)) := by
  rw [execHld_eq, hload, Acc.andThen]

theorem execHget_eq {s : State} {d : BitVec 5} {h : BitVec 3} {f : BitVec 8} {lo len : Nat}
    (he : encodingOk (.hget d h f) = true) (hfield : headerField f.toNat = some (lo, len)) :
    exec (.hget d h f) s = .next (wrote s d (BitVec.ofNat 64 ((s.me.getH h).toNat / 2 ^ lo % 2 ^ len))) := by
  change execHget d h f s = _
  rw [execHget, checked_ok _ _ _ he, hfield, ← hf_eq]
  rfl

/-- Settles O30: HLD by the checks of its header, HGET, HCHK, and HSET by what it finds. -/
theorem headerResults : Obligations.HeaderResults := by
  intro s s1 h d a k f pa lo len
  refine ⟨fun hreach hbad => ?_, ?_, execHget_eq, fun he hfield => ?_⟩
  · intro hd
    have hload := execHld_loaded (h := h) (State.load_reaches hreach hbad)
    exact ⟨fun hc => by rw [hload, if_pos hc], fun hc => by rw [hload, if_neg hc, trapOut_headerTrap]⟩
  · change execHchk d h s = _
    rw [execHchk, checked_ok _ _ _ rfl]
    rfl
  · intro old new bad
    have hnew : new = setField (s.me.getH h) lo len (reg s a).toNat := (setField_eq ..).symm
    rw [hnew]
    refine ⟨fun hfits hc => ?_, execHset_bad hfield he, fun hfits hc => ?_⟩
    · exact (execHset_fits hfield he hfits).trans (if_pos hc)
    · have hfails : checks1to7 (setField (s.me.getH h) lo len (reg s a).toNat) ≠ 0 := by omega
      refine (execHset_fits hfield he hfits).trans ((if_neg hfails).trans ?_)
      rw [trapOut_headerTrap, if_neg (by omega)]

end Sys2Proof.Machine
end

section
/-! PROOFS. Two writes of one key of a table. -/

namespace Sys2Proof

/-- A second write of a key replaces the first, where that did not remove it. -/
theorem tset_tset_of_ne {α : Type} [DecidableEq α] {d : α} (t : Tab α) (k : Nat) {a : α} (b : α) (h : a ≠ d) :
    tset d (tset d t k a) k b = tset d t k b := by
  induction t with
  | nil => simp [tset, h]
  | cons e rest ih =>
    obtain ⟨k', v'⟩ := e
    by_cases hk : k' < k
    · simp [tset, hk, ih]
    · simp [tset, hk, h]

end Sys2Proof
end

section
/-! PROOFS. Events, barriers, exchange queues and the notify register (07 R182-R186). -/

namespace Sys2Proof.Machine

open Claims

/-! ### Events (R182) -/

/-- The instructions of R182, with d any register for EVSIG. -/
def IsEvent (i : Instr) (d a : BitVec 5) : Prop := i = .evsig a ∨ i = .evwait d a ∨ i = .evpoll d a ∨ i = .evset d a

/-- What an event instruction does with an event that is granted. -/
def eventFn (s : State) (i : Instr) (e : Nat) (th : Thread) : Out :=
  match i with
  | .evsig _ => update (s.signal e) th
  | .evwait d _ => if (th.get d).toNat ≤ (s.event e).toNat then update s (th.put d (s.event e)) else .next s
  | .evpoll d _ => update s (th.put d (s.event e))
  | .evset d _ => update (s.setEvent e (th.get d)) th
  | _ => .next s

section
variable {s : State} {i : Instr} {d a : BitVec 5} (h : IsEvent i d a)
include h

theorem IsEvent.exec_eq (s : State) : exec i s = onEvent i a s (eventFn s i) := by
  rcases h with rfl | rfl | rfl | rfl <;> rfl

theorem IsEvent.encodingOk : encodingOk i = true := by
  rcases h with rfl | rfl | rfl | rfl <;> rfl

theorem IsEvent.exec_granted (he : (reg s a).toNat < 65536) (hg : s.granted (reg s a).toNat s.asid = true) :
    exec i s = eventFn s i (reg s a).toNat s.me := by
  rw [h.exec_eq, onEvent, checked_ok _ _ _ h.encodingOk]
  dsimp only
  rw [if_neg (Nat.not_le.mpr he), if_pos hg]

theorem IsEvent.exec_refused (he : (reg s a).toNat < 65536) (hg : s.granted (reg s a).toNat s.asid = false) :
    exec i s = .next (trapped s .perm 0 (reg s a) 0) := by
  rw [h.exec_eq, onEvent, checked_ok _ _ _ h.encodingOk]
  dsimp only
  rw [if_neg (Nat.not_le.mpr he), if_neg (by rw [hg]; decide)]
  rfl

theorem IsEvent.exec_beyond (he : 65536 ≤ (reg s a).toNat) : exec i s = .next (illegalAt s i) := by
  rw [h.exec_eq, onEvent, checked_ok _ _ _ h.encodingOk]
  exact if_pos he

end

theorem eventCounters : EventCounters := by
  intro s d a e counter
  refine ⟨fun he hg => ?_, fun he hg i hi => IsEvent.exec_refused hi he hg, fun he i hi => IsEvent.exec_beyond hi he⟩
  have hwait : exec (.evwait d a) s = _ := IsEvent.exec_granted (d := d) (.inr (.inl rfl)) he hg
  refine ⟨IsEvent.exec_granted (d := d) (.inl rfl) he hg, IsEvent.exec_granted (.inr (.inr (.inl rfl))) he hg,
    IsEvent.exec_granted (.inr (.inr (.inr rfl))) he hg, fun hreached => hwait.trans (if_pos hreached),
    fun hbelow => hwait.trans (if_neg (Nat.not_le.mpr hbelow))⟩

/-! ### Barriers (R183) -/

/-- A mask that a thread of index `n` may arrive at a barrier with, in a job of `nr` rings. -/
def BarGood (b : Bar) (mask n nr : Nat) : Prop := mask / 2 ^ n % 2 = 1 ∧ mask < 2 ^ nr ∧ (b.arrived = 0 ∨ b.mask = mask)

theorem not_barGood_iff (b : Bar) (mask n nr : Nat) :
    (decide (mask / 2 ^ n % 2 = 0) || decide (2 ^ nr ≤ mask) || (b.arrived != 0 && b.mask != mask)) = true
      ↔ ¬ BarGood b mask n nr := by
  simp only [BarGood, Bool.or_eq_true, Bool.and_eq_true, decide_eq_true_eq, bne_iff_ne]
  omega

section
variable {s : State} {a : BitVec 5} {i : BitVec 4} {id : JobId} {j : Job} (hid : s.me.job = some id) (hj : s.myJob = some j)
include hid hj

/-- A thread that has arrived at a generation waits for it to pass. -/
theorem execBar_arrived {g : Nat} (hheld : s.me.arrived.lookup i.toNat = some g) : exec (.bar a i) s =
    if g = (tget {} j.bars i.toNat).gen then .next s
    else .next (s.setMe { s.me with arrived := s.me.arrived.filter fun e => e.1 != i.toNat }.adv) := by
  change execBar a i s = _
  rw [execBar, checked_ok _ _ _ rfl]
  dsimp only
  rw [hid, hj]
  dsimp only
  rw [hheld]
  rfl

variable (hheld : s.me.arrived.lookup i.toNat = none)
include hheld

theorem execBar_refused (hbad : ¬ BarGood (tget {} j.bars i.toNat) (barMask a (reg s a).toNat j.nrings) s.me.n j.nrings) :
    exec (.bar a i) s = .next (illegalAt s (.bar a i)) := by
  change execBar a i s = _
  rw [execBar, checked_ok _ _ _ rfl]
  dsimp only
  rw [hid, hj]
  dsimp only
  rw [hheld]
  exact if_pos ((not_barGood_iff _ _ _ _).mpr hbad)

/-- The last arrival of the mask releases the barrier and begins the next generation; any other waits. -/
theorem execBar_counts (hgood : BarGood (tget {} j.bars i.toNat) (barMask a (reg s a).toNat j.nrings) s.me.n j.nrings) :
    exec (.bar a i) s =
      let b := tget {} j.bars i.toNat
      let mask := barMask a (reg s a).toNat j.nrings
      let put := fun (b : Bar) => s.modJob id fun x => { x with bars := tset {} x.bars i.toNat b }
      if b.arrived ||| 2 ^ s.me.n = mask then .next ((put { gen := b.gen + 1 }).setMe s.me.adv)
      else .next ((put { b with mask := mask, arrived := b.arrived ||| 2 ^ s.me.n }).setMe
        { s.me with arrived := (i.toNat, b.gen) :: s.me.arrived }) := by
  change execBar a i s = _
  rw [execBar, checked_ok _ _ _ rfl]
  dsimp only
  rw [hid, hj]
  dsimp only
  rw [hheld]
  exact if_neg (mt (not_barGood_iff _ _ _ _).mp (not_not.mpr hgood))

end

theorem barResults : BarResults := by
  intro s a i id j b mask put arr good hid hj held rest
  refine ⟨fun hheld hgood hlast => ?_, fun hheld hgood hmore => ?_, execBar_refused hid hj, fun hheld => ?_,
    fun g hg hheld => ?_⟩
  · exact (execBar_counts hid hj hheld hgood).trans (if_pos hlast)
  · exact (execBar_counts hid hj hheld hgood).trans (if_neg hmore)
  · exact (execBar_arrived hid hj hheld).trans (if_pos rfl)
  · exact (execBar_arrived hid hj hheld).trans (if_neg hg)

/-! ### Exchange queues (R184, R185) -/

section
variable (s : State) (k q : Nat)

@[simp] theorem State.noteQueue_xq : (s.noteQueue k q).xq = s.xq := by
  unfold State.noteQueue
  split <;> rfl

@[simp] theorem State.noteQueue_ms : (s.noteQueue k q).ms = s.ms := by
  unfold State.noteQueue
  split <;> rfl

variable (es : List W64)

@[simp] theorem State.queueOf_setQueue_same : (s.setQueue k es).queueOf k = es := by
  simp [State.queueOf, State.setQueue]

theorem State.queueOf_setQueue_ne {k' : Nat} (h : k' ≠ k) : (s.setQueue k es).queueOf k' = s.queueOf k' := by
  simp [State.queueOf, State.setQueue, tget_tset_ne _ _ _ _ _ h]

@[simp] theorem State.setQueue_ms : (s.setQueue k es).ms = s.ms := by simp [State.setQueue]

theorem State.setQueue_me_regs : (s.setQueue k es).me.regs = s.me.regs := by
  have hkept := kept_setQueue s k es
  rw [State.me, hkept.cur]
  exact hkept.regs s.cur

end

theorem execQpush_eq {s : State} {a : BitVec 5} {q : BitVec 3} (hq : q.toNat < 4) : exec (.qpush a q) s =
    if (s.queueOf (8 * s.cur + q.toNat)).length < 256 then
      .next ((s.setMe s.me.adv).setQueue (8 * s.cur + q.toNat) (s.queueOf (8 * s.cur + q.toNat) ++ [reg s a]))
    else .next s := by
  have he : encodingOk (.qpush a q) = true := decide_eq_true hq
  change execQpush a q s = _
  rw [execQpush, checked_ok _ _ _ he]
  rfl

theorem execQpop_nil {s : State} {d : BitVec 5} {q : BitVec 3} (hq : 4 ≤ q.toNat)
    (h : s.queueOf (8 * s.cur + q.toNat) = []) : exec (.qpop d q) s = .next s := by
  have he : encodingOk (.qpop d q) = true := decide_eq_true hq
  change execQpop d q s = _
  rw [execQpop, checked_ok _ _ _ he]
  dsimp only [xqKey]
  rw [h]

theorem execQpop_cons {s : State} {d : BitVec 5} {q : BitVec 3} {v : W64} {rest : List W64} (hq : 4 ≤ q.toNat)
    (h : s.queueOf (8 * s.cur + q.toNat) = v :: rest) : exec (.qpop d q) s
      = .next (((s.setMe (s.me.put d v).adv).setQueue (8 * s.cur + q.toNat) rest).settleThread s.cur) := by
  have he : encodingOk (.qpop d q) = true := decide_eq_true hq
  change execQpop d q s = _
  rw [execQpop, checked_ok _ _ _ he]
  dsimp only [xqKey]
  rw [h]

theorem queuesMove : QueuesMove := by
  intro s d a q k es
  refine ⟨fun hq hroom => ⟨_, (execQpush_eq hq).trans (if_pos hroom), ?_, ?_, ?_, fun k' hk => ?_⟩,
    fun hq hfull => (execQpush_eq hq).trans (if_neg (Nat.not_lt.mpr hfull)), fun hq => execQpop_nil hq,
    fun hq v rest => execQpop_cons hq, ?_⟩
  · exact State.queueOf_setQueue_same _ _ _
  · rw [State.setQueue_me_regs, State.me_setMe]
  · rw [State.setQueue_ms, State.setMe_ms]
  · exact State.queueOf_setQueue_ne _ _ _ hk
  · change execQspace d q s = _
    rw [execQspace, checked_ok _ _ _ rfl]
    rfl

/-! ### The notify register (R185, R186) -/

theorem meets_eq_true_iff (q n t : Nat) : meets q n t = true ↔ 0 < t ∧ t ≤ if q < 4 then 256 - n else n := by
  unfold meets
  split <;> simp [Nat.pos_iff_ne_zero]

/-- The notify bit of a queue whose condition does not hold stays. -/
theorem State.noteQueue_unmet {s : State} {th : Thread} {q : Nat}
    (h : meets q (s.queueOf (8 * s.cur + q)).length (th.qarm.toList.getD q 0) = false) :
    (s.setMe th).noteQueue s.cur q = s.setMe th := by
  unfold State.noteQueue
  rw [State.setMe, s.thread_setThread_same s.cur th]
  exact if_neg (by rw [Bool.not_eq_true]; exact h)

theorem State.setThread_setThread {s : State} {k : Nat} {a : Thread} (b : Thread) (h : a ≠ {}) :
    (s.setThread k a).setThread k b = s.setThread k b := by
  simp only [State.setThread, tset_tset_of_ne _ _ _ h]

theorem Thread.ne_default_of_get {th : Thread} {r : BitVec 5} (h : th.get r ≠ 0) : th ≠ {} := by
  rintro rfl
  exact h (by simp [Thread.get])

/-- A met condition sets the queue's notify bit and disarms the queue, in a thread with a register that is not zero. -/
theorem State.noteQueue_met {s : State} {th : Thread} {q : Nat} {r : BitVec 5} (hr : th.get r ≠ 0)
    (h : meets q (s.queueOf (8 * s.cur + q)).length (th.qarm.toList.getD q 0) = true) :
    (s.setMe th).noteQueue s.cur q
      = s.setMe { th with qarm := th.qarm.setIfInBounds q 0, note := th.note ||| (1 : BitVec 16) <<< q } := by
  have hth := s.thread_setThread_same s.cur th
  have harmed : th ≠ {} := Thread.ne_default_of_get hr
  have hdisarmed : ({ th with qarm := th.qarm.setIfInBounds q 0 } : Thread) ≠ {} :=
    Thread.ne_default_of_get (r := r) hr
  unfold State.noteQueue
  rw [State.setMe, hth]
  refine (if_pos h).trans ?_
  rw [State.notify, State.modThread, State.modThread, hth, State.setThread_setThread _ harmed, State.thread_setThread_same,
    State.setThread_setThread _ hdisarmed]
  rfl

/-- A thread that goes on with the threshold of a queue armed. -/
def Thread.armed (th : Thread) (q : BitVec 3) (n : Nat) : Thread := { th.adv with qarm := th.qarm.set q.toNat n }

theorem Thread.armed_threshold (th : Thread) (q : BitVec 3) (n : Nat) : (th.armed q n).qarm.toList.getD q.toNat 0 = n := by
  simp [Thread.armed, List.getD_eq_getElem?_getD]

theorem Thread.armed_disarm (th : Thread) (q : BitVec 3) (n : Nat) :
    (th.armed q n).qarm.setIfInBounds q.toNat 0 = th.qarm.set q.toNat 0 := by
  ext i hi
  by_cases h : q.toNat = i <;> simp [Thread.armed, h]

theorem execQnote_eq (s : State) (a : BitVec 5) (q : BitVec 3) : exec (.qnote a q) s
    = .next ((s.setMe (s.me.armed q (min (reg s a).toNat 256))).noteQueue s.cur q.toNat) := by
  change execQnote a q s = _
  rw [execQnote, checked_ok _ _ _ rfl]
  rfl

theorem execWfe_eq (s : State) (d : BitVec 5) : exec (.wfe d) s = if s.me.note = 0 then .next s
    else .next (s.setMe { (s.me.put d (s.me.note.setWidth 64)).adv with note := 0 }) := by
  change execWfe d s = _
  rw [execWfe, checked_ok _ _ _ rfl]
  rfl

theorem notifyResults : NotifyResults := by
  intro s d a q n have' t
  have hmeets : meets q.toNat n ((s.me.armed q t).qarm.toList.getD q.toNat 0) = true ↔ 0 < t ∧ t ≤ have' := by
    rw [Thread.armed_threshold, meets_eq_true_iff]
  refine ⟨fun hunmet => ?_, fun hpos hmet => ?_, fun h => (execWfe_eq s d).trans (if_pos h),
    fun h => (execWfe_eq s d).trans (if_neg h)⟩
  · have hfalse : meets q.toNat n ((s.me.armed q t).qarm.toList.getD q.toNat 0) = false := by
      rw [← Bool.not_eq_true, hmeets]
      omega
    rw [execQnote_eq, State.noteQueue_unmet hfalse]
    rfl
  · have hx : (s.me.armed q t).get a ≠ 0 := by
      intro h0
      have hzero : reg s a = 0 := h0
      simp [t, hzero] at hpos
    rw [execQnote_eq, State.noteQueue_met hx (hmeets.mpr ⟨hpos, hmet⟩), Thread.armed_disarm]
    rfl

/-- Settles O31: events, barriers, exchange queues, and the notify register. -/
theorem eventResults : Obligations.EventResults := ⟨eventCounters, barResults, queuesMove, notifyResults⟩

end Sys2Proof.Machine
end

section
/-! PROOFS. Layout records, stream issue, GLAUNCH and the control of launches (05 R140, 07 R190-R196). -/

namespace Sys2Proof.Machine

open Claims

/-! ### Layout records (R190) -/

/-- A refused registration changes nothing. -/
theorem State.register_refused {s s2 : State} {asid c : Nat} {r : BitVec 512} {busy : Nat → Bool}
    (h : s.register asid r busy = (s2, .inr c)) : s2 = s := by
  unfold State.register at h
  dsimp only at h
  split at h
  · exact (Prod.mk.inj h).1.symm
  · split at h
    · exact (Prod.mk.inj h).1.symm
    · exact nomatch (Prod.mk.inj h).2

/-- A handle ends with its use. -/
theorem State.layout_unregister {s : State} {asid no : Nat} {l : Layout} (h : (s.ctx asid).layout no = some l) :
    ((s.unregister asid no).ctx asid).layout no = none := by
  unfold State.unregister
  rw [h]
  dsimp only
  rw [State.ctx_modCtx_same]
  simp [Ctx.layout]

theorem execLrreg_misaligned {s : State} {d a : BitVec 5} (h : (reg s a).toNat % 8 ≠ 0) :
    exec (.lrreg d a) s = .next (trapped s .align 0 (reg s a) (reg s a)) := by
  change execLrreg d a s = _
  rw [execLrreg, checked_ok _ _ _ rfl]
  exact if_pos (bne_iff_ne.mpr h)

section
variable {s s1 s2 : State} {d a : BitVec 5} {ws : List W64} (ha : (reg s a).toNat % 8 = 0)
  (hload : s.loadWords (reg s a) 8 = .ok s1 ws)
include ha hload

theorem execLrreg_registered {h : Nat}
    (hr : s1.register s.asid (BitVec.ofNat 512 (packBits 64 (ws.map BitVec.toNat))) (s1.handleBusy s.asid) = (s2, .inl h)) :
    exec (.lrreg d a) s = .next (wrote s2 d (BitVec.ofNat 64 h)) := by
  change execLrreg d a s = _
  rw [execLrreg, checked_ok _ _ _ rfl]
  refine (if_neg (by simp [ha])).trans ?_
  rw [hload, Acc.andThen]
  dsimp only
  rw [hr]
  rfl

theorem execLrreg_refused {c : Nat}
    (hr : s1.register s.asid (BitVec.ofNat 512 (packBits 64 (ws.map BitVec.toNat))) (s1.handleBusy s.asid) = (s2, .inr c)) :
    exec (.lrreg d a) s = .next (wrote s1 d (BitVec.ofNat 64 (c * 65536))) := by
  obtain rfl := State.register_refused hr
  change execLrreg d a s = _
  rw [execLrreg, checked_ok _ _ _ rfl]
  refine (if_neg (by simp [ha])).trans ?_
  rw [hload, Acc.andThen]
  dsimp only
  rw [hr]
  rfl

end

section
variable {s : State} {d a : BitVec 5}

theorem execLrfree_frees {l : Layout} (h : (s.ctx s.asid).layout (reg s a).toNat = some l) :
    exec (.lrfree a) s = .next ((s.unregister s.asid (reg s a).toNat).setMe s.me.adv) := by
  change execLrfree a s = _
  rw [execLrfree, checked_ok _ _ _ rfl]
  dsimp only
  rw [h]
  rfl

theorem execLrfree_illegal (h : (s.ctx s.asid).layout (reg s a).toNat = none) :
    exec (.lrfree a) s = .next (illegalAt s (.lrfree a)) := by
  change execLrfree a s = _
  rw [execLrfree, checked_ok _ _ _ rfl]
  dsimp only
  rw [h]
  rfl

variable (hp : s.priv = true)
include hp

theorem execLrkey_illegal (h : (s.ctx s.asid).layout (reg s a).toNat = none) :
    exec (.lrkey d a) s = .next (illegalAt s (.lrkey d a)) := by
  change execLrkey d a s = _
  rw [execLrkey, privileged_ok _ _ _ rfl hp]
  dsimp only
  rw [h]
  rfl

section
variable {l : Layout} (h : (s.ctx s.asid).layout (reg s a).toNat = some l) (hk : (reg s d).toNat < 65536)
include h hk

/-- LRKEY of a key that is bound, or of none. -/
theorem execLrkey_sets (hb : (reg s d).toNat = 0 ∨ ((s.ctx s.asid).keySlot (reg s d).toNat).isSome = true) :
    exec (.lrkey d a) s = .next (passed (s.modCtx s.asid fun c =>
        { c with layouts := tset none c.layouts (reg s a).toNat (some { l with key := (reg s d).toNat }) })) := by
  change execLrkey d a s = _
  rw [execLrkey, privileged_ok _ _ _ rfl hp]
  dsimp only
  rw [h]
  refine (if_neg (Nat.not_le.mpr hk)).trans (if_neg ?_)
  rw [Bool.and_eq_true, bne_iff_ne, Option.isNone_iff_eq_none]
  rintro ⟨h0, hnone⟩
  rcases hb with hb | hb
  · exact h0 hb
  · rw [hnone] at hb
    cases hb

theorem execLrkey_unbound (h0 : (reg s d).toNat ≠ 0) (hb : (s.ctx s.asid).keySlot (reg s d).toNat = none) :
    exec (.lrkey d a) s = .next (trapped s .key 0 (reg s d) 0) := by
  change execLrkey d a s = _
  rw [execLrkey, privileged_ok _ _ _ rfl hp]
  dsimp only
  rw [h]
  refine (if_neg (Nat.not_le.mpr hk)).trans (if_pos ?_)
  rw [Bool.and_eq_true, bne_iff_ne, Option.isNone_iff_eq_none]
  exact ⟨h0, hb⟩

end

end

/-- Settles O32: LRREG by what registration answers, LRFREE and LRKEY by the record of the handle. -/
theorem layoutResults : Obligations.LayoutResults := by
  intro s s1 s2 d a ws h c l cx no key
  refine ⟨fun ha hload => ⟨execLrreg_registered ha hload, fun hr => ⟨State.register_refused hr, execLrreg_refused ha hload hr⟩⟩,
    execLrreg_misaligned, fun hl => ⟨execLrfree_frees hl, State.layout_unregister hl⟩,
    fun hl => ⟨execLrfree_illegal hl, fun hp => execLrkey_illegal hp hl⟩, fun hp hl hk hb => execLrkey_sets hp hl hk hb,
    fun hp hl hk h0 hb => execLrkey_unbound hp hl hk h0 hb⟩

/-! ### Stream issue (R191-R193) -/

/-- A command that joins a queue, or waits, changes the fabric alone, and not which commands are outstanding. -/
theorem State.enqueue_frame (s : State) (c : Cmd) :
    ∃ f, s.enqueue c = s.modFab f ∧ (f s.fab).outstanding = s.fab.outstanding := by
  unfold State.enqueue
  split
  · exact ⟨_, rfl, rfl⟩
  · dsimp only
    split <;> exact ⟨fun _ => _, rfl, rfl⟩

/-- A command issued takes the next ticket and is outstanding; of the machine only the fabric and the ticket change. -/
theorem State.issueCmd_frame (s : State) (ls : Nat) (bits : BitVec 128) :
    ∃ f, s.issueCmd ls bits
        = ((s.setMe { s.me with tickets := s.me.tickets + 1 }).modFab f, (s.me.tickets + 1).setWidth 64)
      ∧ (f s.fab).outstanding = tmod [] s.fab.outstanding s.cur (· ++ [(s.me.tickets + 1).toNat]) := by
  unfold State.issueCmd
  dsimp only
  generalize ({ ticket := _, bits := _, thread := _, n := _, ls := _, asid := _, lh := _, dlh := _, uses := _ } : Cmd) = c
  obtain ⟨f, hf, hout⟩ := State.enqueue_frame ((s.setMe { s.me with tickets := s.me.tickets + 1 }).modFab fun f =>
    { f with outstanding := tmod [] f.outstanding s.cur (· ++ [(s.me.tickets + 1).toNat]) }) c
  exact ⟨fun g => f { g with outstanding := tmod [] g.outstanding s.cur (· ++ [(s.me.tickets + 1).toNat]) },
    by rw [hf]; rfl, hout⟩

section
variable {i : Instr} {d : BitVec 5} {ls n : Nat} {bits : BitVec 128} {s : State}

theorem issueStream_unknown (h : scopKnown (fieldN 128 bits 0 8) = false) :
    issueStream i d ls bits n s = .next (illegalAt s i) := if_pos (by rw [h]; rfl)

theorem issueStream_full (h : scopKnown (fieldN 128 bits 0 8) = true) (hf : 64 ≤ (s.openTickets s.cur).length) :
    issueStream i d ls bits n s = .next s := (if_neg (by rw [h]; decide)).trans (if_pos hf)

theorem issueStream_issues (h : scopKnown (fieldN 128 bits 0 8) = true) (hf : (s.openTickets s.cur).length < 64) :
    issueStream i d ls bits n s = .next ((s.issueCmd ls bits).1.setMe
      (((s.issueCmd ls bits).1.me.put d (s.issueCmd ls bits).2).skip n)) :=
  (if_neg (by rw [h]; decide)).trans (if_neg (Nat.not_le.mpr hf))

end

theorem execScwait_eq (s : State) (a : BitVec 5) : exec (.scwait a) s =
    if (s.openTickets s.cur).any fun x => (reg s a).toNat = 0 || x ≤ (reg s a).toNat then .next s else .next (passed s) := by
  change execScwait a s = _
  rw [execScwait, checked_ok _ _ _ rfl]
  rfl

/-- SCX and SCL issue the command that they carry. -/
theorem exec_eq_issueStream {s : State} {i : Instr} {d : BitVec 5} {p : BitVec 4} {ls : BitVec 2} {inl bits : BitVec 128} {n : Nat}
    (h : (i = .scx d p ls ∧ bits = s.me.get (p.setWidth 5 * 2 + 1) ++ s.me.get (p.setWidth 5 * 2) ∧ n = 4)
      ∨ (i = .scl d ls inl ∧ bits = inl ∧ n = 20)) : exec i s = issueStream i d ls.toNat bits n s := by
  rcases h with ⟨rfl, rfl, rfl⟩ | ⟨rfl, rfl, rfl⟩
  · change execScx d p ls s = _
    rw [execScx, checked_ok _ _ _ rfl]
  · change execScl d ls _ s = _
    rw [execScl, checked_ok _ _ _ rfl]

/-- The machine after a command of `n` bytes of instruction has been issued, its ticket in x[d]. -/
def State.issuedTo (s : State) (d : BitVec 5) (ls : Nat) (bits : BitVec 128) (n : Nat) : State :=
  (s.issueCmd ls bits).1.setMe (((s.issueCmd ls bits).1.me.put d (s.issueCmd ls bits).2).skip n)

section
variable (s : State) (d : BitVec 5) (ls : Nat) (bits : BitVec 128) (n : Nat)

theorem State.me_issuedTo : (s.issuedTo d ls bits n).me
    = (({ s.me with tickets := s.me.tickets + 1 } : Thread).put d ((s.me.tickets + 1).setWidth 64)).skip n := by
  obtain ⟨f, hissue, -⟩ := s.issueCmd_frame ls bits
  rw [State.issuedTo, State.me_setMe, hissue]
  exact congrArg (fun th : Thread => (th.put d _).skip n) (s.me_setMe _)

theorem State.openTickets_issuedTo : (s.issuedTo d ls bits n).openTickets s.cur
    = s.openTickets s.cur ++ [(s.me.tickets + 1).toNat] := by
  obtain ⟨f, hissue, hout⟩ := s.issueCmd_frame ls bits
  rw [State.openTickets, State.issuedTo, State.setMe_fab, hissue]
  change tget [] (f s.fab).outstanding s.cur = _
  rw [hout, tmod, tget_tset_same]
  rfl

theorem State.issuedTo_keeps : (s.issuedTo d ls bits n).ms = s.ms ∧ (s.issuedTo d ls bits n).dp = s.dp
    ∧ ∀ k, k ≠ s.cur → (s.issuedTo d ls bits n).thread k = s.thread k := by
  obtain ⟨f, hissue, -⟩ := s.issueCmd_frame ls bits
  rw [State.issuedTo, hissue]
  refine ⟨rfl, rfl, fun k hk => ?_⟩
  have hcur : k ≠ ((s.setMe { s.me with tickets := s.me.tickets + 1 }).modFab f).cur := hk
  exact (State.thread_setMe_ne _ _ k hcur).trans (s.thread_setMe_ne _ k hk)

end

/-- Settles O33: a command issued or waiting by the count of those outstanding, and SCWAIT by their tickets. -/
theorem streamIssue : Obligations.StreamIssue := by
  intro s d a p ls inl i bits n hi
  have hexec := exec_eq_issueStream hi
  refine ⟨fun hk hf => ⟨s.issuedTo d ls.toNat bits n, hexec.trans (issueStream_issues hk hf), ?_⟩,
    fun hk hf => hexec.trans (issueStream_full hk hf), fun hk => hexec.trans (issueStream_unknown hk), fun hopen => ?_,
    fun hdone => ?_⟩
  · have hme := s.me_issuedTo d ls.toNat bits n
    refine ⟨by simp [hme], fun hd => ?_, fun r hr => ?_, by simp [hme, Thread.skip], s.openTickets_issuedTo d ls.toNat bits n,
      s.issuedTo_keeps d ls.toNat bits n⟩
    · rw [hme, Thread.get_skip, Thread.get_put_same _ _ _ hd]
    · rw [hme, Thread.get_skip, Thread.get_put_ne _ _ _ _ hr]
      rfl
  · obtain ⟨x, hx, hcovered⟩ := hopen
    have hany : ((s.openTickets s.cur).any fun x => (reg s a).toNat = 0 || x ≤ (reg s a).toNat) = true :=
      List.any_eq_true.mpr ⟨x, hx, by simpa [← BitVec.toNat_inj] using hcovered⟩
    exact (execScwait_eq s a).trans (if_pos hany)
  · have hany : ¬ ((s.openTickets s.cur).any fun x => (reg s a).toNat = 0 || x ≤ (reg s a).toNat) = true := by
      rw [List.any_eq_true]
      rintro ⟨x, hx, hcovered⟩
      obtain ⟨h0, hbehind⟩ := hdone x hx
      simp [← BitVec.toNat_inj] at hcovered h0
      omega
    exact (execScwait_eq s a).trans (if_neg hany)

/-! ### GLAUNCH (R195) -/

theorem fieldN_eq {w : Nat} (v : BitVec w) (lo len : Nat) : fieldN w v lo len = v.toNat / 2 ^ lo % 2 ^ len := by
  rw [fieldN, Nat.shiftRight_eq_div_pow]

/-- A descriptor with a reserved bit, or with an offset or a width where the window is the whole job's. -/
def DescBad (desc : W64) : Prop :=
  desc.toNat / 2 ^ 21 % 8 ≠ 0 ∨ desc.toNat / 2 ^ 29 % 8 ≠ 0 ∨ desc.toNat / 2 ^ 33 ≠ 0
    ∨ (desc.getLsbD 32 = true ∧ (desc.toNat / 2 ^ 16 % 32 ≠ 0 ∨ desc.toNat / 2 ^ 24 % 32 ≠ 0))

theorem descBad_iff (desc : W64) : (desc.toNat / 2 ^ 21 % 8 != 0 || desc.toNat / 2 ^ 29 % 8 != 0 || desc.toNat / 2 ^ 33 != 0
    || (desc.getLsbD 32 && (fieldN 64 desc 16 5 != 0 || fieldN 64 desc 24 5 != 0))) = true ↔ DescBad desc := by
  simp only [DescBad, fieldN_eq, Bool.or_eq_true, Bool.and_eq_true, bne_iff_ne, or_assoc]
  exact Iff.rfl

/-- GLAUNCH of an entry that names no galley traps ILLEGAL with the entry's address, in the machine that the load of the
entry leaves. -/
theorem execGlaunch_other {s s1 : State} {d a : BitVec 5} {ls : BitVec 2} {e : Nat} (hdesc : ¬ DescBad (reg s d))
    (ha : (reg s a).toNat % 8 = 0) (hload : s.load (reg s a + 8 * (reg s d &&& 0xFFFF)) 8 = .ok s1 e) (he : e % 4 ≠ 2) :
    exec (.glaunch d a ls) s = .next (trapped s1 .illegal 0 (reg s a + 8 * (reg s d &&& 0xFFFF)) 0) := by
  change execGlaunch d a ls s = _
  rw [execGlaunch, checked_ok _ _ _ rfl]
  refine (if_neg (mt (descBad_iff _).mp hdesc)).trans ((if_neg (by simp [ha])).trans ?_)
  rw [hload, Acc.andThen]
  exact if_pos (bne_iff_ne.mpr he)

/-- The machine at reset, with a translation of the page at 0 in the slice of die 0 and none in a core's cache: the page may
be read, and lies where tier H begins, where every byte is zero. -/
def sliceCached : State :=
  { State.reset with ms := { tlb := [{ place := .slice 0 (sliceOf 0 0), asid := 0, size := 16, page := 0, leaf := 2 }] } }

/-- Whether an access has been performed with the value zero, and with `n` translations cached after it. -/
def readsZeroCaching (r : Acc Nat) (n : Nat) : Bool :=
  match r with
  | .ok s1 e => e == 0 && s1.ms.tlb.length == n
  | _ => false

theorem readsZeroCaching_iff (r : Acc Nat) (n : Nat) :
    readsZeroCaching r n = true ↔ ∃ s1, r = .ok s1 0 ∧ s1.ms.tlb.length = n := by
  cases r <;> simp [readsZeroCaching]

/-- A load there reads zero, and leaves the translation in the core's cache too. -/
theorem sliceCached_load : ∃ s1, sliceCached.load 0 8 = .ok s1 0 ∧ s1.ms.tlb.length = 2 :=
  (readsZeroCaching_iff _ _).mp (by decide +kernel)

/-- With x[d] = x[a] = 0 the galley entry lies at 0. -/
theorem sliceCached_entry : reg sliceCached 0 + 8 * (reg sliceCached 0 &&& 0xFFFF) = 0 := by decide +kernel

/-- Refutes O34: with x[d] = x[a] = 0 the entry read at address 0 is empty, and the trap is taken in the machine that the load
leaves, with one translation more in the core's cache than the statement's machine has. -/
theorem not_glaunchResults : ¬ Obligations.GlaunchResults := by
  intro h
  obtain ⟨s1, hload, hcached⟩ := sliceCached_load
  have hdesc : ¬ DescBad (reg sliceCached 0) := by
    unfold DescBad
    decide
  obtain ⟨-, -, hentry⟩ := h sliceCached s1 s1 0 0 0 0 0
  rw [← sliceCached_entry] at hload
  obtain ⟨hother, -⟩ := hentry hdesc rfl hload
  have htraps := execGlaunch_other (ls := 0) hdesc rfl hload (by decide)
  have hsame := Host.Outcome.next.inj (htraps.symm.trans (hother (by decide)))
  have hms : s1.ms = sliceCached.ms := by
    rw [← (s1.trap_keeps _).1, ← (sliceCached.trap_keeps _).1]
    exact congrArg State.ms hsame
  rw [hms] at hcached
  exact absurd hcached (by decide)

/-! ### Launch control (R194, R196) -/

section
variable {s : State} {ls : BitVec 2} (d : BitVec 5) (h : s.shown (slotOf s.cur ls.toNat) = none)
include h

theorem State.live_none : s.live (slotOf s.cur ls.toNat) = none := by rw [State.live, h]

theorem execGwait_none : exec (.gwait d ls) s = .next (wrote s d 2) := by
  change execGwait d ls s = _
  rw [execGwait, checked_ok _ _ _ rfl]
  dsimp only
  rw [h]
  rfl

theorem execGstat_none : exec (.gstat d ls) s = .next (wrote s d 0) := by
  change execGstat d ls s = _
  rw [execGstat, checked_ok _ _ _ rfl]
  dsimp only
  rw [h]
  rfl

end

section
variable {s : State} {ls : BitVec 2} {lk n : Nat} {l : Launch} (d : BitVec 5)
  (h : s.shown (slotOf s.cur ls.toNat) = some (lk, n)) (hl : s.launch lk = some l)
include h hl

theorem State.live_some : s.live (slotOf s.cur ls.toNat) = if l.ended then none else some (lk, n, l) := by
  rw [State.live, h]
  dsimp only
  rw [hl]

theorem execGwait_some : exec (.gwait d ls) s = if l.ended then
      .next (wrote (if lk = launchKey (slotOf s.cur ls.toNat) then s.setLaunch lk none else s) d (if l.stopped then 1 else 0))
    else .next s := by
  change execGwait d ls s = _
  rw [execGwait, checked_ok _ _ _ rfl]
  dsimp only
  rw [h]
  dsimp only
  rw [hl]
  by_cases hown : lk = launchKey (slotOf s.cur ls.toNat) <;> simp only [hown] <;> rfl

theorem execGstat_some : exec (.gstat d ls) s = .next (wrote s d (s.launchStatus l)) := by
  change execGstat d ls s = _
  rw [execGstat, checked_ok _ _ _ rfl]
  dsimp only
  rw [h, Option.bind_some, hl]
  rfl

end

/-- GMARK and GSTOP where the slot shows no launch that has not ended. -/
theorem execGmark_dead {s : State} {ls : BitVec 2} (h : s.live (slotOf s.cur ls.toNat) = none) :
    exec (.gmark ls) s = .next (passed s) ∧ exec (.gstop ls) s = .next (passed s) := by
  constructor
  · change execGmark ls s = _
    rw [execGmark, checked_ok _ _ _ rfl, h]
    rfl
  · change execGstop ls s = _
    rw [execGstop, checked_ok _ _ _ rfl, h]
    rfl

theorem execGmark_live {s : State} {ls : BitVec 2} {lk n : Nat} {l : Launch}
    (h : s.live (slotOf s.cur ls.toNat) = some (lk, n, l)) :
    exec (.gmark ls) s = .next ((passed s).request lk) ∧ exec (.gstop ls) s = .next ((passed s).gstop lk) := by
  constructor
  · change execGmark ls s = _
    rw [execGmark, checked_ok _ _ _ rfl, h]
    rfl
  · change execGstop ls s = _
    rw [execGstop, checked_ok _ _ _ rfl, h]
    rfl

theorem State.launchStatus_eq (s : State) (l : Launch) : s.launchStatus l = BitVec.ofNat 64 ((if l.ended then 2
      else if (s.job l.job).any (fun j => j.phase == .saving) then 3 else 1)
    + (if l.stopped then 4 else 0) + l.sweeps % 65536 * 2 ^ 16 + l.gid % 65536 * 2 ^ 32) := by
  unfold State.launchStatus
  cases s.job l.job <;> rfl

/-- Settles O35: the control of a launch by what the slot shows. -/
theorem launchControl : Obligations.LaunchControl := by
  intro s d ls lk n l id
  refine ⟨fun h => ⟨execGwait_none d h, execGstat_none d h, execGmark_dead (State.live_none h)⟩, fun h hl => ?_⟩
  have hwait := execGwait_some d h hl
  have hlive := State.live_some h hl
  refine ⟨fun hrun => ?_, fun hend hown => ?_, fun hend hother => ?_, ?_, fun hend => ?_, fun hrun => ?_⟩
  · rw [hwait, hrun]
    rfl
  · rw [hwait, hend, if_pos rfl, if_pos hown]
  · rw [hwait, hend, if_pos rfl, if_neg hother]
  · rw [execGstat_some d h hl, s.launchStatus_eq]
  · exact execGmark_dead (by rw [hlive, hend]; rfl)
  · exact execGmark_live (by rw [hlive, hrun]; rfl)

end Sys2Proof.Machine
end

section
/-! PROOFS. The frame of a firing of an element, a router or a tag (08 R219-R221, 11 R324): each operation by which tokens move
keeps it. -/

namespace Sys2Proof.Machine

open Sys2Proof.Claims

/-! ### What a firing leaves alone -/

/-- No link has an overflow queue bound. -/
def State.Unbound (s : State) : Prop := ∀ key, (s.link key).ovf = none

theorem State.unbound_of_forall_mem {s : State} (h : ∀ e, e ∈ s.fab.links → e.2.ovf = none) : s.Unbound := by
  intro key
  unfold State.link
  generalize s.fab.links = links at h
  induction links with
  | nil => rfl
  | cons e rest ih =>
    rw [List.forall_mem_cons] at h
    obtain ⟨he, hrest⟩ := h
    unfold tget
    split
    · exact he
    · exact ih hrest

/-- Tokens have moved from `s` to `t`: what `Kept` names is as before, and where no overflow queue is bound in `s`, none is in
`t`, and the memory system is as before too (11 R324). -/
structure FiringFrame (s t : State) : Prop where
  kept : Kept s t
  unbound : s.Unbound → t.Unbound ∧ t.ms = s.ms

@[refl] theorem FiringFrame.refl (s : State) : FiringFrame s s := ⟨Kept.refl s, fun h => ⟨h, rfl⟩⟩

theorem FiringFrame.trans {s t u : State} (h : FiringFrame s t) (g : FiringFrame t u) : FiringFrame s u :=
  ⟨h.kept.trans g.kept, fun hs =>
    have ⟨ht, hms⟩ := h.unbound hs
    have ⟨hu, hms'⟩ := g.unbound ht
    ⟨hu, hms'.trans hms⟩⟩

/-- A change of neither the links nor the memory system. -/
theorem FiringFrame.of_kept {s t : State} (h : Kept s t) (hlinks : t.fab.links = s.fab.links) (hms : t.ms = s.ms) :
    FiringFrame s t :=
  ⟨h, fun hs => ⟨fun key => (congrArg (fun ls => (tget {} ls key).ovf) hlinks).trans (hs key), hms⟩⟩

theorem frame_modFab (s : State) (f : Fabric → Fabric) (h : (f s.fab).links = s.fab.links) : FiringFrame s (s.modFab f) :=
  .of_kept (kept_modFab ..) h rfl
theorem frame_setLaunch (s : State) (lk : Nat) (l : Option Launch) : FiringFrame s (s.setLaunch lk l) := frame_modFab _ _ rfl
theorem frame_modLaunch (s : State) (lk : Nat) (f : Launch → Launch) : FiringFrame s (s.modLaunch lk f) := by
  unfold State.modLaunch
  split
  · exact frame_setLaunch ..
  · rfl
theorem frame_setElem (s : State) (k : Nat) (e : ElemSt) : FiringFrame s (s.setElem k e) := frame_modFab _ _ rfl
theorem frame_setRtr (s : State) (k : Nat) (r : RtSt) : FiringFrame s (s.setRtr k r) := frame_modFab _ _ rfl
theorem frame_setPort (s : State) (k : Nat) (p : PortSt) : FiringFrame s (s.setPort k p) := frame_modFab _ _ rfl
theorem frame_modPort (s : State) (k : Nat) (f : PortSt → PortSt) : FiringFrame s (s.modPort k f) := frame_setPort ..
theorem frame_setFifo (s : State) (k : Nat) (q : List Tok) : FiringFrame s (s.setFifo k q) := frame_modFab _ _ rfl
theorem frame_modJob (s : State) (j : JobId) (f : Job → Job) : FiringFrame s (s.modJob j f) :=
  .of_kept (kept_modJob ..) rfl rfl
theorem frame_recordFault (s : State) (j : JobId) (f : FaultRec) : FiringFrame s (s.recordFault j f) :=
  .of_kept (kept_recordFault ..) rfl rfl
theorem frame_busy (s : State) (l : Launch) (j : Nat) : FiringFrame s (s.busy l j) := .of_kept (kept_busy ..) rfl rfl

theorem frame_setQueue (s : State) (k : Nat) (q : List W64) : FiringFrame s (s.setQueue k q) := by
  refine .of_kept (kept_setQueue ..) ?_ ?_
  all_goals
    unfold State.setQueue State.noteQueue
    split <;> rfl

theorem frame_foldl {α : Type} (f : State → α → State) (h : ∀ s a, FiringFrame s (f s a)) (l : List α) (s : State) :
    FiringFrame s (l.foldl f s) := by
  induction l generalizing s with
  | nil => rfl
  | cons a rest ih => exact (h s a).trans (ih _)

/-! ### Links -/

/-- A link replaced by one without an overflow queue, where none is bound. -/
theorem frame_setLink (s : State) (key : Nat) (l : LinkSt) (h : s.Unbound → l.ovf = none) :
    FiringFrame s (s.setLink key l) := by
  refine ⟨kept_setLink .., fun hs => ⟨fun key' => ?_, rfl⟩⟩
  by_cases hk : key' = key
  · rw [hk, State.link_setLink_same]
    exact h hs
  · rw [State.link_setLink_ne _ _ _ _ hk]
    exact hs key'

@[simp] theorem LinkSt.pop_ovf (l : LinkSt) (w : LinkW) : (l.pop w).ovf = l.ovf := by
  unfold LinkSt.pop
  split <;> rfl

theorem frame_pop (s : State) (key : Nat) (w : LinkW) : FiringFrame s (s.setLink key ((s.link key).pop w)) :=
  frame_setLink _ _ _ fun hs => (LinkSt.pop_ovf ..).trans (hs key)

theorem frame_popAt (s : State) (lk : Nat) (l : Launch) (k p i : Nat) : FiringFrame s (s.popAt lk l k p i) := by
  unfold State.popAt
  split
  · exact frame_pop ..
  · rfl

theorem frame_stamp (s : State) (lk : Nat) (l : Launch) (k key : Nat) (w : LinkW) (ts : List Tok) :
    FiringFrame s (s.stamp lk l k key w ts) := by
  unfold State.stamp
  dsimp only
  split
  · rfl
  · refine (frame_setLink _ _ _ ?_).trans (frame_modLaunch ..)
    exact fun hs => hs key

/-- Tokens sent on a link go to memory only by its overflow queue. -/
theorem frame_send (s : State) (lk k i : Nat) (w : LinkW) (ts : List Tok) : FiringFrame s (s.send lk k i w ts) := by
  refine ⟨kept_send .., fun hs => ?_⟩
  unfold State.send
  split
  · exact ⟨hs, rfl⟩
  · dsimp only
    rw [hs]
    exact ((frame_setLink _ _ _ fun _ => rfl).trans (frame_stamp ..)).unbound hs

theorem frame_sendOut (s : State) (lk : Nat) (l : Launch) (k p o : Nat) (ts : List Tok) :
    FiringFrame s (s.sendOut lk l k p o ts) := by
  unfold State.sendOut
  split
  · rfl
  · exact frame_foldl _ (fun a _ => frame_send a ..) _ _

/-! ### Moves at external ends -/

/-- A move, where there is one, keeps the frame of a firing. -/
def MoveFrame (s : State) (o : Option State) : Prop := ∀ t, o = some t → FiringFrame s t

theorem moveFrame_none {s : State} : MoveFrame s none := fun t h => absurd h.symm (Option.some_ne_none t)

theorem moveFrame_some {s t : State} (h : FiringFrame s t) : MoveFrame s (some t) := fun _ e => Option.some.inj e ▸ h

theorem moveFrame_ite {s : State} {p : Prop} [Decidable p] {a b : Option State} (ha : MoveFrame s a) (hb : MoveFrame s b) :
    MoveFrame s (if p then a else b) := by
  split
  · exact ha
  · exact hb

theorem moveFrame_ite_none {s : State} {p : Prop} [Decidable p] {a : Option State} (ha : MoveFrame s a) :
    MoveFrame s (if p then a else none) := moveFrame_ite ha moveFrame_none

theorem moveFrame_map {s : State} {o : Option State} {f : State → State} (ho : MoveFrame s o)
    (hf : ∀ t, FiringFrame t (f t)) : MoveFrame s (o.map f) := by
  intro t ht
  obtain ⟨u, hu, rfl⟩ := Option.map_eq_some_iff.mp ht
  exact (ho u hu).trans (hf u)

theorem frame_repeatMove (f : State → Option State) (h : ∀ s, MoveFrame s (f s)) (n : Nat) (s : State) :
    FiringFrame s (repeatMove f n s) := by
  induction n generalizing s with
  | zero => rfl
  | succ n ih =>
    rw [repeatMove]
    split
    next hmove => exact (h s _ hmove).trans (ih _)
    next => rfl

theorem frame_portFault (s : State) (lk : Nat) (f : FaultRec) : FiringFrame s (s.portFault lk f) := by
  unfold State.portFault
  split
  · exact frame_recordFault ..
  · rfl

theorem moveFrame_moveOut (s : State) (lk : Nat) (l : Launch) (k i : Nat) (w : LinkW) : MoveFrame s (s.moveOut lk l k i w) := by
  unfold State.moveOut
  dsimp only
  split
  · exact moveFrame_none
  · have popped := frame_pop s (linkKey lk k i) w
    refine moveFrame_ite (moveFrame_some popped) (moveFrame_ite ?queue ?port)
    case queue =>
      split
      · split
        · exact moveFrame_none
        · exact moveFrame_ite_none (moveFrame_ite (moveFrame_some (popped.trans (frame_setLaunch ..)))
            (moveFrame_some (popped.trans (frame_setQueue ..))))
      · exact moveFrame_some (popped.trans (frame_modPort ..))
      · exact moveFrame_some popped
    case port =>
      split
      · refine moveFrame_ite_none (moveFrame_some (popped.trans ?_))
        split
        · exact (frame_modFab _ _ rfl).trans (frame_portFault ..)
        · exact frame_modFab _ _ rfl
      · exact moveFrame_ite_none (moveFrame_some (popped.trans (frame_setFifo ..)))

theorem frame_countIn (s : State) (lk : Nat) (ts : List Tok) : FiringFrame s (s.countIn lk ts) := by
  unfold State.countIn
  split
  · exact frame_modJob ..
  · rfl

theorem frame_markPort (s : State) (lk pk : Nat) (fifo : List Tok) : FiringFrame s (s.markPort lk pk fifo) := by
  unfold State.markPort
  split
  · rfl
  · exact (frame_setPort ..).trans (frame_setLaunch ..)

theorem frame_fillFifo (s : State) (lk n q : Nat) : FiringFrame s (s.fillFifo lk n q) := by
  unfold State.fillFifo
  dsimp only
  split
  · rfl
  · split
    · rfl
    · exact (frame_setFifo ..).trans (frame_setPort ..)

theorem frame_arrive (s : State) (lk : Nat) (l : Launch) (k i : Nat) (w : LinkW) (h : Head) :
    FiringFrame s (s.arrive lk l k i w h) := by
  unfold State.arrive
  refine FiringFrame.trans ?_ (frame_send ..)
  split
  · exact frame_setPort ..
  · exact (frame_setPort ..).trans (frame_countIn ..)

theorem moveFrame_moveIn (s : State) (lk : Nat) (l : Launch) (k i : Nat) (w : LinkW) : MoveFrame s (s.moveIn lk l k i w) := by
  unfold State.moveIn
  refine moveFrame_ite moveFrame_none (moveFrame_ite moveFrame_none (moveFrame_ite ?mark ?token))
  case mark => exact moveFrame_some ((frame_markPort ..).trans ((frame_modPort ..).trans (frame_send ..)))
  case token =>
    split
    · dsimp only
      split
      · exact moveFrame_some ((frame_modFab _ _ rfl).trans (frame_arrive ..))
      · exact moveFrame_none
    · have filled := frame_fillFifo s lk (l.segOfForme k) (48 + w.xnum)
      dsimp only
      split
      · exact moveFrame_some (filled.trans ((frame_setFifo ..).trans (frame_arrive ..)))
      · exact moveFrame_ite_none (moveFrame_some (filled.trans (frame_arrive ..)))

/-- Moves of a launch, as `settleLink` repeats them. -/
theorem frame_repeatMove_launch (f : State → Launch → Option State) (h : ∀ s l, MoveFrame s (f s l)) (lk n : Nat) (s : State) :
    FiringFrame s (repeatMove (fun s => match s.launch lk with
      | some l => f s l
      | none => none) n s) := by
  refine frame_repeatMove _ (fun s => ?_) n s
  split
  · exact h s _
  · exact moveFrame_none

theorem frame_settleLink (s : State) (lk k i : Nat) (w : LinkW) : FiringFrame s (s.settleLink lk k i w) := by
  refine ⟨kept_settleLink .., fun hs => ?_⟩
  unfold State.settleLink
  simp only [hs (linkKey lk k i), Option.isSome_none, Bool.false_eq_true, if_false]
  split
  · exact (frame_repeatMove_launch (fun s l => s.moveOut lk l k i w)
      (fun s l => moveFrame_moveOut s lk l k i w) lk _ s).unbound hs
  · split
    · exact (frame_repeatMove_launch (fun s l => s.moveIn lk l k i w)
        (fun s l => moveFrame_moveIn s lk l k i w) lk _ s).unbound hs
    · exact ⟨hs, rfl⟩

theorem frame_settle (s : State) (lk : Nat) : FiringFrame s (s.settle lk) := by
  unfold State.settle
  split
  · rfl
  · exact frame_foldl _ (fun _ _ => frame_settleLink ..) _ _

/-! ### Firings of elements -/

theorem frame_progress (s : State) (lk : Nat) : FiringFrame s (s.progress lk) := by
  unfold State.progress
  split
  · exact frame_modJob ..
  · rfl

theorem frame_stirred (s : State) (lk : Nat) : FiringFrame s (s.stirred lk) := by
  unfold State.stirred
  split
  · exact frame_modJob ..
  · rfl

theorem frame_popAll (s : State) (x : Site) (take : Nat) : FiringFrame s (s.popAll x take) := by
  refine frame_foldl _ (fun a i => ?_) _ _
  split
  · exact frame_popAt ..
  · rfl

theorem frame_commit (s : State) (x : Site) (e : ElemSt) (take : Nat) (a b : List Tok) :
    FiringFrame s (s.commit x e take a b) :=
  (frame_popAll ..).trans <| (frame_sendOut ..).trans <| (frame_sendOut ..).trans <| (frame_setElem ..).trans <|
    (frame_progress ..).trans <| (frame_busy ..).trans (frame_settle ..)

theorem frame_tried (s : State) (x : Site) (t : Try) : FiringFrame s (s.tried x t) := by
  cases t with
  | idle => rfl
  | bad cls d => exact frame_recordFault ..
  | go e take a b => exact frame_commit ..

/-- A step that goes on keeps the frame of a firing. -/
def StepFrame (s : State) (o : Out) : Prop := ∀ t, o = .next t → FiringFrame s t

theorem stepFrame_next {s t : State} (h : FiringFrame s t) : StepFrame s (.next t) := fun _ e => Host.Outcome.next.inj e ▸ h

theorem stepFrame_same {s : State} : StepFrame s (.next s) := stepFrame_next (.refl s)

theorem stepFrame_ite {s : State} {p : Prop} [Decidable p] {a b : Out} (ha : StepFrame s a) (hb : StepFrame s b) :
    StepFrame s (if p then a else b) := by
  split
  · exact ha
  · exact hb

theorem stepFrame_ite_next {s t : State} {p : Prop} [Decidable p] (h : FiringFrame s t) :
    StepFrame s (if p then .next t else .next s) := stepFrame_ite (stepFrame_next h) stepFrame_same

theorem stepFrame_fireElem (op : Nat) (f : Cfg → OpSt → Ins → Res) (id : ElemId) (s : State) :
    StepFrame s (fireElem op f id s) := by
  unfold fireElem
  split
  · exact stepFrame_same
  · exact stepFrame_ite_next ((frame_settle ..).trans (frame_tried ..))

/-- An element operation is a firing by its step. -/
theorem exec_eq_fireElem {i : Instr} {id : ElemId} {op : Nat} {f : Cfg → OpSt → Ins → Res} (h : IsElemOp i id op f)
    (s : State) : exec i s = fireElem op f id s := by
  simp only [IsElemOp, IsLaneOp, IsStreamOp, IsMatrixOp, or_assoc] at h
  casesm* _ ∨ _
  all_goals
    obtain ⟨rfl, rfl, rfl⟩ := h
    rfl

theorem stepFrame_ligature (id : ElemId) (s : State) : StepFrame s (execLigature id s) := by
  unfold execLigature
  dsimp only
  split
  · exact stepFrame_same
  · split
    · exact stepFrame_same
    · exact stepFrame_ite_next ((frame_settle ..).trans (frame_tried ..))

/-! ### Tags -/

theorem frame_snapElem (s : State) (x : Site) (k : Nat) (e : ElemSt) : FiringFrame s (s.snapElem x k e) := by
  unfold State.snapElem
  split
  · exact frame_modLaunch ..
  · rfl

/-- A tag or an ERR that an element passes: heads consumed, tokens sent on both outputs, its registers written. -/
theorem frame_passed (s : State) (x : Site) (take : Nat) (a b : List Tok) (e : ElemSt) :
    FiringFrame s ((((((s.popAll x take).sendOut x.lk x.l x.k x.c 0 a).sendOut x.lk x.l x.k x.c 1 b).setElem x.key e).stirred
      x.lk).settle x.lk) :=
  (frame_popAll ..).trans <| (frame_sendOut ..).trans <| (frame_sendOut ..).trans <| (frame_setElem ..).trans <|
    (frame_stirred ..).trans (frame_settle ..)

theorem stepFrame_alignedTag (id : ElemId) (s : State) : StepFrame s (execAlignedTag id s) := by
  unfold execAlignedTag
  dsimp only
  split
  · exact stepFrame_same
  · split
    · exact stepFrame_same
    · refine stepFrame_ite stepFrame_same ?_
      split
      · exact stepFrame_same
      · have settled := frame_settle s (launchKey id.launch)
        refine stepFrame_next (FiringFrame.trans ?_ (frame_passed ..))
        split
        · exact settled.trans (frame_snapElem ..)
        · exact settled

theorem stepFrame_errToken (id : ElemId) (s : State) : StepFrame s (execErrToken id s) := by
  unfold execErrToken
  dsimp only
  split
  · exact stepFrame_same
  · split
    · exact stepFrame_same
    · exact stepFrame_ite_next ((frame_settle ..).trans (frame_passed ..))

/-! ### Routers -/

theorem frame_snapRtr (s : State) (x : RSite) (h : Option Head) (st : RtSt) : FiringFrame s (s.snapRtr x h st) := by
  unfold State.snapRtr
  dsimp only
  split
  · exact frame_modLaunch ..
  · rfl

theorem frame_rStep (s : State) (x : RSite) (st : RtSt) (takes : List Nat) (outs : List (Nat × List Tok)) :
    FiringFrame s (s.rStep x st takes outs) := by
  have routed : FiringFrame s (outs.foldl (fun a (o, ts) => a.sendOut x.lk x.l x.k (16 + x.r) o ts)
      (takes.foldl (fun a i => a.popAt x.lk x.l x.k (16 + x.r) i) s)) :=
    (frame_foldl _ (fun _ _ => frame_popAt ..) _ _).trans (frame_foldl _ (fun _ _ => frame_sendOut ..) _ _)
  refine (routed.trans ?_).trans ((frame_setRtr ..).trans (frame_settle ..))
  split
  · split
    · rfl
    · exact frame_snapRtr ..
  · rfl

theorem moveFrame_rStep {s : State} {x : RSite} {st : RtSt} {takes : List Nat} {outs : List (Nat × List Tok)} :
    MoveFrame s (some (s.rStep x st takes outs)) := moveFrame_some (frame_rStep ..)

theorem frame_carryExit (s : State) (x : RSite) (o : Nat) : FiringFrame s (s.carryExit x o) := by
  unfold State.carryExit
  split
  · rfl
  · refine frame_foldl _ (fun a r => ?_) _ _
    dsimp only
    split
    · exact frame_setRtr ..
    · rfl

theorem frame_dropStamp (s : State) (key : Nat) : FiringFrame s (s.dropStamp key) :=
  frame_setLink _ _ _ fun hs => hs key

theorem moveFrame_joinUnit {s : State} {x : RSite} {i : Bool} {extra : List Nat} {was : Bool} {st : RtSt} :
    MoveFrame s (s.joinUnit x i extra was st) := moveFrame_ite_none moveFrame_rStep

/-- A token that STEER sends on an output, and counts as it leaves a loop (R223, R225). -/
theorem moveFrame_steered {s : State} {x : RSite} {st : RtSt} {takes : List Nat} {outs : List (Nat × List Tok)} {o : Nat}
    {more room : Bool} : MoveFrame s (if !room then none else
      some (if more then s.rStep x st takes outs else (s.rStep x st takes outs).carryExit x o)) := by
  refine moveFrame_ite moveFrame_none (moveFrame_some ?_)
  split
  · exact frame_rStep ..
  · exact (frame_rStep ..).trans (frame_carryExit ..)

theorem moveFrame_stepSteer (s : State) (x : RSite) : MoveFrame s (s.stepSteer x) := by
  unfold State.stepSteer
  split
  · exact moveFrame_ite_none moveFrame_steered
  · refine moveFrame_ite (moveFrame_ite_none moveFrame_rStep) (moveFrame_ite_none ?_)
    split
    · exact moveFrame_steered
    · exact moveFrame_none

theorem moveFrame_stepMerge (s : State) (x : RSite) : MoveFrame s (s.stepMerge x) := by
  unfold State.stepMerge
  split
  · exact moveFrame_joinUnit
  · refine moveFrame_ite (moveFrame_ite_none moveFrame_rStep) (moveFrame_ite ?selected ?inTurn)
    case selected =>
      split
      · exact moveFrame_joinUnit
      · exact moveFrame_none
    case inTurn =>
      split
      · exact moveFrame_joinUnit
      · exact moveFrame_joinUnit
      · exact moveFrame_joinUnit
      · exact moveFrame_none

theorem moveFrame_stepCarry (s : State) (x : RSite) : MoveFrame s (s.stepCarry x) := by
  unfold State.stepCarry
  refine moveFrame_ite moveFrame_rStep ?_
  split
  · exact moveFrame_joinUnit
  · exact moveFrame_ite moveFrame_joinUnit (moveFrame_ite (moveFrame_ite_none moveFrame_rStep)
      (moveFrame_ite_none moveFrame_joinUnit))

theorem moveFrame_stepJoin (s : State) (x : RSite) : MoveFrame s (s.stepJoin x) :=
  moveFrame_ite (moveFrame_ite_none moveFrame_rStep)
    (moveFrame_ite (moveFrame_ite_none moveFrame_rStep) (moveFrame_ite_none moveFrame_rStep))

theorem moveFrame_stepFork (s : State) (x : RSite) : MoveFrame s (s.stepFork x) :=
  moveFrame_ite (moveFrame_ite_none moveFrame_rStep) <| moveFrame_ite moveFrame_none <|
    moveFrame_ite (moveFrame_ite_none moveFrame_rStep) (moveFrame_ite_none moveFrame_rStep)

theorem moveFrame_stepOrdj (s : State) (x : RSite) : MoveFrame s (s.stepOrdj x) := by
  unfold State.stepOrdj
  split
  · exact moveFrame_joinUnit
  · refine moveFrame_ite (moveFrame_ite_none moveFrame_rStep) ?_
    split
    · exact moveFrame_ite (moveFrame_map moveFrame_joinUnit fun _ => frame_dropStamp ..)
        (moveFrame_ite_none (moveFrame_map moveFrame_joinUnit fun _ => frame_dropStamp ..))
    · exact moveFrame_none

theorem moveFrame_rErr (s : State) (x : RSite) (ins outs : List Nat) : MoveFrame s (s.rErr x ins outs) := by
  unfold State.rErr
  split
  · exact moveFrame_rStep
  · exact moveFrame_none

theorem stepFrame_route (s : State) (id : RouterId) (code : Nat) (ins outs : RSite → List Nat)
    (f : State → RSite → Option State) (hf : ∀ s x, MoveFrame s (f s x)) : StepFrame s (s.route id code ins outs f) := by
  have settled := frame_settle s (launchKey id.launch)
  unfold State.route
  dsimp only
  split
  · exact stepFrame_same
  next x _ =>
    split
    next herr => exact stepFrame_next (settled.trans ((moveFrame_rErr _ _ _ _ _ herr).trans (frame_progress ..)))
    next =>
      split
      next hmove => exact stepFrame_next (settled.trans (hf _ x _ hmove))
      next => exact stepFrame_same

/-- Settles O38: tokens, tags and units move by operations each of which keeps the frame. -/
theorem fabricFrame : Obligations.FabricFrame := by
  intro s t i hi hexec
  have frame : FiringFrame s t := by
    rcases hi with ⟨id, op, f, hop⟩ | ⟨id, rfl | rfl | rfl⟩ | ⟨r, rfl | rfl | rfl | rfl | rfl | rfl⟩
    · exact stepFrame_fireElem op f id s t (exec_eq_fireElem hop s ▸ hexec)
    · exact stepFrame_ligature id s t hexec
    · exact stepFrame_alignedTag id s t hexec
    · exact stepFrame_errToken id s t hexec
    · exact stepFrame_route _ _ _ _ _ _ moveFrame_stepSteer t hexec
    · exact stepFrame_route _ _ _ _ _ _ moveFrame_stepMerge t hexec
    · exact stepFrame_route _ _ _ _ _ _ moveFrame_stepCarry t hexec
    · exact stepFrame_route _ _ _ _ _ _ moveFrame_stepJoin t hexec
    · exact stepFrame_route _ _ _ _ _ _ moveFrame_stepFork t hexec
    · exact stepFrame_route _ _ _ _ _ _ moveFrame_stepOrdj t hexec
  obtain ⟨kept, unbound⟩ := frame
  exact ⟨kept.regs, kept.ctxs, kept.scratch, kept.bd, kept.clk, fun h => (unbound (State.unbound_of_forall_mem h)).2⟩

end Sys2Proof.Machine
end

section
/-! PROOFS. The firing of an element by the step of its operation (08 R219-R221), and a VCONST without an output (09 R254). -/

namespace Sys2Proof.Machine

open Sys2Proof.Claims

/-! ### The firing of an element (R219, R220) -/

theorem fireElem_of_site {s : State} {id : ElemId} {x : Site} (hsite : (moved s id.launch).site id = some x)
    (hmay : (moved s id.launch).may x = true) (f : Cfg → OpSt → Ins → Res) :
    fireElem x.cfg.op f id s = .next ((moved s id.launch).tried x ((moved s id.launch).tryFire x f)) := by
  simp only [fireElem, hsite]
  exact if_pos (by simp [hmay])

theorem State.errAt_headsOf_eq_false {s : State} {x : Site} (h : ∀ k, headTag (s.inHead x k) ≠ some .err) :
    errAt (s.headsOf x) = false := by
  simp [errAt, State.headsOf, h]

theorem State.errAt_headsOf {s : State} {x : Site} {k : Nat} (hk : k < 3) (h : headTag (s.inHead x k) = some .err) :
    errAt (s.headsOf x) = true := by
  have hon : x.cfg.inOn k = true := by
    by_contra hoff
    simp [State.inHead, hoff, headTag] at h
  simp only [errAt, State.headsOf, List.any_map, List.any_eq_true, List.mem_filter, List.mem_range]
  exact ⟨k, ⟨hk, hon⟩, by simp [h]⟩

section
variable {s : State} {id : ElemId} {x : Site} {f : Cfg → OpSt → Ins → Res} (h : Free s id x)
include h

theorem State.tryFire_idle (hf : f x.cfg x.e.st (s.insOf x) = .idle) : s.tryFire x f = .idle := by
  simp [State.tryFire, h.oweA, h.oweB, hf]

theorem State.tryFire_bad {cls : FaultClass} {d : W64} (hf : f x.cfg x.e.st (s.insOf x) = .bad cls d) :
    s.tryFire x f = .bad cls d := by
  simp [State.tryFire, h.oweA, h.oweB, State.errAt_headsOf_eq_false h.noErr, hf]

/-- An element that nothing holds fires as its step says; VBUF while it owes at most sixteen tokens (R252). -/
theorem State.tryFire_fire {r : Fire} (hf : f x.cfg x.e.st (s.insOf x) = .fire r)
    (hbuf : x.cfg.op = 0x41 → tokCount (firedElem x r).owea ≤ 16) :
    s.tryFire x f = .go (firedElem x r) r.take (splitTok (sends x 0 (r.outa ++ r.owea))).1
      (splitTok (sends x 1 (r.outb ++ r.oweb))).1 := by
  have hoffer : s.tryFire x f = s.offer x r := by
    simp [State.tryFire, h.oweA, h.oweB, State.errAt_headsOf_eq_false h.noErr, hf, h.noTag]
  rw [hoffer]
  simp only [State.offer, h.oweA, h.oweB, h.roomA, h.roomB, List.nil_append, if_true]
  refine if_neg ?_
  by_cases hop : x.cfg.op = 0x41
  · have hfits := hbuf hop
    rw [firedElem, sends] at hfits
    simpa [hop] using hfits
  · simp [hop]

end

/-- The clause of the statement on the operations of 09 and 10 holds. -/
theorem stepsFire : Claims.StepsFire := by
  intro s i id op f x hop hfree rfl
  have hexec : exec i s = .next ((moved s id.launch).tried x ((moved s id.launch).tryFire x f)) :=
    (exec_eq_fireElem hop s).trans (fireElem_of_site hfree.site hfree.may f)
  rw [hexec]
  refine ⟨fun r hf hbuf => ?_, fun hf => ?_, fun cls d hf => ?_⟩
  · rw [State.tryFire_fire hfree hf hbuf]
    rfl
  · rw [State.tryFire_idle hfree hf]
    rfl
  · rw [State.tryFire_bad hfree hf]
    rfl

/-- So does its clause on elements that are held. -/
theorem elementHeld : Claims.ElementHeld := by
  intro s i id op f hop
  rw [exec_eq_fireElem hop s]
  refine ⟨fun hsite => by simp only [fireElem, hsite], fun x hsite =>
    ⟨fun hheld => ?_, fun hxop hmay howea howeb herr => ?_⟩⟩
  · simp only [fireElem, hsite]
    refine if_neg ?_
    rcases hheld with hheld | hheld <;> simp [hheld]
  · subst hxop
    obtain ⟨k, hk, herr⟩ := herr
    rw [fireElem_of_site hsite hmay]
    simp [State.tryFire, howea, howeb, State.errAt_headsOf hk herr, State.tried]

/-! ### VCONST without an output (R254) -/

/-- A VCONST whose o0 is not enabled has no token to send, and does not fire. -/
theorem execVconst_of_mute {s : State} {id : ElemId} {x : Site} {r : Fire} (hfree : Free (moved s id.launch) id x)
    (hop : x.cfg.op = 0x43) (hout : x.cfg.outOn 0 = false)
    (hstep : constStep ((moved s id.launch).constEnv x) x.cfg x.e.st ((moved s id.launch).insOf x) = .fire r) :
    exec (.vconst id) s = .next s := by
  have hgo := State.tryFire_fire hfree hstep (by simp [hop])
  change execVconst id s = _
  simp only [execVconst, hfree.site, hop, hfree.may, hgo, sends, hout]
  rfl

/-- The firing that sends a tile of the constant pool. -/
def constFire (c : Cfg) (st : OpSt) : Fire :=
  { st := { st with cnt := st.cnt + 1 }, owea := filledTile (c.poolHdr c.imm16) st.cnt (c.poolWord (c.imm16 + 32)) }

theorem stepVconst_tile {c : Cfg} {st : OpSt} (ins : Ins) (h : st.cnt < c.imm32) :
    stepVconst c st ins = .fire (constFire c st) :=
  if_pos h

/-- In a resident pipeline without markers and before GSTOP a VCONST sends the next tile. -/
theorem constStep_tile {env : ConstEnv} {c : Cfg} {st : OpSt} (ins : Ins) (h : st.cnt < c.imm32) (hblock : env.block = none)
    (hmark : env.mark = none) (hsaving : env.saving = false) (hstop : env.stop = false) :
    constStep env c st ins = .fire (constFire c st) := by
  simp [constStep, hblock, hmark, hsaving, hstop, stepVconst_tile ins h]

/-- The image of a forme that holds a VCONST of one tile at column 1, its header in the constant pool, and whose word there has
OUTEN zero. -/
def muteForme : Nat := 2 + (0x43 + 2 ^ 64) * 2 ^ (8 * 0x50) + (linkHdr { fmt := 1 }).toNat * 2 ^ (8 * 0x340)

/-- A machine with a running launch of this forme. -/
def muteConst : State :=
  let job : Job :=
    { seq := 0, rcd := 0, phase := .started, check := .passed, segs := [{ ring := 0, slot := 0, base := 0, width := 24 }] }
  let launch : Launch :=
    { job := { queue := 0, seq := 0 }, galley := 0, gid := 0, nformes := 1, b := 1, markint := 0, nodes := [0], chain := false
      off := 0, p := 1, win := [(0, 0)], segOf := [0], pipes := [{ forme := 0, n := 1, stripe := 0, p := 1, node := 0 }]
      formes := [(0, some muteForme)] }
  { dp := { queues := [(0, { jobs := [job] })] }
    rings := [(0, { active := [(0, 1)] })]
    fab := { launches := [(0, some launch)], elems := [(elemKey 0 0 1, some {})] } }

/-- Its VCONST. -/
def muteId : ElemId := { launch := { ring := 0, slot := 0, ls := 0 }, stripe := 0, col := 1 }

/-- The machine after a firing, as R254 has it of a VCONST: counted for the job, and at the element. -/
def State.constFired (s : State) (x : Site) (r : Fire) : State :=
  (s.countIn x.lk (splitTok (sends x 0 (r.outa ++ r.owea))).1).commit x (firedElem x r) r.take
    (splitTok (sends x 0 (r.outa ++ r.owea))).1 (splitTok (sends x 1 (r.outb ++ r.oweb))).1

/-- A VCONST without inputs and outputs that has a tile to send, in a resident pipeline without markers and before GSTOP. -/
abbrev MuteSite (s : State) (x : Site) : Prop :=
  s.may x = true ∧ (x.e.owea = [] ∧ x.e.oweb = []) ∧ (x.cfg.op = 0x43 ∧ x.cfg.inen = 0 ∧ x.cfg.outen = 0)
  ∧ (x.l.blockLen x.k = none ∧ x.l.snapOn = false ∧ x.l.stopped = false ∧ (s.constEnv x).saving = false)
  ∧ x.e.st.cnt < x.cfg.imm32 ∧ hasMark (constFire x.cfg x.e.st).owea = false

theorem muteConst_site : ∃ x, (moved muteConst muteId.launch).site muteId = some x
    ∧ MuteSite (moved muteConst muteId.launch) x
    ∧ (moved muteConst muteId.launch).constFired x (constFire x.cfg x.e.st) ≠ muteConst := by
  have hcheck : (((moved muteConst muteId.launch).site muteId).any fun x => decide (MuteSite (moved muteConst muteId.launch) x
      ∧ (moved muteConst muteId.launch).constFired x (constFire x.cfg x.e.st) ≠ muteConst)) = true := by decide +kernel
  obtain ⟨x, hsite, hmute⟩ := (Option.any_eq_true _ _).mp hcheck
  exact ⟨x, hsite, of_decide_eq_true hmute⟩

/-- Nothing holds such an element. -/
theorem MuteSite.free {s : State} {id : ElemId} {x : Site} (hsite : s.site id = some x) (h : MuteSite s x) : Free s id x := by
  obtain ⟨hmay, ⟨howea, howeb⟩, ⟨-, hinen, houten⟩, -⟩ := h
  have hhead (i : Nat) : s.inHead x i = none := by simp [State.inHead, Cfg.inOn, hinen]
  exact
    { site := hsite, may := hmay, oweA := howea, oweB := howeb
      noErr := fun k => by simp [hhead, headTag]
      noTag := by simp [heldBy, State.insOf, hhead, holds, headTag, Ins.get, List.range_succ]
      roomA := by simp [State.roomOf, Cfg.outOn, houten]
      roomB := by simp [State.roomOf, Cfg.outOn, houten] }

/-- Refutes O36: a VCONST whose o0 is not enabled does not fire, where the clause on R254 has it fire and send nothing.
R228 refuses such a word (R233), but the statement does not ask for a forme that R228 admits. -/
theorem not_elementFires : ¬ Obligations.ElementFires := by
  rintro ⟨-, -, hconst⟩
  obtain ⟨x, hsite, hmute, hchanged⟩ := muteConst_site
  have hfree := MuteSite.free hsite hmute
  obtain ⟨-, -, ⟨hop, -, houten⟩, ⟨hblock, hsnap, hstop, hsaving⟩, htile, hmark⟩ := hmute
  have hstep := constStep_tile ((moved muteConst muteId.launch).insOf x) htile hblock
    (env := (moved muteConst muteId.launch).constEnv x) (by simp [State.constEnv, hsnap]) hsaving hstop
  have hmuted := execVconst_of_mute hfree hop (by simp [Cfg.outOn, houten]) hstep
  obtain ⟨-, hfires⟩ := hconst muteConst muteId x (constFire x.cfg x.e.st) hfree
  have hfired := hfires hop hblock hsnap hstop hsaving (stepVconst_tile _ htile) hmark
  exact hchanged (Host.Outcome.next.inj (hfired.symm.trans hmuted))

end Sys2Proof.Machine
end

section
/-! PROOFS. Aligned tags, ERR, forme switches and restores (08 R219, 05 R133, R137). -/

namespace Sys2Proof.Machine

open Sys2Proof.Claims

/-! ### Aligned tags and ERR (R219) -/

theorem agOwnTag_of_not_ag {c : Cfg} {t : Tag} (h : opAg c.op = false) : agOwnTag c t = false := by
  unfold agOwnTag
  split
  case h_6 => rfl
  all_goals
    rename_i hop
    rw [hop] at h
    exact absurd h (by decide)

theorem PortSt.inTile_of_not_ag {p : PortSt} {x : Site} (h : opAg x.cfg.op = false) : p.inTile x = false := by
  simp [PortSt.inTile, h]

theorem find_range3_eq_some {p : Nat → Bool} {k : Nat} (hk : k < 3) (hp : p k = true)
    (hbelow : ∀ j, j < k → p j = false) : (List.range 3).find? p = some k := by
  refine List.find?_range_eq_some.mpr ⟨hp, List.mem_range.mpr hk, fun j hj => ?_⟩
  simp [hbelow j hj]

theorem tagsPass : Claims.TagsPass := by
  intro s id x s1 out done hsite
  have hs1 : s.settle (launchKey id.launch) = s1 := rfl
  clear_value s1
  refine ⟨fun t st hmay haligned hfsw hmark hag hbuf herr howea howeb hrooma hroomb htag => ?_,
    fun k h hk hactive hhead herr hbelow => ?_⟩
  · have hgather : x.cfg.op ≠ 0x72 := fun h => by simp [h, opAg] at hag
    change execAlignedTag id s = _
    simp only [execAlignedTag, hs1, hsite, haligned]
    rw [if_neg (by simp [hmay, hfsw, hbuf, hag, agOwnTag_of_not_ag hag, PortSt.inTile_of_not_ag hag, hgather, herr, howea,
      howeb, hrooma, hroomb]), htag]
    simp [out, done, sends, hmark, hbuf]
  · have hfind : ((List.range 3).find? fun i => headTag (s1.inHead x i) == some .err) = some k :=
      find_range3_eq_some hk (by simp [hhead, herr]) fun j hj => by simp [hbelow j hj]
    change execErrToken id s = _
    simp only [execErrToken, hs1, hsite, hfind, hactive, hhead]
    rfl

/-! ### Forme switches (R133) -/

theorem headD_map_eq_bind {α β : Type} (f : α → Option β) (as : List α) : (as.map f).headD none = as.head?.bind f := by
  cases as <;> rfl

theorem State.insOf_get (s : State) (x : Site) {k : Nat} (hk : k < 3) : (s.insOf x).get k = s.inHead x k := by
  interval_cases k <;> rfl

theorem switchResults : Claims.SwitchResults := by
  intro s id x s1 p done
  have hs1 : s.settle (launchKey id.launch) = s1 := rfl
  clear_value s1
  have hp : s1.port x.port = p := rfl
  clear_value p
  refine ⟨fun hsite hmay howea howeb hscrolls htold htile => ?_, fun st fl hsite hrestore hrec => ?_⟩
  · have hsaid : (!opAg x.cfg.op || !x.cfg.outOn 0 || (p.reply.isEmpty && p.full.isNone)) = true := by
      cases hag : opAg x.cfg.op with
      | false => rfl
      | true =>
        cases hout : x.cfg.outOn 0 with
        | false => rfl
        | true =>
          obtain ⟨hreply, hfull⟩ := htold hag hout
          simp [hreply, hfull]
    refine ⟨fun st h hinen hreplies hheads hfirst hrooma hroomb htag => ?_,
      fun n hinen hreplies hblock hcount hbehind => ?_⟩
    · have hfsw : (((List.range 3).filter x.cfg.inOn).map fun i => (s1.insOf x).get i).all (fun h => headTag h == some .fsw)
          = true := by
        simp only [List.all_map, List.all_filter, List.all_eq_true, List.mem_range]
        intro k hk
        cases hon : x.cfg.inOn k with
        | false => rfl
        | true => simp [s1.insOf_get x hk, hheads k hk hon]
      change execFormeSwitch id s = _
      simp only [execFormeSwitch, hs1, hsite, hp, hreplies]
      rw [if_neg (by simp [hmay, howea, howeb, hscrolls, hsaid, htile]), if_neg (by simp [Cfg.switches, hinen])]
      simp only [Bool.false_eq_true, if_false, List.append_nil]
      rw [if_neg (by simp [hfsw, hrooma, hroomb]), htag, headD_map_eq_bind, hfirst]
      rfl
    · change execFormeSwitch id s = _
      simp only [execFormeSwitch, hs1, hsite, hp]
      rw [if_neg (by simp [hmay, howea, howeb, hscrolls, hsaid, htile, hreplies]),
        if_pos (by simp [Cfg.switches, hinen, hreplies]), hblock]
      exact if_pos (by simp [hcount, hbehind])
  · change execStateRestore id s = _
    simp only [execStateRestore, hsite, hrestore, hrec]

/-- Settles O40: aligned tags and ERR, then switches and restores. -/
theorem tagResults : Obligations.TagResults := ⟨tagsPass, switchResults⟩

end Sys2Proof.Machine
end

section
/-! PROOFS. Routers, idle circuits and the stages of typed links (08 R222-R227, 01 R32). -/

namespace Sys2Proof.Machine

open Sys2Proof.Claims

/-! ### Routers (R222-R227) -/

theorem State.rsite_code {s : State} {id : RouterId} {code : Nat} {x : RSite} (h : s.rsite id code = some x) :
    rCode x.w = code := by
  unfold State.rsite at h
  dsimp only at h
  split at h
  · cases h
  · split at h
    · cases h
    · rw [Option.ite_none_right_eq_some] at h
      obtain ⟨hon, hx⟩ := h
      cases hx
      simp only [Bool.and_eq_true, beq_iff_eq] at hon
      exact hon.1.1.1

theorem rTag_of_rUnit {h : Option Head} (hu : rUnit h = true) : rTag h = false := by
  simp only [rUnit, Bool.and_eq_true, Bool.not_eq_true'] at hu
  exact hu.1.2

theorem rTag_congr {g h : Option Head} (e : headTag g = headTag h) : rTag g = rTag h := by
  rw [rTag, rTag, e]

/-- A unit at one of some inputs: no tag is aligned over them. -/
theorem State.rAligned_of_rUnit {s : State} {x : RSite} {is : List Nat} {i : Nat} (hi : i ∈ is)
    (hu : rUnit (s.rHead x i) = true) : s.rAligned x is = false := by
  have htag := rTag_of_rUnit hu
  cases is with
  | nil => rfl
  | cons j rest =>
    by_contra h
    simp only [State.rAligned, Bool.not_eq_false, Bool.and_eq_true, List.all_eq_true, beq_iff_eq] at h
    obtain ⟨hj, hrest⟩ := h
    rcases List.mem_cons.mp hi with rfl | hmem
    · exact Bool.false_ne_true (htag.symm.trans hj)
    · exact Bool.false_ne_true (htag.symm.trans ((rTag_congr (hrest i hmem)).trans hj))

section
variable {s : State} {id : RouterId} {code : Nat} {ins outs : RSite → List Nat} {f : State → RSite → Option State} {x : RSite}
  {t : State} (hsite : (moved s id.launch).rsite id code = some x)
include hsite

theorem State.route_err (herr : (moved s id.launch).rErr x (ins x) (outs x) = some t) :
    s.route id code ins outs f = .next (t.progress x.lk) := by
  simp only [State.route, hsite, herr]

theorem State.route_step (herr : (moved s id.launch).rErr x (ins x) (outs x) = none) (hf : f (moved s id.launch) x = some t) :
    s.route id code ins outs f = .next t := by
  simp only [State.route, hsite, herr, hf]

end

/-- A token of a unit that goes on to o0 (R224-R227). -/
theorem State.joinUnit_eq {s : State} {x : RSite} {i : Bool} {extra : List Nat} {was : Bool} {st : RtSt} {u : Head}
    (hhead : s.rHead x (if i then 1 else 0) = some u) (hunit : rUnit (some u) = true) (hroom : s.rRoom x 0 = true) :
    s.joinUnit x i extra was st = some (s.rStep x
      { st with open' := if openAfter was (some u) then some i else none, last := i } ((if i then 1 else 0) :: extra)
      [(0, u.toks)]) := by
  simp only [State.joinUnit, hhead, hunit, hroom]
  rfl

theorem mem_rIns_merge {w : Nat} (h : rCode w = 2) (b : Bool) : (if b then 1 else 0) ∈ rIns w := by
  simp only [rIns, h]
  cases b <;> split <;> decide

/-! What the router of each code does with a unit, where no unit is open. -/

section
variable {s : State} {x : RSite} {u : Head} {b : Bool} (hopen : x.st.open' = none) (hunit : rUnit (some u) = true)
include hopen hunit

/-- STEER sends a unit by its predicate (R223). -/
theorem State.stepSteer_unit {p : W64} (hhead : s.rHead x 0 = some u) (hpred : headVal (s.rHead x 1) = some p)
    (hb : steerHolds (rMode x.w) p = b) (hroom : s.rRoom x (if b then 1 else 0) = true) :
    let more := openAfter false (some u)
    let t := s.rStep x { x.st with open' := if more then some b else none } [0, 1] [(if b then 1 else 0, u.toks)]
    s.stepSteer x = some (if more then t else t.carryExit x (if b then 1 else 0)) := by
  simp only [State.stepSteer, hopen, hhead, rTag_of_rUnit hunit, hunit, hpred, hb, hroom]
  rfl

/-- MERGE sends a unit of the input that its selector names (R224). -/
theorem State.stepMerge_selected {p : W64} (hmode : rMode x.w = 1) (haligned : s.rAligned x (rIns x.w) = false)
    (hsel : headVal (s.rHead x 2) = some p) (hb : p.getLsbD 0 = b) (hhead : s.rHead x (if b then 1 else 0) = some u)
    (hroom : s.rRoom x 0 = true) :
    s.stepMerge x = some (s.rStep x
      { x.st with open' := if openAfter false (some u) then some b else none, last := b } [if b then 1 else 0, 2]
      [(0, u.toks)]) := by
  rw [← State.joinUnit_eq hhead hunit hroom]
  simp only [State.stepMerge, hopen, haligned, hmode, hsel, hb]
  rfl

/-- Without a selector the inputs take turns (R224). -/
theorem State.stepMerge_inTurn (hcode : rCode x.w = 2) (hmode : rMode x.w ≠ 1) (hhead : s.rHead x (if b then 1 else 0) = some u)
    (hroom : s.rRoom x 0 = true) (hturn : b = !x.st.last ∨ rUnit (s.rHead x (if !b then 1 else 0)) = false) :
    s.stepMerge x = some (s.rStep x
      { x.st with open' := if openAfter false (some u) then some b else none, last := b } [if b then 1 else 0]
      [(0, u.toks)]) := by
  have haligned := State.rAligned_of_rUnit (mem_rIns_merge hcode b) (hhead ▸ hunit)
  rw [← State.joinUnit_eq hhead hunit hroom]
  simp only [State.stepMerge, hopen, haligned, hmode, Bool.false_eq_true, if_false]
  cases b with
  | false =>
    have h0 : rUnit (s.rHead x 0) = true := hhead ▸ hunit
    cases h1 : rUnit (s.rHead x 1) <;> simp_all
  | true =>
    have h1 : rUnit (s.rHead x 1) = true := hhead ▸ hunit
    cases h0 : rUnit (s.rHead x 0) <;> simp_all

/-- CARRY sends a unit that comes back first (R225, log 39). -/
theorem State.stepCarry_back (hhead : s.rHead x 1 = some u) (hroom : s.rRoom x 0 = true) :
    s.stepCarry x = some (s.rStep x
      { x.st with open' := if openAfter false (some u) then some true else none, last := true } [1] [(0, u.toks)]) := by
  refine Eq.trans ?_ (State.joinUnit_eq (i := true) hhead hunit hroom)
  simp only [State.stepCarry, hopen, hhead, rTag_of_rUnit hunit, hunit]
  rfl

/-- CARRY counts a unit from outside the loop (R225). -/
theorem State.stepCarry_enters (htag : rTag (s.rHead x 1) = false) (hnone : rUnit (s.rHead x 1) = false)
    (hhead : s.rHead x 0 = some u) (hlimit : x.st.occ < rLimit x.w) (hroom : s.rRoom x 0 = true) :
    s.stepCarry x = some (s.rStep x
      { x.st with occ := x.st.occ + 1, open' := if openAfter false (some u) then some false else none, last := false } [0]
      [(0, u.toks)]) := by
  have hjoin := State.joinUnit_eq (i := false) (extra := []) (was := false) (st := { x.st with occ := x.st.occ + 1 }) hhead hunit
    hroom
  simp only [State.stepCarry, hopen, hhead, htag, hnone, rTag_of_rUnit hunit, hunit, hlimit]
  exact hjoin

/-- JOIN sends a unit of i0 once i1's has arrived (R226). -/
theorem State.stepJoin_released (hready : x.st.ready = true) (hhead : s.rHead x 0 = some u) (hroom : s.rRoom x 0 = true) :
    let more := openAfter false (some u)
    s.stepJoin x = some (s.rStep x { x.st with open' := if more then some false else none, ready := more } [0]
      [(0, u.toks)]) := by
  simp only [State.stepJoin, hready, hopen, hhead, hunit, hroom]
  rfl

/-- A unit arrives at i1 of JOIN, and in mode 1 goes out on o1 (R226, log 39). -/
theorem State.stepJoin_arrives (hready : x.st.ready = false) (hhead : s.rHead x 1 = some u)
    (hroom : rMode x.w = 1 → s.rRoom x 1 = true) :
    let more := openAfter false (some u)
    s.stepJoin x = some (s.rStep x { x.st with open' := if more then some true else none, ready := !more } [1]
      (if rMode x.w = 1 then [(1, u.toks)] else [])) := by
  have haligned : s.rAligned x [0, 1] = false := State.rAligned_of_rUnit (i := 1) (by decide) (hhead ▸ hunit)
  have hpass : (rMode x.w != 1 || s.rRoom x 1) = true := by
    by_cases h : rMode x.w = 1 <;> simp [h, hroom]
  simp only [State.stepJoin, hready, hopen, haligned, hhead, hunit, hpass]
  rfl

/-- FORK in mode 0 sends a unit to both outputs (R226). -/
theorem State.stepFork_both (hmode : rMode x.w = 0) (hhead : s.rHead x 0 = some u) (hroom0 : s.rRoom x 0 = true)
    (hroom1 : s.rRoom x 1 = true) :
    s.stepFork x = some (s.rStep x { x.st with open' := if openAfter false (some u) then some false else none } [0]
      [(0, u.toks), (1, u.toks)]) := by
  simp only [State.stepFork, hopen, hmode, hhead, rTag_of_rUnit hunit, hunit, hroom0, hroom1]
  rfl

/-- FORK in mode 1 sends units to its outputs in turn (R226). -/
theorem State.stepFork_inTurn (hmode : rMode x.w ≠ 0) (hhead : s.rHead x 0 = some u) (hb : b = !x.st.last)
    (hroom : s.rRoom x (if b then 1 else 0) = true) :
    s.stepFork x = some (s.rStep x { x.st with open' := if openAfter false (some u) then some b else none, last := b } [0]
      [(if b then 1 else 0, u.toks)]) := by
  subst hb
  simp only [State.stepFork, hopen, hmode, hhead, rTag_of_rUnit hunit, hunit, Option.getD_none, hroom]
  rfl

/-- ORDJ sends the unit with the lower stamp, and drops the stamp with it (R227). -/
theorem State.stepOrdj_lower {v : Head} {ka kb m n : Nat} {la lb : LinkSt} {ms ns : List Nat} (hheada : s.rHead x 0 = some u)
    (hheadb : s.rHead x 1 = some v) (hunitb : rUnit (some v) = true) (hroom : s.rRoom x 0 = true)
    (hlinka : s.rLink x 0 = some (ka, la)) (hlinkb : s.rLink x 1 = some (kb, lb)) (hstampa : la.stamps = m :: ms)
    (hstampb : lb.stamps = n :: ns) :
    (m < n → s.stepOrdj x = some ((s.rStep x
      { x.st with open' := if openAfter false (some u) then some false else none, last := false } [0]
      [(0, u.toks)]).dropStamp ka))
    ∧ (n < m → s.stepOrdj x = some ((s.rStep x
      { x.st with open' := if openAfter false (some v) then some true else none, last := true } [1]
      [(0, v.toks)]).dropStamp kb)) := by
  have haligned : s.rAligned x [0, 1] = false := State.rAligned_of_rUnit (i := 0) (by decide) (hheada ▸ hunit)
  have hjoina := State.joinUnit_eq (i := false) (extra := []) (was := false) (st := x.st) hheada hunit hroom
  have hjoinb := State.joinUnit_eq (i := true) (extra := []) (was := false) (st := x.st) hheadb hunitb hroom
  have hmaya : ordjMay m lb (some v) = decide (m < n) := by
    simp [ordjMay, rTag_of_rUnit hunitb, hunitb, hstampb]
  have hmayb : ordjMay n la (some u) = decide (n < m) := by
    simp [ordjMay, rTag_of_rUnit hunit, hunit, hstampa]
  refine ⟨fun hlt => ?_, fun hlt => ?_⟩
  · simp [State.stepOrdj, hopen, haligned, hlinka, hlinkb, hheada, hheadb, hunit, hstampa, hmaya, hlt, hjoina]
  · simp [State.stepOrdj, hopen, haligned, hlinka, hlinkb, hheada, hheadb, hunit, hunitb, hstampa, hstampb, hmaya, hmayb, hlt,
      Nat.lt_asymm hlt, hjoinb]

end

theorem routersRoute : Claims.RoutersRoute := by
  intro s id x u v p b s1 h more oi err
  refine ⟨fun code t hsite herr i hi => ?_, fun ⟨hsite, herr⟩ hopen hhead hunit hpred hb hroom => ?_,
    fun ⟨hsite, herr⟩ hopen hmode haligned hsel hb hhead hunit hroom => ?_,
    fun ⟨hsite, herr⟩ hopen hmode hhead hunit hroom hturn => ?_, fun ⟨hsite, herr⟩ hopen hhead hunit hroom => ?_,
    fun ⟨hsite, herr⟩ hopen htag hnone hhead hunit hlimit hroom => ?_,
    fun ⟨hsite, herr⟩ hready hopen hhead hunit hroom => ?_, fun ⟨hsite, herr⟩ hready hopen hhead hunit hroom => ?_,
    fun ⟨hsite, herr⟩ hopen hmode hhead hunit hroom0 hroom1 => ?_,
    fun ⟨hsite, herr⟩ hopen hmode hhead hunit hb hroom => ?_,
    fun ⟨hsite, herr⟩ hopen hhead hunit hheadb hunitb hroom ka kb la lb m n ms ns hlinka hlinkb hstampa hstampb => ?_⟩
  · rcases hi with ⟨rfl, rfl⟩ | ⟨rfl, rfl⟩ | ⟨rfl, rfl⟩ | ⟨rfl, rfl⟩ | ⟨rfl, rfl⟩ | ⟨rfl, rfl⟩ <;>
      exact State.route_err hsite herr
  · exact State.route_step hsite herr (State.stepSteer_unit hopen hunit hhead hpred hb hroom)
  · exact State.route_step hsite herr (State.stepMerge_selected hopen hunit hmode haligned hsel hb hhead hroom)
  · exact State.route_step hsite herr (State.stepMerge_inTurn hopen hunit (State.rsite_code hsite) hmode hhead hroom hturn)
  · exact State.route_step hsite herr (State.stepCarry_back hopen hunit hhead hroom)
  · exact State.route_step hsite herr (State.stepCarry_enters hopen hunit htag hnone hhead hlimit hroom)
  · exact State.route_step hsite herr (State.stepJoin_released hopen hunit hready hhead hroom)
  · exact State.route_step hsite herr (State.stepJoin_arrives hopen hunit hready hhead hroom)
  · exact State.route_step hsite herr (State.stepFork_both hopen hunit hmode hhead hroom0 hroom1)
  · exact State.route_step hsite herr (State.stepFork_inTurn hopen hunit hmode hhead hb hroom)
  · obtain ⟨hlower, hhigher⟩ := State.stepOrdj_lower hopen hunit hhead hheadb hunitb hroom hlinka hlinkb hstampa hstampb
    exact ⟨fun hlt => State.route_step hsite herr (hlower hlt), fun hlt => State.route_step hsite herr (hhigher hlt)⟩

/-! ### Idle circuits and typed links (R227, R32) -/

/-- The fault of the stage of a typed link: SITE 4, at the column or router where the link ends (01 R24, log 40). -/
def stageFault (x : Launch) (id : LinkId) (w : LinkW) (cls : FaultClass) (d : W64) : FaultRec :=
  { cls := cls, site := 4, ring := (x.place ((x.stripeFor id.forme).getD 0)).1, slot := lkThread (launchKey id.launch) % 4
    col := w.dstCol, forme := id.forme, detail := d }

section
variable {s s1 : State} {id : LinkId} {x : Launch} {img : Nat} {w : LinkW} {st : LinkSt}
  (hs1 : s.settle (launchKey id.launch) = s1) (hlaunch : s1.launch (launchKey id.launch) = some x)
  (himg : x.img id.forme = some img) (hw : linkW (fLink img id.link) = w)
  (hst : (s1.link (linkKey (launchKey id.launch) id.forme id.link)).deliver = st) (htyped : w.typed = true)
  (hword : id.link < fLinks img) (hactive : s1.lkActive (launchKey id.launch) = true)
include hs1 hlaunch himg hw hst htyped hword hactive

/-- The stage of a typed link only delivers, while it has tokens to deliver or its source has none. -/
theorem execRouterConversion_delivers (h : st.stage.out ≠ [] ∨ headOf [] (st.ready s1.clk.fc) = none) :
    exec (.routerConversion id) s
      = .next ((s1.setLink (linkKey (launchKey id.launch) id.forme id.link) st).settle (launchKey id.launch)) := by
  change execRouterConversion id s = _
  simp only [execRouterConversion, hs1, hlaunch, himg, hw, hst]
  rw [if_neg (by simp [htyped, hword, hactive])]
  by_cases hout : st.stage.out = []
  · rw [if_neg (by simp [hout]), h.resolve_left (not_not_intro hout)]
  · exact if_pos (by simp [hout])

section
variable {h : Head} (hout : st.stage.out = []) (hhead : headOf [] (st.ready s1.clk.fc) = some h)
include hout hhead

/-- When it has delivered all it takes the next source token. -/
theorem execRouterConversion_takes {stage : Stage} {fl : Flags} (htake : stageTake w st.stage h = .ok (stage, fl)) :
    exec (.routerConversion id) s
      = .next (((s1.setLink (linkKey (launchKey id.launch) id.forme id.link)
          ({ st with q := dropHeadL st.q, stage := stage } : LinkSt).deliver).linkFlags (launchKey id.launch) id.forme w
            fl).settle (launchKey id.launch)) := by
  change execRouterConversion id s = _
  simp only [execRouterConversion, hs1, hlaunch, himg, hw, hst]
  rw [if_neg (by simp [htyped, hword, hactive]), if_neg (by simp [hout]), hhead]
  simp only [htake]

/-- A token that fails its check faults at the link (log 40). -/
theorem execRouterConversion_faults {cls : FaultClass} {d : W64} (htake : stageTake w st.stage h = .error (cls, d)) :
    exec (.routerConversion id) s = .next (s1.recordFault x.job (stageFault x id w cls d)) := by
  change execRouterConversion id s = _
  simp only [execRouterConversion, hs1, hlaunch, himg, hw, hst]
  rw [if_neg (by simp [htyped, hword, hactive]), if_neg (by simp [hout]), hhead]
  simp only [htake]
  rfl

end

end

theorem linkResults : Claims.LinkResults := by
  intro s l seg x id img h lk s1 lk' w key st
  refine ⟨fun hlaunch hfc hactive => ?_, fun hlaunch himg htyped hword hactive =>
    ⟨execRouterConversion_delivers rfl hlaunch himg rfl rfl htyped hword hactive, fun hout hhead =>
      ⟨fun _ _ => execRouterConversion_takes rfl hlaunch himg rfl rfl htyped hword hactive hout hhead,
        fun _ _ htake => ⟨_, rfl, rfl, rfl,
          execRouterConversion_faults rfl hlaunch himg rfl rfl htyped hword hactive hout hhead htake⟩⟩⟩⟩
  change execOrdjIdleStamp l seg s = _
  unfold execOrdjIdleStamp
  dsimp only
  rw [hlaunch]
  exact if_pos (by simp [hfc, hactive, lk])

/-- Settles O41: each router by the heads of its inputs, and the stage of a typed link by its source's. -/
theorem routerResults : Obligations.RouterResults := ⟨routersRoute, linkResults⟩

end Sys2Proof.Machine
end

section
/-! PROOFS. Fields packed into an image, and the header of a tile written in link form (01 R13, R17, R28). -/

namespace Sys2Proof

open Machine Claims

/-! ### Packed fields -/

theorem packBits_lt (w : Nat) (vs : List Nat) : packBits w vs < 2 ^ (w * vs.length) := by
  induction vs with
  | nil => simp [packBits]
  | cons v rest ih =>
    have hv : v % 2 ^ w < 2 ^ w := Nat.mod_lt _ (Nat.two_pow_pos w)
    rw [packBits, List.length_cons, Nat.mul_succ, Nat.add_comm (w * _), Nat.pow_add]
    calc v % 2 ^ w + 2 ^ w * packBits w rest
        < 2 ^ w * (packBits w rest + 1) := by rw [Nat.mul_succ]; omega
      _ ≤ 2 ^ w * 2 ^ (w * rest.length) := Nat.mul_le_mul_left _ ih

theorem toNat_ofNat_packBits {w m : Nat} {vs : List Nat} (h : w * vs.length ≤ m) :
    (BitVec.ofNat m (packBits w vs)).toNat = packBits w vs := by
  rw [BitVec.toNat_ofNat]
  exact Nat.mod_eq_of_lt ((packBits_lt w vs).trans_le (Nat.pow_le_pow_right Nat.two_pos h))

theorem packBits_field (w : Nat) (vs : List Nat) (q : Nat) :
    packBits w vs / 2 ^ (w * q) % 2 ^ w = vs.getD q 0 % 2 ^ w := by
  induction vs generalizing q with
  | nil => simp [packBits]
  | cons v rest ih =>
    have hlow : (v % 2 ^ w + 2 ^ w * packBits w rest) / 2 ^ w = packBits w rest := by
      rw [Nat.add_mul_div_left _ _ (Nat.two_pow_pos w), Nat.div_eq_of_lt (Nat.mod_lt _ (Nat.two_pow_pos w)), Nat.zero_add]
    cases q with
    | zero => simp [packBits]
    | succ q => rw [packBits, Nat.mul_succ, Nat.add_comm (w * q), Nat.pow_add, ← Nat.div_div_eq_div_mul, hlow, ih,
        List.getD_cons_succ]

/-! ### Headers from their fields -/

/-- A header's fields are within their places (01 R13). -/
structure Hdr.Fits (x : Hdr) : Prop where
  magic : x.magic < 2 ^ 8
  hver : x.hver < 2 ^ 4
  fmt : x.fmt < 2 ^ 6
  slay : x.slay < 2 ^ 4
  sfmt : x.sfmt < 2 ^ 2
  spar : x.spar < 2 ^ 3
  order : x.order < 2 ^ 2
  planesM1 : x.planesM1 < 2 ^ 3
  cut : x.cut < 2 ^ 3
  rowsM1 : x.rowsM1 < 2 ^ 8
  colsM1 : x.colsM1 < 2 ^ 8
  rstride : x.rstride < 2 ^ 24
  soff : x.soff < 2 ^ 24
  xoff : x.xoff < 2 ^ 24
  doff : x.doff < 2 ^ 16
  tag : x.tag < 2 ^ 16
  seq : x.seq < 2 ^ 16
  ext : x.ext < 2 ^ 32

/-- Fields of given widths, from bit 0 upward. -/
def packFields : List (Nat × Nat) → Nat
  | [] => 0
  | (len, v) :: rest => v % 2 ^ len + 2 ^ len * packFields rest

theorem packFields_field (fs : List (Nat × Nat)) (len v : Nat) (rest : List (Nat × Nat)) :
    packFields (fs ++ (len, v) :: rest) / 2 ^ (fs.map Prod.fst).sum % 2 ^ len = v % 2 ^ len := by
  induction fs with
  | nil => simp [packFields]
  | cons e fs ih =>
    obtain ⟨n, a⟩ := e
    have hlow : (a % 2 ^ n + 2 ^ n * packFields (fs ++ (len, v) :: rest)) / 2 ^ n = packFields (fs ++ (len, v) :: rest) := by
      rw [Nat.add_mul_div_left _ _ (Nat.two_pow_pos n), Nat.div_eq_of_lt (Nat.mod_lt _ (Nat.two_pow_pos n)), Nat.zero_add]
    rw [List.cons_append, packFields, List.map_cons, List.sum_cons, Nat.pow_add, ← Nat.div_div_eq_div_mul, hlow, ih]

/-- The places of the header's fields (01 R13). -/
def Hdr.places (x : Hdr) : List (Nat × Nat) :=
  [(8, x.magic), (4, x.hver), (6, x.fmt), (4, x.slay), (2, x.sfmt), (3, x.spar), (2, x.order), (3, x.planesM1), (3, x.cut),
    (1, 0), (8, x.rowsM1), (8, x.colsM1), (24, x.rstride), (24, x.soff), (24, x.xoff), (16, x.doff), (16, x.tag), (16, x.seq),
    (20, 0), (32, x.ext)]

/-- The widths of the header's fields. -/
def Hdr.widths : List Nat := [8, 4, 6, 4, 2, 3, 2, 3, 3, 1, 8, 8, 24, 24, 24, 16, 16, 16, 20, 32]

theorem Hdr.places_widths (x : Hdr) : x.places.map Prod.fst = Hdr.widths := rfl

theorem Hdr.low_eq_packFields (x : Hdr) : x.low = packFields x.places := by
  simp only [Hdr.low, Hdr.places, packFields]
  omega

theorem hf_toBits (x : Hdr) {lo len : Nat} (h : lo + len ≤ 224) : hf x.toBits lo len = x.low / 2 ^ lo % 2 ^ len := by
  rw [hf_eq, Hdr.toBits, ← Nat.mod_mul_right_div_self, ← Nat.pow_add, withCrc_low _ h, Nat.pow_add, Nat.mod_mul_right_div_self]

/-- The field of a written header behind `i` others. -/
theorem hf_toBits_place (x : Hdr) (i : Nat) {lo len v : Nat} (hp : x.places[i]? = some (len, v)) (hv : v < 2 ^ len)
    (hlo : (Hdr.widths.take i).sum = lo := by decide) (h : lo + len ≤ 224 := by decide) : hf x.toBits lo len = v := by
  have hsplit : x.places = x.places.take i ++ (len, v) :: x.places.drop (i + 1) := by
    obtain ⟨hi, hget⟩ := List.getElem?_eq_some_iff.mp hp
    rw [← hget, ← List.drop_eq_getElem_cons hi, List.take_append_drop]
  rw [hf_toBits x h, Hdr.low_eq_packFields, hsplit, ← hlo, ← x.places_widths, ← List.map_take, packFields_field,
    Nat.mod_eq_of_lt hv]

theorem Hdr.ofBits_toBits {x : Hdr} (hx : x.Fits) : Hdr.ofBits x.toBits = x := by
  cases x
  simp only [Hdr.ofBits, Hdr.mk.injEq]
  exact ⟨hf_toBits_place _ 0 rfl hx.magic, hf_toBits_place _ 1 rfl hx.hver, hf_toBits_place _ 2 rfl hx.fmt,
    hf_toBits_place _ 3 rfl hx.slay, hf_toBits_place _ 4 rfl hx.sfmt, hf_toBits_place _ 5 rfl hx.spar,
    hf_toBits_place _ 6 rfl hx.order, hf_toBits_place _ 7 rfl hx.planesM1, hf_toBits_place _ 8 rfl hx.cut,
    hf_toBits_place _ 10 rfl hx.rowsM1, hf_toBits_place _ 11 rfl hx.colsM1, hf_toBits_place _ 12 rfl hx.rstride,
    hf_toBits_place _ 13 rfl hx.soff, hf_toBits_place _ 14 rfl hx.xoff, hf_toBits_place _ 15 rfl hx.doff,
    hf_toBits_place _ 16 rfl hx.tag, hf_toBits_place _ 17 rfl hx.seq, hf_toBits_place _ 19 rfl hx.ext⟩

end Sys2Proof
end

section
/-! PROOFS. Tiles without scales and sparsity, whose elements follow each other without gaps within a DATA token (01 R16,
R17, R28). -/

namespace Sys2Proof

open Machine Claims

/-! ### Geometry without gaps -/

/-- Stored elements of `w` bits lie one behind the other: lines are whole bytes, or there is one line, in one token. -/
structure Geom.Packed (g : Geom) (w : Nat) : Prop where
  width : g.width = w
  psd : isPsd g.fmt = false
  stored : 0 < g.stored
  fill : (∃ b, (b = 1 ∨ b = 2 ∨ b = 4) ∧ w = 8 * b ∧ g.lineBytes = g.stored * b)
    ∨ (g.lines = 1 ∧ 0 < w ∧ g.stored * w ≤ 8 * g.lineBytes ∧ g.lineBytes < 256)

/-- Elements of a tile of `n` up to the end of DATA token `k`. -/
def tokenEnd (w n k : Nat) : Nat := min n ((k + 1) * perTok w)

theorem add_inToken {w n k : Nat} (hk : k * perTok w < n) : k * perTok w + inToken w n k = tokenEnd w n k := by
  rw [inToken, tokenEnd, Nat.succ_mul]
  omega

theorem mul_inToken_le (w n k : Nat) : w * inToken w n k ≤ 2048 :=
  calc w * inToken w n k ≤ w * (2048 / w) := Nat.mul_le_mul_left _ (Nat.min_le_left ..)
    _ ≤ 2048 := Nat.mul_div_le ..

theorem perTok_mul_of_byte {b : Nat} (hb : b = 1 ∨ b = 2 ∨ b = 4) : perTok (8 * b) * b = 256 := by
  obtain rfl | rfl | rfl := hb <;> rfl

namespace Geom.Packed

variable {g : Geom} {w : Nat} (h : g.Packed w)
include h

theorem width_pos : 0 < w := by
  obtain ⟨b, hb, hw, -⟩ | ⟨-, hw, -⟩ := h.fill <;> omega

/-- A tile in one token has no more elements than a token has room for. -/
theorem stored_le_perTok (hone : g.stored * w ≤ 8 * g.lineBytes) (hlb : g.lineBytes < 256) : g.stored ≤ perTok w :=
  (Nat.le_div_iff_mul_le h.width_pos).mpr (by omega)

/-- Element `e` begins at bit `e * w`. -/
theorem element_bit {e : Nat} (he : e < g.elems) : 8 * (e / g.stored * g.lineBytes) + e % g.stored * w = w * e := by
  obtain ⟨b, -, rfl, hlb⟩ | ⟨hlines, -⟩ := h.fill
  · rw [hlb]
    conv_rhs => rw [← Nat.div_add_mod e g.stored]
    ring
  · rw [Geom.elems, hlines, Nat.one_mul] at he
    rw [Nat.div_eq_of_lt he, Nat.mod_eq_of_lt he]
    ring

/-- The elements before a DATA token fill the tokens before it. -/
theorem token_bit {k : Nat} (hk : k * perTok w < g.elems) : w * (k * perTok w) = 2048 * k := by
  obtain ⟨b, hb, rfl, -⟩ | ⟨hlines, -, hone, hlb⟩ := h.fill
  · calc 8 * b * (k * perTok (8 * b)) = 8 * k * (perTok (8 * b) * b) := by ring
      _ = 2048 * k := by rw [perTok_mul_of_byte hb]; ring
  · have hk0 : k = 0 := by
      have hle := h.stored_le_perTok hone hlb
      rw [Geom.elems, hlines, Nat.one_mul] at hk
      by_contra hne
      have := Nat.le_mul_of_pos_left (perTok w) (Nat.pos_of_ne_zero hne)
      omega
    simp [hk0]

/-- A DATA token that begins before the last element begins within the data. -/
theorem token_lt {k : Nat} (hk : k * perTok w < g.elems) : 256 * k < g.lines * g.lineBytes := by
  have hbit := h.token_bit hk
  obtain ⟨b, hb, rfl, hlb⟩ | ⟨hlines, hw, hone, -⟩ := h.fill
  · have hlt := Nat.mul_lt_mul_of_pos_right hk (show 0 < b by omega)
    have hk : k * perTok (8 * b) * b = 256 * k := by rw [Nat.mul_assoc, perTok_mul_of_byte hb, Nat.mul_comm]
    rwa [hk, Geom.elems, Nat.mul_assoc, ← hlb] at hlt
  · have hpos := Nat.mul_pos h.stored hw
    rw [Geom.elems, hlines, Nat.one_mul] at hk
    have hlt := Nat.mul_lt_mul_of_pos_left hk hw
    rw [hlines]
    rw [hbit, Nat.mul_comm w] at hlt
    omega

/-- What the first `k + 1` DATA tokens hold whole. -/
theorem elemsWithin_tokens {k : Nat} (hk : k * perTok w < g.elems) :
    elemsWithin g g.lineBytes (256 * (k + 1)) = tokenEnd w g.elems k := by
  have hstored := h.stored
  rw [elemsWithin, h.width, if_neg h.width_pos.ne', tokenEnd]
  obtain ⟨b, hb, rfl, hlb⟩ | ⟨hlines, hw, hone, hlb⟩ := h.fill
  · have hb0 : 0 < b := by omega
    have hbytes : 256 * (k + 1) = (k + 1) * perTok (8 * b) * b := by
      rw [Nat.mul_assoc, perTok_mul_of_byte hb, Nat.mul_comm]
    have hmod : (k + 1) * perTok (8 * b) % g.stored * b * 8 / (8 * b) = (k + 1) * perTok (8 * b) % g.stored := by
      rw [Nat.mul_assoc, Nat.mul_comm b]
      exact Nat.mul_div_cancel _ (by omega)
    have hdiv := Nat.div_add_mod' ((k + 1) * perTok (8 * b)) g.stored
    have hlt := Nat.mod_lt ((k + 1) * perTok (8 * b)) hstored
    rw [hlb, if_neg (Nat.mul_pos hstored hb0).ne', hbytes, Nat.mul_div_mul_right _ _ hb0, Nat.mul_mod_mul_right, hmod,
      Nat.min_eq_right hlt.le, hdiv, Geom.elems]
  · have hpos := Nat.mul_pos hstored hw
    have hle := h.stored_le_perTok hone hlb
    have hwhole : g.stored ≤ 256 * (k + 1) / g.lineBytes * g.stored :=
      Nat.le_mul_of_pos_left _ (Nat.div_pos (by omega) (by omega))
    have hroom : g.stored ≤ (k + 1) * perTok w := hle.trans (Nat.le_mul_of_pos_left _ k.succ_pos)
    rw [if_neg (by omega), hlines, Nat.one_mul, Geom.elems, hlines, Nat.one_mul,
      Nat.min_eq_left (Nat.le_add_right_of_le hwhole), Nat.min_eq_left hroom]

/-- The token in which the tile ends holds all its elements. -/
theorem tokenEnd_of_lt {k : Nat} (hlt : g.lines * g.lineBytes < 256 * (k + 1)) : tokenEnd w g.elems k = g.elems := by
  refine Nat.min_eq_left ?_
  obtain ⟨b, hb, rfl, hlb⟩ | ⟨hlines, -, hone, hlb⟩ := h.fill
  · refine Nat.le_of_mul_le_mul_right (c := b) ?_ (by omega)
    rw [Nat.mul_assoc (k + 1), perTok_mul_of_byte hb, Geom.elems, Nat.mul_assoc, ← hlb]
    omega
  · rw [Geom.elems, hlines, Nat.one_mul]
    exact (h.stored_le_perTok hone hlb).trans (Nat.le_mul_of_pos_left _ k.succ_pos)

/-- A whole token is filled by as many elements as it has room for. -/
theorem le_packedBytes_iff {k : Nat} (hle : 256 * (k + 1) ≤ g.lines * g.lineBytes) (e : Nat) :
    256 * (k + 1) ≤ packedBytes g e ↔ tokenEnd w g.elems k ≤ e := by
  obtain ⟨b, hb, rfl, hlb⟩ | ⟨hlines, -, -, hlb⟩ := h.fill
  · have hb0 : 0 < b := by omega
    have hbytes : 256 * (k + 1) = (k + 1) * perTok (8 * b) * b := by
      rw [Nat.mul_assoc, perTok_mul_of_byte hb, Nat.mul_comm]
    have hfull : packedBytes g e = e * b := by
      have hmod : e % g.stored * (8 * b) / 8 = e % g.stored * b := by
        rw [Nat.mul_left_comm]
        exact Nat.mul_div_cancel_left _ (by decide)
      rw [packedBytes, if_neg h.stored.ne', h.width, hlb, hmod, ← Nat.mul_assoc, ← Nat.add_mul, Nat.div_add_mod']
    have hroom : (k + 1) * perTok (8 * b) ≤ g.elems := by
      refine Nat.le_of_mul_le_mul_right (c := b) ?_ hb0
      rwa [← hbytes, Geom.elems, Nat.mul_assoc, ← hlb]
    rw [hfull, hbytes, tokenEnd, Nat.min_eq_right hroom]
    exact Nat.mul_le_mul_right_iff hb0
  · rw [hlines] at hle
    omega

end Geom.Packed

/-! ### Headers of such tiles -/

/-- The header fields of a tile in link form without scales and sparsity. -/
structure Hdr.Dense (x : Hdr) (f : Fmt) (o rows cols : Nat) : Prop where
  fmt : x.fmt = fmtCode f
  slay : x.slay = 0
  spar : x.spar = 0
  order : x.order = o
  rowsEq : x.rowsM1 + 1 = rows
  colsEq : x.colsM1 + 1 = cols
  rowsSmall : rows ≤ 256
  colsSmall : cols ≤ 256
  rstride : x.rstride = (x.linkGeom f).lineBytes

theorem hf_lt (h : Header) (lo len : Nat) : hf h lo len < 2 ^ len := Nat.mod_lt _ (Nat.two_pow_pos len)

theorem Claims.DenseHdr.dense {h : Header} {f : Fmt} {o rows cols : Nat} (hd : DenseHdr h f o rows cols) :
    (Hdr.ofBits h).Dense f o rows cols := by
  obtain ⟨-, hfmt, hslay, hspar, horder, hrows, hcols, hrstride⟩ := hd
  have hr : (Hdr.ofBits h).rowsM1 < 2 ^ 8 := hf_lt ..
  have hc : (Hdr.ofBits h).colsM1 < 2 ^ 8 := hf_lt ..
  exact ⟨hfmt, hslay, hspar, horder, hrows, hcols, by omega, by omega, hrstride⟩

theorem fmtOf_fmtCode (f : Fmt) : fmtOf (fmtCode f) = some f := by cases f <;> rfl

theorem fmtCode_lt (f : Fmt) : fmtCode f < 2 ^ 6 := by cases f <;> decide

theorem isPsd_of_clsPlain {f : Fmt} (hf : clsPlain f = true) : isPsd f = false := by
  revert hf
  cases f <;> decide

/-- An element of a Float or Integer format is one, two or four bytes, or it is K6, INT4 or UINT4. -/
theorem fmtWidth_of_clsPlain {f : Fmt} (hf : clsPlain f = true) :
    f ≠ .k6 ∧ (∃ b, (b = 1 ∨ b = 2 ∨ b = 4) ∧ fmtWidth f = 8 * b) ∨ f = .k6 ∧ fmtWidth f = 6 ∨ f ≠ .k6 ∧ fmtWidth f = 4 := by
  cases f
  case fp32 | int32 => exact .inl ⟨by decide, 4, by decide, rfl⟩
  case fp16 | bf16 | int16 => exact .inl ⟨by decide, 2, by decide, rfl⟩
  case k8 | int8 | uint8 => exact .inl ⟨by decide, 1, by decide, rfl⟩
  case k6 => exact .inr (.inl ⟨rfl, rfl⟩)
  case int4 | uint4 => exact .inr (.inr ⟨by decide, rfl⟩)
  all_goals exact absurd hf (by decide)

namespace Hdr.Dense

variable {x : Hdr} {f : Fmt} {o rows cols : Nat} (hx : x.Dense f o rows cols) (hf : clsPlain f = true)
include hx hf

theorem format : x.format = some f := by
  rw [Hdr.format, hx.fmt, fmtOf_fmtCode]
  cases f
  case any => exact absurd hf (by decide)
  all_goals rfl

omit hx in
theorem linkGeom_eq_geom : x.linkGeom f = x.geom f := by
  rw [Hdr.linkGeom, isPsd_of_clsPlain hf]
  rfl

theorem linkGeom_elems : (x.linkGeom f).elems = rows * cols := by
  rw [linkGeom_eq_geom hf, Geom.elems, Hdr.geom]
  simp only [hx.spar, hx.rowsEq, hx.colsEq]
  by_cases ho : x.order = 1
  · simp [ho, Nat.mul_comm]
  · simp [ho]

/-- No line of such a tile ends within a byte, or it has one line. -/
theorem linkGeom_packed (hone : 8 ≤ fmtWidth f ∨ (if o = 1 then cols else rows) = 1) :
    (x.linkGeom f).Packed (fmtWidth f) := by
  rw [linkGeom_eq_geom hf]
  obtain ⟨hfmt, hslay, hspar, rfl, rfl, rfl, hrows, hcols, -⟩ := hx
  generalize hlen : (if x.order = 1 then x.rowsM1 + 1 else x.colsM1 + 1) = len
  have hlen0 : 0 < len ∧ len ≤ 256 := by split at hlen <;> omega
  refine ⟨rfl, isPsd_of_clsPlain hf, ?_, ?_⟩
  · simp [Hdr.geom, hspar, hlen, hlen0]
  · have hgeom : (x.geom f).stored = len
        ∧ (x.geom f).lineBytes = if f = .k6 then ceilDiv len 4 * 3 else ceilDiv (len * fmtWidth f) 8 := by
      simp [Hdr.geom, hspar, hlen]
    obtain ⟨hstored, hlb⟩ := hgeom
    rw [hstored, hlb]
    have hlines : (x.geom f).lines = if x.order = 1 then x.colsM1 + 1 else x.rowsM1 + 1 := by simp [Hdr.geom]
    obtain ⟨hk6, b, hb, hw⟩ | ⟨hk6, hw⟩ | ⟨hk6, hw⟩ := fmtWidth_of_clsPlain hf
    · refine .inl ⟨b, hb, hw, ?_⟩
      rw [if_neg hk6, hw, ceilDiv]
      obtain rfl | rfl | rfl := hb <;> omega
    all_goals refine .inr ⟨hlines.trans (hone.resolve_left (by omega)), by omega, ?_⟩
    · rw [if_pos hk6, hw, ceilDiv]
      omega
    · rw [if_neg hk6, hw, ceilDiv]
      omega

theorem stored_le : (x.linkGeom f).stored ≤ 256 := by
  have hrows := hx.rowsSmall
  have hcols := hx.colsSmall
  have hstored : (x.geom f).stored = if x.order = 1 then rows else cols := by
    simp [Hdr.geom, hx.spar, hx.rowsEq, hx.colsEq]
  rw [linkGeom_eq_geom hf, hstored]
  split <;> assumption

/-- A DATA token that begins before the last element is one of the tile's. -/
theorem lt_linkTokens (hone : 8 ≤ fmtWidth f ∨ (if o = 1 then cols else rows) = 1) {k : Nat}
    (hk : k * perTok (fmtWidth f) < rows * cols) : k < x.linkTokens (x.linkGeom f) := by
  have hlt := (hx.linkGeom_packed hf hone).token_lt (hx.linkGeom_elems hf ▸ hk)
  have hplanes : 0 < (x.linkGeom f).planes := by
    rw [linkGeom_eq_geom hf]
    exact Nat.succ_pos _
  have hend : (x.linkGeom f).lines * (x.linkGeom f).lineBytes ≤ x.endOf (x.linkGeom f) := by
    have := Nat.le_mul_of_pos_left ((x.linkGeom f).lines * (x.linkGeom f).lineBytes) hplanes
    rw [Hdr.endOf, Geom.dataBytes, hx.rstride, Nat.mul_assoc]
    omega
  rw [Hdr.linkTokens, ceilDiv]
  omega

end Hdr.Dense

end Sys2Proof
end

section
/-! PROOFS. The walk of an element-by-element operation through one DATA token of each of its tiles (09 R232, R235, R237). -/

namespace Sys2Proof.Machine

open Claims

/-! ### A tile at a DATA token -/

/-- The tile at an input, of `n` elements of `w` bits, before its DATA token `k`. -/
structure TileIn.At (t : TileIn) (w n k : Nat) : Prop where
  packed : t.geom.Packed w
  elems : t.geom.elems = n
  rstride : t.x.rstride = t.geom.lineBytes
  img : t.img < 2 ^ (2048 * k)
  got : t.got = k
  more : k < t.n

/-- The result tile, of `n` elements of `w` bits, `k` DATA tokens of which have left, with `e` elements in place. -/
structure TileOut.At (t : TileOut) (w n k e : Nat) : Prop where
  packed : t.geom.Packed w
  elems : t.geom.elems = n
  planes : t.geom.planes = 1
  sent : t.sent = k
  more : k < t.n
  cnt : t.cnt = e

section

variable {t : TileIn} {w n k : Nat} (ht : t.At w n k) (hk : k * perTok w < n)
include ht

theorem TileIn.At.viewOf_data (d : BitVec 2048) : viewOf t (some { tok := .data d }) =
    { t := t, img := t.img + d.toNat * 2 ^ (2048 * k), bytes := 256 * (k + 1)
      masks := boundMasks t (some { tok := .data d }) } := by
  rw [viewOf, headData]
  simp only [ht.got, ht.more, if_true, TileIn.add]

theorem TileIn.At.check12_data (d : BitVec 2048) : check12 (some t) (some { tok := .data d }) = none := by
  simp only [check12]
  exact if_pos (ht.got ▸ ht.more)

include hk

theorem TileIn.At.elemsWithin_eq : elemsWithin t.geom t.x.rstride (256 * (k + 1)) = tokenEnd w n k := by
  obtain rfl := ht.elems
  rw [ht.rstride, ht.packed.elemsWithin_tokens hk]

/-- Element `q` of the token at hand is its lane `q`. -/
theorem TileIn.At.elemCode_eq_lane (d : BitVec 2048) {q : Nat} (hq : q < inToken w n k) :
    elemCode t.geom (t.img + d.toNat * 2 ^ (2048 * k)) t.x.rstride (k * perTok w + q) = lane w d q := by
  have hend := add_inToken hk
  have hlt : k * perTok w + q < t.geom.elems := by
    rw [ht.elems]
    exact (Nat.add_lt_add_left hq _).trans_le (hend.trans_le (Nat.min_le_left ..))
  have hbit : w * (k * perTok w + q) = 2048 * k + w * q := by
    rw [Nat.mul_add, ht.packed.token_bit (ht.elems ▸ hk)]
  have hlow : (t.img + d.toNat * 2 ^ (2048 * k)) / 2 ^ (2048 * k) = d.toNat := by
    rw [Nat.add_mul_div_right _ _ (Nat.two_pow_pos _), Nat.div_eq_of_lt ht.img, Nat.zero_add]
  rw [elemCode, if_neg ht.packed.stored.ne', Geom.codeAt, ht.packed.psd, ht.rstride, Geom.bitOff, ht.packed.width]
  simp only [Nat.zero_add, Nat.zero_mul, Bool.false_eq_true, if_false]
  rw [ht.packed.element_bit hlt, hbit, imgBits, Nat.shiftRight_eq_div_pow, Nat.pow_add, ← Nat.div_div_eq_div_mul, hlow, lane]

end

section

variable {t : TileOut} {w n k e : Nat} (ht : t.At w n k e)
include ht

theorem TileOut.At.put (c : Nat) : (t.put c).At w n k (e + 1) :=
  ⟨ht.packed, ht.elems, ht.planes, ht.sent, ht.more, congrArg (· + 1) ht.cnt⟩

/-- The token being written is complete when the elements of it are in place. -/
theorem TileOut.At.due_iff (hk : k * perTok w < n) (he : e ≤ tokenEnd w n k) : t.due true = true ↔ e = tokenEnd w n k := by
  obtain rfl := ht.elems
  have hdata : t.geom.dataBytes t.geom.lineBytes = t.geom.lines * t.geom.lineBytes := by
    rw [Geom.dataBytes, ht.planes, Nat.one_mul]
  have hfirst : 256 * k / (t.geom.lines * t.geom.lineBytes) = 0 := Nat.div_eq_of_lt (ht.packed.token_lt hk)
  rw [TileOut.due]
  simp only [ht.sent, ht.cnt, ht.more, hdata, hfirst, decide_true, Bool.true_and, Bool.and_true, Nat.zero_mul, Nat.zero_add,
    Nat.sub_zero]
  split
  next hlt => rw [beq_iff_eq, ht.packed.tokenEnd_of_lt hlt]
  next hlt =>
    have hle := Nat.le_of_not_lt hlt
    rw [if_pos hle, decide_eq_true_iff, ht.packed.le_packedBytes_iff hle]
    omega

theorem TileOut.At.puts (cs : List Nat) : (t.puts cs).At w n k (e + cs.length) := by
  induction cs generalizing t e with
  | nil => exact ht
  | cons c cs ih =>
    have hrest := ih (ht.put c)
    rwa [Nat.add_assoc, Nat.add_comm 1] at hrest

/-- The image grows by the codes of further elements. -/
theorem TileOut.At.puts_img (cs : List Nat) (hlen : e + cs.length ≤ n) :
    (t.puts cs).img = t.img + packBits w cs * 2 ^ (w * e) := by
  induction cs generalizing t e with
  | nil => simp [TileOut.puts, packBits]
  | cons c cs ih =>
    rw [List.length_cons] at hlen
    have hput : (t.put c).img = t.img + c % 2 ^ w * 2 ^ (w * e) := by
      have hlt : e < t.geom.elems := ht.elems ▸ (by omega)
      rw [TileOut.put, packedElem, ht.packed.psd, packedBit, if_neg ht.packed.stored.ne', ht.packed.width, ht.cnt]
      simp only [Bool.false_eq_true, if_false]
      rw [Nat.mul_left_comm, ht.packed.element_bit hlt]
    have hrest := ih (ht.put c) (by omega)
    rw [TileOut.puts] at hrest ⊢
    rw [List.foldl_cons, hrest, hput, packBits, Nat.mul_succ, Nat.pow_add]
    ring

/-- A token whose elements are in place leaves. -/
theorem TileOut.At.emitDue_eq (hk : k * perTok w < n) (he : e = tokenEnd w n k) :
    emitDue (some t) true 0 false none = (some { t with sent := t.sent + 1 }, [dataTok t.img k]) := by
  simp only [emitDue]
  rw [if_pos ((ht.due_iff hk he.le).mpr he), ht.sent]
  rfl

end

/-! ### The walk -/

/-- The walk of `ewPlan` through tiles of `n` elements, whose result has the fields `x` and by element the code and flags
of `r`. -/
def lanePlan (x : Hdr) (n : Nat) (r : List (List Nat) → Nat × Flags) : Plan :=
  { outa := some x, units := n
    unit := fun st _ codes _ _ => { st := st, outa := [(r codes).1], flags := (r codes).2 } }

/-- The codes of element `u` of each tile. -/
def codesAt (vs : List View) (u : Nat) : List (List Nat) :=
  vs.map fun v => [elemCode v.t.geom v.img v.t.x.rstride u]

/-- A walk with further elements of the result tile `t` in place, each with its flags. -/
def WalkSt.lanes (W : WalkSt) (t : TileOut) (rs : List (Nat × Flags)) : WalkSt :=
  { W with
    st := { W.st with pos := W.st.pos + rs.length, outa := some (t.puts (rs.map Prod.fst)) }
    flags := rs.foldl (fun a r => orFlags a r.2) W.flags }

theorem WalkSt.lanes_cons (W : WalkSt) (t : TileOut) (r : Nat × Flags) (rs : List (Nat × Flags)) :
    W.lanes t (r :: rs) = (W.lanes t [r]).lanes (t.put r.1) rs := by
  simp [WalkSt.lanes, TileOut.puts, Nat.add_assoc, Nat.add_comm 1]

theorem WalkSt.lanes_nil {W : WalkSt} {t : TileOut} (h : W.st.outa = some t) : W.lanes t [] = W := by
  simp [WalkSt.lanes, TileOut.puts, ← h]

theorem map_range_zip {α β : Type} (l : List α) (f : α → β) :
    (((List.range l.length).zip l).map fun e => f e.2) = l.map f :=
  List.map_map.symm.trans (congrArg (List.map f) (List.map_snd_zip (by simp)))

section

variable {x : Hdr} {n w k : Nat} {r : List (List Nat) → Nat × Flags} {vs : List View} {W : WalkSt} {t : TileOut}
  (hvs : ∀ v ∈ vs, elemsWithin v.t.geom v.t.x.rstride v.bytes = tokenEnd w n k)
  (houta : W.st.outa = some t) (houtb : W.st.outb = none) (ht : t.At w n k W.st.pos) (hk : k * perTok w < n)
include houta ht hk

/-- A walk whose output token is complete goes no further. -/
theorem walkUnits_full (hpos : W.st.pos = tokenEnd w n k) (fuel : Nat) :
    walkUnits (lanePlan x n r) vs true none fuel W = W := by
  cases fuel with
  | zero => rfl
  | succ fuel =>
    have hdue : t.due true = true := (ht.due_iff hk hpos.le).mpr hpos
    simp [walkUnits, houta, hdue]

include hvs houtb

/-- One element of the walk. -/
theorem walkUnits_lane (hpos : W.st.pos < tokenEnd w n k) (fuel : Nat) :
    walkUnits (lanePlan x n r) vs true none (fuel + 1) W
      = walkUnits (lanePlan x n r) vs true none fuel (W.lanes t [r (codesAt vs W.st.pos)]) := by
  have hdue : t.due true = false := Bool.eq_false_iff.mpr fun h => hpos.ne ((ht.due_iff hk hpos.le).mp h)
  have hn : W.st.pos < n := hpos.trans_le (Nat.min_le_left ..)
  have hcodes : ((List.range vs.length).zip vs).map (fun e => [elemCode e.2.t.geom e.2.img e.2.t.x.rstride W.st.pos])
      = codesAt vs W.st.pos := map_range_zip vs fun v => [elemCode v.t.geom v.img v.t.x.rstride W.st.pos]
  rw [walkUnits, if_pos]
  · simp [lanePlan, hcodes, houta, houtb, putOut, WalkSt.lanes]
  · have hhave : ∀ i v, (i, v) ∈ (List.range vs.length).zip vs → W.st.pos < elemsWithin v.t.geom v.t.x.rstride v.bytes :=
      fun i v hv => by rwa [hvs v (List.of_mem_zip hv).2]
    simpa [lanePlan, houta, houtb, hdue, hn] using hhave

/-- The walk goes through the elements of the token at hand. -/
theorem walkUnits_lanes {m fuel : Nat} (hend : W.st.pos + m = tokenEnd w n k) (hfuel : m ≤ fuel) :
    walkUnits (lanePlan x n r) vs true none fuel W
      = W.lanes t ((List.range' W.st.pos m).map fun u => r (codesAt vs u)) := by
  induction m generalizing W t fuel with
  | zero => exact (walkUnits_full houta ht hk hend fuel).trans (WalkSt.lanes_nil houta).symm
  | succ m ih =>
    obtain ⟨fuel, rfl⟩ : ∃ f, fuel = f + 1 := ⟨fuel - 1, by omega⟩
    have hpos : (W.lanes t [r (codesAt vs W.st.pos)]).st.pos = W.st.pos + 1 := rfl
    rw [walkUnits_lane hvs houta houtb ht hk (by omega), ih (W := W.lanes t [r (codesAt vs W.st.pos)]) rfl houtb (ht.put _)
      (by omega) (by omega), hpos, List.range'_succ]
    exact (WalkSt.lanes_cons ..).symm

end

/-! ### A firing -/

/-- What an element sees of its open tiles with a DATA token at each input. -/
def dataViews (is : List Nat) (T : Nat → TileIn) (d : Nat → BitVec 2048) : List View :=
  is.map fun i => viewOf (T i) (some { tok := .data (d i) })

/-- The results for `m` elements of DATA tokens, by the codes of each. -/
def tokenResults (r : List (List Nat) → Nat × Flags) (is : List Nat) (d : Nat → BitVec 2048) (w m : Nat) : List (Nat × Flags) :=
  (List.range m).map fun q => r (is.map fun i => [lane w (d i) q])

@[simp] theorem withSeg_nil (seg : Option W64) : withSeg seg [] = [] := by cases seg <;> rfl

theorem openTiles_eq {st : OpSt} {is : List Nat} {T : Nat → TileIn} (hinp : ∀ i ∈ is, st.inp i = some (T i)) :
    (is.filterMap fun i => (st.inp i).map fun t => (i, t)) = is.map fun i => (i, T i) := by
  rw [← List.filterMap_eq_map]
  exact List.filterMap_congr fun i hi => by rw [hinp i hi]; rfl

section

variable {x : Hdr} {n w k : Nat} {r : List (List Nat) → Nat × Flags} {is : List Nat} {T : Nat → TileIn}
  {d : Nat → BitVec 2048} {st : OpSt} {ins : Ins} {t : TileOut} (hat : ∀ i ∈ is, (T i).At w n k) (hk : k * perTok w < n)
include hat hk

theorem elemsWithin_dataViews {v : View} (hv : v ∈ dataViews is T d) :
    elemsWithin v.t.geom v.t.x.rstride v.bytes = tokenEnd w n k := by
  obtain ⟨i, hi, rfl⟩ := List.mem_map.mp hv
  rw [(hat i hi).viewOf_data, (hat i hi).elemsWithin_eq hk]

theorem codesAt_dataViews {q : Nat} (hq : q < inToken w n k) :
    codesAt (dataViews is T d) (k * perTok w + q) = is.map fun i => [lane w (d i) q] := by
  rw [codesAt, dataViews, List.map_map]
  refine List.map_congr_left fun i hi => ?_
  simp only [Function.comp, (hat i hi).viewOf_data, (hat i hi).elemCode_eq_lane hk (d i) hq]

/-- Every such token is used up at the end of the walk. -/
theorem takenTiles_eq (hget : ∀ i ∈ is, ins.get i = some { tok := .data (d i) }) :
    (((List.range (is.map fun i => (i, T i)).length).zip ((is.map fun i => (i, T i)).zip (dataViews is T d))).filter
      fun e => (headData (ins.get e.2.1.1)).isSome && decide (e.2.1.2.got < e.2.1.2.n)
        && decide (elemsWithin e.2.1.2.geom e.2.1.2.x.rstride e.2.2.bytes ≤ tokenEnd w n k)).map (fun e => e.2.1.1) = is := by
  have hzip : (is.map fun i => (i, T i)).zip (dataViews is T d)
      = is.map fun i => ((i, T i), viewOf (T i) (some { tok := .data (d i) })) := List.zip_map' ..
  have hlen : (is.map fun i => (i, T i)).length
      = (is.map fun i => ((i, T i), viewOf (T i) (some { tok := .data (d i) }))).length := by simp only [List.length_map]
  rw [hzip, hlen, List.filter_eq_self.mpr]
  · rw [map_range_zip _ fun e : (Nat × TileIn) × View => e.1.1, List.map_map]
    exact List.map_id is
  · rintro ⟨j, e⟩ he
    obtain ⟨i, hi, rfl⟩ := List.mem_map.mp (List.of_mem_zip he).2
    have ht := hat i hi
    simp [hget i hi, headData, ht.viewOf_data, ht.elemsWithin_eq hk, ht.got, ht.more]

/-- The walk of a firing ends with its token. -/
theorem walkUnits_dataViews (houta : st.outa = some t) (houtb : st.outb = none) (hpos : st.pos = k * perTok w)
    (ht : t.At w n k (k * perTok w)) : walkUnits (lanePlan x n r) (dataViews is T d) true none (n - st.pos) { st := st }
      = ({ st := st } : WalkSt).lanes t (tokenResults r is d w (inToken w n k)) := by
  have hend := add_inToken hk
  have hle : tokenEnd w n k ≤ n := Nat.min_le_left ..
  have hresults : (List.range' (k * perTok w) (inToken w n k)).map (fun u => r (codesAt (dataViews is T d) u))
      = tokenResults r is d w (inToken w n k) := by
    rw [List.range'_eq_map_range, List.map_map]
    exact List.map_congr_left fun q hq => congrArg r (codesAt_dataViews hat hk (List.mem_range.mp hq))
  rw [walkUnits_lanes (W := { st := st }) (fun v hv => elemsWithin_dataViews hat hk hv) houta houtb (hpos ▸ ht) hk
    (m := inToken w n k) (by change st.pos + _ = _; omega) (by omega)]
  exact congrArg _ (hpos ▸ hresults)

/-- A data firing takes the token of each input and sends the token that its results fill. -/
theorem walkData_fires (hinp : ∀ i ∈ is, st.inp i = some (T i)) (hget : ∀ i ∈ is, ins.get i = some { tok := .data (d i) })
    (hne : is ≠ []) (houta : st.outa = some t) (houtb : st.outb = none) (hseg : st.seg = none)
    (hpos : st.pos = k * perTok w) (ht : t.At w n k (k * perTok w)) :
    ∃ st', walkData (lanePlan x n r) is false false st ins = .fire {
      st := st', take := bitsMask is
      outa := [dataTok (t.puts ((tokenResults r is d w (inToken w n k)).map Prod.fst)).img k]
      flags := (tokenResults r is d w (inToken w n k)).foldl (fun a e => orFlags a e.2) {} } := by
  have hmore : (st.pos == n) = false := beq_false_of_ne (hpos ▸ hk.ne)
  have hwalk := walkUnits_dataViews (x := x) (r := r) (d := d) hat hk houta houtb hpos ht
  have hfull : k * perTok w + ((tokenResults r is d w (inToken w n k)).map Prod.fst).length = tokenEnd w n k := by
    simp only [tokenResults, List.length_map, List.length_range]
    exact add_inToken hk
  -- The names are those of the model's own definition; each value is found before the firing is put together.
  unfold walkData
  extract_lets ts stEnd vs firstWhole whole ctlv W tail used taken masks pa pb st1 ctlTake
  have hts : ts = is.map fun i => (i, T i) := openTiles_eq hinp
  have hvs : vs = dataViews is T d := by
    simp only [vs, hts, dataViews, List.map_map]
    exact List.map_congr_left fun i hi => by simp [hget i hi]
  have hW : W = ({ st := st } : WalkSt).lanes t (tokenResults r is d w (inToken w n k)) := by
    rw [← hwalk, ← hvs]
    rfl
  have hposW : W.st.pos = tokenEnd w n k := by
    rw [hW, ← hfull, List.length_map, ← hpos]
    rfl
  have hwhole : whole = true := rfl
  have htail : tail = 0 := by
    obtain ⟨i, rest, rfl⟩ := List.exists_cons_of_ne_nil hne
    simp only [tail, hvs, dataViews, List.map_cons]
    rfl
  have htaken : taken = is := by
    simp only [taken, used, hts, hvs, hposW]
    exact takenTiles_eq hat hk hget
  have hmasks : masks = [] := by
    simp only [masks, htaken]
    exact List.flatMap_eq_nil_iff.mpr fun i hi => by rw [hget i hi]; rfl
  have hpa : pa = none := by
    simp only [pa, hmasks, hW]
    exact hseg
  have hpb : pb = none := rfl
  have hctl : ctlTake = [] := by
    simp only [ctlTake]
    exact ite_self _
  have houtW : W.st.outa = some (t.puts ((tokenResults r is d w (inToken w n k)).map Prod.fst)) := by rw [hW]; rfl
  have houtbW : W.st.outb = none := by rw [hW]; exact houtb
  have howe : W.owea = [] ∧ W.oweb = [] ∧ W.toks = [] := by rw [hW]; exact ⟨rfl, rfl, rfl⟩
  have hflags : W.flags = (tokenResults r is d w (inToken w n k)).foldl (fun a e => orFlags a e.2) {} := by rw [hW]; rfl
  have hunits : (lanePlan x n r).units = n := rfl
  rw [houtW, houtbW, hwhole, htail, hpa, hpb, htaken, hctl, hflags, hunits, hmore, howe.1, howe.2.1, howe.2.2,
    (ht.puts _).emitDue_eq hk hfull]
  simp [emitDue]

/-- The token that leaves holds the results lane by lane. -/
theorem walkData_lanes (hinp : ∀ i ∈ is, st.inp i = some (T i)) (hget : ∀ i ∈ is, ins.get i = some { tok := .data (d i) })
    (hne : is ≠ []) (houta : st.outa = some t) (houtb : st.outb = none) (hseg : st.seg = none)
    (hpos : st.pos = k * perTok w) (ht : t.At w n k (k * perTok w)) (himg : t.img < 2 ^ (2048 * k)) :
    LanesGo (walkData (lanePlan x n r) is false false st ins) is w (inToken w n k) fun q => r (is.map fun i => [lane w (d i) q])
    := by
  obtain ⟨st', hfire⟩ := walkData_fires (x := x) (r := r) hat hk hinp hget hne houta houtb hseg hpos ht
  generalize hcs : (tokenResults r is d w (inToken w n k)).map Prod.fst = cs at hfire
  have hlen : cs.length = inToken w n k := by simp [← hcs, tokenResults]
  have hroom : k * perTok w + cs.length ≤ n := by
    rw [hlen, add_inToken hk]
    exact Nat.min_le_left ..
  have htok : (t.puts cs).img >>> (2048 * k) = packBits w cs := by
    rw [ht.puts_img cs hroom, ht.packed.token_bit (ht.elems ▸ hk), Nat.shiftRight_eq_div_pow,
      Nat.add_mul_div_right _ _ (Nat.two_pow_pos _), Nat.div_eq_of_lt himg, Nat.zero_add]
  have hnat : (BitVec.ofNat 2048 (packBits w cs)).toNat = packBits w cs :=
    toNat_ofNat_packBits (hlen ▸ mul_inToken_le w n k)
  refine ⟨_, BitVec.ofNat 2048 (packBits w cs), hfire, rfl, ?_, rfl, rfl, rfl, fun q hq => ?_, ?_, rfl⟩
  · simp only [dataTok, htok]
  · rw [lane, hnat, packBits_field, ← hcs]
    simp [tokenResults, hq]
  · rw [hnat, ← hlen]
    exact packBits_lt w cs

end

end Sys2Proof.Machine
end

section
/-! PROOFS. The element-by-element operations of 09, lane by lane (R232, R235, R237, R238, R242). -/

namespace Sys2Proof

open Machine Claims

/-! ### The header of the result (R237) -/

section

variable {x : Hdr} {f g : Fmt} {o rows cols : Nat} (hx : x.Dense f o rows cols) (hg : clsPlain g = true)

/-- The fields of a result's header in link form. -/
def Hdr.resultLink (x : Hdr) (g : Fmt) : Hdr := (resultHdr x g).linkForm ((resultHdr x g).linkGeom g)

theorem fmtPlanes_of_clsPlain (hg : clsPlain g = true) : fmtPlanes g = 1 := by
  revert hg
  cases g <;> decide

theorem Hdr.resultLink_planes (x : Hdr) (hg : clsPlain g = true) : ((x.resultLink g).linkGeom g).planes = 1 := by
  rw [Hdr.Dense.linkGeom_eq_geom hg]
  simp [Hdr.resultLink, Hdr.linkForm, Hdr.geom, resultHdr, fmtPlanes_of_clsPlain hg]

include hx hg

theorem Hdr.Dense.result : (x.resultLink g).Dense g o rows cols where
  fmt := rfl
  slay := rfl
  spar := rfl
  order := by
    simp [Hdr.resultLink, Hdr.linkForm, resultHdr, isPsd_of_clsPlain hg, hx.order]
  rowsEq := hx.rowsEq
  colsEq := hx.colsEq
  rowsSmall := hx.rowsSmall
  colsSmall := hx.colsSmall
  rstride := rfl

end

/-- The header that a result takes on its link. -/
theorem linkHdr_result {h : Header} {f g : Fmt} {o rows cols : Nat} (hx : (Hdr.ofBits h).Dense f o rows cols)
    (ho : o < 2) (hone : 8 ≤ fmtWidth g ∨ (if o = 1 then cols else rows) = 1) (hg : clsPlain g = true) :
    Hdr.ofBits (linkHdr (resultHdr (Hdr.ofBits h) g)) = (Hdr.ofBits h).resultLink g := by
  have hy := hx.result hg
  have hfmt : (resultHdr (Hdr.ofBits h) g).format = some g := hy.format hg
  have hlink : linkHdr (resultHdr (Hdr.ofBits h) g) = ((Hdr.ofBits h).resultLink g).toBits := by
    rw [linkHdr, hfmt]
    rfl
  have hline : ((Hdr.ofBits h).resultLink g).rstride < 2 ^ 24 := by
    have hstored := hy.stored_le hg
    rw [hy.rstride]
    obtain ⟨b, hb, -, hlb⟩ | ⟨-, -, -, hlb⟩ := (hy.linkGeom_packed hg hone).fill
    · obtain rfl | rfl | rfl := hb <;> omega
    · omega
  have hregions : ((Hdr.ofBits h).resultLink g).soff = 0 ∧ ((Hdr.ofBits h).resultLink g).xoff = 0 := by
    simp [Hdr.resultLink, Hdr.linkForm, Hdr.Dense.linkGeom_eq_geom hg, Hdr.geom, resultHdr]
  rw [hlink]
  exact Hdr.ofBits_toBits {
    magic := (by decide : 0xA7 < 2 ^ 8)
    hver := (by decide : 1 < 2 ^ 4)
    fmt := fmtCode_lt g
    slay := Nat.two_pow_pos _
    sfmt := Nat.two_pow_pos _
    spar := Nat.two_pow_pos _
    order := by rw [hy.order]; omega
    planesM1 := (by rw [fmtPlanes_of_clsPlain hg]; decide : fmtPlanes g - 1 < 2 ^ 3)
    cut := Nat.two_pow_pos _
    rowsM1 := hf_lt ..
    colsM1 := hf_lt ..
    rstride := hline
    soff := by rw [hregions.1]; exact Nat.two_pow_pos _
    xoff := by rw [hregions.2]; exact Nat.two_pow_pos _
    doff := Nat.two_pow_pos _
    tag := hf_lt ..
    seq := hf_lt ..
    ext := Nat.two_pow_pos _ }

end Sys2Proof

namespace Sys2Proof.Machine

open Claims

/-! ### Tiles of an element at a DATA token -/

theorem TileIn.at_of_dense {t : TileIn} {f : Fmt} {o rows cols k : Nat} (hx : t.x.Dense f o rows cols)
    (hf : clsPlain f = true) (hone : 8 ≤ fmtWidth f ∨ (if o = 1 then cols else rows) = 1)
    (hk : k * perTok (fmtWidth f) < rows * cols) (himg : t.img < 2 ^ (2048 * k)) (hgot : t.got = k) :
    t.At (fmtWidth f) (rows * cols) k := by
  have hgeom : t.geom = t.x.linkGeom f := by rw [TileIn.geom, TileIn.fmt, hx.format hf]; rfl
  refine ⟨?_, ?_, ?_, himg, hgot, ?_⟩
  · rw [hgeom]; exact hx.linkGeom_packed hf hone
  · rw [hgeom]; exact hx.linkGeom_elems hf
  · rw [hgeom]; exact hx.rstride
  · rw [TileIn.n, hgeom]; exact hx.lt_linkTokens hf hone hk

theorem TileOut.at_of_result {t : TileOut} {h : Header} {f g : Fmt} {o rows cols k e : Nat}
    (hx : (Hdr.ofBits h).Dense f o rows cols) (ho : o < 2) (hone : 8 ≤ fmtWidth g ∨ (if o = 1 then cols else rows) = 1)
    (hg : clsPlain g = true) (hk : k * perTok (fmtWidth g) < rows * cols)
    (hhdr : t.hdr = linkHdr (resultHdr (Hdr.ofBits h) g)) (hsent : t.sent = k) (hcnt : t.cnt = e) :
    t.At (fmtWidth g) (rows * cols) k e := by
  have hy := hx.result hg
  have htx : t.x = (Hdr.ofBits h).resultLink g := by rw [TileOut.x, hhdr, linkHdr_result hx ho hone hg]
  have hgeom : t.geom = ((Hdr.ofBits h).resultLink g).linkGeom g := by rw [TileOut.geom, htx, hy.format hg]; rfl
  refine ⟨?_, ?_, ?_, hsent, ?_, hcnt⟩
  · rw [hgeom]; exact hy.linkGeom_packed hg hone
  · rw [hgeom]; exact hy.linkGeom_elems hg
  · rw [hgeom]; exact Hdr.resultLink_planes _ hg
  · rw [TileOut.n, hgeom, htx]; exact hy.lt_linkTokens hg hone hk

/-- What the registers and heads of an element hold at a DATA token of the tiles named. -/
theorem tiles_of_atToken {is : List Nat} {f g : Fmt} {o rows cols k : Nat} {d : Nat → BitVec 2048} {st : OpSt} {ins : Ins}
    (hat : AtToken is f g o rows cols k d st ins) (hf : clsPlain f = true) :
    ∃ T : Nat → TileIn, (∀ i ∈ is, st.inp i = some (T i)) ∧ (∀ i ∈ is, ins.get i = some { tok := .data (d i) })
      ∧ (∀ i ∈ is, (T i).x.Dense f o rows cols) ∧ ∀ i ∈ is, (T i).At (fmtWidth f) (rows * cols) k := by
  choose! hdr img hd himg hinp hget using hat.inputs
  exact ⟨fun i => { hdr := hdr i, img := img i, got := k }, hinp, hget, fun i hi => (hd i hi).dense,
    fun i hi => TileIn.at_of_dense (hd i hi).dense hf hat.lines.2 hat.more (himg i hi) rfl⟩

theorem result_of_atToken {is : List Nat} {f g : Fmt} {o rows cols k : Nat} {d : Nat → BitVec 2048} {st : OpSt} {ins : Ins}
    (hat : AtToken is f g o rows cols k d st ins) (hg : clsPlain g = true) (hw : fmtWidth g = fmtWidth f) :
    ∃ t : TileOut, st.outa = some t ∧ t.img < 2 ^ (2048 * k)
      ∧ t.At (fmtWidth f) (rows * cols) k (k * perTok (fmtWidth f)) := by
  obtain ⟨hk, ⟨ho, hone⟩, -, ⟨h, img, hdense, -, res, hres, houta⟩, -, -⟩ := hat
  refine ⟨_, houta, hres, ?_⟩
  rw [← hw] at hk hone ⊢
  exact TileOut.at_of_result hdense.dense ho hone hg hk rfl rfl rfl

/-! ### The checks of an element-by-element operation (R234) -/

section

variable {cls : Fmt → Bool} {f : Fmt} {o rows cols : Nat} {xs : List Hdr} (hxs : ∀ x ∈ xs, x.Dense f o rows cols)
  (hf : clsPlain f = true) (hcls : cls f = true) (hne : xs ≠ [])
include hxs hf hcls hne

theorem ewCheck_dense : ewCheck cls xs = none := by
  have h0 : (xs.headD {}).Dense f o rows cols := by
    obtain ⟨x, rest, rfl⟩ := List.exists_cons_of_ne_nil hne
    exact hxs x List.mem_cons_self
  have hmem : ∀ e ∈ (List.range xs.length).zip xs, e.2.Dense f o rows cols := fun e he => hxs e.2 (List.of_mem_zip he).2
  have hclass : ((List.range xs.length).zip xs).find? (fun e => !cls (Hdr.f e.2) || e.2.spar != 0 || e.2.slay != 0) = none := by
    refine List.find?_eq_none.mpr fun e he => ?_
    have hx := hmem e he
    simp [Hdr.f, hx.format hf, hcls, hx.spar, hx.slay]
  have hkind : ((List.range xs.length).zip xs).find?
      (fun e => e.2.fmt != (xs.headD {}).fmt || e.2.order != (xs.headD {}).order) = none := by
    refine List.find?_eq_none.mpr fun e he => ?_
    have hx := hmem e he
    simp only [hx.fmt, hx.order, h0.fmt, h0.order]
    simp
  have hshape : ((List.range xs.length).zip xs).find?
      (fun e => e.2.rowsM1 != (xs.headD {}).rowsM1 || e.2.colsM1 != (xs.headD {}).colsM1) = none := by
    refine List.find?_eq_none.mpr fun e he => ?_
    have hx := hmem e he
    have hrows := hx.rowsEq.trans h0.rowsEq.symm
    have hcols := hx.colsEq.trans h0.colsEq.symm
    simp only [Nat.add_right_cancel hrows, Nat.add_right_cancel hcols]
    simp
  simp only [ewCheck, hclass, hkind, hshape]

theorem ewPlan_dense {out : Fmt → Fmt} (hg : clsPlain (out f) = true) (F : Fmt → List (List Nat) → Nat × Flags) (st : OpSt) :
    ewPlan cls out F st xs = .ok (lanePlan (resultHdr (xs.headD {}) (out f)) (rows * cols) (F f)) := by
  have h0 : (xs.headD {}).Dense f o rows cols := by
    obtain ⟨x, rest, rfl⟩ := List.exists_cons_of_ne_nil hne
    exact hxs x List.mem_cons_self
  have hfmt : Hdr.f (xs.headD {}) = f := by rw [Hdr.f, h0.format hf]; rfl
  have helems : ((xs.headD {}).geom f).elems = rows * cols := by
    rw [← Hdr.Dense.linkGeom_eq_geom hf, h0.linkGeom_elems hf]
  simp only [ewPlan, ewCheck_dense hxs hf hcls hne, hfmt, psdAcross, isPsd_of_clsPlain hg, helems]
  rfl

end

/-! ### The step -/

theorem zero_mem_tiles (c : Cfg) (m : Nat) : 0 ∈ c.tiles m := by simp [Cfg.tiles]

/-- An element-by-element operation whose element result is `F`, at a DATA token of each of its tiles. -/
theorem ewStep_lanes {c : Cfg} {m : Nat} {cls : Fmt → Bool} {out : Fmt → Fmt} {F : Fmt → List (List Nat) → Nat × Flags}
    {f : Fmt} {o rows cols k : Nat} {d : Nat → BitVec 2048} {st : OpSt} {ins : Ins}
    (hf : clsPlain f = true) (hcls : cls f = true) (hg : clsPlain (out f) = true) (hw : fmtWidth (out f) = fmtWidth f)
    (hat : AtToken (c.tiles m) f (out f) o rows cols k d st ins) :
    LanesGo (ewStep c m cls out F st ins) (c.tiles m) (fmtWidth f) (inToken (fmtWidth f) (rows * cols) k)
      fun q => F f ((c.tiles m).map fun i => [lane (fmtWidth f) (d i) q]) := by
  obtain ⟨T, hinp, hget, hdense, hT⟩ := tiles_of_atToken hat hf
  obtain ⟨t, houta, himg, ht⟩ := result_of_atToken hat hg hw
  obtain ⟨houtb, hhold, hseg⟩ := hat.rest
  have hne : c.tiles m ≠ [] := List.ne_nil_of_mem (zero_mem_tiles c m)
  have hcheck : (c.tiles m).findSome? (fun i => check12 (st.inp i) (ins.get i)) = none := by
    refine List.findSome?_eq_none_iff.mpr fun i hi => ?_
    rw [hinp i hi, hget i hi, (hT i hi).check12_data]
  have hopen : (c.tiles m).filterMap st.inp = (c.tiles m).map T := by
    rw [← List.filterMap_eq_map]
    exact List.filterMap_congr hinp
  have hplan := ewPlan_dense (xs := ((c.tiles m).map T).map TileIn.x)
    (List.forall_mem_map.mpr (List.forall_mem_map.mpr hdense)) hf hcls (by simpa using hne) hg F st
  rw [ewStep, walkStep, hcheck]
  simp only [hopen, List.isEmpty_map, List.isEmpty_eq_false_iff.mpr hne, hplan, hhold, Bool.false_eq_true, if_false]
  exact walkData_lanes hT hat.more hinp hget hne houta houtb hseg hat.pos ht himg

/-! ### Operands (R232) -/

/-- Only the low bits of a lane are seen. -/
theorem lanesGo_congr {r : Res} {is : List Nat} {w n : Nat} {g g' : Nat → Nat × Flags} (h : LanesGo r is w n g)
    (hcode : ∀ q, (g q).1 % 2 ^ w = (g' q).1 % 2 ^ w) (hflags : ∀ q, (g q).2 = (g' q).2) : LanesGo r is w n g' := by
  obtain ⟨e, t, hr, htake, houta, houtb, howea, howeb, hlanes, hlt, hfl⟩ := h
  refine ⟨e, t, hr, htake, houta, houtb, howea, howeb, fun q hq => (hlanes q hq).trans (hcode q), hlt, hfl.trans ?_⟩
  simp only [List.foldl_map, hflags]

theorem tiles_eq_tileIns (c : Cfg) {m : Nat} (h1 : 1 ≤ m) (h3 : m ≤ 3) : c.tiles m = tileIns c m := by
  unfold Cfg.tiles tileIns Cfg.scalarB Cfg.scalarC
  generalize (c.mode % 2 == 1) = scalarB
  generalize (c.mode / 2 % 2 == 1) = scalarC
  interval_cases m <;> cases scalarB <;> cases scalarC <;> rfl

theorem mem_tileIns {c : Cfg} {m i : Nat} (hi : i < m) (hB : ¬ (i = 1 ∧ c.mode % 2 = 1)) (hC : ¬ (i = 2 ∧ c.mode / 2 % 2 = 1)) :
    i ∈ tileIns c m := by
  simp only [tileIns, List.mem_filter, List.mem_range]
  refine ⟨hi, ?_⟩
  simp only [Bool.and_eq_true, Bool.not_eq_true', Bool.and_eq_false_iff, beq_eq_false_iff_ne]
  omega

theorem oneCode_tiles {c : Cfg} {m : Nat} {code : Nat → Nat} {i : Nat} (hi : i ∈ c.tiles m) :
    oneCode c m ((c.tiles m).map fun i => [code i]) i = code i := by
  rw [oneCode, List.getD_eq_getElem?_getD, List.getElem?_map, List.getElem?_idxOf hi]
  rfl

/-- Operand `i` of a floating-point operation, by the codes of its tiles. -/
def floatVal (c : Cfg) (f : Fmt) (code : Nat → Nat) (i : Nat) : Val :=
  if i = 1 ∧ c.mode % 2 = 1 then valF32 c.imm32
  else if i = 2 ∧ c.mode / 2 % 2 = 1 then valF32 (c.poolWord c.imm16)
  else decodeElem f 0 (code i)

/-- Operand `i` of an integer operation, by the codes of its tiles. -/
def intVal (c : Cfg) (f : Fmt) (code : Nat → Nat) (i : Nat) : Int :=
  if i = 1 ∧ c.mode % 2 = 1 then signedN 32 c.imm32 else decodeInt f (code i)

theorem operand_eq_floatVal {c : Cfg} {f : Fmt} {m i : Nat} (code : Nat → Nat) (hf : isFloat f = true) (h1 : 1 ≤ m) (h3 : m ≤ 3)
    (hi : i < m) : operand c m f ((c.tiles m).map fun i => [code i]) i = floatVal c f code i := by
  rw [operand, floatVal]
  by_cases hB : i = 1 ∧ c.mode % 2 = 1
  · rw [if_pos (by simp [Cfg.scalarB, hB]), if_pos hB, scalarVal, if_pos hf]
  · rw [if_neg (by simpa [Cfg.scalarB] using hB), if_neg hB]
    by_cases hC : i = 2 ∧ c.mode / 2 % 2 = 1
    · rw [if_pos (by simp [Cfg.scalarC, hC]), if_pos hC, scalarVal, if_pos hf]
    · rw [if_neg (by simpa [Cfg.scalarC] using hC), if_neg hC, oneCode_tiles (tiles_eq_tileIns c h1 h3 ▸ mem_tileIns hi hB hC)]

theorem intOperand_eq_intVal {c : Cfg} {f : Fmt} {i : Nat} (code : Nat → Nat) (hi : i < 2) :
    intOperand c f ((c.tiles 2).map fun i => [code i]) i = intVal c f code i := by
  rw [intOperand, intVal]
  by_cases hB : i = 1 ∧ c.mode % 2 = 1
  · rw [if_pos (by simp [Cfg.scalarB, hB]), if_pos hB]
  · have hmem := mem_tileIns hi hB (by omega)
    rw [if_neg (by simpa [Cfg.scalarB] using hB), if_neg hB,
      oneCode_tiles (tiles_eq_tileIns c (m := 2) (by decide) (by decide) ▸ hmem)]

/-! ### Floating-point operations (R238) -/

section

variable {c : Cfg} {f : Fmt} {o rows cols k : Nat} {d : Nat → BitVec 2048} {st : OpSt} {ins : Ins}

/-- The codes of lane `q` at each input. -/
abbrev laneCodes (f : Fmt) (d : Nat → BitVec 2048) (q : Nat) (i : Nat) : Nat := lane (fmtWidth f) (d i) q

theorem floatStep_lanes {m : Nat} {op : Cfg → List Val → Val × Flags} (h1 : 1 ≤ m) (h3 : m ≤ 3) (hf : isFloat f = true)
    (hg : isFloat (c.outFmt f) = true) (hw : fmtWidth (c.outFmt f) = fmtWidth f)
    (hat : AtToken (tileIns c m) f (c.outFmt f) o rows cols k d st ins) :
    LanesGo (floatStep m op c st ins) (tileIns c m) (fmtWidth f) (inToken (fmtWidth f) (rows * cols) k) fun q =>
      let r := op c ((List.range m).map (floatVal c f (laneCodes f d q)))
      fitV c (c.outFmt f) r.1 r.2 := by
  have hplain : ∀ e, isFloat e = true → clsPlain e = true := fun e he => by rw [clsPlain, clsFloat, he]; rfl
  have hoperands : ∀ q, ((List.range m).map fun i => operand c m f ((c.tiles m).map fun i => [laneCodes f d q i]) i)
      = (List.range m).map (floatVal c f (laneCodes f d q)) := fun q =>
    List.map_congr_left fun i hi => operand_eq_floatVal _ hf h1 h3 (List.mem_range.mp hi)
  rw [← tiles_eq_tileIns c h1 h3] at hat ⊢
  have hgo := ewStep_lanes (F := fun fm codes =>
      let r := op c ((List.range m).map fun i => operand c m fm codes i)
      fitV c (c.outFmt fm) r.1 r.2) (hplain f hf) (cls := clsFloat) hf (hplain _ hg) hw hat
  simp only [← hoperands]
  exact hgo

theorem pickV_eq (larger : Bool) (a b : Val) : pickV larger a b = if isNan a || isNan b then .nan
    else if ltV a b || (!ltV b a && valNeg a) then (if larger then b else a) else if larger then a else b := by
  unfold pickV
  cases ltV a b <;> cases ltV b a <;> cases larger <;> simp

end

theorem floatLanes : Claims.FloatLanes := by
  intro c f o rows cols k d st ins w g x rnd inv go hf hg hw _
  have hgo := fun (m : Nat) (op : Cfg → List Val → Val × Flags) (h1 : 1 ≤ m) (h3 : m ≤ 3) =>
    floatStep_lanes (op := op) (o := o) (rows := rows) (cols := cols) (k := k) (d := d) (st := st) (ins := ins) h1 h3 hf hg hw
  have hpick := fun (larger : Bool) (hat : AtToken (tileIns c 2) f g o rows cols k d st ins) =>
    lanesGo_congr (hgo 2 (fun _ vs => (pickV larger (argV vs 0) (argV vs 1), {})) (by decide) (by decide) hat)
      (fun q => congrArg (fun v => (rnd v {}).1 % 2 ^ w) (pickV_eq larger (x 0 q) (x 1 q)))
      (fun q => congrArg (fun v => (rnd v {}).2) (pickV_eq larger (x 0 q) (x 1 q)))
  exact ⟨hgo 2 _ (by decide) (by decide), hgo 2 _ (by decide) (by decide), hgo 2 _ (by decide) (by decide),
    hgo 3 _ (by decide) (by decide), hpick false, hpick true, hgo 2 _ (by decide) (by decide), hgo 1 _ (by decide) (by decide),
    hgo 1 _ (by decide) (by decide)⟩

/-! ### Integer operations (R242) -/

section

variable {c : Cfg} {f : Fmt} {o rows cols k : Nat} {d : Nat → BitVec 2048} {st : OpSt} {ins : Ins}

theorem intStep_lanes (op : Fmt → Int → Int → Nat × Flags) (hf : clsInt f = true)
    (hat : AtToken (tileIns c 2) f f o rows cols k d st ins) :
    LanesGo (ewStep c 2 clsInt id (fun fm codes => op fm (intOperand c fm codes 0) (intOperand c fm codes 1)) st ins)
      (tileIns c 2) (fmtWidth f) (inToken (fmtWidth f) (rows * cols) k)
      fun q => op f (intVal c f (laneCodes f d q) 0) (intVal c f (laneCodes f d q) 1) := by
  have hplain : clsPlain f = true := by rw [clsPlain, hf, Bool.or_true]
  simp only [← intOperand_eq_intVal (c := c) (f := f) (i := 0) _ (by decide),
    ← intOperand_eq_intVal (c := c) (f := f) (i := 1) _ (by decide)]
  rw [← tiles_eq_tileIns c (by decide) (by decide)] at hat ⊢
  exact ewStep_lanes hplain hf hplain rfl hat

end

theorem integerLanes : Claims.IntegerLanes := by
  intro c f o rows cols k d st ins w x pat sh fit bits go hf hi48
  have hcls : clsInt f = true := by simp [clsInt, hf, hi48]
  have hgo := fun (op : Fmt → Int → Int → Nat × Flags) =>
    intStep_lanes op (c := c) (o := o) (rows := rows) (cols := cols) (k := k) (d := d) (st := st) (ins := ins) hcls
  have hbits := fun (op : Fmt → Int → Nat → Nat → Nat → Nat) (hat : AtToken (tileIns c 2) f f o rows cols k d st ins) =>
    lanesGo_congr (hgo (fun fm a b =>
      (op fm a (wrapN (fmtWidth fm) a) (wrapN (fmtWidth fm) b) (wrapN 6 b) % 2 ^ fmtWidth fm, {})) hat)
      (g' := fun q => (op f (x 0 q) (pat 0 q) (pat 1 q) (sh q), {})) (fun q => Nat.mod_mod ..) fun q => rfl
  refine ⟨fun _ => ⟨hgo fun fm a b => c.fit fm (valOfInt (a + b)), hgo fun fm a b => c.fit fm (valOfInt (a - b)),
    hgo fun fm a b => c.fit fm (valOfInt (a * b)), hgo fun fm a b => (wrapN (fmtWidth fm) (a * b / 2 ^ fmtWidth fm), {}),
    hgo fun fm a b => c.fit fm (valOfInt (a - b).natAbs), hgo fun fm a b => c.fit fm (valOfInt (a * 2 ^ shiftOf b)),
    hbits fun fm _ pa _ s => pa / 2 ^ s, hbits fun fm a _ _ s => wrapN (fmtWidth fm) (a / 2 ^ s),
    hbits fun _ _ pa pb _ => pa &&& pb, hbits fun _ _ pa pb _ => pa ||| pb, hbits fun _ _ pa pb _ => pa ^^^ pb⟩,
    fun hmode hat => ?_⟩
  have hnot : stepVnot c st ins = ewStep { c with mode := 1 } 2 clsInt id
      (fun fm codes => ((2 ^ fmtWidth fm - 1 - wrapN (fmtWidth fm) (intOperand { c with mode := 1 } fm codes 0))
        % 2 ^ fmtWidth fm, {})) st ins := by
    rw [stepVnot, intBitsStep, if_pos rfl, hmode]
    rfl
  rw [hnot]
  exact lanesGo_congr (intStep_lanes (c := { c with mode := 1 })
    (fun fm a _ => ((2 ^ fmtWidth fm - 1 - wrapN (fmtWidth fm) a) % 2 ^ fmtWidth fm, {})) hcls hat)
    (fun q => Nat.mod_mod ..) fun q => rfl

/-- Settles O37: at a DATA token every such operation takes the tokens of its tiles and sends one that holds its result for
each lane, by the walk that they share. -/
theorem laneResults : Obligations.LaneResults := ⟨floatLanes, integerLanes⟩

end Sys2Proof.Machine
end

section
/-! PROOFS. Stream commands and the steps of ports (11 R301-R315, R323, R324, 04 R117): the start of a command said once, then
what each command does as it starts, and what ports do of themselves. -/

namespace Sys2Proof.Machine

open Sys2Proof.Claims

/-! ### The start of a command (R301, R303, R304) -/

section
variable {s : State} {p : PortId} {scop : Nat} {r : PRef} {c : Cmd} {rest : List Cmd}
  {f : State → PRef → Cmd → Option State}

section
variable (hport : s.pref p = some r) (hhead : (s.port r.key).q = c :: rest) (hcode : c.scop = scop)
  (hmay : s.mayStart r c = true)
include hport hhead hcode hmay

/-- After GSTOP the command completes without an effect (07 R194). -/
theorem startCmd_dropped (hstopped : r.l.stopped = true) :
    startCmd scop p s f = .next ((taken s r rest).finish c) := by
  simp only [startCmd, hport, hhead]
  exact (if_neg (by simp [hcode, hmay])).trans (if_pos hstopped)

theorem startCmd_refused (hgoes : r.l.stopped = false) (hcause : s.causeOf r c ≠ 0) :
    startCmd scop p s f = .next (((taken s r rest).refuse r c (s.causeOf r c)).finish c) := by
  simp only [startCmd, hport, hhead]
  exact (if_neg (by simp [hcode, hmay])).trans ((if_neg (by simp [hgoes])).trans (if_pos (by simpa using hcause)))

end

section
variable (h : Starts s p scop r c rest)
include h

/-- A command that passes its checks acts on the machine in which it has left its queue. -/
theorem startCmd_acts {t : State} (hf : f (taken s r rest) r c = some t) : startCmd scop p s f = .next (acted r.lk t) := by
  rw [startCmd_starts f h.port h.head h.code h.may h.goes h.good, ← taken, hf]
  rfl

/-- One that cannot act yet stays in its queue. -/
theorem startCmd_holds (hf : f (taken s r rest) r c = none) : startCmd scop p s f = .next s := by
  rw [startCmd_starts f h.port h.head h.code h.may h.goes h.good, ← taken, hf]

end

end

/-- `i` starts the commands of code `scop`, which make accesses, at port `p` (R307-R311). -/
def IsAccessStart (i : Instr) (p : PortId) (scop : Nat) : Prop :=
  (i = .scLoad p ∧ scop = 1) ∨ (i = .scStore p ∧ scop = 2) ∨ (i = .scGather p ∧ scop = 3) ∨ (i = .scScatter p ∧ scop = 4)
    ∨ (i = .scCopy p ∧ scop = 5) ∨ (i = .scReduce p ∧ scop = 9) ∨ (i = .scFill p ∧ scop = 10) ∨ (i = .scStage p ∧ scop = 11)

theorem exec_eq_startAccess {i : Instr} {p : PortId} {scop : Nat} (h : IsAccessStart i p scop) (s : State) :
    exec i s = startAccess scop p s := by
  rw [IsAccessStart] at h
  casesm* _ ∨ _
  all_goals
    obtain ⟨rfl, rfl⟩ := h
    rfl

/-- `i` starts the commands of code `scop` at port `p`. -/
def IsCommandStart (i : Instr) (p : PortId) (scop : Nat) : Prop :=
  (i = .scLoad p ∧ scop = 1) ∨ (i = .scStore p ∧ scop = 2) ∨ (i = .scGather p ∧ scop = 3) ∨ (i = .scScatter p ∧ scop = 4)
    ∨ (i = .scCopy p ∧ scop = 5) ∨ (i = .scSpad p ∧ scop = 6) ∨ (i = .scOverflow p ∧ scop = 7) ∨ (i = .scPeer p ∧ scop = 8)
    ∨ (i = .scReduce p ∧ scop = 9) ∨ (i = .scFill p ∧ scop = 10) ∨ (i = .scStage p ∧ scop = 11) ∨ (i = .scFence p ∧ scop = 12)
    ∨ (i = .scMark p ∧ scop = 13) ∨ (i = .scClose p ∧ scop = 14) ∨ (i = .scWaitev p ∧ scop = 15) ∨ (i = .scSigev p ∧ scop = 16)

theorem exec_eq_startOf {i : Instr} {p : PortId} {scop : Nat} (h : IsCommandStart i p scop) (s : State) :
    exec i s = startOf scop p s ∧ 1 ≤ scop ∧ scop ≤ 16 := by
  rw [IsCommandStart] at h
  casesm* _ ∨ _
  all_goals
    obtain ⟨rfl, rfl⟩ := h
    exact ⟨rfl, by decide⟩

/-- Every command starts by the same operation, and differs in how it acts. -/
theorem startOf_eq_startCmd {n : Nat} (h : 1 ≤ n ∧ n ≤ 16) (p : PortId) (s : State) :
    ∃ f, startOf n p s = startCmd n p s f := by
  unfold startOf
  split
  case h_1 | h_2 | h_3 | h_4 | h_5 | h_9 | h_10 | h_11 => exact ⟨_, startAccess.eq_1 ..⟩
  case h_17 => grind
  all_goals
    constructor
    rfl

/-- R301-R304: where a command stays, is dropped, or is refused. -/
theorem commandRefused : Claims.CommandRefused := by
  intro s p i scop r c rest hi hport hhead
  obtain ⟨hexec, hcode⟩ := exec_eq_startOf hi s
  obtain ⟨f, hstart⟩ := startOf_eq_startCmd hcode p s
  rw [hexec, hstart]
  exact ⟨startCmd_waits f hport hhead, fun hcode hmay =>
    ⟨startCmd_dropped hport hhead hcode hmay, startCmd_refused hport hhead hcode hmay⟩⟩

/-- Settles O46: the access commands start by one operation, and SC.SPAD binds its region. -/
theorem accessCommandsComplete : Obligations.AccessCommandsComplete := by
  intro s p scop r c rest h
  refine ⟨fun i hi => ?_, ?_⟩
  · rw [exec_eq_startAccess hi, startAccess]
    exact startCmd_acts h rfl
  · rintro rfl
    change execScSpad p s = _
    rw [execScSpad]
    exact startCmd_acts h rfl

/-! ### Commands that act at once (R312-R315, R324) -/

/-- The machine in which the overflow queue of record `lr` is bound to the link that command `c` names, with `n` places in ring
SRAM, and the pages of a record with TIER 1 are asked to tier H (R324, log 50). -/
def State.ovfBound (s : State) (r : PRef) (c : Cmd) (lr : BitVec 512) (n : Nat) : State :=
  let key := linkKey r.lk c.w3 (c.fld 64 6)
  let lo := (lrLow lr).toNat
  let t := s.setLink key { s.link key with ovf := some { cmd := c, base := lo, size := ovfSize lr, places := n } }
  if lrTier lr = 1 then
    { t with ms := t.ms.askMoves c.asid lo (lo + ovfSize lr) 1 .stage c.tag (s.classOf r.l.job) (ovfSize lr / 65536 + 2) }
  else t

/-- The bytes of ring SRAM that the places of an overflow queue take (R324, 17 R429). -/
def LinkW.ovfNeed (w : LinkW) : Nat := roundUp (64 * (if w.plane = 1 then 8 else 256)) 4096

/-- The binding that SC.PEER `c` makes over its link (R315). -/
def State.peerBind (s : State) (c : Cmd) : PeerBind :=
  { cmd := c, link := c.fld 48 4, grant := c.fld 64 16, dir := c.fld 80 1 == 1, chan := (s.peer (c.fld 48 4)).free }

/-- A launch with snapshots that has had a peer bound. -/
def State.peered (s : State) (r : PRef) : State := s.modLaunch r.lk fun l => { l with peered := l.peered || l.snapOn }

/-- The machine in which a binding's open request has gone out (R315, log 57). -/
def State.peerAsked (s : State) (r : PRef) (b : PeerBind) : State :=
  (((s.peered r).setChan b.link b.chan (some { cls := s.classOf r.l.job, dir := b.dir, credit := Config.peerCredits })).tell
    b.link b.chan (.ask b.grant b.dir)).modPort r.key fun q => { q with peer := some b }

section
variable {s : State} {p : PortId} {r : PRef} {c : Cmd} {rest : List Cmd}

section
variable (h : Starts s p 7 r c rest) {w : LinkW} {lr : BitVec 512} {handle : Nat}
  (hlink : (taken s r rest).ovfLink r c = some w) (hlh : c.lh = some (lr, handle))
include h hlink hlh

theorem execScOverflow_fits (hfits : (taken s r rest).poolUsed r.g + w.ovfNeed ≤ launchPool) :
    execScOverflow p s = .next (acted r.lk (((taken s r rest).ovfBound r c lr 64).modLaunch r.lk fun l =>
      { l with sram := tmod 0 l.sram r.g (· + w.ovfNeed) })) := by
  rw [LinkW.ovfNeed] at hfits
  rw [execScOverflow]
  refine startCmd_acts h ?_
  simp only [hlink, hlh, hfits, if_true]
  rfl

/-- Where the launch pool has no room the queue has no places. -/
theorem execScOverflow_full (hfull : launchPool < (taken s r rest).poolUsed r.g + w.ovfNeed) :
    execScOverflow p s = .next (acted r.lk ((taken s r rest).ovfBound r c lr 0)) := by
  have hnofit := Nat.not_le.mpr hfull
  rw [LinkW.ovfNeed] at hnofit
  rw [execScOverflow]
  refine startCmd_acts h ?_
  simp only [hlink, hlh, hnofit, if_false]
  rfl

end

section
variable (h : Starts s p 8 r c rest)
include h

theorem execScPeer_down (hdown : ((taken s r rest).peer (c.fld 48 4)).up = false) :
    execScPeer p s = .next (acted r.lk (((taken s r rest).peered r).peerFault r ((taken s r rest).peerBind c) 3 0)) := by
  rw [execScPeer]
  exact startCmd_acts h (if_neg (by simp [hdown]))

variable (hup : ((taken s r rest).peer (c.fld 48 4)).up = true)
include hup

theorem execScPeer_admitted (hadmits : (taken s r rest).admits (.port r.key) (taken s r rest).wanted
      ((taken s r rest).chargedBy ((taken s r rest).peerAsked r ((taken s r rest).peerBind c))) = true) :
    execScPeer p s
      = .next (acted r.lk (((taken s r rest).peerAsked r ((taken s r rest).peerBind c)).served (.port r.key))) := by
  rw [execScPeer]
  exact startCmd_acts h ((if_pos hup).trans (if_pos hadmits))

/-- A request that the arbiters do not let through has not gone out (04 R116, log 125). -/
theorem execScPeer_refused (hrefused : (taken s r rest).admits (.port r.key) (taken s r rest).wanted
      ((taken s r rest).chargedBy ((taken s r rest).peerAsked r ((taken s r rest).peerBind c))) = false) :
    execScPeer p s = .next s := by
  rw [execScPeer]
  exact startCmd_holds h ((if_pos hup).trans (if_neg (Bool.eq_false_iff.mp hrefused)))

end

section
variable (h : Starts s p 12 r c rest)
include h

theorem execScFence_waits (hopen : ((taken s r rest).port r.key).settled = false) : execScFence p s = .next s := by
  rw [execScFence]
  exact startCmd_holds h (if_neg (Bool.eq_false_iff.mp hopen))

theorem execScFence_settled (hsettled : ((taken s r rest).port r.key).settled = true) :
    execScFence p s = .next (acted r.lk ((if (taken s r rest).isSource r then
      (taken s r rest).reply r noTicket [.ctl .fence (BitVec.ofNat 64 (c.flag 7 3))] else taken s r rest).finish c)) := by
  rw [execScFence]
  exact startCmd_acts h (if_pos hsettled)

end

section
variable (h : Starts s p 13 r c rest)
include h

theorem execScMark_unmarked (hplain : r.l.snapOn = false ∨ (taken s r rest).isSource r = false) :
    execScMark p s = .next (acted r.lk ((taken s r rest).finish c)) := by
  rw [execScMark]
  refine startCmd_acts h (if_neg ?_)
  rcases hplain with hplain | hplain <;> simp [hplain]

/-- With snapshots the command asks for the next marker, and holds a source port until it has gone out (14 R384). -/
theorem execScMark_marks (hsnap : r.l.snapOn = true) (hsource : (taken s r rest).isSource r = true) {l : Launch}
    (hl : ((taken s r rest).request r.lk).launch r.lk = some l) :
    execScMark p s = .next (acted r.lk (((taken s r rest).request r.lk).modPort r.key fun q =>
      { q with cur := some { cmd := c, elem := l.mark } })) := by
  rw [execScMark]
  exact startCmd_acts h ((if_pos (by simp [hsnap, hsource])).trans (congrArg (Option.map _) hl))

end

section
variable (h : Starts s p 14 r c rest) (hport : c.all = false)
include h hport

/-- A load port with no load command left emits EOS as it closes (R313). -/
theorem execScClose_load {g : Cfg} (hspad : ((taken s r rest).port r.key).spad = none)
    (hpeer : ((taken s r rest).port r.key).peer = none) (hag : r.ag = true) (hcfg : r.cfg = some g)
    (hreplies : g.replies = true) (hloads : ((taken s r rest).port r.key).q.any Cmd.loads = false) :
    execScClose p s = .next (acted r.lk (((taken s r rest).reply r noTicket [.ctl .eos 0]).finish c)) := by
  rw [execScClose]
  refine startCmd_acts h ((if_neg (by simp [hport])).trans ?_)
  simp only [hspad, hpeer, hag, hcfg, hreplies, hloads]
  rfl

variable {b : SpBind} (hspad : ((taken s r rest).port r.key).spad = some b)
include hspad

theorem execScClose_held (hheld : b.q ≠ []) : execScClose p s = .next s := by
  rw [execScClose]
  refine startCmd_holds h ((if_neg (by simp [hport])).trans ?_)
  simp only [hspad]
  exact if_neg (by simp [hheld])

theorem execScClose_spad (hempty : b.q = []) (htile : ((taken s r rest).port r.key).tile = none) :
    execScClose p s = .next (acted r.lk
      ((((taken s r rest).modPort r.key fun q => { q with spad := none }).finish b.cmd).finish c)) := by
  rw [execScClose]
  refine startCmd_acts h ((if_neg (by simp [hport])).trans ?_)
  simp only [hspad]
  exact if_pos (by simp [hempty, htile])

end

section
variable (h : Starts s p 15 r c rest)
include h

theorem execScWaitev_waits (hcount : ((taken s r rest).event c.w3).toNat < c.fld 64 48) : execScWaitev p s = .next s := by
  rw [execScWaitev]
  exact startCmd_holds h (if_neg (Nat.not_le.mpr hcount))

theorem execScWaitev_counted (hcount : c.fld 64 48 ≤ ((taken s r rest).event c.w3).toNat) :
    execScWaitev p s = .next (acted r.lk ((taken s r rest).finish c)) := by
  rw [execScWaitev]
  exact startCmd_acts h (if_pos hcount)

end

section
variable (h : Starts s p 16 r c rest) (hport : c.all = false)
include h hport

theorem execScSigev_waits (htrail : ((taken s r rest).port r.key).trail ≠ []) : execScSigev p s = .next s := by
  rw [execScSigev]
  exact startCmd_holds h (if_neg (by simp [hport, htrail]))

theorem execScSigev_signals (htrail : ((taken s r rest).port r.key).trail = [])
    (hspad : ((taken s r rest).port r.key).spad = none) (hpeer : ((taken s r rest).port r.key).peer = none) :
    execScSigev p s = .next (acted r.lk (((taken s r rest).signal c.w3).finish c)) := by
  rw [execScSigev]
  exact startCmd_acts h (if_pos (by simp [hport, htrail, hspad, hpeer]))

end

end

/-- R312-R315: where a command that has passed its checks waits, and SC.PEER over a link that is down. -/
theorem commandsWait : Claims.CommandsWait := by
  intro s p scop r c rest h
  refine ⟨?_, ?_, ?_, ?_, ?_⟩
  · rintro rfl
    exact execScFence_waits h
  · rintro rfl
    exact execScWaitev_waits h
  · rintro rfl hport b
    exact execScClose_held h hport
  · rintro rfl
    exact execScSigev_waits h
  · rintro rfl
    exact execScPeer_down h

/-- R312-R315, R324: what a command that has passed its checks does. -/
theorem commandsComplete : Claims.CommandsComplete := by
  intro s p scop r c rest h
  refine ⟨?_, ?_, ?_, ?_, ?_, ?_, ?_, ?_⟩
  · rintro rfl w lr handle hlink hlh
    exact ⟨execScOverflow_fits h hlink hlh, execScOverflow_full h hlink hlh⟩
  · rintro rfl
    exact execScFence_settled h
  · rintro rfl
    exact ⟨execScMark_unmarked h, fun hsnap hsource l => execScMark_marks h hsnap hsource⟩
  · rintro rfl hport hspad hpeer hag ⟨g, hcfg, hreplies⟩
    exact execScClose_load h hport hspad hpeer hag hcfg hreplies
  · rintro rfl hport b
    exact execScClose_spad h hport
  · rintro rfl
    exact execScWaitev_counted h
  · rintro rfl
    exact execScSigev_signals h
  · rintro rfl hup
    exact ⟨execScPeer_admitted h hup, execScPeer_refused h hup⟩

/-! ### The steps of ports (R305, R306, R117) -/

section
variable {s : State} {ring : Fin 16} {slot : Fin 4} {ticket key : Nat} {c : Cur} {l : Launch}
  (hfound : s.fab.ports.findSome? (fun e => (e.2.ending.find? fun c =>
    c.cmd.thread == 4 * ring.val + slot.val && c.cmd.ticket == ticket).map fun c => (e.1, c)) = some (key, c))
  (hl : s.launch (key / 2 ^ 20) = some l)
include hfound hl

theorem execCommandComplete_open (hopen : s.complete l (s.port key) c = false) :
    execCommandComplete ring slot ticket s = .next s := by
  simp only [execCommandComplete, hfound, hl]
  exact if_neg (Bool.eq_false_iff.mp hopen)

theorem execCommandComplete_done (hdone : s.complete l (s.port key) c = true) :
    let other := fun (x : Cur) => x.cmd.ticket != ticket || x.cmd.thread != 4 * ring.val + slot.val
    execCommandComplete ring slot ticket s = .next ((s.setPort key { s.port key with
      cur := (s.port key).cur.filter other, trail := (s.port key).trail.filter other }).finish c.cmd) := by
  simp only [execCommandComplete, hfound, hl]
  refine (if_pos hdone).trans ?_
  simp only [Bool.not_and, bne]

end

/-- What a port does next: at one bound to a peer a token crosses, at another the accesses of one stream element are
performed (R306). -/
def State.portStep (s : State) (r : PRef) : State :=
  match (s.port r.key).peer with
  | some b => if (s.port r.key).sealed then s else s.peerStep r b
  | none => s.access r

theorem State.portStep_access {s : State} {r : PRef} (h : (s.port r.key).peer = none) : s.portStep r = s.access r := by
  rw [State.portStep, h]

theorem State.portStep_peer {s : State} {r : PRef} {b : PeerBind} (h : (s.port r.key).peer = some b)
    (hopen : (s.port r.key).sealed = false) : s.portStep r = s.peerStep r b := by
  simp only [State.portStep, h, hopen, Bool.false_eq_true, if_false]

@[simp] theorem State.chargedBy_self (s : State) : s.chargedBy s = [] := State.chargedBy_append (List.append_nil _).symm

theorem State.admits_nil (s : State) (who : Asker) (waiting : List Charge) : s.admits who waiting [] = true := rfl

/-- Where a requester does not stand in the line, serving it changes nothing. -/
theorem State.served_of_absent {s : State} {who : Asker} (h : ∀ w, w ∈ s.bd.line → w.who ≠ who) : s.served who = s := by
  have hline : (s.bd.line.filter fun w => w.who != who) = s.bd.line :=
    List.filter_eq_self.mpr fun w hw => by simpa using h w hw
  rw [State.served, hline]

theorem State.acted_self (s : State) (lk : Nat) : s.acted lk s = .next s := if_pos rfl

theorem State.acted_of_ne {s t : State} (lk : Nat) (h : t ≠ s) : s.acted lk t = .next (Claims.acted lk t) :=
  if_neg h

section
variable {s : State} {p : PortId} {r : PRef} (hport : s.pref p = some r)
include hport

theorem execPortAccess_still (h : s.lkActive r.lk = false ∨ r.scNode = true) : execPortAccess p s = .next s := by
  simp only [execPortAccess, hport]
  refine if_neg ?_
  rcases h with h | h <;> simp [h]

theorem execRateWindow_ends (hrate : r.l.rate.getLsbD 32 = true) (hwin : (s.port r.key).win ≠ s.rateWin r.l) :
    execRateWindow p s
      = .next ((s.modPort r.key fun q => { q with win := s.rateWin r.l, admitted := 0 }).settle r.lk) := by
  simp only [execRateWindow, hport]
  exact if_pos (by simp [hrate, hwin])

variable (hactive : s.lkActive r.lk = true) (hsc : r.scNode = false)
include hactive hsc

/-- The port's next step, if the arbiters let it through; else it waits in their line (04 R116, log 125). -/
theorem execPortAccess_eq : execPortAccess p s
    = if s.admits (.port r.key) s.wanted (s.chargedBy (s.portStep r)) = true then
        s.acted r.lk ((s.portStep r).served (.port r.key))
      else .next (s.waitsFor (.port r.key) (s.chargedBy (s.portStep r))) := by
  simp only [execPortAccess, hport]
  exact if_pos (by simp [hactive, hsc])

theorem execPortAccess_acts (hadmits : s.admits (.port r.key) s.wanted (s.chargedBy (s.portStep r)) = true)
    (hne : (s.portStep r).served (.port r.key) ≠ s) :
    execPortAccess p s = .next (acted r.lk ((s.portStep r).served (.port r.key))) := by
  rw [execPortAccess_eq hport hactive hsc, if_pos hadmits, State.acted_of_ne _ hne]

theorem execPortAccess_waits (hrefused : s.admits (.port r.key) s.wanted (s.chargedBy (s.portStep r)) = false) :
    execPortAccess p s = .next (s.waitsFor (.port r.key) (s.chargedBy (s.portStep r))) := by
  rw [execPortAccess_eq hport hactive hsc, if_neg (Bool.eq_false_iff.mp hrefused)]

theorem execPortAccess_idle (hidle : s.portStep r = s) (hline : ∀ w, w ∈ s.bd.line → w.who ≠ .port r.key) :
    execPortAccess p s = .next s := by
  rw [execPortAccess_eq hport hactive hsc, hidle, State.chargedBy_self, if_pos (State.admits_nil ..),
    State.served_of_absent hline, State.acted_self]

end

/-- R305, R306: where commands and ports wait. -/
theorem portsWait : Claims.PortsWait := by
  intro s ring slot ticket key c l p r k
  refine ⟨execCommandComplete_open, execPortAccess_still, fun hport hactive hsc hpeer => ?_⟩
  rw [← State.portStep_access hpeer]
  exact ⟨execPortAccess_idle hport hactive hsc, execPortAccess_waits hport hactive hsc⟩

/-- R305, R306, R117: what ports do of themselves. -/
theorem portsComplete : Claims.PortsComplete := by
  intro s ring slot ticket key c l p r k other
  refine ⟨execCommandComplete_done, fun hport hactive hsc => ⟨fun hpeer => ?_, fun b hpeer hopen => ?_⟩, execRateWindow_ends⟩
  · rw [← State.portStep_access hpeer]
    exact execPortAccess_acts hport hactive hsc
  · rw [← State.portStep_peer hpeer hopen]
    exact execPortAccess_acts hport hactive hsc

/-- Settles O45: commands that are refused, commands that wait, and ports that wait. -/
theorem commandResults : Obligations.CommandResults := ⟨commandRefused, commandsWait, portsWait⟩

/-- Settles O47: each command by what it does as it starts, and each port by its next step. -/
theorem otherCommandsComplete : Obligations.OtherCommandsComplete := ⟨commandsComplete, portsComplete⟩

end Sys2Proof.Machine
end

section
/-! PROOFS. The AG elements (11 R307-R309, R316-R318, R323, R306): what an element that may fire does with the replies of its
port, with its inputs, and with the scratchpad region that is bound to it. -/

namespace Sys2Proof.Machine

open Sys2Proof.Claims

/-- An AG element that may fire does what its operation says. -/
theorem agSite_of_agFree {s : State} {id : ElemId} {op : Nat} {x : Site} (h : AgFree (moved s id.launch) id op x)
    (f : State → Site → State) : agSite op id s f = .next (f (moved s id.launch) x) := by
  simp only [agSite, h.site]
  exact if_pos (by simp [h.op, h.may, h.noErr])

/-! ### Replies (R307, R317, R318) -/

theorem headTag_some (h : Head) : headTag (some h) = h.tok.tag := by
  obtain ⟨segs, tok⟩ := h
  cases tok <;> rfl

section
variable {s : State} {x : Site} {h : Head} (hhead : (s.port x.port).replyHead = some h)
  (hmay : s.mayEmit x (s.port x.port) (some h) = true) (hmark : h.tok.tag ≠ some .mark)
include hhead hmark

/-- A reply that is no marker goes out on o0 with its SEG masks. -/
theorem State.emitReply_eq_agFired : s.emitReply x = s.agFired x 0 fun a =>
    ((a.setPort x.port { s.delivered x.l x.k (s.port x.port) h.toks with
        reply := (s.port x.port).reply.drop (h.segs.length + 1) }).countIn x.lk h.toks).sendOut x.lk x.l x.k x.c 0 h.toks := by
  simp only [State.emitReply, hhead]
  exact if_neg (by simpa using hmark)

include hmay

/-- A source that owes no marker emits the head of its reply stream. -/
theorem State.agEmit_eq_emitReply (howes : x.l.owesMark (s.port x.port) = false) : s.agEmit x = s.emitReply x := by
  simp only [State.agEmit, hhead]
  refine (if_pos (by simp [hmay])).trans ((if_neg (by simp [howes])).trans (if_neg ?_))
  simpa [headTag_some] using hmark

end

/-- A gather without a token on A emits. -/
theorem execAggat_emits {s : State} {id : ElemId} {x : Site} (h : AgFree (moved s id.launch) id 0x72 x)
    (hfsw : headTag ((moved s id.launch).port x.port).replyHead ≠ some .fsw)
    (hnone : (moved s id.launch).inHead x 0 = none) : execAggat id s = .next ((moved s id.launch).agEmit x) := by
  rw [execAggat, agSite_of_agFree h]
  refine congrArg _ ((if_neg (by simpa using hfsw)).trans ?_)
  rw [hnone]
  cases ((moved s id.launch).port x.port).cur <;> rfl

/-- A gather at work that needs an index takes the token on A. -/
theorem execAggat_takes {s : State} {id : ElemId} {x : Site} {v : W64} {c : Cur} (h : AgFree (moved s id.launch) id 0x72 x)
    (hfsw : headTag ((moved s id.launch).port x.port).replyHead ≠ some .fsw)
    (hin : (moved s id.launch).inHead x 0 = some { tok := .ctl .data v })
    (hcur : ((moved s id.launch).port x.port).cur = some c) (hscop : c.cmd.scop = 3)
    (hindex : ((moved s id.launch).port x.port).index = none) (hloaded : c.loaded = false) (hfreeze : c.freeze = none)
    (hsealed : ((moved s id.launch).port x.port).sealed = false)
    (hstop : ((moved s id.launch).port x.port).atStop c = false) :
    execAggat id s = agFires (moved s id.launch) x 1 fun a => a.modPort x.port fun q => { q with index := some v.toNat } := by
  rw [execAggat, agSite_of_agFree h]
  refine congrArg _ ((if_neg (by simpa using hfsw)).trans ?_)
  simp only [hin, hcur, headVal]
  exact if_pos (by simp [hscop, hindex, hloaded, hfreeze, hsealed, hstop])

/-! ### Stores (R308, R309, R317) -/

/-- AGST and AGRED store by the same step. -/
theorem exec_eq_agStore {s : State} {i : Instr} {id : ElemId} {op : Nat} {x : Site} (h : AgFree (moved s id.launch) id op x)
    (hi : (i = .agst id ∧ op = 0x71) ∨ (i = .agred id ∧ op = 0x74)) :
    exec i s = .next ((moved s id.launch).agStore x) := by
  rcases hi with ⟨rfl, rfl⟩ | ⟨rfl, rfl⟩
  · exact agSite_of_agFree h fun s x => s.agStore x
  · exact agSite_of_agFree h fun s x => s.agStore x

/-- Only a MARK, a FENCE or an FSW can stand inside a tile where it fails check 12 (01 R30). -/
theorem State.strayTag_eq_false {s : State} {x : Site}
    (h : ∀ t, headTag (s.inHead x 0) = some t → t ≠ .mark ∧ t ≠ .fence ∧ t ≠ .fsw) : s.strayTag x = false := by
  unfold State.strayTag
  split
  · next t ht => simp [h t ht]
  · simp

theorem State.strayTag_of_tagHead {s : State} {x : Site} (h : tagHead (s.inHead x 0) = false) : s.strayTag x = false := by
  refine State.strayTag_eq_false fun t ht => ?_
  rw [tagHead, ht] at h
  cases t <;> simp_all [Tag.aligned]

theorem State.strayTag_of_storeHead {s : State} {x : Site} (hop : x.cfg.op = 0x71 ∨ x.cfg.op = 0x74)
    (h : storeHead x.cfg (s.inHead x 0) = true) : s.strayTag x = false := by
  refine State.strayTag_eq_false fun t ht => ?_
  have hown : agOwnTag x.cfg t = (t == .eor || t == .eos) := by rcases hop with hop | hop <;> simp [agOwnTag, hop]
  rw [storeHead, ht] at h
  cases t <;> simp_all [Tag.aligned]

/-- A store element whose port has told of every tile written takes the head of its input. -/
theorem State.agStore_takes {s : State} {x : Site} {h : Head} (hop : x.cfg.op = 0x71 ∨ x.cfg.op = 0x74)
    (hreply : (s.port x.port).reply = []) (hin : s.inHead x 0 = some h) (hstore : storeHead x.cfg (some h) = true)
    (htakes : s.storeTakes (s.siteRef x) h = true) :
    s.agStore x = s.agFired { x with e := eosMark x.e (some h) 1 } 1 fun a => a.storeTok (s.siteRef x) h none := by
  have hstray := State.strayTag_of_storeHead hop (hin ▸ hstore)
  simp only [State.agStore, hreply, hstray, hin]
  exact (if_neg (by simp)).trans ((if_neg (by simp)).trans (if_pos (by simp [hstore, htakes])))

section
variable {s : State} {x : Site} {t : Nat × Tok} (hreply : (s.port x.port).reply = t :: (s.port x.port).reply.drop 1)
include hreply

theorem State.emitWritten_emits (hroom : s.roomOf x 0 = true) (hrate : s.rateOk x.l (s.port x.port) = true) :
    s.emitWritten x = s.agFired x 0 fun a =>
      (a.setPort x.port { s.rated x.l (s.port x.port) 1 with reply := (s.port x.port).reply.drop 1 }).sendOut x.lk x.l x.k x.c 0
        [t.2] := by
  have htold : ((s.port x.port).reply.take 1).map (fun r => r.2) = [t.2] := by rw [hreply]; rfl
  simp only [State.emitWritten, htold]
  exact if_pos (by simp [hroom, hrate])

/-- A store element first tells of the tiles written. -/
theorem State.agStore_tells : s.agStore x = s.emitWritten x := by
  simp only [State.agStore]
  exact if_pos (by rw [hreply]; rfl)

end

section
variable {s : State} {id : ElemId} {x : Site} (hfree : AgFree (moved s id.launch) id 0x73 x)
include hfree

theorem execAgsct_tells {t : Nat × Tok}
    (hreply : ((moved s id.launch).port x.port).reply = t :: ((moved s id.launch).port x.port).reply.drop 1) :
    execAgsct id s = .next ((moved s id.launch).emitWritten x) := by
  rw [execAgsct, agSite_of_agFree hfree]
  exact congrArg _ (if_pos (by rw [hreply]; rfl))

variable {h : Head} (hreply : ((moved s id.launch).port x.port).reply = []) (hstopped : x.l.stopped = false)
  (hsealed : ((moved s id.launch).port x.port).sealed = false) (hin : (moved s id.launch).inHead x 0 = some h)
  (htagA : tagHead (some h) = false) (htagB : tagHead ((moved s id.launch).inHead x 1) = false)
  (htakes : (moved s id.launch).storeTakes ((moved s id.launch).siteRef x) h = true)
include hreply hstopped hsealed hin htagA htagB htakes

theorem execAgsct_token (heot : headEot (some h) = false) : execAgsct id s
    = agFires (moved s id.launch) x 1 fun a => a.storeTok ((moved s id.launch).siteRef x) h none := by
  have hstray := State.strayTag_of_tagHead (hin ▸ htagA)
  rw [execAgsct, agSite_of_agFree hfree]
  simp [hreply, hstray, hstopped, hsealed, hin, htagA, htagB, htakes, heot]

/-- The index goes with the EOT of its tile. -/
theorem execAgsct_eot {v : W64} (heot : headEot (some h) = true)
    (hval : headVal ((moved s id.launch).inHead x 1) = some v) : execAgsct id s
    = agFires (moved s id.launch) x 3 fun a => a.storeTok ((moved s id.launch).siteRef x) h (some v.toNat) := by
  have hstray := State.strayTag_of_tagHead (hin ▸ htagA)
  rw [execAgsct, agSite_of_agFree hfree]
  simp [hreply, hstray, hstopped, hsealed, hin, htagA, htagB, htakes, heot, hval]

end

/-- R307-R309, R317, R318: the elements of loads, gathers, stores, reductions and scatters. -/
theorem agPortsMove : Claims.AgPortsMove := by
  intro s id op x h s1 p r hfree
  have hop := hfree.op
  refine ⟨fun hld hhead hmay howes hmark hin i hi => ?_,
    fun hga v c hin hcur hscop hindex hloaded hfreeze hsealed hstop hfsw => ?_,
    fun hst hreply hin hstore htakes i hi => ?_, fun hsc hreply hstopped hsealed hin htagA htagB htakes => ?_,
    fun t hreply hroom hrate i hi => ?_⟩
  · have hemit := (State.agEmit_eq_emitReply hhead (hhead ▸ hmay) hmark howes).trans (State.emitReply_eq_agFired hhead hmark)
    rcases hi with ⟨rfl, rfl⟩ | ⟨rfl, rfl⟩
    · exact (agSite_of_agFree hfree fun s x => s.agEmit x).trans (congrArg _ hemit)
    · have hfsw : headTag p.replyHead ≠ some .fsw := by
        rw [hhead]
        simp only [State.mayEmit, Bool.and_eq_true, bne_iff_ne] at hmay
        obtain ⟨⟨⟨⟨-, hfsw⟩, -⟩, -⟩, -⟩ := hmay
        exact hfsw
      exact (execAggat_emits hfree hfsw hin).trans (congrArg _ hemit)
  · subst hga
    exact execAggat_takes hfree hfsw hin hcur hscop hindex hloaded hfreeze hsealed hstop
  · exact (exec_eq_agStore hfree hi).trans (congrArg _ (State.agStore_takes (hop ▸ hst) hreply hin hstore htakes))
  · subst hsc
    exact ⟨execAgsct_token hfree hreply hstopped hsealed hin htagA htagB htakes,
      fun v => execAgsct_eot hfree hreply hstopped hsealed hin htagA htagB htakes⟩
  · have htold := State.emitWritten_emits hreply hroom hrate
    have hstores := (State.agStore_tells hreply).trans htold
    rcases hi with hst | ⟨rfl, rfl⟩ | hred
    · exact (exec_eq_agStore hfree (.inl hst)).trans (congrArg _ hstores)
    · exact (execAgsct_tells hfree hreply).trans (congrArg _ htold)
    · exact (exec_eq_agStore hfree (.inr hred)).trans (congrArg _ hstores)

/-! ### The scratchpad element (R323, R306) -/

/-- With SC = 1 the element accesses the scratchpad only in a visit of the sequencing token (R306). -/
theorem execAgspad_ordered {s : State} {id : ElemId} {x : Site} (h : AgFree (moved s id.launch) id 0x75 x)
    (hsc : x.cfg.sc = true) (haccess : (moved s id.launch).spadAccess x = true) :
    execAgspad id s = .next (moved s id.launch) := by
  rw [execAgspad, agSite_of_agFree h]
  exact congrArg _ (if_pos (by simp [hsc, haccess]))

theorem execAgspad_steps {s : State} {id : ElemId} {x : Site} (h : AgFree (moved s id.launch) id 0x75 x)
    (hfree : x.cfg.sc = false ∨ (moved s id.launch).spadAccess x = false) :
    execAgspad id s = .next ((moved s id.launch).spadStep x) := by
  rw [execAgspad, agSite_of_agFree h]
  refine congrArg _ (if_neg ?_)
  rcases hfree with hfree | hfree <;> simp [hfree]

theorem State.spadStep_unbound {s : State} {x : Site} (h : (s.port x.port).spad = none) : s.spadStep x = s := by
  rw [State.spadStep, h]

section
variable {s : State} {x : Site} {b : SpBind} (hspad : (s.port x.port).spad = some b)
include hspad

theorem State.spadStep_fifo (hmode : x.cfg.mode = 0) : s.spadStep x = s.spadFifo x b := by
  simp only [State.spadStep, hspad, hmode]

theorem State.spadStep_write (hmode : x.cfg.mode = 1) : s.spadStep x = s.spadWrite x b := by
  simp only [State.spadStep, hspad, hmode]

theorem State.spadStep_read (hmode : 2 ≤ x.cfg.mode) : s.spadStep x = s.spadRead x b := by
  simp only [State.spadStep, hspad]
  split
  case h_3 => rfl
  all_goals omega

end

/-- The head of a FIFO region's buffer sent, with the payload of its granules (R21, R30, log 42). -/
def State.spadOut (s : State) (x : Site) (b : SpBind) (h : Head) (a : State) : State :=
  ((a.setSpad x.port { b with q := dropHead b.q }).spadRated x).sendOut x.lk x.l x.k x.c 0
    (s.spFifoGet (s.siteRef x) b ((b.next + b.splen - fifoGran b.q % b.splen) % b.splen) h.toks)

theorem State.spadFifo_sends {s : State} {x : Site} {b : SpBind} {h : Head} (hhead : headOf [] b.q = some h)
    (hroom : s.roomOf x 0 = true) (hrate : s.rateOk x.l (s.port x.port) = true) :
    s.spadFifo x b
      = if h.tok.tag = some .mark then s.agPassed x (s.spadOut x b h) else s.agFired x 0 (s.spadOut x b h) := by
  simp only [State.spadFifo, hhead]
  refine (if_pos (by simp [hroom, hrate])).trans ?_
  simp only [beq_iff_eq]
  rfl

/-- The tokens of `h` written behind those that a FIFO region holds, with the tile that is then open. -/
def State.spadIn (s : State) (x : Site) (b : SpBind) (h : Head) (tile : Option TileIn) (a : State) : State :=
  ((a.spFifoPut (s.siteRef x) b b.next h.toks).setSpad x.port
    { b with q := b.q ++ h.toks, next := (b.next + fifoGran h.toks) % b.splen }).modPort x.port fun q => { q with tile := tile }

section
variable {s : State} {x : Site} {b : SpBind} {h : Head} (hhead : headOf [] b.q = none) (hin : s.inHead x 0 = some h)
  (htag : h.tok.tag ≠ some .fsw ∧ h.tok.tag ≠ some .err ∧ h.tok.tag ≠ some .mark)
  (hdata : ((x.l.linkTo x.k x.c 0).any fun (_, _, w) => w.plane == 0) = true)
  (hfits : fifoGran b.q + fifoGran h.toks ≤ b.splen)
include hhead hin htag hdata hfits

theorem State.spadFifo_takes {tile : Option TileIn} (htile : spadTile (s.port x.port).tile h.tok = .ok tile) :
    s.spadFifo x b = s.agFired { x with e := eosMark x.e (some h) 1 } 1 (s.spadIn x b h tile) := by
  obtain ⟨hfsw, herr, hmark⟩ := htag
  simp only [State.spadFifo, hhead, State.spadTake, hin]
  refine (if_neg (by simp [hfsw, herr, hfits])).trans ?_
  simp only [hdata, if_true, htile]
  split
  · next v hv => exact absurd (by rw [hv]; rfl) hmark
  · rfl

theorem State.spadFifo_fails {cls : FaultClass} {d : W64} (htile : spadTile (s.port x.port).tile h.tok = .error (cls, d)) :
    s.spadFifo x b = s.portFail (s.siteRef x) cls d 0 := by
  obtain ⟨hfsw, herr, -⟩ := htag
  simp only [State.spadFifo, hhead, State.spadTake, hin]
  refine (if_neg (by simp [hfsw, herr, hfits])).trans ?_
  simp only [hdata, if_true, htile]
  rfl

end

section
variable {s : State} {x : Site} {b : SpBind} {h : Head} {t : TileIn} (hin : s.inHead x 0 = some h)
  (htile : (s.port x.port).tile = some t)
include hin htile

theorem State.spadWrite_data {d : BitVec 2048} (htok : h.tok = .data d) (hmore : t.got < t.n) :
    s.spadWrite x b = s.agFired x 1 fun a => a.modPort x.port fun q => { q with tile := some (t.add d) } := by
  simp [State.spadWrite, hin, htile, htok, Tok.tag, spadTile, hmore]

/-- With its EOT a tile is written, and the next goes to the next slot. -/
theorem State.spadWrite_eot {v : W64} (htok : h.tok = .ctl .eot v) (hall : t.got = t.n) (hfits : eotFits t v = true) :
    s.spadWrite x b = s.agFired x 1 fun a =>
      (a.spPut (s.siteRef x) (32 * (b.spoff + b.next * b.tsize)) (linkTile t.hdr t.img).toMem).modPort x.port fun q =>
        { q with tile := none, spad := some { b with next := (b.next + 1) % (b.splen / b.tsize) } } := by
  simp [State.spadWrite, hin, htile, htok, Tok.tag, spadTile, hall, hfits]

end

/-- The tile of the slot that a control value names is owed (log 118). -/
theorem State.spadRead_reads {s s2 : State} {x : Site} {b : SpBind} {v : W64} {t : MTile} (howe : x.e.owea = [])
    (hval : headVal (s.inHead x 0) = some v) (hslot : v.toNat < b.splen / b.tsize)
    (hread : s.tileInSpad (s.siteRef x) (32 * (b.spoff + v.toNat * b.tsize)) (b.tsize * 32) 0x3F false = (s2, .ok t)) :
    s.spadRead x b = s2.agFired
      { x with e := { x.e with owea := tileToks (t.toLink t.x.seq).1 (t.toLink t.x.seq).2 } } 1 fun a => a := by
  simp only [State.spadRead, howe, hval, hread]
  exact (if_neg (by simp)).trans (if_neg (Nat.not_le.mpr hslot))

/-- R323, R21, R30, R306: the scratchpad element in each of its modes. -/
theorem agspadResults : Claims.AgspadResults := by
  intro s id x h s1 p r hfree
  refine ⟨execAgspad_ordered hfree, fun hspad => ?_, fun b hspad hsc => ?_⟩
  · by_cases hguard : x.cfg.sc = true ∧ s1.spadAccess x = true
    · obtain ⟨hsc, haccess⟩ := hguard
      exact execAgspad_ordered hfree hsc haccess
    · refine (execAgspad_steps hfree ?_).trans (congrArg _ (State.spadStep_unbound hspad))
      simpa [imp_iff_not_or] using hguard
  · have hstep : exec (.agspad id) s = .next (s1.spadStep x) := execAgspad_steps hfree hsc
    rw [hstep]
    refine ⟨fun hmode hhead hroom hrate => ?_, fun hmode hhead hin htag hdata hfits => ?_,
      fun hmode d t htok hin htile hmore => ?_, fun hmode v t htok hin htile hall hfits => ?_,
      fun hmode howe v s2 t hval hslot hread => ?_⟩
    · have hsends := State.spadFifo_sends hhead hroom hrate
      rw [State.spadStep_fifo hspad hmode, hsends]
      exact ⟨fun hmark => congrArg _ (if_neg hmark), fun hmark => congrArg _ (if_pos hmark)⟩
    · rw [State.spadStep_fifo hspad hmode]
      exact ⟨fun tile htile => congrArg _ (State.spadFifo_takes hhead hin htag hdata hfits htile),
        fun cls d htile => congrArg _ (State.spadFifo_fails hhead hin htag hdata hfits htile)⟩
    · rw [State.spadStep_write hspad hmode]
      exact congrArg _ (State.spadWrite_data hin htile htok hmore)
    · rw [State.spadStep_write hspad hmode]
      exact congrArg _ (State.spadWrite_eot hin htile htok hall hfits)
    · rw [State.spadStep_read hspad hmode]
      exact congrArg _ (State.spadRead_reads howe hval hslot hread)

/-- Settles O39: AG elements between their ports and their links, and the scratchpad element. -/
theorem agResults : Obligations.AgResults := ⟨agPortsMove, agspadResults⟩

end Sys2Proof.Machine
end

section
/-! PROOFS. Translation faults and moves (12 R339-R357, 04 R115, R116). What each step of the walks, the fault queues, the
Traverse engines and the periods does where it completes, and where it waits, is refused or aborts. -/

namespace Sys2Proof.Machine

open Sys2Proof.Claims

/-! ### Dies -/

@[simp] theorem MemSys.die_modDie_same (ms : MemSys) (d : Nat) (f : Die → Die) : (ms.modDie d f).die d = f (ms.die d) :=
  tget_tset_same ..

/-! ### Walks and fault queues (R339-R344) -/

section
variable {s : State} {die : Fin 4} {asid fid : BitVec 16} {va v : W64} {k : AccessKind} {o : OpenFault}

/-- A translation that a slice holds and that serves an access of the kind. -/
def TlbEntry.serves (e : TlbEntry) (p : TlbPlace) (asid va : Nat) (k : AccessKind) : Bool :=
  e.holds p asid va && (!needsD k || pteD e.leaf.toNat)

theorem TlbEntry.serves_iff {e : TlbEntry} {p : TlbPlace} {asid va : Nat} :
    e.serves p asid va k = true ↔ e.holds p asid va = true ∧ (needsD k = false ∨ pteD e.leaf.toNat = true) := by
  simp [TlbEntry.serves]

/-- WALK finds nothing to do where a translation serves the access (R339). -/
theorem execWalk_served (h : ∃ e, e ∈ s.ms.tlb ∧
    e.serves (.slice die.val (sliceOf asid.toNat va.toNat)) asid.toNat va.toNat k = true) :
    execWalk die asid va k s = .next s := by
  rw [execWalk]
  split
  · rfl
  · exact if_pos (List.any_eq_true.mpr h)

theorem execWalk_walks (hhigh : highVa va = false) (hdev : inDevice va = false)
    (h : ∀ e, e ∈ s.ms.tlb → e.serves (.slice die.val (sliceOf asid.toNat va.toNat)) asid.toNat va.toNat k = false) :
    execWalk die asid va k s
      = .next { s with ms := (s.ms.walkSlice die.val asid.toNat va.toNat k (needsD k)).1 } := by
  have hnone : ¬ (s.ms.tlb.any fun e =>
      e.serves (.slice die.val (sliceOf asid.toNat va.toNat)) asid.toNat va.toNat k) = true := by
    simpa using h
  exact (if_neg (by simp [hhigh, hdev])).trans (if_neg hnone)

theorem MRing.hasRoom_eq_false {r : MRing} (h : r.base.getLsbD 4 = false
    ∨ (r.tail.toNat + 2 ^ 32 - r.head.toNat) % 2 ^ 32 ≥ 2 ^ (r.base.toNat % 2 ^ 4 + 6)) : r.hasRoom = false := by
  rw [MRing.hasRoom, MRing.en, MRing.held, MRing.count, fieldN_eq, pow_zero, Nat.div_one]
  rcases h with h | h
  · rw [h, Bool.false_and]
  · rw [decide_eq_false (Nat.not_lt.mpr h), Bool.and_false]

/-- A ring without room leaves what waits for it. -/
theorem MemSys.drainTo_noRoom (ms : MemSys) {r : MRing} (item : List Byte) (m : Msix) (h : r.hasRoom = false) :
    (ms.drainTo r [item] m).2.2 = [item] := by
  simp [MemSys.drainTo, ringDrain, h]

theorem execXfqPost_allPosted (h : ∀ o, o ∈ (s.ms.die die.val).opens → o.posted = true) : execXfqPost die s = .next s := by
  have hnone : ((s.ms.die die.val).opens.find? fun o => !o.posted) = none := List.find?_eq_none.mpr (by simpa using h)
  simp only [execXfqPost, hnone]

theorem execXfqPost_noRoom (h : (s.ms.die die.val).xfq.hasRoom = false) : execXfqPost die s = .next s := by
  cases hfind : (s.ms.die die.val).opens.find? fun o => !o.posted with
  | none => simp only [execXfqPost, hfind]
  | some o =>
    have hrest := s.ms.drainTo_noRoom (bytesLE 32 o.bits.toNat) (.xfq die.val) h
    simp only [execXfqPost, hfind, hrest]
    rfl

theorem execXfqPost_posts (hfind : ((s.ms.die die.val).opens.find? fun x => !x.posted) = some o) {ms : MemSys} {r : MRing}
    (hdrain : s.ms.drainTo (s.ms.die die.val).xfq [bytesLE 32 o.bits.toNat] (.xfq die.val) = (ms, r, [])) :
    execXfqPost die s = .next { s with ms := ms.modDie die.val fun y => { y with
      xfq := r, opens := y.opens.map fun x => if x.fid == o.fid then { x with posted := true } else x } } := by
  unfold execXfqPost
  extract_lets d
  split
  · next hnone => exact absurd (hnone.symm.trans hfind) nofun
  · next o' hsome =>
    obtain rfl : o' = o := Option.some.inj (hsome.symm.trans hfind)
    rw [show s.ms.drainTo d.xfq [bytesLE 32 o'.bits.toNat] (.xfq die.val) = (ms, r, []) from hdrain]
    exact if_pos rfl

theorem State.answer_closed {n fid : Nat} (f : State → OpenFault → Waiter → State)
    (h : ((s.ms.die n).opens.find? fun x => x.fid == fid) = none) : s.answer n fid f = s := by
  simp only [State.answer, h]

theorem State.answer_open {n fid : Nat} (f : State → OpenFault → Waiter → State)
    (h : ((s.ms.die n).opens.find? fun x => x.fid == fid) = some o) :
    s.answer n fid f = o.waiters.foldl (fun (a : State) w => (f a o w).stirWaiter w)
      { s with ms := s.ms.modDie n fun d => { d with opens := d.opens.filter fun x => x.fid != fid } } := by
  simp only [State.answer, h]

/-! ### Requests written to TRVREQ (R347) -/

theorem execTraverseRequest_noTier (h : v.toNat / 2 ^ 56 % 4 = 0) : execTraverseRequest die v s = .next s :=
  if_pos ((fieldN_eq v 56 2).trans h)

/-- The request that a word written to TRVREQ makes. -/
def trvRequest (v : W64) : MoveReq :=
  { asid := v.toNat / 2 ^ 40 % 65536, va := v.toNat % 2 ^ 40 * 65536, dtier := v.toNat / 2 ^ 56 % 4, origin := .trvreq }

theorem execTraverseRequest_asks (h : v.toNat / 2 ^ 56 % 4 ≠ 0) :
    execTraverseRequest die v s = .next { s with ms := s.ms.ask die.val (trvRequest v) } := by
  simp only [execTraverseRequest, fieldN_eq, pow_zero, Nat.div_one]
  exact if_neg h

/-! ### Periods (R355, R115) -/

theorem execAgingPeriod_early (h : s.time / 100000 ≤ (s.ms.die die.val).aged) : execAgingPeriod die s = .next s := if_pos h

/-- The requests that the policy of a die makes at the end of a period (R357). -/
def State.policyAsks (s : State) (d : Nat) : List MoveReq := if s.ms.tpol.getLsbD 0 then s.policy d else []

/-- A slice entry as its die's aging leaves it. -/
def TlbEntry.aged (d : Nat) (e : TlbEntry) : TlbEntry :=
  match e.place with
  | .slice d' _ => if d' == d then { e with cnt := e.cnt / 2 } else e
  | _ => e

/-- Memory after the aging of a die, with the requests of its policy. -/
def MemSys.agedBy (ms : MemSys) (d : Nat) (reqs : List MoveReq) : MemSys :=
  { ms.modDie d fun y => { y with reqs := y.reqs ++ reqs, aged := y.aged + 1 } with tlb := ms.tlb.map (TlbEntry.aged d) }

theorem MemSys.die_agedBy (ms : MemSys) (d : Nat) (reqs : List MoveReq) :
    (ms.agedBy d reqs).die d = { ms.die d with reqs := (ms.die d).reqs ++ reqs, aged := (ms.die d).aged + 1 } :=
  ms.die_modDie_same d fun y => { y with reqs := y.reqs ++ reqs, aged := y.aged + 1 }

theorem execAgingPeriod_ages (h : (s.ms.die die.val).aged < s.time / 100000) :
    execAgingPeriod die s = .next { s with ms := s.ms.agedBy die.val (s.policyAsks die.val) } :=
  if_neg (Nat.not_le.mpr h)

theorem execBudgetPeriod_early (h : s.time / 50000 ≤ s.bd.periods) : execBudgetPeriod s = .next s := if_pos h

/-- USED of every class and resource in the period that ends. -/
def State.usedTable (s : State) (n : Nat) : Tab Nat := (List.range n).foldl (fun (t : Tab Nat) i => tset 0 t i (s.usedNow i)) []

theorem State.tget_usedTable {n i : Nat} (hi : i < n) : tget 0 (s.usedTable n) i = s.usedNow i := by
  induction n with
  | zero => exact absurd hi (Nat.not_lt_zero i)
  | succ n ih =>
    have hsucc : s.usedTable (n + 1) = tset 0 (s.usedTable n) n (s.usedNow n) := by
      simp [State.usedTable, List.range_succ]
    rw [hsucc]
    by_cases hlast : i = n
    · rw [hlast, tget_tset_same]
    · rw [tget_tset_ne _ _ _ _ _ hlast, ih (by omega)]

/-- The machine as a budget period begins, with the USED of the one before, before the requests that waited are made again. -/
def State.recharged (s : State) (used : Tab Nat) : State :=
  { s with free := s.free + 256, charges := [], bd := { s.bd with used := used, periods := s.bd.periods + 1 } }

theorem State.used_recharged (used : Tab Nat) : (s.recharged used).bd.used = used := rfl

theorem State.recharged_keeps (used : Tab Nat) : (s.recharged used).ms = s.ms ∧ (s.recharged used).fab = s.fab
    ∧ (s.recharged used).bd.line = s.bd.line :=
  ⟨rfl, rfl, rfl⟩

theorem execBudgetPeriod_begins (h : s.bd.periods < s.time / 50000) :
    execBudgetPeriod s = .next (s.recharged (s.usedTable 256)).newPeriod :=
  if_neg (Nat.not_le.mpr h)

/-- Where no request waits, a new period makes none again. -/
theorem State.newPeriod_of_line_nil (h : s.bd.line = []) : s.newPeriod = s := by
  simp only [State.newPeriod, h, List.filter_nil, List.foldl_nil]
  rw [← h]

end

/-! ### Requests that MOVE_START takes (R347, R348, R353) -/

theorem findSome?_range_first {α : Type} {f : Nat → Option α} {n d : Nat} {a : α} (hd : d < n) (hfound : f d = some a)
    (hfirst : ∀ d', d' < d → f d' = none) : (List.range n).findSome? f = some a := by
  obtain ⟨k, rfl⟩ : ∃ k, n = d + (k + 1) := ⟨n - d - 1, by omega⟩
  have hbefore : (List.range d).findSome? f = none :=
    List.findSome?_eq_none_iff.mpr fun d' hd' => hfirst d' (List.mem_range.mp hd')
  rw [List.range_add, List.findSome?_append, hbefore, List.range_succ_eq_map]
  simp [hfound]

section
variable {s : State} {pg : PageId} {d : Nat} {r : MoveReq} {x : Walked}

theorem execMoveStart_takes (h : Takes s pg d r) : execMoveStart pg s = .next (s.startMove d r) := by
  have hpage : (r.asid == pg.asid.toNat && r.va / 65536 == pg.va.toNat / 65536) = true := by simpa using h.page
  simp only [execMoveStart, h.none']
  rw [findSome?_range_first h.die (a := (d, r))]
  · simp [h.next, hpage, h.here, h.room]
  · intro d' hd'
    cases hr : s.ms.nextReq d' with
    | none => rfl
    | some r' =>
      rcases h.first d' hd' r' hr with hne | hne <;> simp [hne]

/-- The machine after a die's engine has taken a request out of its queue. -/
def State.reqTaken (s : State) (d : Nat) (r : MoveReq) : State :=
  { s with ms := s.ms.modDie d fun y => { y with reqs := y.reqs.erase r } }

/-- The pool of free frames that a request of a page is served from (R341). -/
def State.poolFor (s : State) (d : Nat) (r : MoveReq) (x : Walked) : MRing :=
  ((s.reqTaken d r).ms.die d).pools.getD (poolIndex r.dtier x.size) {}

/-- The move that begins with a request, to a frame (R348). -/
def State.newMove (s : State) (r : MoveReq) (x : Walked) (f : Nat) : Move :=
  { asid := r.asid, va := r.va / 2 ^ x.size * 2 ^ x.size, size := x.size, src := pteAddr x.leaf, dst := f, dtier := r.dtier
    p0 := BitVec.ofNat 64 x.leaf, leafPa := x.entry, origin := r.origin, tag := r.tag, cls := r.cls, startFs := s.clk.fs
    advFs := s.clk.fs }

/-- A die's engine begins the move, with the frame pool as the taking of a frame leaves it. -/
def State.moveBegun (s : State) (d : Nat) (r : MoveReq) (x : Walked) (pool : MRing) (f : Nat) : State :=
  { s.reqTaken d r with ms :=
    { (s.reqTaken d r).ms.modDie d fun y => { y with pools := y.pools.set (poolIndex r.dtier x.size) pool } with
      moves := s.ms.moves ++ [s.newMove r x f] } }

theorem State.rejectMove_unwalked {t : State} (cause : Nat) (w : XReason) : t.rejectMove d r cause (.error w)
    = if r.origin = .trvreq then
        { t with ms := t.ms.postEvent d (trvRecord 3 cause r.asid 0 r.dtier false r.origin 0 r.va t.time) }
      else t := by
  simp [State.rejectMove]

theorem State.rejectMove_walked {t : State} (cause : Nat) (x : Walked) : t.rejectMove d r cause (.ok x)
    = if r.origin = .trvreq then
        { t with ms := t.ms.postEvent d (trvRecord 3 cause r.asid (pteTier x.leaf) r.dtier (x.size == 21) r.origin 0
          (r.va / 2 ^ x.size * 2 ^ x.size) t.time) }
      else t := by
  simp [State.rejectMove]

theorem State.startMove_unwalked {w : XReason} (hwalk : (s.reqTaken d r).ms.walk r.asid r.va = .error w) :
    s.startMove d r = (s.reqTaken d r).rejectMove d r 9 (.error w) := by
  unfold State.startMove
  extract_lets s1 walked
  rw [show walked = .error w from hwalk]
  rfl

section
variable (hwalk : (s.reqTaken d r).ms.walk r.asid r.va = .ok x)
include hwalk

/-- A request for a page of another die passes to that die (log 61). -/
theorem State.startMove_passes (hhome : (s.reqTaken d r).ms.homeOf x.leaf ≠ d) :
    s.startMove d r = { s.reqTaken d r with
      ms := (s.reqTaken d r).ms.modDie ((s.reqTaken d r).ms.homeOf x.leaf) fun y => { y with reqs := y.reqs ++ [r] } } := by
  unfold State.startMove
  extract_lets s1 walked
  rw [show walked = .ok x from hwalk]
  exact if_pos (bne_iff_ne.mpr hhome)

variable (hhome : (s.reqTaken d r).ms.homeOf x.leaf = d)
include hhome

theorem State.startMove_refused {cause : Nat} (hcause : (s.reqTaken d r).moveRefusal x r.asid r.va r.dtier = cause)
    (hne : cause ≠ 0) : s.startMove d r = (s.reqTaken d r).rejectMove d r cause (.ok x) := by
  subst hcause
  unfold State.startMove
  extract_lets s1 walked
  rw [show walked = .ok x from hwalk]
  exact (if_neg fun h => bne_iff_ne.mp h hhome).trans (if_pos (bne_iff_ne.mpr hne))

theorem State.startMove_begins (hcause : (s.reqTaken d r).moveRefusal x r.asid r.va r.dtier = 0) {pool : MRing} {f : Nat}
    (hframe : takeFrame (s.reqTaken d r).ms (s.reqTaken d r).inSafe r.dtier x.size ((s.poolFor d r x).held + 1)
      (s.poolFor d r x) = (pool, some f)) :
    s.startMove d r = s.moveBegun d r x pool f := by
  unfold State.startMove
  extract_lets s1 walked
  rw [show walked = .ok x from hwalk]
  refine (if_neg fun h => bne_iff_ne.mp h hhome).trans ((if_neg fun h => bne_iff_ne.mp h hcause).trans ?_)
  extract_lets i pool'
  have htaken : takeFrame s1.ms s1.inSafe r.dtier x.size (pool'.held + 1) pool' = (pool, some f) := hframe
  rw [htaken]
  rfl

end

/-! ### Why a request is refused (R348, R353; the order of the causes is log 59) -/

section
variable {asid va dtier : Nat}

/-- A page that is not to be moved: pinned, or of the safe tier (log 108). -/
def State.unmovable (s : State) (x : Walked) : Prop := ptePin x.leaf = true ∨ s.inSafe (pteAddr x.leaf) = true

/-- A page of which a move is under way. -/
def State.underMove (s : State) (x : Walked) (asid va : Nat) : Prop :=
  pteSaddle x.leaf = true ∨ ∃ y, y ∈ s.ms.moves ∧ y.asid = asid ∧ y.va = va / 2 ^ y.size * 2 ^ y.size

theorem State.unmovable_iff : (ptePin x.leaf || s.inSafe (pteAddr x.leaf)) = true ↔ s.unmovable x := by
  simp [State.unmovable]

theorem State.underMove_iff : (pteSaddle x.leaf || s.ms.moves.any fun m => m.asid == asid && m.va == va / 2 ^ m.size * 2 ^ m.size)
    = true ↔ s.underMove x asid va := by
  simp [State.underMove]

theorem State.moveRefusal_pinned (h : s.unmovable x) : s.moveRefusal x asid va dtier = 8 := if_pos (State.unmovable_iff.mpr h)

variable (hpin : ¬ s.unmovable x)
include hpin

theorem State.moveRefusal_saddled (h : s.underMove x asid va) : s.moveRefusal x asid va dtier = 11 :=
  (if_neg (State.unmovable_iff.not.mpr hpin)).trans (if_pos (State.underMove_iff.mpr h))

variable (hsaddle : ¬ s.underMove x asid va)
include hsaddle

theorem State.moveRefusal_unsaddled :
    s.moveRefusal x asid va dtier = if x.size = 28 then 7 else if pteTier x.leaf = dtier then 10 else 0 :=
  (if_neg (State.unmovable_iff.not.mpr hpin)).trans (if_neg (State.underMove_iff.not.mpr hsaddle))

theorem State.moveRefusal_big (h : x.size = 28) : s.moveRefusal x asid va dtier = 7 :=
  (State.moveRefusal_unsaddled hpin hsaddle).trans (if_pos h)

theorem State.moveRefusal_sameTier (hsize : x.size ≠ 28) (h : pteTier x.leaf = dtier) : s.moveRefusal x asid va dtier = 10 :=
  (State.moveRefusal_unsaddled hpin hsaddle).trans ((if_neg hsize).trans (if_pos h))

end

end

/-! ### Moves phase by phase (R348-R352) -/

section
variable {s : State} {pg : PageId} {m : Move}

theorem execMoveStart_swaps (hm : s.moveIn' pg [.starting] = some m) : execMoveStart pg s = .next (s.swapMove pg m) := by
  simp only [execMoveStart, hm]

/-- A page's leaf written by its home slice, and the translations of the page dropped. -/
def State.leafSwapped (s : State) (m : Move) (leaf : Nat) : State :=
  { s with ms := (s.ms.writePa m.leafPa (bytesLE 8 leaf)).invalidate 0 m.asid m.va }

/-- The leaf of a page as it names its move: SADDLE and the move's tier (R348). -/
def State.saddledLeaf (s : State) (m : Move) : Nat := s.ms.readPa m.leafPa 8 + 2 ^ 54 + m.dtier * 2 ^ 55

theorem State.swapMove_same (hleaf : leafCore (s.ms.readPa m.leafPa 8) = leafCore m.p0.toNat) :
    s.swapMove pg m = (s.leafSwapped m (s.saddledLeaf m)).modMove pg fun y =>
      { y with phase := .opening, p0 := BitVec.ofNat 64 (s.saddledLeaf m), advFs := s.clk.fs } :=
  if_pos hleaf

/-- The request that a move was asked for by. -/
def Move.request (m : Move) : MoveReq := { asid := m.asid, va := m.va, dtier := m.dtier, origin := m.origin, tag := m.tag }

theorem State.swapMove_changed (hleaf : leafCore (s.ms.readPa m.leafPa 8) ≠ leafCore m.p0.toNat) :
    s.swapMove pg m = ({ s.dropMove m with ms := (s.dropMove m).ms.release (s.ms.moveDie m) m.dst } : State).rejectMove
      (s.ms.moveDie m) m.request 5 (.ok { entry := m.leafPa, leaf := m.p0.toNat, size := m.size }) :=
  if_neg hleaf

section
variable (hm : s.moveIn' pg [.opening] = some m)
include hm

theorem execMoveOpened_waits (h : s.undrained 0 m.asid m.va m.advFs = true) : execMoveOpened pg s = .next s := by
  simp only [execMoveOpened, hm, if_pos h]

theorem execMoveOpened_opens (h : s.undrained 0 m.asid m.va m.advFs = false) :
    execMoveOpened pg s = .next (s.modMove pg fun m => { m with phase := .copying, frontier := 0 }) := by
  simp only [execMoveOpened, hm, h, Bool.false_eq_true, if_false]

end

/-- The machine with the next sub-block of a move copied, and charged. -/
def State.blockCopied (s : State) (pg : PageId) (m : Move) : State :=
  (({ s with ms := s.ms.writePa (m.dst + 4096 * m.frontier) (readMem s.ms.mem (m.src + 4096 * m.frontier) 4096) } : State).charge
    (s.ms.copyCharges m)).modMove pg fun m =>
      { m with frontier := m.frontier + 1, advFs := s.clk.fs
               phase := if m.frontier + 1 < m.blocks then .copying else .committing }

theorem State.charges_blockCopied : (s.blockCopied pg m).charges = s.charges ++ s.ms.copyCharges m := rfl

section
variable (hm : s.moveIn' pg [.copying] = some m) (hmore : m.frontier < m.blocks)
include hm hmore

theorem execCopyStep_badSource (hsrc : s.ms.rangeBad (m.src + 4096 * m.frontier) 4096 = true) :
    execCopyStep pg s = .next (s.modMove pg fun m => m.fail 6) := by
  simp only [execCopyStep, hm, if_neg (Nat.not_le.mpr hmore), if_pos hsrc]

variable (hsrc : s.ms.rangeBad (m.src + 4096 * m.frontier) 4096 = false)
include hsrc

theorem execCopyStep_badDestination (hdst : s.ms.rangeBad (m.dst + 4096 * m.frontier) 4096 = true) :
    execCopyStep pg s = .next (s.modMove pg fun m => m.fail 1) := by
  simp only [execCopyStep, hm, if_neg (Nat.not_le.mpr hmore), hsrc, Bool.false_eq_true, if_false, if_pos hdst]

variable (hdst : s.ms.rangeBad (m.dst + 4096 * m.frontier) 4096 = false)
include hdst

theorem execCopyStep_asks :
    execCopyStep pg s = .next (s.arbitrate (s.blockCopied pg m) (.move m.asid m.va) s.wanted) := by
  simp only [execCopyStep, hm, if_neg (Nat.not_le.mpr hmore), hsrc, hdst, Bool.false_eq_true, if_false]
  rfl

theorem execCopyStep_copies (h : s.admits (.move m.asid m.va) s.wanted (s.ms.copyCharges m) = true) :
    execCopyStep pg s = .next ((s.blockCopied pg m).served (.move m.asid m.va)) :=
  (execCopyStep_asks hm hmore hsrc hdst).trans (congrArg _ (State.arbitrate_admitted State.charges_blockCopied h))

theorem execCopyStep_waits (h : s.admits (.move m.asid m.va) s.wanted (s.ms.copyCharges m) = false) :
    execCopyStep pg s = .next (s.waitsFor (.move m.asid m.va) (s.ms.copyCharges m)) :=
  (execCopyStep_asks hm hmore hsrc hdst).trans (congrArg _ (State.arbitrate_refused State.charges_blockCopied h))

end

section
variable (hm : s.moveIn' pg [.committing] = some m)
include hm

theorem execMoveCommit_badDestination (hdst : s.ms.rangeBad m.dst (2 ^ m.size) = true) :
    execMoveCommit pg s = .next (s.modMove pg fun m => m.fail 1) := by
  simp only [execMoveCommit, hm, if_pos hdst]

variable (hdst : s.ms.rangeBad m.dst (2 ^ m.size) = false)
include hdst

theorem execMoveCommit_changed (hleaf : leafCore (s.ms.readPa m.leafPa 8) ≠ leafCore m.p0.toNat) :
    execMoveCommit pg s = .next (s.modMove pg fun m => m.fail 5) := by
  simp only [execMoveCommit, hm, hdst, Bool.false_eq_true, if_false, if_neg hleaf]

theorem execMoveCommit_commits (hleaf : leafCore (s.ms.readPa m.leafPa 8) = leafCore m.p0.toNat) :
    execMoveCommit pg s
      = .next ((s.leafSwapped m (commitLeaf (s.ms.readPa m.leafPa 8) m)).modMove pg fun m =>
          { m with phase := .releasing, advFs := s.clk.fs }) := by
  simp only [execMoveCommit, hm, hdst, Bool.false_eq_true, if_false, if_pos hleaf]
  rfl

end

section
variable (hm : s.moveIn' pg [.releasing] = some m)
include hm

theorem execMoveRelease_waits (h : s.undrained 0 m.asid m.va m.advFs = true) : execMoveRelease pg s = .next s := by
  simp only [execMoveRelease, hm, if_pos h]

theorem execMoveRelease_releases (h : s.undrained 0 m.asid m.va m.advFs = false) :
    execMoveRelease pg s = .next (if s.ms.tpol.getLsbD 1 then
        ({ s.dropMove m with ms := (s.dropMove m).ms.release (s.ms.moveDie m) m.src } : State).postMove m 1 0
      else { s.dropMove m with ms := (s.dropMove m).ms.release (s.ms.moveDie m) m.src }) := by
  simp only [execMoveRelease, hm, h, Bool.false_eq_true, if_false]

end

/-- Memory with the leaf of an aborted move put back, where it still names the move (R352). -/
def MemSys.leafBack (ms : MemSys) (m : Move) : MemSys :=
  let e := ms.readPa m.leafPa 8
  if pteSaddle e && pteAddr e = m.src then ms.writePa m.leafPa (bytesLE 8 (e - 2 ^ 54 - pteDtier e * 2 ^ 55)) else ms

section
variable (hm : s.moveIn' pg [.aborting, .undone] = some m)
include hm

theorem execMoveAbort_undoes (hphase : m.phase = .aborting) :
    execMoveAbort pg s = .next (({ s with ms := (s.ms.leafBack m).invalidate 0 m.asid m.va } : State).modMove pg fun m =>
      { m with phase := .undone, advFs := s.clk.fs }) := by
  simp only [execMoveAbort, hm, hphase]
  rfl

variable (hphase : m.phase = .undone)
include hphase

theorem execMoveAbort_waits (h : s.undrained 0 m.asid m.va m.advFs = true) : execMoveAbort pg s = .next s := by
  simp only [execMoveAbort, hm, hphase, if_pos h]
  rfl

theorem execMoveAbort_releases (h : s.undrained 0 m.asid m.va m.advFs = false) :
    execMoveAbort pg s
      = .next (({ s.dropMove m with ms := (s.dropMove m).ms.release (s.ms.moveDie m) m.dst } : State).postMove m 2 m.cause) := by
  simp only [execMoveAbort, hm, hphase, h]
  rfl

end

section
variable (hm : s.moveIn' pg [.opening, .copying] = some m)
include hm

theorem execMovemaxExpiry_aborts
    (h : m.startFs + (s.ms.die (s.ms.moveDie m)).trvlim.toNat % 65536 * 1000000000 ≤ s.clk.fs) :
    execMovemaxExpiry pg s = .next (s.modMove pg fun m => m.fail 3) := by
  simp only [execMovemaxExpiry, hm, fieldN_eq, pow_zero, Nat.div_one]
  exact if_pos h

theorem execStarveExpiry_aborts
    (h : m.advFs + (s.ms.die (s.ms.moveDie m)).trvlim.toNat / 65536 % 65536 * 1000000000 ≤ s.clk.fs) :
    execStarveExpiry pg s = .next (s.modMove pg fun m => m.fail 4) := by
  simp only [execStarveExpiry, hm, fieldN_eq]
  exact if_pos h

end

end

/-! ### The statements -/

theorem faultQueueResults : FaultQueueResults := by
  intro s die asid fid va k d full
  refine ⟨fun ⟨e, hmem, hholds, huse⟩ => ?_, execXfqPost_allPosted, fun h => ?_, fun h => ?_⟩
  · exact execWalk_served ⟨e, hmem, TlbEntry.serves_iff.mpr ⟨hholds, huse⟩⟩
  · exact execXfqPost_noRoom (MRing.hasRoom_eq_false h)
  · exact ⟨congrArg _ (State.answer_closed _ h), congrArg _ (State.answer_closed _ h)⟩

theorem moveStartResults : MoveStartResults := by
  intro s die v pg d r x m s1 refused
  refine ⟨execTraverseRequest_noTier, fun htakes => ⟨fun w hwalk => ?_, fun hwalk => ⟨fun hhome => ?_, fun hhome => ?_⟩⟩,
    fun hm hleaf => ?_⟩
  · exact (execMoveStart_takes htakes).trans
      (congrArg _ ((State.startMove_unwalked hwalk).trans (State.rejectMove_unwalked 9 w)))
  · have hrefuses : ∀ cause, s1.moveRefusal x r.asid r.va r.dtier = cause → cause ≠ 0 →
        exec (.moveStart pg) s = refused cause (pteTier x.leaf) (r.va / 2 ^ x.size * 2 ^ x.size) (x.size == 21) :=
      fun cause hcause hne => (execMoveStart_takes htakes).trans
        (congrArg _ ((State.startMove_refused hwalk hhome hcause hne).trans (State.rejectMove_walked cause x)))
    exact ⟨fun hpin => hrefuses 8 (State.moveRefusal_pinned hpin) (by decide),
      fun hpin hsaddle => hrefuses 11 (State.moveRefusal_saddled hpin hsaddle) (by decide),
      fun hpin hsaddle hsize => hrefuses 7 (State.moveRefusal_big hpin hsaddle hsize) (by decide),
      fun hpin hsaddle hsize htier => hrefuses 10 (State.moveRefusal_sameTier hpin hsaddle hsize htier) (by decide)⟩
  · exact (execMoveStart_takes htakes).trans (congrArg _ (State.startMove_passes hwalk hhome))
  · exact ⟨m.request, 5, _, rfl, rfl, rfl, (execMoveStart_swaps hm).trans (congrArg _ (State.swapMove_changed hleaf))⟩

theorem movesAbort : MovesAbort := by
  intro s pg m a b
  exact ⟨fun hm hmore => ⟨execCopyStep_badSource hm hmore, execCopyStep_badDestination hm hmore⟩,
    fun hm => ⟨execMoveCommit_badDestination hm, execMoveCommit_changed hm⟩, execMoveOpened_waits, execMoveRelease_waits,
    execMoveAbort_waits⟩

theorem periodResults : PeriodResults := fun _ _ => ⟨execAgingPeriod_early, execBudgetPeriod_early⟩

/-- Settles O48: each clause is what one step does where it waits, is refused or aborts. -/
theorem migrationResults : Obligations.MigrationResults := ⟨faultQueueResults, moveStartResults, movesAbort, periodResults⟩

/-- Settles O49: each clause is what one step does where it completes. -/
theorem faultServiceCompletes : Obligations.FaultServiceCompletes := by
  intro s die asid fid va v k o d p closed
  refine ⟨fun hhigh hdev hnone => execWalk_walks hhigh hdev fun e he => ?_, fun hfind ms r => execXfqPost_posts hfind,
    fun hfind => ?_, execTraverseRequest_asks, fun hage => ?_, fun hperiod => ?_⟩
  · refine Bool.eq_false_iff.mpr fun hserves => ?_
    obtain ⟨hholds, huse⟩ := TlbEntry.serves_iff.mp hserves
    obtain ⟨hneeds, hclean⟩ := hnone e he hholds
    simp [hneeds, hclean] at huse
  · exact ⟨congrArg _ (State.answer_open _ hfind), congrArg _ (State.answer_open _ hfind)⟩
  · have hdie := s.ms.die_agedBy die.val (s.policyAsks die.val)
    refine ⟨_, execAgingPeriod_ages hage, congrArg Die.aged hdie, congrArg Die.reqs hdie, rfl, ?_⟩
    refine List.map_congr_left fun e _ => ?_
    cases hplace : e.place <;> simp [TlbEntry.aged, hplace]
  · obtain ⟨hms, hfab, hsame⟩ := s.recharged_keeps (s.usedTable 256)
    refine ⟨s.recharged (s.usedTable 256), execBudgetPeriod_begins hperiod, rfl, rfl, fun i hi => ?_, hms, hfab, hsame,
      fun hline => State.newPeriod_of_line_nil (hsame.trans hline)⟩
    rw [State.used_recharged, State.tget_usedTable hi]

/-- Settles O50: a request that begins, then each phase of its move. -/
theorem movesComplete : Obligations.MovesComplete := by
  constructor
  · intro s pg d r x pool f s1 p0 htakes hwalk hhome hcause hframe
    exact ⟨_, s.newMove r x f,
      (execMoveStart_takes htakes).trans (congrArg _ (State.startMove_begins hwalk hhome hcause hframe)),
      rfl, rfl, rfl, rfl, rfl, rfl, rfl, rfl, rfl⟩
  · intro s pg m a b e lim
    exact ⟨fun hm hleaf => (execMoveStart_swaps hm).trans (congrArg _ (State.swapMove_same hleaf)), execMoveOpened_opens,
      fun hm hmore hsrc hdst => ⟨execCopyStep_copies hm hmore hsrc hdst, execCopyStep_waits hm hmore hsrc hdst⟩,
      fun hm hdst hleaf => execMoveCommit_commits hm hdst hleaf, execMoveRelease_releases,
      fun hm => ⟨execMoveAbort_undoes hm, execMoveAbort_releases hm⟩,
      fun hm => ⟨execMovemaxExpiry_aborts hm, execStarveExpiry_aborts hm⟩⟩

end Sys2Proof.Machine
end

section
/-! PROOFS. Resets, service, CXL ports and peer links (14 R403, 17 R359, R379, R411, R412, R417, R418, R422, R424, R425). What
each of these steps does where it completes, and where it waits, is refused or changes nothing. -/

namespace Sys2Proof.Machine

open Sys2Proof.Claims

/-! ### Resets (R403, R422, R424, R425) -/

/-- A table of which the keys that satisfy `p` are kept. -/
theorem tget_filter_key {α : Type} (dflt : α) (t : Tab α) (p : Nat → Bool) (k : Nat) :
    tget dflt (t.filter fun e => p e.1) k = if p k then tget dflt t k else dflt := by
  induction t with
  | nil => simp [tget]
  | cons e rest ih =>
    obtain ⟨k', v⟩ := e
    by_cases hk : k' = k
    · subst hk
      cases hp : p k' <;> simp [tget, hp, ih]
    · cases hp : p k' <;> simp [tget, hp, hk, ih]

section
variable {s : State}

/-- Where no job is held, the rebuilding of the dispatcher's state leaves memory as it is. -/
theorem State.ms_rebuild_of_no_jobs (keep : JobId → Bool) (h : s.jobs = []) : (s.rebuild keep).ms = s.ms := by
  simp [State.rebuild, h]

/-- The machine with tier H lost, and the translations. -/
def State.tierHLost (s : State) : State :=
  { s with ms := { s.ms with
    mem := s.ms.mem.filter fun e => 4 * 0x3000000000 ≤ e.1
    ue := s.ms.ue.filter fun e => 4 * 0x3000000000 ≤ 64 * e.1, tlb := [] } }

theorem State.byte_tierHLost (a : Nat) : s.tierHLost.ms.byte a = if a < 0xC000000000 then 0 else s.ms.byte a := by
  refine (tget_filter_key 0 s.ms.mem (fun k => decide (4 * 0x3000000000 ≤ k)) a).trans ?_
  by_cases ha : a < 0xC000000000
  · rw [if_pos ha, if_neg (by simpa using ha)]
  · rw [if_neg ha, if_pos (by simpa using ha)]
    rfl

/-- The jobs that a warm reset lets resume. -/
def State.resumable (s : State) : List JobId :=
  (s.jobs.filter fun (id, j) => j.phase == .saved && s.saveKept id j).map fun e => e.1

theorem execWarmReset_eq : execWarmReset s = .next (s.tierHLost.rebuild s.resumable.contains).dropVolatile := rfl

theorem State.byte_powerCycle (a : Nat) : s.powerCycle.ms.byte a = if s.inSafeTier a then s.ms.byte a else 0 :=
  tget_filter_key 0 s.ms.mem s.inSafeTier a

/-! ### Full service (R424) -/

theorem execFullService_waits (hstage : s.bd.stage = 2) (hjob : ∃ e, e ∈ s.jobs ∧ e.2.startedOnce = true) :
    execFullService s = .next { s with bd := { s.bd with trained := true } } :=
  (if_neg (by simp [hstage])).trans (if_pos (List.any_eq_true.mpr hjob))

theorem execFullService_early (hstage : s.bd.stage ≠ 2) : execFullService s = .next s := if_pos (by simpa using hstage)

/-! ### The host and the CXL ports (R379, R411, R412) -/

section
variable {pa : Nat} {bs : List Byte}

theorem execHostCxlMemAccess_unreached (h : s.hostReach pa bs.length = false) :
    execHostCxlMemAccess pa (some bs) s = .next s :=
  if_neg (by simp [h])

theorem execHostCxlMemAccess_writes (hbs : bs ≠ []) (h : s.hostReach pa bs.length = true) :
    execHostCxlMemAccess pa (some bs) s = .next { s with ms := s.ms.writeData pa bs } :=
  if_pos (by simp [hbs, h])

theorem State.hostReach_eq_false {n : Nat}
    (h : ckptPos pa = none ∨ s.portUp 0 = false ∨ s.bd.stage < 2 ∨ s.ms.tierOf pa = none) : s.hostReach pa n = false := by
  rcases h with h | h | h | h
  · simp [State.hostReach, h]
  · simp [State.hostReach, h]
  · simp [State.hostReach, Nat.not_le.mpr h]
  · simp [State.hostReach, h]

/-- A host reaches bytes that lie next to each other in the order of tiers H and L, and whose ends are served. -/
theorem State.hostReach_of {n o : Nat} (hup : s.portUp 0 = true) (hstage : 2 ≤ s.bd.stage) (hfirst : ckptPos pa = some o)
    (hlast : ckptPos (pa + n - 1) = some (o + (n - 1))) (htier : (s.ms.tierOf pa).isSome = true)
    (htierLast : (s.ms.tierOf (pa + n - 1)).isSome = true) : s.hostReach pa n = true := by
  simp [State.hostReach, hup, hstage, hfirst, hlast, htier, htierLast]

end

section
variable {p : Nat}

theorem State.portUp_portDown (hp : p < 8) : (s.portDown p).portUp p = false := by
  have hup : (s.portDown p).bd.cxlUp = s.bd.cxlUp &&& ~~~((1 : BitVec 8) <<< p) := by
    rw [State.portDown]
    split <;> rfl
  simp [State.portUp, hup, hp]

theorem State.mem_portDown : (s.portDown p).ms.mem = s.ms.mem := by
  rw [State.portDown]
  split <;> rfl

theorem State.removed_portDown (hp : p ≠ 0) : tget false (s.portDown p).ms.removed p = true := by
  rw [State.portDown, if_neg hp]
  exact tget_tset_same ..

/-- The machine with a port up, and the memory behind it in tier X (log 92). -/
def State.portTrained (s : State) (p : Nat) : State :=
  let s1 : State := { s with bd := { s.bd with cxlUp := s.bd.cxlUp ||| (1 : BitVec 8) <<< p } }
  if p = 0 then s1
  else { s1 with
    free := s.free + 1
    ms := { s.ms with removed := tset false s.ms.removed p false, tierX := tset 0 s.ms.tierX p (s.attached p) } }

theorem State.portUp_portTrained (hp : p < 8) : (s.portTrained p).portUp p = true := by
  have hup : (s.portTrained p).bd.cxlUp = s.bd.cxlUp ||| (1 : BitVec 8) <<< p := by
    rw [State.portTrained]
    split <;> rfl
  simp [State.portUp, hup, hp]

theorem State.mem_portTrained : (s.portTrained p).ms.mem = s.ms.mem := by
  rw [State.portTrained]
  split <;> rfl

theorem State.tierX_portTrained (hp : p ≠ 0) : tget false (s.portTrained p).ms.removed p = false
    ∧ tget 0 (s.portTrained p).ms.tierX p = s.attached p := by
  rw [State.portTrained, if_neg hp]
  exact ⟨tget_tset_same .., tget_tset_same ..⟩

end

section
variable {p : Fin 8}

theorem execCxlSurpriseRemoval_removes (hp : p ≠ 0) : execCxlSurpriseRemoval p s = .next (s.portDown p.val) := if_neg hp

theorem execCxlLinkTraining_trains (hdie : (s.ms.die (p.val / 2)).lost = false) :
    execCxlLinkTraining p true s = .next (s.portTrained p.val) :=
  if_pos (by simp [hdie])

theorem execCxlLinkTraining_fails : execCxlLinkTraining p false s = .next (s.portDown p.val) := rfl

end

/-! ### Peer links (R359, R417, R418) -/

@[simp] theorem State.peer_modPeer_same (s : State) (i : Nat) (f : PeerLink → PeerLink) : (s.modPeer i f).peer i = f (s.peer i) :=
  tget_tset_same ..

section
variable {i : Fin 16} {n : Nat} {g : BitVec 16} {dir : Bool}

theorem execPeerOpen_ignored (h : (s.peer i.val).up = false ∨ (s.chan i.val n).isSome = true) :
    execPeerOpen i n g dir s = .next s := by
  refine if_pos ?_
  rcases h with h | h <;> simp [h]

section
variable (hup : (s.peer i.val).up = true) (hfree : s.chan i.val n = none)
include hup hfree

theorem execPeerOpen_refused (hgrant : s.grantOk i.val g.toNat dir = none) :
    execPeerOpen i n g dir s = .next (s.tell i.val n .refuse) := by
  simp [execPeerOpen, hup, hfree, hgrant]

theorem execPeerOpen_accepted {lh : BitVec 512 × Nat} (hgrant : s.grantOk i.val g.toNat dir = some lh)
    (hnest : (farCmd (s.grant g.toNat) dir lh).nestBad = false)
    (hwithin : (farCmd (s.grant g.toNat) dir lh).beyond lh.1 = false) :
    execPeerOpen i n g dir s = .next (((s.tell i.val n .accept).setChan i.val n
      (some { dir := dir, cmd := some (farCmd (s.grant g.toNat) dir lh), credit := Config.peerCredits })).pumpAll i.val n) := by
  simp [execPeerOpen, hup, hfree, hgrant, hnest, hwithin]

end

section
variable {bs : List Byte} (hup : (s.peer i.val).up = true) (hlen : bs.length = 256)
include hup hlen

theorem execFlitReceive_badCrc (hcrc : ¬ ofBytesLE (bs.drop 248) = (Config.flitCrc (bs.take 248)).toNat) :
    execFlitReceive i bs s = .next ((s.modPeer i.val fun p => { p with lastFs := s.clk.fs }).modPeer i.val fun p =>
      { p with fails := p.fails + 1 }) :=
  (if_neg (by simp [hup, hlen])).trans (if_neg hcrc)

variable (hcrc : ofBytesLE (bs.drop 248) = (Config.flitCrc (bs.take 248)).toNat)
include hcrc

theorem execFlitReceive_outOfSequence
    (hseq : (Config.flitSeq (BitVec.ofNat 64 (ofBytesLE (bs.take 8)))).toNat ≠ (s.peer i.val).rxSeq) :
    execFlitReceive i bs s = .next (s.modPeer i.val fun p => { p with lastFs := s.clk.fs }) :=
  (if_neg (by simp [hup, hlen])).trans ((if_pos hcrc).trans (if_neg hseq))

theorem execFlitReceive_inSequence
    (hseq : (Config.flitSeq (BitVec.ofNat 64 (ofBytesLE (bs.take 8)))).toNat = (s.peer i.val).rxSeq) :
    execFlitReceive i bs s = .next (((s.modPeer i.val fun p => { p with lastFs := s.clk.fs }).modPeer i.val fun p =>
      { p with fails := 0 }).flit i.val bs) :=
  (if_neg (by simp [hup, hlen])).trans ((if_pos hcrc).trans (if_pos hseq))

end

theorem execLinkLost_alive (hreplays : (s.peer i.val).replaysFailed = false)
    (hfs : s.clk.fs < (s.peer i.val).lastFs + 10000000000) : execLinkLost i s = .next s :=
  if_neg (by simp [hreplays, Nat.not_le.mpr hfs])

theorem execLinkLost_loses (hup : (s.peer i.val).up = true)
    (h : (s.peer i.val).replaysFailed = true ∨ (s.peer i.val).lastFs + 10000000000 ≤ s.clk.fs) :
    execLinkLost i s = .next (s.loseLink i.val) :=
  if_pos (by simpa [hup] using h)

/-- A link that is lost is down, and has no channels (R418). -/
theorem State.peer_loseLink (i : Nat) :
    ((s.loseLink i).peer i).up = false ∧ ((s.loseLink i).peer i).chans = [] := by
  rw [State.loseLink, State.peer_modPeer_same]
  exact ⟨rfl, rfl⟩

theorem execLinkRetrain_trains (hdown : (s.peer i.val).up = false) (hdie : (s.ms.die (peerDie i.val)).lost = false) :
    execLinkRetrain i s = .next (s.modPeer i.val fun p =>
      { p with up := true, fails := 0, naks := 0, lastFs := s.clk.fs, rxSeq := 0, txSeq := 0 }) :=
  if_neg (by simp [hdown, hdie])

end

end

/-! ### The statements -/

theorem resetEvents : ResetEvents := by
  intro s
  refine ⟨⟨_, execWarmReset_eq, rfl, rfl, rfl, rfl, rfl, rfl, fun hjobs a => ?_⟩,
    s.powerCycle, rfl, rfl, fun a => State.byte_powerCycle a, rfl, rfl, rfl, rfl, rfl, rfl, rfl, rfl, rfl,
    _, _, rfl, rfl, rfl, rfl, rfl, rfl, rfl, rfl, rfl⟩
  have hms : (s.tierHLost.rebuild s.resumable.contains).ms = s.tierHLost.ms := State.ms_rebuild_of_no_jobs _ hjobs
  exact (congrArg (MemSys.byte · a) hms).trans (State.byte_tierHLost a)

theorem serviceResults : ServiceResults := fun _ => ⟨execFullService_waits, execFullService_early⟩

theorem cxlResults : CxlResults :=
  fun _ _ _ => ⟨rfl, fun h => execHostCxlMemAccess_unreached (State.hostReach_eq_false h), rfl⟩

theorem peerResults : PeerResults := by
  intro s i n g dir bs p crcOk seq s1
  exact ⟨execPeerOpen_ignored, execPeerOpen_refused,
    fun hup hlen => ⟨execFlitReceive_badCrc hup hlen, execFlitReceive_outOfSequence hup hlen⟩, fun _ => execLinkLost_alive⟩

/-- Settles O55: each clause is what one step of the boundary does, or that it changes nothing. -/
theorem powerResults : Obligations.PowerResults := ⟨resetEvents, serviceResults, cxlResults, peerResults⟩

/-- Settles O57: the host's writes and the CXL ports, then the peer links. -/
theorem linksComplete : Obligations.LinksComplete := by
  refine ⟨fun s pa o bs p => ⟨fun hup hstage hbs hfirst hlast htier htierLast => ?_, fun hp => ?_, fun hdie => ?_, ?_⟩,
    fun s i n g dir bs => ?_⟩
  · exact execHostCxlMemAccess_writes hbs (State.hostReach_of hup hstage hfirst hlast htier htierLast)
  · exact ⟨_, execCxlSurpriseRemoval_removes hp, State.portUp_portDown p.isLt,
      State.removed_portDown fun h => hp (Fin.ext h), State.mem_portDown⟩
  · exact ⟨_, execCxlLinkTraining_trains hdie, State.portUp_portTrained p.isLt, State.mem_portTrained,
      fun hp => State.tierX_portTrained fun h => hp (Fin.ext h)⟩
  · exact ⟨_, execCxlLinkTraining_fails, State.portUp_portDown p.isLt, State.mem_portDown⟩
  · exact ⟨fun hup hfree lh hgrant => execPeerOpen_accepted hup hfree hgrant, execFlitReceive_inSequence,
      fun hup h => ⟨execLinkLost_loses hup h, State.peer_loseLink i.val⟩, execLinkRetrain_trains⟩

end Sys2Proof.Machine
end

section
/-! PROOFS. Interruption (14 R384, R385, R388-R396): the detectors, containment, pre-emption and saving, then markers, cuts, the
full write-hold and rollback. What each of these steps does where it completes, and where it changes nothing. -/

namespace Sys2Proof.Machine

open Sys2Proof.Claims

/-! ### Jobs after a change of one -/

section
variable {s : State} {id : JobId} {j : Job}

theorem State.job_congr {t : State} (h : t.dp = s.dp) : t.job id = s.job id := by
  rw [State.job, State.job, State.queue, State.queue, h]

/-- A change of another job leaves a job as it is. -/
theorem State.job_modJob_ne {i : JobId} {f : Job → Job} (hi : id ≠ i) (hf : ∀ x, (f x).seq = x.seq) :
    (s.modJob i f).job id = s.job id := by
  by_cases hq : id.queue = i.queue
  · have hseq : id.seq ≠ i.seq := fun h => hi (congrArg₂ JobId.mk hq h)
    have hsame : ((fun x : Job => x.seq == id.seq) ∘ fun x => if x.seq == i.seq then f x else x)
        = fun x => x.seq == id.seq := by
      funext x
      simp only [Function.comp_apply]
      split
      · rw [hf]
      · rfl
    rw [State.job, State.job, State.modJob, hq, State.queue_modQueue_same, Queue.job, Queue.job, List.find?_map, hsame]
    cases hfound : (s.queue i.queue).jobs.find? fun x => x.seq == id.seq with
    | none => rfl
    | some x =>
      have hx : x.seq = id.seq := by simpa using List.find?_some hfound
      simp [hx, hseq]
  · rw [State.job, State.job, State.modJob, State.queue_modQueue_ne _ _ _ _ hq]

end

/-! ### The detectors (R392, R393) -/

/-- Whether a job is quiescent, with detection on (R392). -/
def State.quiescent (s : State) (id : JobId) (j : Job) : Bool :=
  j.phase == .started && !s.dp.dlcfg.getLsbD 20
    && (j.threads.any fun k => (s.thread k).run != .halted || !(s.jobLaunches id).isEmpty)
    && (j.threads.all fun k => (s.thread k).run == .halted || ((s.thread k).run == .running && s.stuckAt k))
    && !s.faultOpen id j && ((s.jobLaunches id).all fun e => !s.launchActs e.1 e.2)

section
variable {s : State} {id : JobId} {j : Job} (hj : s.job id = some j)
include hj

theorem execWatchdog_waits (h : s.clk.fs < j.progressFs + s.watchdogMs id j * 10 ^ 12) : execWatchdog id s = .next s := by
  simp only [execWatchdog, hj]
  exact if_neg (Nat.not_le.mpr h)

section
variable (hlate : j.progressFs + s.watchdogMs id j * 10 ^ 12 ≤ s.clk.fs)
include hlate

theorem execWatchdog_records (hphase : j.phase = .started) :
    execWatchdog id s = .next (s.recordFault id { cls := .watchdog, site := 8 }) := by
  simp only [execWatchdog, hj, hphase]
  exact if_pos hlate

theorem execWatchdog_holds (hphase : j.phase = .saving) :
    execWatchdog id s = .next (s.modJob id fun x => { x with expiry := true }) := by
  simp only [execWatchdog, hj, hphase]
  exact if_pos hlate

end

theorem execDeadlock_eq : execDeadlock id s
    = if s.quiescent id j && j.quietFc + s.dp.dlcfg.toNat % 2 ^ 20 ≤ s.clk.fc then
        .next (s.recordFault id { cls := .deadlock, site := 8 })
      else .next s := by
  have hqcyc : fieldN 64 s.dp.dlcfg 0 20 = s.dp.dlcfg.toNat % 2 ^ 20 := by rw [fieldN_eq, pow_zero, Nat.div_one]
  simp only [execDeadlock, hj, hqcyc]
  rfl

theorem execDeadlock_active (h : s.quiescent id j = false) : execDeadlock id s = .next s := by
  rw [execDeadlock_eq hj, h]
  rfl

theorem execDeadlock_early (h : s.clk.fc < j.quietFc + s.dp.dlcfg.toNat % 2 ^ 20) : execDeadlock id s = .next s := by
  rw [execDeadlock_eq hj]
  exact if_neg (by simpa using fun _ => h)

theorem execDeadlock_records (hquiet : s.quiescent id j = true) (h : j.quietFc + s.dp.dlcfg.toNat % 2 ^ 20 ≤ s.clk.fc) :
    execDeadlock id s = .next (s.recordFault id { cls := .deadlock, site := 8 }) := by
  rw [execDeadlock_eq hj]
  exact if_pos (by simpa [hquiet] using h)

end

section
variable {s : State} {id : JobId} {j : Job}

theorem State.quiescent_of (hphase : j.phase = .started) (hon : s.dp.dlcfg.getLsbD 20 = false)
    (hlive : ∃ k, k ∈ j.threads ∧ ((s.thread k).run ≠ .halted ∨ s.jobLaunches id ≠ []))
    (hstuck : ∀ k, k ∈ j.threads → (s.thread k).run = .halted ∨ ((s.thread k).run = .running ∧ s.stuckAt k = true))
    (hfault : s.faultOpen id j = false) (hacts : ∀ e, e ∈ s.jobLaunches id → s.launchActs e.1 e.2 = false) :
    s.quiescent id j = true := by
  simp only [State.quiescent, Bool.and_eq_true, Bool.or_eq_true, List.any_eq_true, List.all_eq_true, beq_iff_eq, bne_iff_ne,
    Bool.not_eq_true', List.isEmpty_eq_false_iff]
  exact ⟨⟨⟨⟨⟨hphase, hon⟩, hlive⟩, hstuck⟩, hfault⟩, hacts⟩

theorem State.quiescent_off (hoff : s.dp.dlcfg.getLsbD 20 = true) : s.quiescent id j = false := by
  simp [State.quiescent, hoff]

theorem State.quiescent_acts (h : ∃ e, e ∈ s.jobLaunches id ∧ s.launchActs e.1 e.2 = true) : s.quiescent id j = false := by
  obtain ⟨e, he, hacts⟩ := h
  have hall : ((s.jobLaunches id).all fun e => !s.launchActs e.1 e.2) = false :=
    List.all_eq_false.mpr ⟨e, he, by simp [hacts]⟩
  rw [State.quiescent, hall, Bool.and_false]

end

/-! ### Containment (R391) -/

/-- A job of the machine has been contained. -/
def State.Contained (s : State) (id : JobId) : Prop :=
  ∃ j, s.job id = some j ∧ j.contained = true ∧ j.phase = .containing

section
variable {s : State} {id : JobId} (h : s.Contained id)
include h

theorem State.Contained.congr {t : State} (hdp : t.dp = s.dp) : t.Contained id := by
  obtain ⟨j, hj, hc⟩ := h
  exact ⟨j, (State.job_congr hdp).trans hj, hc⟩

theorem State.Contained.modJob {i : JobId} {f : Job → Job} (hseq : ∀ x, (f x).seq = x.seq)
    (hc : ∀ x, (f x).contained = x.contained) (hp : ∀ x, (f x).phase = x.phase) : (s.modJob i f).Contained id := by
  obtain ⟨j, hj, hcont, hphase⟩ := h
  by_cases hi : id = i
  · subst hi
    exact ⟨f j, State.job_modJob_same hseq hj, (hc j).trans hcont, (hp j).trans hphase⟩
  · exact ⟨j, (State.job_modJob_ne hi hseq).trans hj, hcont, hphase⟩

theorem State.Contained.foldl {α : Type} {f : State → α → State} (hf : ∀ a e, a.Contained id → (f a e).Contained id)
    (es : List α) : (es.foldl f s).Contained id :=
  List.foldlRecOn es f h fun a ha e _ => hf a e ha

theorem State.Contained.finish (c : Cmd) : (s.finish c).Contained id := by
  unfold State.finish
  extract_lets old rest s1 s2
  have h2 : s2.Contained id := h.congr (by subst s2; split <;> rfl)
  split
  · exact h2.modJob (fun _ => rfl) (fun _ => rfl) fun _ => rfl
  · exact h2

theorem State.Contained.modLaunch (lk : Nat) (f : Launch → Launch) : (s.modLaunch lk f).Contained id := by
  unfold State.modLaunch
  split
  · exact h.congr rfl
  · exact h

theorem State.Contained.endLaunch (lk : Nat) : (s.endLaunch lk).Contained id := by
  have hfinished : (s.finishAll (s.boundCmds lk)).Contained id := h.foldl (fun _ c ha => ha.finish c) _
  have hcleared : (((s.finishAll (s.boundCmds lk)).dropWaiters (Waiter.ofLaunch lk)).modFab fun f => f.clear lk).Contained id :=
    hfinished.congr rfl
  exact hcleared.modLaunch lk _

theorem State.Contained.errPeers (lk cls : Nat) : (s.errPeers lk cls).Contained id := by
  refine h.foldl (fun a e ha => ?_) _
  split
  · split
    · split
      · exact ha
      · exact ha.congr rfl
    · exact ha
  · exact ha

end

/-- A thread stopped by containment. -/
def Thread.atRest (th : Thread) : Thread := { th with run := .stopped, wait := none, arrived := [] }

/-- The machine with a thread stopped by containment, and its exchange queues empty. -/
def State.stopThread (s : State) (k : Nat) : State :=
  { s.modThread k Thread.atRest with xq := dropKeys s.xq fun e => e / 8 == k }

theorem State.thread_stopThread_same (s : State) (k : Nat) : (s.stopThread k).thread k = (s.thread k).atRest :=
  s.thread_modThread_same k Thread.atRest

theorem State.thread_stopThread_ne (s : State) {i k : Nat} (h : k ≠ i) : (s.stopThread i).thread k = s.thread k :=
  s.thread_modThread_ne i k Thread.atRest h

/-- Threads that are stopped one after the other are all stopped. -/
theorem State.run_foldl_stopThread (ks : List Nat) (s : State) (k : Nat) (h : k ∈ ks ∨ (s.thread k).run = .stopped) :
    ((ks.foldl State.stopThread s).thread k).run = .stopped := by
  induction ks generalizing s with
  | nil => simpa using h
  | cons i rest ih =>
    refine ih _ ?_
    by_cases hk : k = i
    · subst hk
      exact .inr (by rw [State.thread_stopThread_same]; rfl)
    · rw [State.thread_stopThread_ne _ hk]
      simpa [hk] using h

section
variable {s : State} {id : JobId} {j : Job}

/-- The machine in which a job is marked as contained, with what its fault record shows. -/
def State.markContained (s : State) (id : JobId) (j : Job) : State :=
  s.modJob id fun x => { x with contained := true, portBlocks := s.jobBlocks id
                                dlSec := if j.status == .deadlock then s.deadlockSection id else [] }

/-- Its launches ended, with ERR across their peer channels. -/
def State.launchesGivenUp (s : State) (id : JobId) (j : Job) : State :=
  (s.jobLaunches id).foldl (fun (a : State) e => if e.2.ended then a else (a.errPeers e.1 j.errClass).endLaunch e.1) s

theorem State.Contained.launchesGivenUp (h : s.Contained id) : (s.launchesGivenUp id j).Contained id := by
  refine h.foldl (fun a e ha => ?_) _
  split
  · exact ha
  · exact (ha.errPeers _ _).endLaunch _

theorem execContainment_contains (hj : s.job id = some j) (hphase : j.phase = .containing) (hc : j.contained = false)
    (hstruck : ∀ e, e ∈ s.jobLaunches id → e.2.struck = false) :
    execContainment id s = .next (j.threads.foldl State.stopThread ((s.markContained id j).launchesGivenUp id j)) := by
  have hnone : ((s.jobLaunches id).any fun e => e.2.struck) = false := List.any_eq_false.mpr fun e he => by simp [hstruck e he]
  simp only [execContainment, hj]
  exact if_neg (by simp [hphase, hc, hnone])

theorem State.contained_markContained (hj : s.job id = some j) (hphase : j.phase = .containing) :
    (s.markContained id j).Contained id :=
  ⟨_, State.job_modJob_same (fun _ => rfl) hj, rfl, hphase⟩

end

/-! ### Pre-emption and saving (R394-R396) -/

/-- The machine in which a job's threads have stopped to be saved (R394 step 1). -/
def State.halting (s : State) (id : JobId) (j : Job) : State :=
  j.threads.foldl (fun (a : State) k => a.modThread k fun th => { th with wait := none })
    (s.modJob id fun x => { x with phase := .saving, saveFs := s.clk.fs, imaged := false, preemptDue := false })

/-- The sources of a job's launches told to stop, once its images are written (R394 step 2). -/
def State.sourcesStopped (s : State) (id : JobId) : State :=
  (s.jobLaunches id).foldl (fun (a : State) e => if e.2.ended then a else a.stopSources e.1 e.2) s

/-- Whether every launch of a job has drained for a save, with no rollback under way. -/
def State.allStilled (s : State) (id : JobId) : Bool := (s.jobLaunches id).all fun e => !e.2.struck && s.stilled e.1 e.2

/-- The machine with a drained job saved, or its save abandoned where it would pass SAVESIZE (R395). -/
def State.savedWithin (s : State) (id : JobId) (j : Job) : State :=
  let s1 : State := { s with free := s.free + 1 }
  if j.saveSize < s.saveBytes j then s1.abandonSave id
  else (s1.writeArea j (s.queue id.queue).asid (s.saveBytes j)).saveNow id

section
variable {s : State} {id : JobId} {j : Job} (hj : s.job id = some j)
include hj

theorem execPreemption_ignored (hphase : j.phase ≠ .started) : execPreemption id s = .next s := by
  simp only [execPreemption, State.preempt, hj]
  exact congrArg _ (if_pos (by simpa using hphase))

theorem execPreemption_saves (hphase : j.phase = .started) (hstruck : ∀ e, e ∈ s.jobLaunches id → e.2.struck = false)
    (hroom : 4096 * j.segs.length ≤ j.saveSize) {s3 : State}
    (himages : (s.halting id j).writeImages j (s.queue id.queue).asid = some s3) :
    execPreemption id s = .next ((s3.modJob id fun x => { x with imaged := true }).sourcesStopped id) := by
  have hnone : ((s.jobLaunches id).any fun e => e.2.struck) = false := List.any_eq_false.mpr fun e he => by simp [hstruck e he]
  rw [State.halting] at himages
  simp only [execPreemption, State.preempt, hj, hphase, hnone, if_pos hroom, himages]
  rfl

theorem execSave_eq : execSave id s
    = if j.phase == .saving && j.imaged && j.quietFc + 64 ≤ s.clk.fc && s.allStilled id then .next (s.savedWithin id j)
      else .next s := by
  simp only [execSave, hj]
  rfl

theorem execSave_waits (h : ∃ e, e ∈ s.jobLaunches id ∧ (e.2.struck = true ∨ s.stilled e.1 e.2 = false)) :
    execSave id s = .next s := by
  obtain ⟨e, he, hmoves⟩ := h
  have hall : s.allStilled id = false := List.all_eq_false.mpr ⟨e, he, by rcases hmoves with h | h <;> simp [h]⟩
  rw [execSave_eq hj, hall, Bool.and_false]
  rfl

theorem execSave_drained (hphase : j.phase = .saving) (himaged : j.imaged = true) (hquiet : j.quietFc + 64 ≤ s.clk.fc)
    (hstill : ∀ e, e ∈ s.jobLaunches id → e.2.struck = false ∧ s.stilled e.1 e.2 = true) :
    execSave id s = .next (s.savedWithin id j) := by
  have hall : s.allStilled id = true := List.all_eq_true.mpr fun e he => by simp [hstill e he]
  rw [execSave_eq hj]
  exact if_pos (by simp [hphase, himaged, hquiet, hall])

theorem execSaveTimeout_abandons (hphase : j.phase = .saving) (hlate : j.saveFs + 2 * 10 ^ 12 ≤ s.clk.fs) :
    execSaveTimeout id s = .next (s.abandonSave id) := by
  simp only [execSaveTimeout, hj]
  exact if_pos (by simpa [hphase] using hlate)

end

/-! ### Markers (R384, R388) -/

section
variable {s : State} {id : LaunchId} {l : Launch} (hl : s.launch (launchKey id) = some l)
include hl

theorem execMarker_unprotected (hsnap : l.snapOn = false) : execMarker id s = .next s := by
  simp only [execMarker, hl]
  exact if_neg (by simp [hsnap])

theorem execFinalMarker_unprotected (hsnap : l.snapOn = false) : execFinalMarker id s = .next s := by
  simp only [execFinalMarker, hl]
  exact if_neg (by simp [hsnap])

section
variable (hactive : s.lkActive (launchKey id) = true)
include hactive

theorem execMarker_due (hsnap : l.snapOn = true) (hint : l.markint ≠ 0)
    (hdue : (∃ k, k ∈ l.sourceKeys (launchKey id) ∧ l.b * l.markint * (l.scheds + 1) ≤ (s.port k).toks)
      ∨ ∃ x, x ∈ s.constElems (launchKey id) l ∧ l.b * l.markint * (l.scheds + 1) ≤ constToks x) :
    execMarker id s = .next (((s.modLaunch (launchKey id) fun l => { l with scheds := l.scheds + 1 }).request
      (launchKey id)).settle (launchKey id)) := by
  simp only [execMarker, hl]
  refine if_pos ?_
  simp only [Bool.and_eq_true, Bool.or_eq_true, List.any_eq_true, decide_eq_true_eq, bne_iff_ne]
  exact ⟨⟨⟨hactive, hsnap⟩, hint⟩, hdue⟩

theorem execFinalMarker_due (hsnap : l.snapOn = true) (hfinal : l.finalReq = false) (hseq : l.seqLeft = false)
    (hmarking : s.marking (launchKey id) l = false) (heos : ∀ k, k ∈ l.sourceKeys (launchKey id) → (s.port k).eos = true)
    (hconst : ∀ st, st ∈ s.constStates (launchKey id) l → 1 ≤ st.cnt1) :
    execFinalMarker id s = .next (((s.request (launchKey id)).modLaunch (launchKey id) fun l =>
      { l with finalReq := true }).settle (launchKey id)) := by
  simp only [execFinalMarker, hl]
  refine if_pos ?_
  simp only [Bool.and_eq_true, Bool.not_eq_true', List.all_eq_true, decide_eq_true_eq]
  exact ⟨⟨⟨⟨⟨⟨hactive, hsnap⟩, hfinal⟩, hseq⟩, hmarking⟩, heos⟩, hconst⟩

end

end

/-! ### Commits (R385, R388, R389) -/

/-- A step that asks the arbiters is made where they let it through, and else waits (04 R116, log 125). -/
theorem State.arbitrate_outcomes {s s0 t : State} {i : Instr} {who : Asker} {waiting : List Charge}
    (h : exec i s0 = .next (s.arbitrate t who waiting)) :
    (s.admits who waiting (s.chargedBy t) = true → exec i s0 = .next (t.served who))
      ∧ (s.admits who waiting (s.chargedBy t) = false → exec i s0 = .next (s.waitsFor who (s.chargedBy t))) := by
  refine ⟨fun hadmits => h.trans (congrArg _ (if_pos hadmits)), fun hrefused => h.trans (congrArg _ (if_neg ?_))⟩
  simp [hrefused]

/-- The machine with all that a launch holds committed, and its interval unprotected (R389). -/
def State.holdCommitted (s : State) (lk : Nat) (l : Launch) : State :=
  (((s.performHeld (s.classOf l.job) l.held).releaseEntries l.xqSent l.xqTaken).modLaunch lk fun l =>
    { l with held := [], undo := [], xqSent := [], xqTaken := [], unprot := true }).settle lk

theorem execWriteHoldFull_asks {s : State} {id : LaunchId} {l : Launch} (hl : s.launch (launchKey id) = some l)
    (hactive : s.lkActive (launchKey id) = true) (hholding : l.holding = true) (hfull : s.holdFull l = true) :
    execWriteHoldFull id s
      = .next (s.arbitrate (s.holdCommitted (launchKey id) l) (.commit (launchKey id)) s.wanted) := by
  simp only [execWriteHoldFull, hl]
  exact if_pos (by simp [hactive, hholding, hfull])

/-- The machine with a cut of a launch committed (R388). -/
def State.cutCommitted (s : State) (lk : Nat) (l : Launch) (k : Nat) : State :=
  (((s.writeSnaps lk l k).commitCut lk l k).stirred lk).settle lk

section
variable {s : State} {id : LaunchId} {l : Launch} (hl : (s.settle (launchKey id)).launch (launchKey id) = some l)
include hl

theorem execCutComplete_unprotected (hsnap : l.snapOn = false) : execCutComplete id s = .next s := by
  simp only [execCutComplete, hl]
  exact if_neg (by simp [hsnap])

theorem execCutComplete_asks (hactive : (s.settle (launchKey id)).lkActive (launchKey id) = true) (hsnap : l.snapOn = true)
    (hmark : l.cut + 1 ≤ l.mark)
    (hsources : ∀ key, key ∈ l.sourceKeys (launchKey id) → l.cut + 1 ≤ ((s.settle (launchKey id)).port key).mark)
    (hplaced : l.mark ≠ l.cut + 1 ∨ (s.settle (launchKey id)).marking (launchKey id) l = false)
    (htransit : (s.settle (launchKey id)).inTransit (launchKey id) (l.cut + 1) = false)
    (hpassed : ∀ p, p ∈ l.pipes → (s.settle (launchKey id)).cutPassed (launchKey id) l (l.cut + 1) p = true) :
    execCutComplete id s = .next ((s.settle (launchKey id)).arbitrate
      ((s.settle (launchKey id)).cutCommitted (launchKey id) l (l.cut + 1)) (.commit (launchKey id))
      (s.settle (launchKey id)).wanted) := by
  simp only [execCutComplete, hl]
  refine if_pos ?_
  simp only [Bool.and_eq_true, Bool.or_eq_true, Bool.not_eq_true', List.all_eq_true, decide_eq_true_eq, bne_iff_ne]
  exact ⟨⟨⟨⟨⟨hactive, hsnap⟩, hmark⟩, hsources, hplaced⟩, htransit⟩, hpassed⟩

end

/-! ### Rollback (R390) -/

/-- The machine in which the rollback of a launch has been counted. -/
def State.rollbackCounted (s : State) (lk : Nat) (l : Launch) : State :=
  (s.modLaunch lk fun l => { l with struck := false, rollbacks := l.rollbacks + 1 }).modJob l.job
    fun j => { j with rollbacks := j.rollbacks + 1, quietFc := s.clk.fc }

section
variable {s : State} {id : LaunchId} {l : Launch} (hl : s.launch (launchKey id) = some l) (hstruck : l.struck = true)
  (hlive : l.ended = false)
include hl hstruck hlive

theorem execRollback_third (hcount : 3 ≤ l.rollbacks + 1) : execRollback id s
    = .next ((s.rollbackCounted (launchKey id) l).storageFault l.job (lkThread (launchKey id) / 4)
        (lkThread (launchKey id) % 4)) := by
  simp only [execRollback, hl]
  exact (if_neg (by simp [hstruck, hlive])).trans (if_pos (by simp [hcount]))

theorem execRollback_reverts (hcount : l.rollbacks + 1 < 3) {j : Job} (hj : s.job l.job = some j) (hphase : j.phase ≠ .saving)
    (harea : l.cut = 0 ∨ s.ms.areaBad (s.lkAsid (launchKey id)) (Launch.snapHalf j (s.thread (lkThread (launchKey id))).n
      (launchKey id % 4) l.cut) (s.launchPlan (launchKey id) l).footprint = false) {t : State}
    (ht : (((s.rollbackCounted (launchKey id) l).revert (launchKey id)).restoreCut (launchKey id)).settle (launchKey id) = t)
    (hdue : ((t.job l.job).any fun j => j.preemptDue) = false) : execRollback id s = .next t := by
  have hbad : (l.cut != 0 && s.ms.areaBad (s.lkAsid (launchKey id)) (Launch.snapHalf j
      (s.thread (lkThread (launchKey id))).n (launchKey id % 4) l.cut) (s.launchPlan (launchKey id) l).footprint) = false := by
    rcases harea with h | h <;> simp [h]
  have hgoing : ((s.job l.job).any fun j => j.phase == .saving) = false := by simp [hj, hphase]
  unfold State.rollbackCounted at ht
  simp only [execRollback, hl]
  refine (if_neg (by simp [hstruck, hlive])).trans ((if_neg ?_).trans ?_)
  · simp only [hj, hbad, Bool.or_false, decide_eq_true_eq]
    exact Nat.not_le.mpr hcount
  · rw [hgoing]
    simp only [Bool.false_eq_true, if_false, ht, hdue]

end

/-! ### The statements -/

theorem jobsGoOn : JobsGoOn := by
  intro s id j hj
  exact ⟨execWatchdog_waits hj, execDeadlock_early hj, fun hoff => execDeadlock_active hj (State.quiescent_off hoff),
    fun hacts => execDeadlock_active hj (State.quiescent_acts hacts), execPreemption_ignored hj, fun _ => execSave_waits hj⟩

theorem snapshotsEnd : SnapshotsEnd := by
  intro s id l jid j lk
  refine ⟨fun hl hsnap => ⟨execMarker_unprotected hl hsnap, execFinalMarker_unprotected hl hsnap⟩,
    execCutComplete_unprotected, execRollback_third, fun hj hphase himaged hquiet hstill hsize => ?_⟩
  exact (execSave_drained hj hphase himaged hquiet hstill).trans (congrArg _ (if_pos hsize))

/-- Settles O53: where the detectors, pre-emption and a save wait, where a launch has no snapshots, and where a rollback or a
save is given up. -/
theorem snapshotResults : Obligations.SnapshotResults := ⟨jobsGoOn, snapshotsEnd⟩

theorem jobsInterrupted : JobsInterrupted := by
  intro s id j hj
  refine ⟨fun hphase hon hlive hstuck hfault hacts => ?_,
    fun hlate => ⟨execWatchdog_records hj hlate, execWatchdog_holds hj hlate⟩, fun hphase hc hstruck => ?_,
    fun hphase hstruck hroom => ?_, fun hphase himaged hquiet hstill hsize => ?_, execSaveTimeout_abandons hj⟩
  · exact execDeadlock_records hj (State.quiescent_of hphase hon hlive hstuck hfault hacts)
  · have hcontained := (State.contained_markContained hj hphase).launchesGivenUp (j := j)
    refine ⟨_, execContainment_contains hj hphase hc hstruck, fun k hk => State.run_foldl_stopThread _ _ k (.inl hk), ?_⟩
    exact hcontained.foldl (f := State.stopThread) (fun a k ha => ha.congr rfl) _
  · exact fun s3 himages => execPreemption_saves hj hphase hstruck hroom himages
  · exact (execSave_drained hj hphase himaged hquiet hstill).trans (congrArg _ (if_neg (Nat.not_lt.mpr hsize)))

theorem snapshotsComplete : SnapshotsComplete := by
  intro s id l lk s1
  refine ⟨fun hl hactive => ⟨execMarker_due hl hactive, execFinalMarker_due hl hactive, fun hholding hfull => ?_⟩,
    fun hl hactive hsnap hmark hsources hplaced htransit hpassed => ?_, fun hl hstruck hlive hcount j hj hphase _ harea => ?_⟩
  · exact State.arbitrate_outcomes (i := .writeHoldFull id) (execWriteHoldFull_asks hl hactive hholding hfull)
  · exact State.arbitrate_outcomes (i := .cutComplete id)
      (execCutComplete_asks hl hactive hsnap hmark hsources hplaced htransit hpassed)
  · exact execRollback_reverts hl hstruck hlive hcount hj hphase harea rfl

/-- Settles O54: what each detector, containment, pre-emption and a save do, then markers, commits and rollback. -/
theorem interruptionCompletes : Obligations.InterruptionCompletes := ⟨jobsInterrupted, snapshotsComplete⟩

end Sys2Proof.Machine
end

section
/-! PROOFS. Errors, the loss of a die, resets and service (14 R383, R403, R405, 17 R422, R424, R425). A die that is lost stays
lost while the jobs on it are given up. -/

namespace Sys2Proof.Machine

/-! ### What a write through translation leaves of the dies -/

section
variable {ms : MemSys}

@[simp] theorem MemSys.dies_writePa (pa : Nat) (bs : List Byte) : (ms.writePa pa bs).dies = ms.dies := by
  unfold MemSys.writePa
  split <;> rfl

@[simp] theorem MemSys.dies_writeData (pa : Nat) (bs : List Byte) : (ms.writeData pa bs).dies = ms.dies := by
  simp only [MemSys.writeData]
  split
  · split
    · exact MemSys.dies_writePa ..
    · exact (MemSys.dies_writePa ..).trans (MemSys.dies_writePa ..)
  · exact MemSys.dies_writePa ..

@[simp] theorem MemSys.dies_writeParts (ps : List (Nat × Nat)) (bs : List Byte) : (ms.writeParts ps bs).dies = ms.dies := by
  induction ps generalizing ms bs with
  | nil => rfl
  | cons p rest ih => exact ih _ |>.trans (MemSys.dies_writeData ..)

@[simp] theorem MemSys.dies_share (p : TlbPlace) (die asid va leaf : Nat) : (ms.share p die asid va leaf).dies = ms.dies := by
  unfold MemSys.share
  split <;> rfl

@[simp] theorem MemSys.dies_count (p : TlbPlace) (asid va : Nat) : (ms.count p asid va).dies = ms.dies := by
  unfold MemSys.count
  split <;> rfl

theorem MemSys.dies_walkSlice (die asid va : Nat) (k : AccessKind) (d : Bool) :
    (ms.walkSlice die asid va k d).1.dies = ms.dies := by
  unfold MemSys.walkSlice
  split
  · rfl
  · split
    · rfl
    · dsimp only
      split
      · rfl
      · exact MemSys.dies_writePa ..

theorem MemSys.dies_translate (p : TlbPlace) (die asid va : Nat) (k : AccessKind) (d : Bool) :
    (ms.translate p die asid va k d).1.dies = ms.dies := by
  unfold MemSys.translate
  dsimp only
  split
  · split
    · simp
    · rfl
  · split
    · split
      · split <;> simp
      · rfl
    · have hwalk := ms.dies_walkSlice die asid va k d
      split
      · next hok =>
        rw [hok] at hwalk
        split <;> simpa using hwalk
      · next herr =>
        rw [herr] at hwalk
        exact hwalk

theorem MemSys.dies_of_translate {p : TlbPlace} {die asid va : Nat} {k : AccessKind} {d : Bool} {ms' : MemSys}
    {r : Except XErr Nat} (h : ms.translate p die asid va k d = (ms', r)) : ms'.dies = ms.dies :=
  (congrArg (MemSys.dies ·.1) h.symm).trans (MemSys.dies_translate ..)

theorem MemSys.dies_vparts (p : TlbPlace) (die asid va n : Nat) (k : AccessKind) (fuel : Nat) :
    (ms.vparts p die asid va n k fuel).1.dies = ms.dies := by
  induction fuel generalizing ms va n with
  | zero => rfl
  | succ fuel ih =>
    rw [MemSys.vparts]
    dsimp only
    split
    · rfl
    · split
      · rfl
      · split
        · rfl
        · split
          · next he => exact MemSys.dies_of_translate he
          · next he => exact MemSys.dies_of_translate he
          · next ms1 pa he =>
            have hrest := ih (ms := ms1) (va + min n (65536 - va % 65536)) (n - min n (65536 - va % 65536))
            split
            · next he2 =>
              rw [he2] at hrest
              exact hrest.trans (MemSys.dies_of_translate he)
            · next he2 =>
              rw [he2] at hrest
              exact hrest.trans (MemSys.dies_of_translate he)

/-- A write through translation leaves the dies as they are. -/
theorem MemSys.dies_of_vwrite {p : TlbPlace} {die asid va : Nat} {bs : List Byte} {ms' : MemSys} {e : Option (AErr × Nat)}
    (h : ms.vwrite p die asid va bs = (ms', e)) : ms'.dies = ms.dies := by
  refine (congrArg (MemSys.dies ·.1) h.symm).trans ?_
  have hparts := ms.dies_vparts p die asid va bs.length .write (bs.length / 65536 + 2)
  unfold MemSys.vwrite
  split
  · next he => rwa [he] at hparts
  · next he =>
    rw [he] at hparts
    exact (MemSys.dies_writeParts ..).trans hparts

end

/-! ### Lost dies while a job is given up (R404, R405) -/

/-- Whether a die of the machine is lost. -/
def State.dieLost (s : State) (d : Nat) : Bool := (s.ms.die d).lost

theorem State.dieLost_congr {s t : State} (d : Nat) (h : t.ms.dies = s.ms.dies) : t.dieLost d = s.dieLost d := by
  rw [State.dieLost, State.dieLost, MemSys.die, MemSys.die, h]

theorem Die.lost_tget_map {f : Die → Die} (hf : ∀ x, (f x).lost = x.lost) (t : Tab Die) (d : Nat) :
    (tget {} (t.map fun e => (e.1, f e.2)) d).lost = (tget {} t d).lost := by
  induction t with
  | nil => rfl
  | cons e rest ih =>
    obtain ⟨d', x⟩ := e
    by_cases hd : d' = d
    · simp [tget, hd, hf]
    · simpa [tget, hd] using ih

@[simp] theorem State.dieLost_dropWaiters (s : State) (f : Waiter → Bool) (d : Nat) :
    (s.dropWaiters f).dieLost d = s.dieLost d :=
  Die.lost_tget_map (f := fun x => { x with opens := x.opens.map fun o => { o with waiters := o.waiters.filter fun w => !f w } })
    (fun _ => rfl) s.ms.dies d

theorem State.dieLost_foldl {α : Type} {f : State → α → State} {d : Nat} (hf : ∀ a e, (f a e).dieLost d = a.dieLost d)
    (es : List α) (s : State) : (es.foldl f s).dieLost d = s.dieLost d :=
  List.foldlRecOn es f (motive := fun a => a.dieLost d = s.dieLost d) rfl fun a ha e _ => (hf a e).trans ha

theorem State.dieLost_releaseJob (s : State) (id : JobId) (d : Nat) : (s.releaseJob id).dieLost d = s.dieLost d := by
  unfold State.releaseJob
  split
  · rfl
  · extract_lets ks s1 s2 s3
    have h1 : s1.dieLost d = s.dieLost d := by
      refine (State.dieLost_foldl (fun a e => ?_) _ _).trans (s.dieLost_dropWaiters _ d)
      exact (State.dieLost_congr d rfl).trans (a.dieLost_dropWaiters (Waiter.ofLaunch e.1) d)
    have h2 : s2.dieLost d = s1.dieLost d := by
      refine State.dieLost_foldl (fun a k => ?_) ks s1
      exact State.dieLost_congr d rfl
    exact (State.dieLost_congr d rfl).trans (h2.trans h1)

theorem State.dieLost_writeRecord (s : State) (id : JobId) (d : Nat) : (s.writeRecord id).dieLost d = s.dieLost d := by
  unfold State.writeRecord
  split
  · rfl
  · next j _ =>
    extract_lets asid
    split
    · rfl
    · next b base count _ =>
      split
      · rfl
      · extract_lets n va
        split
        · next he => exact State.dieLost_congr d (MemSys.dies_of_vwrite he)
        · rfl

theorem State.dieLost_finishJob (s : State) (id : JobId) (d : Nat) : (s.finishJob id).dieLost d = s.dieLost d := by
  unfold State.finishJob
  extract_lets s1
  split
  · rfl
  · next j _ =>
    extract_lets s2
    have h2 : s2.dieLost d = s1.dieLost d := by
      subst s2
      split
      · exact s1.dieLost_writeRecord id d
      · rfl
    split
    · exact h2
    · exact h2

theorem State.dieLost_loseJob (s : State) (id : JobId) (d : Nat) : (s.loseJob id).dieLost d = s.dieLost d := by
  unfold State.loseJob
  split
  · rfl
  · split
    · exact s.dieLost_releaseJob id d
    · exact (State.dieLost_finishJob _ id d).trans (s.dieLost_releaseJob id d)

/-! ### The loss of a die (R405) -/

/-- The memory system with dies marked as lost. -/
def MemSys.loseDies (ms : MemSys) (ds : List Nat) : MemSys :=
  ds.foldl (fun (m : MemSys) d => m.modDie d fun x => { x with lost := true }) ms

theorem MemSys.lost_loseDies {ms : MemSys} {ds : List Nat} {d : Nat} (h : d ∈ ds ∨ (ms.die d).lost = true) :
    ((ms.loseDies ds).die d).lost = true := by
  induction ds generalizing ms with
  | nil => exact h.resolve_left List.not_mem_nil
  | cons e rest ih =>
    refine ih ?_
    by_cases hd : d = e
    · subst hd
      exact .inr (by rw [MemSys.die_modDie_same])
    · have hkeep : (ms.modDie e fun x => { x with lost := true }).die d = ms.die d := tget_tset_ne _ _ _ _ _ hd
      rw [hkeep]
      simpa [hd] using h

theorem mem_lostWith : ∀ die : Fin 4, die.val ∈ lostWith die.val := by decide

/-- A die that is lost is marked, and stays so as the jobs on it and on the dies that go with it are given up. -/
theorem execDieLoss_marks (die : Fin 4) (s : State) : ∃ t, execDieLoss die s = .next t ∧ (t.ms.die die.val).lost = true := by
  refine ⟨_, rfl, ?_⟩
  refine (State.dieLost_foldl (fun a e => ?_) _ _).trans ?_
  · exact a.dieLost_loseJob e.1 die.val
  · exact MemSys.lost_loseDies (ms := s.ms) (.inl (mem_lostWith die))

/-! ### Soft errors (R382, R383) -/

section
variable {s : State}

theorem execSoftError_fabric {id : LaunchId} {l : Launch} (hl : s.launch (launchKey id) = some l) :
    execSoftError (.fabric id) s = .next (s.tier2 (launchKey id) l) := by
  simp only [execSoftError, hl]

theorem execSoftError_fabricFree {id : LaunchId} (hl : s.launch (launchKey id) = none) :
    execSoftError (.fabric id) s = .next (s.clearUnused (lkThread (launchKey id) / 4)) := by
  simp only [execSoftError, hl]

/-- An error in the fabric of a launch that is protected is to roll it back (R382). -/
theorem State.tier2_strikes {lk : Nat} {l : Launch} (hactive : s.lkActive lk = true) (hlive : l.ended = false)
    (hsnap : l.snapOn = true) (hprot : l.unprot = false) (hpeer : l.peered = false) :
    s.tier2 lk l = s.setLaunch lk (some { l with struck := true }) :=
  (if_neg (by simp [hactive, hlive])).trans (if_pos (by simp [hsnap, hprot, hpeer]))

theorem execSoftError_threadState {g : Fin 16} {b : Fin 4} {j : JobId} (hj : (s.thread (4 * g.val + b.val)).job = some j) :
    execSoftError (.threadState g b) s = .next (s.storageFault j g.val b.val) := by
  simp only [execSoftError, hj]

/-! ### Full service and the clock (R424, R425) -/

theorem execFullService_begins (hstage : s.bd.stage = 2) (hjobs : ∀ e, e ∈ s.jobs → e.2.startedOnce = false) :
    execFullService s = .next { s with
      clk := s.clk.retune 1750, ms := { s.ms with reduced := false }, bd := { s.bd with stage := 3, trained := false } } := by
  have hnone : (s.jobs.any fun e => e.2.startedOnce) = false := List.any_eq_false.mpr fun e he => by simp [hjobs e he]
  exact (if_neg (by simp [hstage])).trans (if_neg (by simp [hnone]))

theorem execThermalStepDown_steps (hmhz : 50 < s.clk.mhz) (h : s.bd.heat = 0 ∨ s.bd.heatFs + 10 ^ 12 ≤ s.clk.fs) :
    execThermalStepDown s = .next { s with
      clk := s.clk.retune (s.clk.mhz - 50), bd := { s.bd with heat := s.bd.heat + 1, heatFs := s.clk.fs } } :=
  congrArg _ (if_pos (by simpa [hmhz] using h))

theorem execThermalStepDown_early (hheat : s.bd.heat ≠ 0) (h : s.clk.fs < s.bd.heatFs + 10 ^ 12) :
    execThermalStepDown s = .next s :=
  congrArg _ (if_neg (by simpa [hheat] using fun _ => h))

end

/-! ### The obligation -/

/-- Settles O56: errors by where they lie, the die that is lost, then resets, service and the clock. -/
theorem errorsAndResetsComplete : Obligations.ErrorsAndResetsComplete := by
  intro s st line id k g b die j
  refine ⟨rfl, rfl, rfl, fun l hl => ⟨execSoftError_fabric hl, State.tier2_strikes⟩, execSoftError_fabricFree, rfl, rfl, rfl,
    execSoftError_threadState, execDieLoss_marks die s, ⟨_, execWarmReset_eq, rfl, rfl, rfl⟩,
    ⟨s.powerCycle, rfl, rfl, rfl, rfl, rfl, State.byte_powerCycle⟩, ⟨_, _, rfl, rfl, rfl, rfl, rfl, rfl⟩,
    fun hstage hjobs => ⟨_, execFullService_begins hstage hjobs, rfl, rfl, rfl, rfl⟩,
    fun hmhz h => ⟨_, execThermalStepDown_steps hmhz h, rfl, rfl, rfl, rfl⟩, execThermalStepDown_early⟩

end Sys2Proof.Machine
end

section
/-! PROOFS. Checkpoints and keys where they complete (17 R416, R420, R421, R426). -/

namespace Sys2Proof.Machine

open Sys2Proof.Claims

/-! ### Checkpoints (R420, R421) -/

section
variable {s : State}

theorem State.ckptCopy_begins (quiesce : Bool) (h : s.safePorts ≠ []) : s.ckptCopy quiesce = { s with
    ms := { s.ms with mirror := some s.newMirror }, bd := { s.bd with ckpt := { phase := .copying, quiesce := quiesce } } } :=
  if_neg (by simpa using h)

theorem State.ckptGo_of_idle (quiesce : Bool) (h : s.bd.ckpt.runs = false) : s.ckptGo quiesce
    = if quiesce then { s with bd := { s.bd with ckpt := { phase := .saving, quiesce := true } } } else s.ckptCopy false :=
  if_neg (by simp [h])

/-- Once no job is started, being saved or being contained, the copy begins. -/
theorem execCheckpointQuiesce_copies (hphase : s.bd.ckpt.phase = .saving)
    (hjobs : ∀ e, e ∈ s.jobs → e.2.phase ≠ .started ∧ e.2.phase ≠ .saving ∧ e.2.phase ≠ .containing) :
    execCheckpointQuiesce s = .next (s.ckptCopy true) := by
  have hstarted : (s.jobs.filter fun e => e.2.phase == .started) = [] :=
    List.filter_eq_nil_iff.mpr fun e he => by simp [hjobs e he]
  have hbusy : (s.jobs.any fun e => e.2.phase == .started || e.2.phase == .saving || e.2.phase == .containing) = false :=
    List.any_eq_false.mpr fun e he => by simp [hjobs e he]
  simp [execCheckpointQuiesce, hphase, hstarted, hbusy]

/-- The machine with the next 64 KiB of the image copied, and charged. -/
def State.imageAdvanced (s : State) (r : Mirror) : State :=
  { s.charge (s.ms.blockCharges r) with
    ms := { s.ms with
      mem := r.granules.foldl (fun (m : Tab Byte) o => copyBytes m (ckptPa o) (r.pa o) 4096) s.ms.mem
      mirror := some { r with frontier := r.frontier + 65536 } }
    bd := { s.bd with ckpt := { s.bd.ckpt with copied := r.frontier + 65536 } } }

/-- The machine behind the last block: the image is to be flushed, with the journal as it is now. -/
def State.imageComplete (s : State) : State :=
  { s with
    ms := { s.ms with mirror := none }
    bd := { s.bd with ckpt := { s.bd.ckpt with phase := .flushing, journal := some s.dp } } }

/-- What a step of the copy comes to that finds the image whole: behind the last block the image is complete. -/
def State.imageStepped (s : State) (r : Mirror) : State :=
  if r.frontier + 65536 < ckptBytes then s.imageAdvanced r else (s.imageAdvanced r).imageComplete

theorem State.charges_imageStepped (s : State) (r : Mirror) : (s.imageStepped r).charges = s.charges ++ s.ms.blockCharges r := by
  rw [State.imageStepped]
  split <;> rfl

/-- It leaves the dispatcher and the fabric alone. -/
theorem State.served_imageStepped_keeps (s : State) (r : Mirror) (who : Asker) :
    ((s.imageStepped r).served who).dp = s.dp ∧ ((s.imageStepped r).served who).fab = s.fab := by
  rw [State.imageStepped, State.served]
  split <;> simp only [State.imageAdvanced, State.imageComplete, State.charge, and_self]

theorem execCheckpointBlockCopy_eq {r : Mirror} (hp : s.bd.ckpt.phase = .copying) (hm : s.ms.mirror = some r) :
    execCheckpointBlockCopy s = if r.failed || s.ms.imageBad r then .next (s.ckptEnd .aborted)
      else .next (s.arbitrate (s.imageStepped r) .ckpt s.wanted) := by
  unfold execCheckpointBlockCopy
  rw [hp, hm]
  rfl

theorem execCheckpointBlockCopy_advances {r : Mirror} (hp : s.bd.ckpt.phase = .copying) (hm : s.ms.mirror = some r)
    (hf : r.failed = false)
    (hg : ∀ o, o ∈ r.granules → (s.ms.tierOf (r.pa o)).isSome = true ∧ s.ms.rangeBad (r.pa o) 4096 = false)
    (ha : s.admits .ckpt s.wanted (s.ms.blockCharges r) = true) :
    execCheckpointBlockCopy s = .next ((s.imageStepped r).served .ckpt) := by
  have hbad : ¬ (r.failed || s.ms.imageBad r) = true := by simp [hf, MemSys.imageBad_eq_false hg]
  rw [execCheckpointBlockCopy_eq hp hm, if_neg hbad, State.arbitrate_admitted (s.charges_imageStepped r) ha]

/-- The header that a checkpoint writes at its end (R420 step 4). -/
def State.nextHdr (s : State) : SafeHdr :=
  { area := (s.bd.safeHdr.map fun h => 1 - h.area).getD 0, gen := (s.bd.safeHdr.map fun h => h.gen + 1).getD 1
    time := s.time, quiesce := s.bd.ckpt.quiesce, journal := s.bd.ckpt.journal.getD {}, cfg := s.bd.safecfg }

theorem execCheckpointFlush_marks (h : s.bd.ckpt.phase = .flushing) :
    execCheckpointFlush true s = .next (({ s with bd := { s.bd with safeHdr := some s.nextHdr } } : State).ckptEnd .done) := by
  cases hh : s.bd.safeHdr <;> simp [execCheckpointFlush, State.nextHdr, h, hh]

end

/-- The clause of the statement on checkpoints holds. -/
theorem checkpointsComplete : Claims.CheckpointsComplete := by
  intro s v r
  refine ⟨fun hr hg hidle => ?_, fun hp hj hs => ?_, fun hp hm hf => ?_, fun hp => ?_⟩
  · have hgo : exec (.checkpoint v) s = .next (s.ckptGo (v.getLsbD 1)) := congrArg _ (State.writeCkpt_go hr hg)
    rw [hgo, State.ckptGo_of_idle _ hidle]
    refine ⟨fun hq => by rw [if_pos hq], fun hq hs => ?_⟩
    rw [hq, ← State.ckptCopy_begins false hs]
    rfl
  · exact (execCheckpointQuiesce_copies hp hj).trans (congrArg _ (State.ckptCopy_begins true hs))
  · intro gs cs mem hg ha
    have hstep := execCheckpointBlockCopy_advances hp hm hf hg ha
    obtain ⟨hdp, hfab⟩ := s.served_imageStepped_keeps r .ckpt
    refine ⟨_, hstep, hdp, hfab, fun hmore => ?_, fun hlast => ?_⟩
    · rw [State.imageStepped, if_pos hmore, State.served, State.imageAdvanced]
      exact ⟨rfl, rfl⟩
    · rw [State.imageStepped, if_neg (Nat.not_lt.mpr hlast), State.served, State.imageComplete, State.imageAdvanced]
      dsimp only
      exact ⟨rfl, rfl⟩
  · exact ⟨_, _, execCheckpointFlush_marks hp, rfl, rfl, rfl, fun h0 hh => by simp [State.nextHdr, hh],
      fun jn hj => by simp [State.nextHdr, hj], rfl, rfl⟩

/-! ### Keys (R416, R426) -/

theorem execKeyLoad_fills {s : State} {n kslot : Nat} {wrapped : List Byte} {kwk p : List Nat}
    (hk : tget none s.bd.kwks n = some kwk) (hslot : kslot < 4096) (hlen : wrapped.length = 88)
    (hu : aesKeyUnwrap kwk (wrapped.map BitVec.toNat) = some p) :
    execKeyLoad n kslot wrapped s = .next { s with bd := { s.bd with keys := tset none s.bd.keys kslot (some
      { key := BitVec.ofNat 512 (ofNatBytesLE (p.take 64)), tweak := BitVec.ofNat 128 (ofNatBytesLE (p.drop 64)) }) } } := by
  simp [execKeyLoad, hk, hu, hlen, Nat.not_le.mpr hslot]

/-- A handle without a slot, other than 0, is not bound. -/
theorem Ctx.keys_of_keySlot_none {c : Ctx} {h : Nat} (h0 : h ≠ 0) (hk : c.keySlot h = none) : tget 0 c.keys h = 0 := by
  simpa [Ctx.keySlot, h0] using hk

theorem execKeyBind_binds {s : State} {asid h : BitVec 16} {kslot : Nat} (h0 : h ≠ 0) (hslot : kslot < 4096)
    (hk : (s.ctx asid.toNat).keySlot h.toNat = none) :
    execKeyBind asid h kslot s
      = .next (s.modCtx asid.toNat fun c => { c with keys := tset 0 c.keys h.toNat (kslot + 1) }) := by
  have hn : h.toNat ≠ 0 := fun hz => h0 (BitVec.eq_of_toNat_eq hz)
  exact if_neg (by simpa [Nat.not_le.mpr hslot, Ctx.keys_of_keySlot_none hn hk] using h0)

/-- The clause of the statement on keys holds. -/
theorem keysComplete : Claims.KeysComplete := by
  intro s n kslot request wrapped asid h kwk p
  refine ⟨rfl, execKeyLoad_fills, fun h0 hslot hk => ?_, ⟨_, rfl, ?_, fun a ha => State.ctx_modCtx_ne _ _ _ _ ha, rfl⟩⟩
  · have hn : h.toNat ≠ 0 := fun hz => h0 (BitVec.eq_of_toNat_eq hz)
    exact ⟨_, execKeyBind_binds h0 hslot hk, by simp [Ctx.keySlot, hn], fun a ha => State.ctx_modCtx_ne _ _ _ _ ha, rfl⟩
  · simp [Ctx.keySlot]

end Sys2Proof.Machine
end

section
/-! PROOFS. RESTORE (17 R419, R422, 14 R403): where the safe tier holds an image, what of it is copied back, and what the
dispatcher keeps. -/

namespace Sys2Proof.Machine

open Sys2Proof.Claims

/-! ### Tables in their canonical form -/

/-- A key reads as the default, or as an entry. -/
theorem tget_default_or_mem {α : Type} (d : α) (t : Tab α) (k : Nat) : tget d t k = d ∨ (k, tget d t k) ∈ t := by
  induction t with
  | nil => exact .inl rfl
  | cons e rest ih =>
    obtain ⟨k', v'⟩ := e
    by_cases hk : k' = k
    · subst hk
      simp [tget]
    · simp only [tget, if_neg hk]
      exact ih.imp_right (List.mem_cons_of_mem _)

section
variable {α : Type} [DecidableEq α] {d : α}

theorem tget_of_mem_from {t : Tab α} {lo k : Nat} {v : α} (w : twfFrom d lo t = true) (h : (k, v) ∈ t) :
    lo ≤ k ∧ tget d t k = v := by
  induction t generalizing lo with
  | nil => cases h
  | cons e rest ih =>
    obtain ⟨k', v'⟩ := e
    simp only [twfFrom, Bool.and_eq_true, decide_eq_true_eq] at w
    obtain ⟨⟨hlo, -⟩, hrest⟩ := w
    rcases List.mem_cons.mp h with heq | hmem
    · cases heq
      exact ⟨hlo, if_pos rfl⟩
    · obtain ⟨hk, hv⟩ := ih hrest hmem
      exact ⟨by omega, (if_neg (by omega)).trans hv⟩

/-- In the canonical form each entry is what its key reads as. -/
theorem tget_of_mem {t : Tab α} {k : Nat} {v : α} (w : twf d t = true) (h : (k, v) ∈ t) : tget d t k = v :=
  (tget_of_mem_from w h).2

/-- Entries written one after another under keys of their own: a key reads as `v` where each write of it is of `v`, and one is
made or it has read so before. -/
theorem tget_foldl_tset {key : Nat → Nat} {a : Nat} {v : α} (es : List (Nat × α)) (t : Tab α)
    (hall : ∀ e, e ∈ es → key e.1 = a → e.2 = v) (hsome : (∃ e, e ∈ es ∧ key e.1 = a) ∨ tget d t a = v) :
    tget d (es.foldl (fun (t : Tab α) e => tset d t (key e.1) e.2) t) a = v := by
  induction es generalizing t with
  | nil =>
    rcases hsome with ⟨e, he, -⟩ | hv
    · cases he
    · exact hv
  | cons e rest ih =>
    refine ih _ (fun e' he' => hall e' (List.mem_cons_of_mem _ he')) ?_
    by_cases hk : key e.1 = a
    · refine .inr ?_
      dsimp only
      rw [hk, tget_tset_same, hall e List.mem_cons_self hk]
    · dsimp only
      rw [tget_tset_ne _ _ _ _ _ (Ne.symm hk)]
      refine hsome.imp_left ?_
      rintro ⟨e', he', hk'⟩
      rcases List.mem_cons.mp he' with rfl | hmem
      · exact absurd hk' hk
      · exact ⟨e', hmem, hk'⟩

end

/-! ### The order of a checkpoint (R420) -/

theorem ckptPos_eq_some_iff {a o : Nat} : ckptPos a = some o ↔ a = ckptPa o ∧ o < ckptBytes := by
  unfold ckptPos ckptPa ckptBytes
  split
  · simp only [Option.some.injEq]; split <;> omega
  · split
    · simp only [Option.some.injEq]; split <;> omega
    · simp only [reduceCtorEq, false_iff]; split <;> omega

theorem ckptPos_ckptPa {o : Nat} (h : o < ckptBytes) : ckptPos (ckptPa o) = some o := ckptPos_eq_some_iff.mpr ⟨rfl, h⟩

theorem ckptPa_inj {o o' : Nat} (h : o < ckptBytes) (h' : o' < ckptBytes) (e : ckptPa o = ckptPa o') : o = o' :=
  Option.some.inj ((ckptPos_ckptPa h).symm.trans (e ▸ ckptPos_ckptPa h'))

/-! ### The places of an image (R419) -/

/-- An image area of the safe tier: behind each of its ports, which are distinct and other than 0, the safe tier's share ends
within the port's region, and the area ends within the safe tier. -/
structure Mirror.Fits (r : Mirror) : Prop where
  ports : r.ports ≠ []
  nodup : r.ports.Nodup
  pos : ∀ p, p ∈ r.ports → 1 ≤ p
  region : r.offset + safeShare r.ports.length ≤ 0x100000000000
  area : r.base + ckptBytes ≤ 65536 + 2 * imageArea

theorem safePortsOf_nodup (cfg : W64) : (safePortsOf cfg).Nodup := List.nodup_range.filter _

theorem one_le_of_mem_safePortsOf {cfg : W64} {p : Nat} (h : p ∈ safePortsOf cfg) : 1 ≤ p := by
  simp only [safePortsOf, List.mem_filter, Bool.and_eq_true, bne_iff_ne] at h
  omega

/-- The offset of a place of the image behind its port. -/
def Mirror.portOff (r : Mirror) (o : Nat) : Nat := r.offset + (r.base + o) / 4096 / r.ports.length * 4096 + (r.base + o) % 4096

theorem Mirror.portOff_lt {r : Mirror} {o : Nat} (hr : r.Fits) (h : o < ckptBytes) : r.portOff o < 0x100000000000 := by
  have hn : 0 < r.ports.length := List.length_pos_iff.mpr hr.ports
  have hregion := hr.region
  have harea := hr.area
  have hrow : (r.base + o) / 4096 / r.ports.length < ((65536 + 2 * imageArea) / 4096 + r.ports.length - 1) / r.ports.length := by
    rw [Nat.lt_iff_add_one_le, ← Nat.add_div_right _ hn]
    refine Nat.div_le_div_right ?_
    unfold imageArea at *
    omega
  rw [safeShare, if_neg hn.ne'] at hregion
  unfold Mirror.portOff
  omega

/-- The byte of the safe tier that lies `x` bytes into its share behind the port of index `i`. -/
def Mirror.safeByte (r : Mirror) (i x : Nat) : Nat := (x / 4096 * r.ports.length + i) * 4096 + x % 4096

/-- The port behind which a physical address of tier X lies. -/
abbrev tierXPort (pa : Nat) : Nat := 1 + (pa - 0x2000000000000) / 0x100000000000

/-- Its offset behind that port. -/
abbrev tierXOff (pa : Nat) : Nat := (pa - 0x2000000000000) % 0x100000000000

/-- The place in an image of the byte at a physical address. -/
def Mirror.posOf (r : Mirror) (pa : Nat) : Option Nat :=
  (r.ports.findIdx? fun q => q == tierXPort pa).bind fun i =>
    if pa < 0x2000000000000 || tierXOff pa < r.offset then none
    else
      let l := r.safeByte i (tierXOff pa - r.offset)
      if r.base ≤ l && l < r.base + ckptBytes then some (l - r.base) else none

theorem imageBytes_eq (m : Tab Byte) (r : Mirror) :
    imageBytes m r = m.filterMap fun e => (r.posOf e.1).map fun o => (o, e.2) := by
  refine congrArg (List.filterMap · m) (funext fun e => ?_)
  dsimp only [Mirror.posOf, Mirror.safeByte, tierXPort, tierXOff]
  cases r.ports.findIdx? fun q => q == 1 + (e.1 - 0x2000000000000) / 0x100000000000 with
  | none => rfl
  | some i =>
    rw [Option.bind_some, apply_ite (Option.map _), apply_ite (Option.map _)]
    rfl

theorem Mirror.posOf_eq_some_iff {r : Mirror} {pa o : Nat} : r.posOf pa = some o ↔
    ∃ i, r.ports.findIdx? (fun q => q == tierXPort pa) = some i ∧ 0x2000000000000 ≤ pa ∧ r.offset ≤ tierXOff pa
      ∧ r.safeByte i (tierXOff pa - r.offset) = r.base + o ∧ o < ckptBytes := by
  rw [Mirror.posOf, Option.bind_eq_some_iff]
  refine exists_congr fun i => and_congr_right fun _ => ?_
  simp only [Bool.or_eq_true, Bool.and_eq_true, decide_eq_true_eq]
  split
  · simp only [reduceCtorEq, false_iff]; omega
  · split
    · simp only [Option.some.injEq]; omega
    · simp only [reduceCtorEq, false_iff]; omega

theorem Mirror.posOf_pa {r : Mirror} {o : Nat} (hr : r.Fits) (h : o < ckptBytes) : r.posOf (r.pa o) = some o := by
  have hi : (r.base + o) / 4096 % r.ports.length < r.ports.length := Nat.mod_lt _ (List.length_pos_iff.mpr hr.ports)
  have hlt := Mirror.portOff_lt hr h
  have hp := hr.pos _ (List.getElem_mem hi)
  have hpa : r.pa o = 0x2000000000000
      + (r.ports[(r.base + o) / 4096 % r.ports.length] - 1) * 0x100000000000 + r.portOff o := by
    simp only [Mirror.pa, Mirror.portOff, List.getD_eq_getElem _ _ hi]
    omega
  have hport : tierXPort (r.pa o) = r.ports[(r.base + o) / 4096 % r.ports.length] := by
    unfold tierXPort
    omega
  have hoff : tierXOff (r.pa o) = r.portOff o := by
    unfold tierXOff
    omega
  refine Mirror.posOf_eq_some_iff.mpr ⟨(r.base + o) / 4096 % r.ports.length, ?_, by omega, ?_, ?_, h⟩
  · rw [hport]
    refine List.findIdx?_eq_some_iff_getElem.mpr ⟨hi, by simp, fun j hj => ?_⟩
    simpa [hr.nodup.getElem_inj_iff] using hj.ne
  · rw [hoff, Mirror.portOff]
    omega
  · rw [hoff, Mirror.portOff, Mirror.safeByte]
    have hrow := Nat.div_add_mod' ((r.base + o) / 4096) r.ports.length
    generalize (r.base + o) / 4096 / r.ports.length = q at *
    have hq : (r.offset + q * 4096 + (r.base + o) % 4096 - r.offset) / 4096 = q := by omega
    rw [hq, hrow]
    omega

theorem Mirror.pa_of_posOf {r : Mirror} {pa o : Nat} (h : r.posOf pa = some o) : pa = r.pa o ∧ o < ckptBytes := by
  obtain ⟨i, hfind, hpa, hoff, hbyte, ho⟩ := Mirror.posOf_eq_some_iff.mp h
  obtain ⟨hi, hport, -⟩ := List.findIdx?_eq_some_iff_getElem.mp hfind
  refine ⟨?_, ho⟩
  have hg : (r.base + o) / 4096 = (tierXOff pa - r.offset) / 4096 * r.ports.length + i := by
    rw [← hbyte, Mirror.safeByte]
    omega
  have hcol : (r.base + o) / 4096 % r.ports.length = i := by
    rw [hg, Nat.mul_add_mod_self_right, Nat.mod_eq_of_lt hi]
  have hrow : (r.base + o) / 4096 / r.ports.length = (tierXOff pa - r.offset) / 4096 := by
    rw [hg, Nat.add_comm, Nat.add_mul_div_right _ _ (Nat.zero_lt_of_lt hi), Nat.div_eq_of_lt hi, Nat.zero_add]
  have hin : (r.base + o) % 4096 = (tierXOff pa - r.offset) % 4096 := by
    rw [← hbyte, Mirror.safeByte]
    omega
  have hp : r.ports[i] = tierXPort pa := beq_iff_eq.mp hport
  simp only [Mirror.pa, hcol, hrow, hin, List.getD_eq_getElem _ _ hi, hp]
  unfold tierXPort tierXOff at *
  omega

/-- The bytes of an image are those at its places. -/
theorem mem_imageBytes_iff {m : Tab Byte} {r : Mirror} {o : Nat} {b : Byte} (hr : r.Fits) :
    (o, b) ∈ imageBytes m r ↔ o < ckptBytes ∧ (r.pa o, b) ∈ m := by
  simp only [imageBytes_eq, List.mem_filterMap, Option.map_eq_some_iff, Prod.mk.injEq]
  constructor
  · rintro ⟨⟨pa, b'⟩, he, o', hpos, rfl, rfl⟩
    obtain ⟨rfl, ho⟩ := Mirror.pa_of_posOf hpos
    exact ⟨ho, he⟩
  · rintro ⟨ho, he⟩
    exact ⟨_, he, o, Mirror.posOf_pa hr ho, rfl, rfl⟩

/-- Every byte of an image, wherever it lies, has a place in the order of tiers H and L. -/
theorem lt_of_mem_imageBytes {m : Tab Byte} {r : Mirror} {e : Nat × Byte} (h : e ∈ imageBytes m r) : e.1 < ckptBytes := by
  simp only [imageBytes_eq, List.mem_filterMap, Option.map_eq_some_iff] at h
  obtain ⟨_, -, o, hpos, rfl⟩ := h
  exact (Mirror.pa_of_posOf hpos).2

/-! ### What RESTORE does (R422, R403) -/

section
variable {s : State} {h : SafeHdr}

/-- The image that a header names, behind the ports and the offset that SAFECFG names now (log 89). -/
def State.imageOf (s : State) (h : SafeHdr) : Mirror :=
  { ports := s.safePorts, offset := s.safeOffset, base := 65536 + h.area * imageArea }

theorem State.imageOf_fits (hports : s.safePorts ≠ []) (harea : h.area ≤ 1)
    (hregion : s.safeOffset + safeShare s.safePorts.length ≤ 0x100000000000) : (s.imageOf h).Fits where
  ports := hports
  nodup := safePortsOf_nodup _
  pos _ hp := one_le_of_mem_safePortsOf hp
  region := hregion
  area := by
    change 65536 + h.area * imageArea + ckptBytes ≤ _
    unfold imageArea ckptBytes
    omega

/-- Memory with an image copied back to tiers H and L. -/
def restoredMem (m : Tab Byte) (r : Mirror) : Tab Byte :=
  (imageBytes m r).foldl (fun (t : Tab Byte) e => tset 0 t (ckptPa e.1) e.2) (m.filter fun e => (ckptPos e.1).isNone)

/-- Each byte of tiers H and L is that of its place in the image. -/
theorem tget_restoredMem_in {m : Tab Byte} {r : Mirror} {a o : Nat} (hr : r.Fits) (w : Memory.wf m = true)
    (ha : ckptPos a = some o) : tget 0 (restoredMem m r) a = tget 0 m (r.pa o) := by
  obtain ⟨rfl, ho⟩ := ckptPos_eq_some_iff.mp ha
  refine tget_foldl_tset _ _ ?_ ?_
  · rintro ⟨o', b⟩ he hkey
    obtain ⟨ho', hmem⟩ := (mem_imageBytes_iff hr).mp he
    cases ckptPa_inj ho' ho hkey
    exact (tget_of_mem w hmem).symm
  · rcases tget_default_or_mem 0 m (r.pa o) with hzero | hmem
    · right
      rw [hzero, tget_filter_key 0 m (fun k => (ckptPos k).isNone), ha]
      rfl
    · exact .inl ⟨_, (mem_imageBytes_iff hr).mpr ⟨ho, hmem⟩, rfl⟩

/-- Every other byte is as before. -/
theorem tget_restoredMem_out {m : Tab Byte} {r : Mirror} {a : Nat} (ha : ckptPos a = none) :
    tget 0 (restoredMem m r) a = tget 0 m a := by
  refine tget_foldl_tset _ _ (fun e he hkey => ?_) (.inr ?_)
  · rw [← hkey, ckptPos_ckptPa (lt_of_mem_imageBytes he)] at ha
    cases ha
  · rw [tget_filter_key 0 m (fun k => (ckptPos k).isNone), ha]
    rfl

/-- The machine with memory and journal as the image has them, before the dispatcher rebuilds its state. -/
def State.restored (s : State) (h : SafeHdr) : State :=
  { s with
    ms := { s.ms with
      mem := restoredMem s.ms.mem (s.imageOf h), tlb := [], ue := s.ms.ue.filter fun e => (ckptPos (64 * e.1)).isNone }
    dp := { s.dp with
      queues := h.journal.queues.map fun e => (e.1, { e.2 with rej := (s.queue e.1).rej }), events := h.journal.events } }

theorem execCheckpointRestore_eq (hh : s.bd.safeHdr = some h) (hidle : s.bd.ckpt.runs = false)
    (hen : ∀ e, e ∈ s.dp.queues → e.2.en = false) : execCheckpointRestore s
      = .next (((s.restored h).rebuild (s.restored h).resumable.contains).dropVolatile) := by
  have hany : (s.dp.queues.any fun e => e.2.en) = false := List.any_eq_false.mpr fun e he => by simp [hen e he]
  rw [execCheckpointRestore, State.restoreImage, hh]
  exact congrArg _ (if_neg (by simp [hidle, hany]))

theorem State.contains_resumable (s : State) (i : JobId) :
    s.resumable.contains i = true ↔ ∃ j, (i, j) ∈ s.jobs ∧ j.phase = .saved ∧ s.saveKept i j = true := by
  simp [State.resumable]

/-- A line of tiers H and L holds no error any more; the others are as before. -/
theorem State.ue_restored (s : State) (h : SafeHdr) (l : Nat) : tget false (s.restored h).ms.ue l
    = if (ckptPos (64 * l)).isSome then false else tget false s.ms.ue l := by
  refine (tget_filter_key false s.ms.ue (fun k => (ckptPos (64 * k)).isNone) l).trans ?_
  cases ckptPos (64 * l) <;> rfl

/-- A job that is queued, that has completed, or that is saved and kept, survives a reset without a change of memory or
events. -/
theorem State.afterReset_keeps {s : State} {keep : JobId → Bool} {id : JobId} {j : Job}
    (h : j.phase = .queued ∨ j.phase = .completed ∨ (j.phase = .saved ∧ keep id = true)) :
    (s.afterReset keep id j).ms = s.ms ∧ (s.afterReset keep id j).dp.events = s.dp.events := by
  rcases h with hp | hp | ⟨hp, hk⟩
  · rw [State.afterReset, hp]
    exact ⟨rfl, rfl⟩
  · rw [State.afterReset, hp]
    exact ⟨rfl, rfl⟩
  · rw [State.afterReset, hp, hk]
    exact ⟨rfl, rfl⟩

/-- Where every job is such, rebuilding the dispatcher's state leaves memory and events alone. -/
theorem State.rebuild_keeps {s : State} {keep : JobId → Bool}
    (h : ∀ e, e ∈ s.jobs → e.2.phase = .queued ∨ e.2.phase = .completed ∨ (e.2.phase = .saved ∧ keep e.1 = true)) :
    (s.rebuild keep).dropVolatile.ms.mem = s.ms.mem ∧ (s.rebuild keep).dropVolatile.dp.events = s.dp.events := by
  have hfold : (s.jobs.foldl (fun (a : State) e => a.afterReset keep e.1 e.2) s).ms = s.ms
      ∧ (s.jobs.foldl (fun (a : State) e => a.afterReset keep e.1 e.2) s).dp.events = s.dp.events :=
    List.foldlRecOn s.jobs _ (motive := fun (a : State) => a.ms = s.ms ∧ a.dp.events = s.dp.events) ⟨rfl, rfl⟩
      fun a ⟨hms, hev⟩ e he => by
      obtain ⟨hms', hev'⟩ := State.afterReset_keeps (s := a) (h e he)
      exact ⟨hms'.trans hms, hev'.trans hev⟩
  obtain ⟨hms, hevents⟩ := hfold
  have hmem := congrArg MemSys.mem hms
  exact ⟨hmem, hevents⟩

/-- What the statement says of RESTORE, with a premise of its last clause that asks more: a job that `keep` names is to be
saved, not only to share its JobId with a job that is. -/
theorem execCheckpointRestore_completes (hh : s.bd.safeHdr = some h) (hidle : s.bd.ckpt.runs = false)
    (hen : ∀ e, e ∈ s.dp.queues → e.2.en = false) :
    let keep := (s.restored h).resumable.contains
    let t := ((s.restored h).rebuild keep).dropVolatile
    execCheckpointRestore s = .next t
    ∧ (∀ i, keep i = true ↔ ∃ j, (i, j) ∈ (s.restored h).jobs ∧ j.phase = .saved ∧ (s.restored h).saveKept i j = true)
    ∧ (Memory.wf s.ms.mem = true → s.safePorts ≠ [] → h.area ≤ 1 →
        s.safeOffset + safeShare s.safePorts.length ≤ 0x100000000000 →
        ∀ a o, ckptPos a = some o → (s.restored h).ms.byte a = s.ms.byte ((s.imageOf h).pa o))
    ∧ (∀ a, ckptPos a = none → (s.restored h).ms.byte a = s.ms.byte a)
    ∧ (∀ l, tget false (s.restored h).ms.ue l = if (ckptPos (64 * l)).isSome then false else tget false s.ms.ue l)
    ∧ ((∀ e, e ∈ (s.restored h).jobs →
          e.2.phase = .queued ∨ e.2.phase = .completed ∨ (e.2.phase = .saved ∧ keep e.1 = true)) →
        t.ms.mem = (s.restored h).ms.mem ∧ t.dp.events = h.journal.events) :=
  ⟨execCheckpointRestore_eq hh hidle hen, State.contains_resumable _,
    fun w hports harea hregion _ _ ha => tget_restoredMem_in (State.imageOf_fits hports harea hregion) w ha,
    fun _ ha => tget_restoredMem_out ha, s.ue_restored h, State.rebuild_keeps⟩

end

end Sys2Proof.Machine
end

section
/-! PROOFS. RESTORE of an image whose journal names two jobs alike (17 R422, 14 R403). -/

namespace Sys2Proof.Machine

open Sys2Proof.Claims

/-- A job that asks for event 0 at its end, however it ends (SIGEN and SIGALWAYS). -/
def signallingJob (phase : JobPhase) : Job := { seq := 0, rcd := BitVec.ofNat 1024 (2 ^ 36 + 2 ^ 37), phase := phase }

/-- The header of an image whose journal has, in queue 0, a saved job and a started one with the same sequence number. -/
def twinHdr : SafeHdr :=
  { area := 0, gen := 1, time := 0, quiesce := false
    journal := { queues := [(0, { jobs := [signallingJob .saved, signallingJob .started] })] } }

/-- The machine at reset, with that image as the newest. -/
def twinImage : State := { State.reset with bd := { safeHdr := some twinHdr } }

/-- RESTORE ends the started one of the two jobs, which signals its event. -/
theorem twinImage_signals : twinImage.restoreImage.dp.events ≠ twinHdr.journal.events := by decide +kernel

/-- Refutes O58: a journal lists a saved job, whose empty area is kept, and a started one under the same JobId. Then `keep` names
both, and the last clause on RESTORE has the events as in the journal; but the started job ends, and its event is counted. The
other clauses hold, and that one where every job that `keep` names is saved (`execCheckpointRestore_completes`). -/
theorem not_checkpointsAndKeysComplete : ¬ Obligations.CheckpointsAndKeysComplete := by
  rintro ⟨-, hrestore, -⟩
  obtain ⟨mem, ue, keep, hexec, hkeep, -, -, -, -, -, -, -, -, -, -, hquiet⟩ :=
    hrestore twinImage twinHdr rfl rfl (by simp [twinImage, State.reset])
  have hkept : keep { queue := 0, seq := 0 } = true := (hkeep _).mpr ⟨signallingJob .saved, .head _, rfl, rfl⟩
  obtain ⟨-, hevents⟩ := hquiet fun e he => by
    have hid : e.1 = { queue := 0, seq := 0 } := by
      simp [State.jobs, twinHdr, signallingJob] at he
      rcases he with rfl | rfl <;> rfl
    exact .inr (.inr (hid ▸ hkept))
  have hrestored := Host.Outcome.next.inj hexec
  exact twinImage_signals ((congrArg (fun t : State => t.dp.events) hrestored).trans hevents)

end Sys2Proof.Machine
end
